-- ==== Sys2Proof/Word.lean ====
section
/-! DEFINITION. Bytes and words, and little-endian byte lists (01_device_organisation.md R8). -/

namespace Sys2Proof

/-- A byte, the smallest addressable unit (R8). -/
abbrev Byte := BitVec 8

/-- A 32-bit register word (R543). -/
abbrev Word := BitVec 32

/-- A 64-bit word. -/
abbrev DWord := BitVec 64

/-- Requesters of the register bus: 0 to 67 worker crickets, 68 to 71 hob crickets, 72 the host (R544). -/
abbrev Requester := Fin 73

end Sys2Proof
end

