-- ==== Sys2Proof/Syntax.lean ====
section
/-! DEFINITION. The commands of the block: one constructor per row of spec/opcode_table.json, in the table's order.
A register access names its requester (R544). A measured event carries what was measured. -/

namespace Sys2Proof

/-- One command. The docstring of each constructor cites the row's rule. -/
inductive Instr where
  /-- R546: a write of `len` bytes at BAR0 offset `off`. -/
  | registerWrite (who : Requester) (off : BitVec 26) (len : Nat) (val : DWord)
  /-- R547: a read of `len` bytes at BAR0 offset `off`. -/
  | readClear (who : Requester) (off : BitVec 26) (len : Nat)
  /-- R550: a read of the _LO half of a pair at `off`. -/
  | pairLoRead (who : Requester) (off : BitVec 26)
  /-- R95: a write of HRT_QTAIL of hearth `p`. -/
  | hearthQtailWrite (who : Requester) (p : Fin 136) (val : Word)
  /-- R95: hearth `p` prefetches its next command. -/
  | hearthPrefetch (p : Fin 136)
  /-- R102: the MATMUL at the head of hearth `p` runs to its end. -/
  | matmul (p : Fin 136)
  /-- R99: the BUBBLE at the head of hearth `p` starts. -/
  | bubble (p : Fin 136)
  /-- R98: the NOP at the head of hearth `p` completes. -/
  | hearthNop (p : Fin 136)
  /-- R81: hearth `p` issues one wave; `slack` is the least slack of its handshakes in delay taps (R87). -/
  | wave (p : Fin 136) (slack : Byte)
  /-- R88: a handshake of hearth `p` misses its edge. -/
  | paceMiss (p : Fin 136)
  /-- R108: the drain of hearth `p` takes the finished tile. -/
  | tileDrain (p : Fin 136)
  /-- R111: the drain of hearth `p` drains the held tile again. -/
  | reDrain (p : Fin 136)
  /-- R112: hearth `p` reruns the failed tile. -/
  | reRun (p : Fin 136)
  /-- R100: the bubble of hearth `p` ends. -/
  | bubbleEnd (p : Fin 136)
  /-- R101: hearth `p` starts a hold bubble. -/
  | holdBubble (p : Fin 136)
  /-- R101: the hold bubble of hearth `p` ends. -/
  | holdBubbleEnd (p : Fin 136)
  /-- R196: bellows `q` submits the next tile to a borrow slot. -/
  | borrowSubmit (q : Fin 4)
  /-- R121: a write of HRT_ABORT of hearth `p`. -/
  | hrtAbort (who : Requester) (p : Fin 136) (tag : Word)
  /-- R122: a write of 1 to HRT_CTRL.QRESET of hearth `p`. -/
  | hearthQreset (who : Requester) (p : Fin 136)
  /-- R87: a read of HRT_PACE of hearth `p`. -/
  | paceMinRead (who : Requester) (p : Fin 136)
  /-- R132: a write of 1 to DMP_CTRL.SRESET of hearth `p`. -/
  | sideRingReset (who : Requester) (p : Fin 136)
  /-- R139: a write of DMP_PTADDR_HI of hearth `p`. -/
  | ptabLoad (who : Requester) (p : Fin 136) (val : Word)
  /-- R139: the table load of hearth `p` ends. -/
  | ptabLoadDone (p : Fin 136)
  /-- R161: hearth `p` recomputes the selected tile in FP32 slice mode. -/
  | watchRecheck (p : Fin 136)
  /-- R164: hearth `p` compares the recheck with the written tile. -/
  | watchCompare (p : Fin 136)
  /-- R174: a write of NUM_SEED_HI. -/
  | seeding (who : Requester) (val : Word)
  /-- R174: seeding ends. -/
  | seedingDone
  /-- R591: a write of NUM_JCTRL with SAVE = 1. -/
  | journalSave (who : Requester)
  /-- R177: a write of NUM_JCTRL with RESTORE = 1. -/
  | journalRestore (who : Requester)
  /-- R178: a save or restore ends. -/
  | journalOpDone
  /-- R159: a write of NUM_POL_CTRL of entry `i`. -/
  | policyWrite (who : Requester) (e : Fin 256) (val : Word)
  /-- R166: a read of NUM_HBIN of bin `i`. -/
  | hbinRead (who : Requester) (b : Fin 64)
  /-- R182: the oldest tap record of hearth `p` arrives at its home bellows. -/
  | tapRecord (p : Fin 136)
  /-- R186: factor `f` of bellows `q` starts sampling its matrix. -/
  | matrixSampleStart (q : Fin 4) (f : Fin 1024)
  /-- R187: the lowest complete row of factor `f` of bellows `q` is accumulated. -/
  | rowAccumulate (q : Fin 4) (f : Fin 1024)
  /-- R188: factor `f` of bellows `q` folds its step sums. -/
  | factorFold (q : Fin 4) (f : Fin 1024)
  /-- R244: bellows `q` submits its next eigenvalue request. -/
  | lambdaRequestSubmit (q : Fin 4)
  /-- R245: kiln `q` serves the request in its slot. -/
  | lambdaRequest (q : Fin 4)
  /-- R245: the request that kiln `q` serves reaches KLN_LAMDL before its last iteration. -/
  | lambdaBudgetReached (q : Fin 4)
  /-- R193: the job of factor `f` of bellows `q` prepares its root. -/
  | rootPreparation (q : Fin 4) (f : Fin 1024)
  /-- R194: the job of factor `f` of bellows `q` runs its next step. -/
  | rootIteration (q : Fin 4) (f : Fin 1024)
  /-- R198: the delivery step's backward phase of bellows `q` ends without its roots. -/
  | rootHold (q : Fin 4)
  /-- R205: a write of BLW_SQTAIL of bellows `q`. -/
  | blwSqtailWrite (who : Requester) (q : Fin 4) (val : Word)
  /-- R206: the ORTHO at the head of the service queue of bellows `q` runs. -/
  | ortho (q : Fin 4)
  /-- R210: a write of BLW_RELOAD of bellows `q`. -/
  | blwReload (who : Requester) (q : Fin 4) (val : Word)
  /-- R210: the reload of bellows `q` ends. -/
  | blwReloadDone (q : Fin 4)
  /-- R217: a write of KLN_QTAIL of kiln `q`. -/
  | klnQtailWrite (who : Requester) (q : Fin 4) (val : Word)
  /-- R226: the SOLVE at the head of kiln `q` is set up. -/
  | solve (q : Fin 4)
  /-- R228: kiln `q` runs one iteration. -/
  | solveIteration (q : Fin 4)
  /-- R232: the charged total of kiln `q` has reached its deadline. -/
  | deadline (q : Fin 4)
  /-- R237: the FACTOR at the head of kiln `q` runs. -/
  | factor (q : Fin 4)
  /-- R218: the NOP at the head of kiln `q` completes. -/
  | kilnNop (q : Fin 4)
  /-- R248: a write of KLN_ABORT of kiln `q`. -/
  | klnAbort (who : Requester) (q : Fin 4) (tag : Word)
  /-- R249: a write of 1 to KLN_CTRL.QRESET of kiln `q`. -/
  | kilnQreset (who : Requester) (q : Fin 4)
  /-- R252: a write of FBX_QTAIL of firebox `q`. -/
  | fbxQtailWrite (who : Requester) (q : Fin 4) (val : Word)
  /-- R263: the NORM at the head of firebox `q` runs. -/
  | norm (q : Fin 4)
  /-- R265: the FOLD at the head of firebox `q` runs. -/
  | fold (q : Fin 4)
  /-- R267: the UPDATE at the head of firebox `q` runs. -/
  | update (q : Fin 4)
  /-- R277: the DWRITE at the head of firebox `q` runs. -/
  | dwrite (q : Fin 4)
  /-- R254: the NOP at the head of firebox `q` completes. -/
  | fireboxNop (q : Fin 4)
  /-- R279: a write of FBX_ABORT of firebox `q`. -/
  | fbxAbort (who : Requester) (q : Fin 4) (tag : Word)
  /-- R280: a write of 1 to FBX_CTRL.QRESET of firebox `q`. -/
  | fireboxQreset (who : Requester) (q : Fin 4)
  /-- R294: cricket `c` executes the scalar integer instruction at its pc. -/
  | scalarInteger (c : Fin 72)
  /-- R289: cricket `c` executes the scalar load or store at its pc. -/
  | scalarLoadStore (c : Fin 72)
  /-- R294: cricket `c` executes the branch or jump at its pc. -/
  | branch (c : Fin 72)
  /-- R301: cricket `c` executes the short-vector arithmetic instruction at its pc. -/
  | shortVectorArithmetic (c : Fin 72)
  /-- R306: cricket `c` executes the short-vector load or store at its pc. -/
  | shortVectorMemory (c : Fin 72)
  /-- R299: cricket `c` executes the long-vector arithmetic instruction at its pc. -/
  | longVectorArithmetic (c : Fin 72)
  /-- R307: cricket `c` executes the long-vector load or store at its pc. -/
  | longVectorMemory (c : Fin 72)
  /-- R294: cricket `c` executes the mask instruction at its pc. -/
  | maskOperation (c : Fin 72)
  /-- R305: cricket `c` executes the conversion at its pc. -/
  | conversion (c : Fin 72)
  /-- R294: cricket `c` executes the hash instruction at its pc. -/
  | hash (c : Fin 72)
  /-- R296: cricket `c` executes SETVL. -/
  | setvl (c : Fin 72)
  /-- R299: cricket `c` executes SETWL. -/
  | setwl (c : Fin 72)
  /-- R295: cricket `c` executes CRD. -/
  | crd (c : Fin 72)
  /-- R295: cricket `c` executes CWR. -/
  | cwr (c : Fin 72)
  /-- R295: cricket `c` executes TRAP. -/
  | trap (c : Fin 72)
  /-- R295: cricket `c` executes TRET. -/
  | tret (c : Fin 72)
  /-- R311: cricket `c` executes FENCE. -/
  | fence (c : Fin 72)
  /-- R311: cricket `c` executes SYNCW. -/
  | syncw (c : Fin 72)
  /-- R311: the stalled SYNCW of cricket `c` completes. -/
  | syncwDone (c : Fin 72)
  /-- R288: cricket `c` executes IFLUSH. -/
  | iflush (c : Fin 72)
  /-- R295: cricket `c` executes SPK. -/
  | spk (c : Fin 72)
  /-- R444: cricket `c` executes WAIT. -/
  | wait (c : Fin 72)
  /-- R446: cricket `c` executes WAITT. -/
  | waitt (c : Fin 72)
  /-- R293: cricket `c` executes SENTER. -/
  | senter (c : Fin 72)
  /-- R295: cricket `c` executes HALT. -/
  | halt (c : Fin 72)
  /-- R322: a write of CRK_CTRL with RUN = 1 of cricket `c`. -/
  | cricketRun (who : Requester) (c : Fin 72)
  /-- R324: a write of CRK_CTRL with RUN = 0 of cricket `c`. -/
  | cricketHalt (who : Requester) (c : Fin 72)
  /-- R322: a write of CRK_CTRL with CRESET = 1 of cricket `c`. -/
  | creset (who : Requester) (c : Fin 72)
  /-- R322: a write of CRK_MAILBOX of cricket `c`. -/
  | mailboxWrite (who : Requester) (c : Fin 72) (val : Word)
  /-- R340: the walker of a comb slice (`hbm` false) or of an HBM channel reads its next line. -/
  | weevilRead (hbm : Bool) (idx : Fin 256)
  /-- R348: a write of CMB_RETIRE. -/
  | pairRetire (who : Requester) (val : Word)
  /-- R348: the retirement copy ends. -/
  | pairRetireDone
  /-- R353: channel `ch` retries a transaction; `ok` says whether the retry succeeded. -/
  | parityRetry (ch : Fin 256) (ok : Bool)
  /-- R354: of a channel and a temperature in °C, its stack's: a move of more than TDELTA starts an emergency retrain. -/
  | emergencyRetrain (ch : Fin 256 × BitVec 8)
  /-- R354: the retrain of channel `ch` completes. -/
  | retrainDone (ch : Fin 256)
  /-- R357: channel `ch` is lost. -/
  | channelLost (ch : Fin 256)
  /-- R352: a write of HBM_ILV. -/
  | interleaveReform (who : Requester) (val : Word)
  /-- R352: the interleave has been re-formed. -/
  | interleaveReformDone
  /-- R363: a write of MGN_CTRL with START = 1. -/
  | marginStart (who : Requester) (val : Word)
  /-- R367: a write of MGN_CTRL with ABORT = 1. -/
  | marginAbort (who : Requester)
  /-- R363: the margining run ends with the corrected and uncorrectable counts measured. -/
  | marginRunDone (ce ue : Word)
  /-- R592: a write of FLU_P_CTRL of port `p`. -/
  | portModeWrite (who : Requester) (p : Fin 12) (val : Word)
  /-- R403: a write of FLU_P_CTRL.RETRAIN of port `p`. -/
  | portRetrainRequest (who : Requester) (p : Fin 12) (val : Word)
  /-- R592: training of port `p` ends with the lanes `lanes` in service and the round trip and hop delay measured. -/
  | portTrainingDone (p : Fin 12) (lanes : BitVec 9) (rtt hop : BitVec 8)
  /-- R592: training of port `p` times out. -/
  | portTrainingTimeout (p : Fin 12)
  /-- R371: lane `l` of port `p` is lost. -/
  | laneLost (p : Fin 12) (l : Fin 9)
  /-- R371: lane `l` of port `p` is retired. -/
  | laneRetire (p : Fin 12) (l : Fin 9)
  /-- R374: a codeword of port `p` that carried the packets `seqs` is not decoded. -/
  | codewordUncorrectable (p : Fin 12) (seqs : List (BitVec 6))
  /-- R374: a NAK for packet `seq` arrives at port `p`. -/
  | nak (p : Fin 12) (seq : BitVec 6)
  /-- R373: uncorrectable codewords of port `p` have lasted FLU_P_DEADT. -/
  | portDeadTimeout (p : Fin 12)
  /-- R381: packet `seq` of 64 bytes arrives on port `p`; `errs` are the error patterns of its four codewords (R380). -/
  | packetArrival (p : Fin 12) (seq : BitVec 6) (pkt : List Byte) (errs : List (BitVec 144))
  /-- R377: a packet held at port `p` has waited longer than FLU_HOLDLIM. -/
  | holdLimitExpiry (p : Fin 12)
  /-- R386: the oldest delivered DATA packet is received. -/
  | dataReceive
  /-- R451: the oldest delivered SPARK packet is received. -/
  | sparkReceive
  /-- R384: the oldest delivered stream ACK is received. -/
  | streamAck
  /-- R421: the oldest delivered tree ACK is received. -/
  | treeAck
  /-- R388: the oldest delivered MCAST packet is received. -/
  | mcastReceive
  /-- R410: the next complete block of a tree of engine `q` is combined. -/
  | blockCombine (q : Fin 4)
  /-- R384: injector `q` runs the SEND it holds. -/
  | send (q : Fin 4)
  /-- R384: a write of FLU_SQTAIL of injector `q`. -/
  | fluSqtailWrite (who : Requester) (q : Fin 4) (val : Word)
  /-- R393: the fabric master reaches a frame boundary. -/
  | frameMark
  /-- R393: a frame mark arrives on port `p`. -/
  | frameMarkReceive (p : Fin 12) (frame : BitVec 48)
  /-- R389: a write of FLU_TBL_COMMIT. -/
  | tableCommit (who : Requester) (val : Word)
  /-- R389: the table commit ends. -/
  | tableCommitDone
  /-- R390: a write of FLU_EPOCH. -/
  | plannedSwitchRequest (who : Requester) (val : Word)
  /-- R390: the frame boundary at which a planned switch can happen. -/
  | epochSwitch
  /-- R395: a write of FLU_EMERG. -/
  | emergencyNotice (who : Requester) (val : Word)
  /-- R395: a NOTICE packet arrives on port `p`. -/
  | noticeReceive (p : Fin 12) (pkt : List Byte)
  /-- R395: the switch frame of an emergency switch. -/
  | emergencySwitch
  /-- R394: a write of FLU_FENCE. -/
  | fenceWrite (who : Requester) (val : Word)
  /-- R586: a cartridge with the given identity record is inserted at port `p`. -/
  | cartridgeInsert (p : Fin 12) (record : List Byte)
  /-- R586: the cartridge of port `p` is removed. -/
  | cartridgeRemove (p : Fin 12)
  /-- R586: the cartridge of port `p` draws more than 30 W. -/
  | cartridgeOverpower (p : Fin 12)
  /-- R398: the hob reads the monitors of every cartridge: temperature, supply, laser power and bias by port. -/
  | cartridgeMonitor (readings : List (List Nat))
  /-- R399: a minute has passed. -/
  | cartridgeHours
  /-- R405: a write of COL_QTAIL of engine `q`. -/
  | colQtailWrite (who : Requester) (q : Fin 4) (val : Word)
  /-- R407: the ALLREDUCE at the head of engine `q`. -/
  | allreduce (q : Fin 4)
  /-- R407: the REDUCE at the head of engine `q`. -/
  | reduce (q : Fin 4)
  /-- R417: the NORM at the head of engine `q`. -/
  | collectiveNorm (q : Fin 4)
  /-- R407: the NOP at the head of engine `q`. -/
  | collectiveNop (q : Fin 4)
  /-- R424: a write of COL_ABORT of engine `q`. -/
  | colAbort (who : Requester) (q : Fin 4) (tag : Word)
  /-- R436: a write of 1 to COL_CTRL.QRESET of engine `q`. -/
  | collectiveQreset (who : Requester) (q : Fin 4)
  /-- R441: a local spark reaches counter `b`, from queue `qid` where a queue signals it. -/
  | barrierSignal (b : Fin 4096) (qid : Option (BitVec 9))
  /-- R446: an engine cycle in which counter `b` may release a take-waiter. -/
  | waitTakeRelease (b : Fin 4096)
  /-- R441: a write of SYN_BAR_SUB of counter `b`. -/
  | barrierSubtract (who : Requester) (b : Fin 4096) (val : Word)
  /-- R449: a write of SYN_SIGNAL. -/
  | synSignal (who : Requester) (val : Word)
  /-- R460: a write of SYN_BAR_CNT of counter `b`. -/
  | barrierCountWrite (who : Requester) (b : Fin 4096) (val : Word)
  /-- R454: the head wait of queue `qid` has passed SYN_LENDTHR. -/
  | powerLend (qid : BitVec 9)
  /-- R462: a measurement window ends with the given count of root cycles. -/
  | trimWindow (count : Nat)
  /-- R462: a minute has passed. -/
  | trimSave
  /-- R463: the reference is lost. -/
  | refLost
  /-- R465: a holdover has lasted CLK_HOLDLIM. -/
  | holdLimit
  /-- R466: the OSC_WAIT interval ends; `present` says whether REFCLK edges are there. -/
  | oscWaitEnd (present : Bool)
  /-- R467: the root PLL locks. -/
  | pllLock
  /-- R468: the root PLL loses lock. -/
  | pllUnlock
  /-- R468: the root PLL relocks within 100 µs. -/
  | pllRelock
  /-- R468: 100 µs pass without relock. -/
  | pllRelockTimeout
  /-- R470: a monitor interval ends with the given edge counts by monitored domain. -/
  | monitorInterval (counts : List Nat)
  /-- R472: regulator `r` reports overvoltage, undervoltage or overcurrent. -/
  | railFault (r : Fin 16) (ov uv oc : Bool)
  /-- R474: a loop period of quadrant `q` ends. -/
  | vloopPeriod (q : Fin 4)
  /-- R475: measured power by quadrant and at the 48 V input, in watts. -/
  | budgetCompare (quads : List Nat) (input : Nat)
  /-- R478: the throttle interval ends. -/
  | throttleStep
  /-- R479: the highest junction temperature sampled, in degrees Celsius, and its sensor. -/
  | thermalSample (temps : List Int)
  /-- R485: PG rises; the straps as they stand. -/
  | powerGoodRise (oscWait : Fin 8) (hobSel : Fin 4) (nvmMode : Fin 4) (fabMaster : Bool)
  /-- R576: PG falls. -/
  | powerGoodFall
  /-- R500: the boot ROM stage ends; `ok` is the self-test, `seed` the reconstructed PUF seed. -/
  | stageRom (ok : Bool) (seed : Option (List Byte))
  /-- R497: the configuration image is read and verified. -/
  | stageImage
  /-- R503: the settings are restored. -/
  | stageRestore
  /-- R488, R350: training, repair, test and enumeration end. `gib`: capacities in GiB, those at the CXL ports and those of the
  eight stacks, none when each stack has that of the device's variant. -/
  | stageCalib (portsUp : List Bool) (channelsUp : List Bool) (slicesOk : List Bool) (gib : List Nat × List Nat)
  /-- R329: memory is initialised. -/
  | stageInit
  /-- R489: READY rises. -/
  | ready
  /-- R506: a write of SEC_HEARTBEAT by the hob of quadrant `q`. -/
  | heartbeat (q : Fin 4)
  /-- R507: 10 ms pass without a heartbeat. -/
  | tokenPass
  /-- R509: the hob polls the control page. -/
  | hostPagePoll
  /-- R510: the LOAD in the control page runs. -/
  | load
  /-- R510: the load barrier releases. -/
  | loadComplete
  /-- R511: the load barrier times out. -/
  | loadTimeout
  /-- R512: the UNLOAD in the control page runs. -/
  | unload
  /-- R513: the ATTEST in the control page runs. -/
  | attest
  /-- R514: the CHALLENGE in the control page runs and the generator gives `nonce`. -/
  | challenge (nonce : List Byte)
  /-- R514: the SUBMIT in the control page runs. -/
  | submit
  /-- R515: the CLOSE in the control page runs. -/
  | close
  /-- R492: the CONFIG in the control page runs. -/
  | config
  /-- R504: changed settings reach the ember store. -/
  | retainWrite
  /-- R578: a read of byte `reg` on the standby management bus. -/
  | standbyBusRead (reg : Byte)
  /-- R519: the verdict is issued. -/
  | verdictIssue
  /-- R520: the verdict result arrives. -/
  | verdictResult
  /-- R520: the verdict times out. -/
  | verdictTimeout
  /-- R521: the step watchdog expires. -/
  | stepWatchdog
  /-- R524: the step closes. -/
  | stepClose
  /-- R532: the drain to the far tier ends. -/
  | checkpointDrainDone
  /-- R526: the step is replayed. -/
  | replay
  /-- R533: the device restores the confirmed checkpoint. -/
  | rewind
  /-- R534: a write of ERR_RESET. -/
  | unitReset (who : Requester) (val : Word)
  /-- R548: a write of ERR_CKCTRL. -/
  | checkpointControlWrite (who : Requester) (val : Word)
  /-- R437: a write of FFY_CTRL. -/
  | ffySnapshot (who : Requester) (val : Word)
  /-- R557: a host write through BAR2 at window offset `off`. -/
  | hostWindowWrite (off : Nat) (bytes : List Byte)
  /-- R560: a write of CXL_HRESET. -/
  | hostReset (who : Requester) (val : Word)
  /-- R577: a rising edge of SYS_RST_N after `lowNs` nanoseconds low. -/
  | sysRstN (lowNs : Nat)
  /-- R555: PERST_N, or a Function Level Reset (`flr`). -/
  | perstN (flr : Bool)
  /-- R559: the PCIe link is up at generation `gen` and width `width`. -/
  | pcieLinkUp (gen : Fin 8) (width : Fin 32)
  /-- R564: a CXL device of `gib` GiB is added at port `k`. -/
  | cxlHotAdd (k : Fin 2) (gib : Nat)
  /-- R566: CXL port `k` loses its link. -/
  | cxlLinkDown (k : Fin 2)
  /-- R559: the PCIe link is lost. -/
  | pcieLinkDown
  /-- R563: the CXL device of port `k` is removed. -/
  | cxlHotRemove (k : Fin 2)
  /-- R472: the restoration attempt ends. -/
  | railRestoreDone (ok : Bool)
  /-- R548: the posted write of the block at BAR0 base `blk` is applied. -/
  | postedWriteApplied (blk : BitVec 26)
  /-- R463: the reference returns: REFCLK edges, or frame marks (`mark`). -/
  | referenceReturn (mark : Bool)
  /-- R356: the soft repair of channel `ch` ends. -/
  | softRepairDone (ch : Fin 256)
  /-- R575: the standby rail comes up. -/
  | standbyPowerUp
  /-- R576: the standby rail is lost. -/
  | standbyPowerLoss
  deriving DecidableEq, Repr

end Sys2Proof
end

