-- ==== Sys2Proof/Decode.lean ====
section
/-! DEFINITION. The decoder of table words. The block has no decoder of a processor's kind, and no row of
spec/opcode_table.json gives bits. -/

namespace Sys2Proof

/-- The command that a word spells by the bits of the opcode table: no row has bits, so none. -/
def decodeTableWord (_nbits _w : Nat) : Option Instr := none

end Sys2Proof
end

