-- ==== Sys2Proof/Config.lean ====
section
/-! DEFINITION. What the spec leaves open: free values and open functions. None has a body, so no proof can see a value.
Each is named in the assumption log. -/

namespace Sys2Proof

/-- A free value, numbered by the counter of the state (log 6). -/
opaque Config.free : Nat → BitVec 64

/-- One of several numbers that all fit, where the spec does not say which (log 27). -/
opaque Config.oneOf : List Nat → Nat

/-- IEEE 754-2019 lets an implementation detect tininess before or after rounding, and R68 does not choose (log 8). -/
opaque Config.tinyAfterRounding : Bool

/-- Whether fusedMultiplyAdd(0, infinity, quiet NaN) raises invalid: IEEE 754-2019 leaves it to the implementation (log 103). -/
opaque Config.fmaInvalid : Bool

/-- The row of an HBM channel offset: the spec gives no row geometry of the stacks (log 9). -/
opaque Config.hbmRow : Nat → BitVec 32

/-- Fields of the JOB record: R495 names its contents and gives no layout (log 10). The fabric number of the neighbour on
a port. -/
opaque Config.jobNeighbour : List Byte → Nat → BitVec 14

/-- Fields of the JOB record by number: 0 device count, 1 to 3 the cuts Rs, S, Rr, 4 worst stage, 5 to 10 the needs of the
worst stage: HBM bytes, comb bytes, logical hearths, worker crickets, HBM channels, far-tier bytes; 11 load barrier
counter, 12 its tree, 13 load timeout in ms, 14 verdict tree, 15 rank in it, 16 slot, 17 stride, 18 packets per slot,
19 update-end barrier, 20 to 22 torus sizes, 23 stage of this device, 24 step-start barrier (R524 names it, R495 does not), 32 + p packets per slot of port p, 48 + p whether the cabling
plan uses port p (log 10). -/
opaque Config.jobField : List Byte → Nat → BitVec 64

/-- Where, inside the error bound of R135, forward drain functions 0x02 to 0x07 stand at a finite argument (binary64 bits):
a signed fraction of the bound (log 12). -/
opaque Config.drainForward : Nat → BitVec 64 → BitVec 32

/-- The same for the factor of derivative codes 0x42 to 0x47 and 0x65 at a finite side operand (binary32 bits) (log 12). -/
opaque Config.drainFactor : Nat → BitVec 32 → BitVec 32

/-- Whether the receiver of a send acknowledges its chunks: R384 lets a send complete without acknowledgement when the
receiver sends none, and the injector has no field that says so (log 17). -/
opaque Config.sendAcked : List Byte → Bool

/-- The payload of a NOTICE that names a link and a switch frame, and its reading: R395 gives no layout (log 18). -/
opaque Config.noticePayload : Nat → Nat → List Byte
/-- The link that a NOTICE payload names. -/
opaque Config.noticeLink : List Byte → BitVec 32
/-- The switch frame that a NOTICE payload names. -/
opaque Config.noticeFrame : List Byte → BitVec 48

/-- R350, R495: whether the PART record allows a stack capacity in GiB: R495 gives no layout of its list (log 125). -/
opaque Config.partAllows : List Byte → Nat → Bool
/-- Hops to the fabric master by port: R393 does not say how a device knows them (log 19). -/
opaque Config.markHops : Nat → Nat

/-- What CMIS pages and the image's CART record say of a cartridge (R398 to R401): its kind, the key made of vendor and
serial number, whether its signed identity verifies, and its rated life in hours; no layout is given (log 20). -/
opaque Config.cartKind : List Byte → BitVec 2
/-- Vendor and serial number as one key. -/
opaque Config.cartKey : List Byte → BitVec 256
/-- Whether a signed identity record verifies under a CART payload. -/
opaque Config.cartVerified : List Byte → List Byte → Bool
/-- Rated life in hours by CART payload and part number. -/
opaque Config.cartLife : List Byte → List Byte → Option (BitVec 32)

/-- The CODE record: R495 names its contents and gives no layout (log 10): the code bytes, the entry address, and the
logical crickets to start as a bit each. -/
opaque Config.codeBytes : List Byte → List Byte
/-- Entry address of a CODE payload. -/
opaque Config.codeEntry : List Byte → BitVec 64
/-- Logical crickets that a CODE payload starts. -/
opaque Config.codeStarts : List Byte → BitVec 64

/-- Whether a share of rated life that is no whole percentage is rounded up, by minutes and rated hours; the percentage at a
rated life of zero hours (log 30). -/
opaque Config.lifeUp : Nat → Nat → Bool
/-- Life used at a rated life of zero hours, by minutes. -/
opaque Config.lifeUnrated : Nat → BitVec 7

/-- How CLK_OFFSET.ERR rounds an error that is no multiple of 0.01 ppm, by the difference of counts (log 31). -/
opaque Config.offsetUp : Int → Bool
/-- What PWR_TJMAX and the management bus show of a hottest reading below 0 °C (log 32). -/
opaque Config.coldByte : Int → BitVec 8
/-- The cause in the record of an element that a DWRITE keeps (log 33). -/
opaque Config.dwriteCause : BitVec 4

/-- The factory trim of the pilot, in 0.1 ppm (R466), and the edges of the SerDes transmit domain in 10 µs (R470): the spec
gives neither (log 35). -/
opaque Config.factoryTrim : BitVec 16
/-- Edges of the SerDes transmit domain in a monitor interval. -/
opaque Config.serdesEdges : BitVec 32

/-- Falcon-1024 (R493, R500 to R501, R513): the spec names the scheme and does not define it. Whether a signature over a
message verifies under a public key; the public key generated from 48 bytes; the signature over a message with the key of
those 48 bytes (log 36). -/
opaque Config.falconVerify : List Byte → List Byte → List Byte → Bool
/-- The public key generated from 48 bytes. -/
opaque Config.falconPublic : List Byte → List Byte
/-- The signature over a message. -/
opaque Config.falconSign : List Byte → List Byte → List Byte
/-- The vendor key hash in mask ROM (R497, log 36). -/
opaque Config.vendorHash : List Byte
/-- Fallback route sets of a TABLES payload: link and address of the table image; R495 gives no layout (log 10). -/
opaque Config.fallbackSets : List Byte → List (BitVec 32 × BitVec 64)
/-- Bytes of an IMAGE_KEYS or DEBUG_KEYS payload: the key hashes, the least SVN, and the scope mask of each hash; R495
gives no layout (log 10). -/
opaque Config.keyHashes : List Byte → List (List Byte)
/-- Least Cuham SVN of an IMAGE_KEYS payload. -/
opaque Config.leastSvn : List Byte → BitVec 32
/-- Scope mask that a DEBUG_KEYS payload gives to a key hash. -/
opaque Config.keyScope : List Byte → List Byte → BitVec 3

/-! Crickets. R294 and R295 give the layouts of the instruction classes and the numbers of the system operations only; the
operation numbers of the other classes, and which operations the scalar integer, scalar memory, branch, mask and hash groups
hold, are open (log 23). None: the operation number is reserved. -/

/-- Result of a scalar integer operation: immediate form, op, operands. -/
opaque Config.scalarResult : Bool → Nat → BitVec 64 → BitVec 64 → Option (BitVec 64)
/-- A scalar load or store op: bit 0 store, bits 2:1 the log of the bytes, bit 3 sign extension. -/
opaque Config.scalarMem : Nat → Option (BitVec 4)
/-- Whether a branch or jump is taken. -/
opaque Config.branchTaken : Nat → BitVec 64 → BitVec 64 → Option Bool
/-- The address that the offset of a taken branch or jump counts from, by the address of the instruction. -/
opaque Config.branchBase : BitVec 64 → BitVec 64
/-- System operations: whether a word has a reserved field set, and the G register, the control register and the counter
that it names. -/
opaque Config.sysReserved : BitVec 32 → Bool
/-- The G register that a system word names. -/
opaque Config.sysReg : BitVec 32 → BitVec 5
/-- The control register that a CRD or CWR names. -/
opaque Config.sysNumber : BitVec 32 → BitVec 12
/-- The barrier counter that an SPK, WAIT or WAITT names, from its word and its G register. -/
opaque Config.sysCounter : BitVec 32 → BitVec 64 → BitVec 12
/-- Whether a word is SETVL or SETWL, whose class R294 does not give: bit 0 SETWL, 5:1 destination G, 10:6 request G, 12:11
EW, 13 TZ, 14 MZ. -/
opaque Config.setLength : BitVec 32 → Option (BitVec 15)
/-- The boot ROM that a hob cricket runs after reset (R284): its word at a pc. -/
opaque Config.bootRom : BitVec 64 → BitVec 32
/-- R293: the secure entry that a HOB_FW record gives. -/
opaque Config.secureEntry : List (BitVec 8) → BitVec 64
/-- Vector operation of an op number, long form or not, in the model's numbering (Machine/CrkVec.lean). -/
opaque Config.vectorOp : Bool → Nat → Option (BitVec 7)
/-- A vector memory op, long form or not: bit 0 store, bits 2:1 the form of R306. -/
opaque Config.vectorMem : Bool → Nat → Option (BitVec 3)
/-- Results that R301 does not give: a shift by at least the width (kind, width, value, amount), a gather index outside the
register, the word of classify by IEEE 754-2019 class (log 26). -/
opaque Config.bigShift : Nat → Nat → Nat → Nat → BitVec 64
/-- What a gather with an index outside the register gives. -/
opaque Config.gatherOutside : Nat → Nat → BitVec 64
/-- An element that no source element reaches in a slide: up or down, width, position, old contents. -/
opaque Config.slideVacant : Bool → Nat → Nat → Nat → BitVec 64
/-- An element below the length behind the packed elements of a compress: width, position, old contents. -/
opaque Config.compressRest : Nat → Nat → Nat → BitVec 64
/-- The bits of a G register above a narrow element that is moved into it, by the width and the element. -/
opaque Config.moveHigh : Nat → Nat → BitVec 64
/-- The word that classify writes for a class. -/
opaque Config.classWord : Nat → BitVec 32
/-- The strip of a W register that a move names. -/
opaque Config.moveStrip : BitVec 32 → BitVec 64 → BitVec 6
/-- Result of a mask operation: op and operands as 4,096 bits; bit 4,096 says that the destination is a G register. -/
opaque Config.maskResult : Nat → BitVec 4096 → BitVec 4096 → Option (BitVec 4097)
/-- Whether a field of a mask op names a G register: op and field, 1 or 2. -/
opaque Config.maskField : Nat → Nat → Bool
/-- A conversion op with its EW: bits 3:0 the source, an element code of R41 or 12 to 15 for int32, int64, unsigned 32 and
unsigned 64; bits 6:4 the target, 0 the code in bits 11:7, 1 to 4 an integer in the same order; bit 7: a format block is
named in the G pair of bits 11:7, whose element code is the source; bit 8: the target is then binary32, not binary64. -/
opaque Config.conversionOp : Nat → Nat → Option (BitVec 9)
/-- The integer that a strict conversion gives when the value does not fit: IEEE 754-2019 leaves it open. -/
opaque Config.intInvalid : Nat → Nat → BitVec 64
/-- Result of a hash operation on its 1,600-bit state. -/
opaque Config.hashResult : Nat → BitVec 1600 → Option (BitVec 1600)

end Sys2Proof
end

