-- ==== Sys2Proof/Machine/Float.lean ====
section
/-! DEFINITION. Exact floating-point values and rounding to nearest, ties to even (02_number_formats.md R42 to R44,
R62, R68). Every operation is computed exactly on integers and rounded once at the end. -/

namespace Sys2Proof.Machine

/-- The value of a floating-point datum: NaN, a signed infinity, or `(-1)^neg * m * 2^e`. Zero keeps its sign. -/
inductive FV where
  | nan
  | inf (neg : Bool)
  | fin (neg : Bool) (m : Nat) (e : Int)
  deriving DecidableEq, Repr

/-- A binary format: significand precision `p`, exponent `emin` of the smallest normal, bias, field widths, the largest
finite magnitude `maxM * 2^maxE`, and whether it has infinities (R42). -/
structure FFmt where
  eb : Nat
  fb : Nat
  bias : Nat
  maxM : Nat
  maxE : Int
  hasInf : Bool
  deriving DecidableEq, Repr

/-- R42: binary64. -/
def fmt64 : FFmt := ⟨11, 52, 1023, 2 ^ 53 - 1, 971, true⟩
/-- R42: binary32. -/
def fmt32 : FFmt := ⟨8, 23, 127, 2 ^ 24 - 1, 104, true⟩
/-- R42: binary16. -/
def fmt16 : FFmt := ⟨5, 10, 15, 2 ^ 11 - 1, 5, true⟩
/-- R42: bfloat16. -/
def fmtBf16 : FFmt := ⟨8, 7, 127, 2 ^ 8 - 1, 120, true⟩
/-- R42, R43: E4M3, largest finite 448 = 14 * 2^5. -/
def fmtE4M3 : FFmt := ⟨4, 3, 7, 14, 5, false⟩
/-- R42, R43: E5M2. -/
def fmtE5M2 : FFmt := ⟨5, 2, 15, 7, 13, true⟩

/-- Exponent of the smallest normal number of a format. -/
def FFmt.emin (f : FFmt) : Int := 1 - (f.bias : Int)
/-- Exponent of the smallest subnormal number of a format. -/
def FFmt.qmin (f : FFmt) : Int := f.emin - (f.fb : Int)

/-- `n * 2^s` as a Nat for a possibly negative `s`, the bits below dropped. -/
def shiftI (n : Nat) (s : Int) : Nat := if 0 ≤ s then n <<< s.toNat else n >>> (-s).toNat

/-- The floor of the base-2 logarithm of `n / d`, both positive. -/
def floorLog2Q (n d : Nat) : Int :=
  let k : Int := (n.log2 : Int) - (d.log2 : Int)
  let below : Bool := if 0 ≤ k then decide (n < d <<< k.toNat) else decide (n <<< (-k).toNat < d)
  if below then k - 1 else k

/-- Rounds the positive quotient `n / d * 2^e` to a multiple of a power of two, nearest even (R62): `p` bits of
significand and no lowest bit below exponent `qmin`. Answers significand, exponent and whether it is inexact. -/
def roundQ (p : Nat) (qmin : Int) (n d : Nat) (e : Int) : Nat × Int × Bool :=
  if n = 0 then (0, qmin, false)
  else
    let q := max (floorLog2Q n d + e - ((p : Int) - 1)) qmin
    let s := e - q
    let num := if 0 ≤ s then n <<< s.toNat else n
    let den := if 0 ≤ s then d else d <<< (-s).toNat
    let quo := num / den
    let rem := num % den
    let up : Bool := decide (den < 2 * rem) || (decide (2 * rem = den) && decide (quo % 2 = 1))
    ((if up then quo + 1 else quo), q, decide (rem ≠ 0))

/-- Compares magnitudes `m1 * 2^e1 < m2 * 2^e2`. -/
def magLt (m1 : Nat) (e1 : Int) (m2 : Nat) (e2 : Int) : Bool :=
  if e1 ≤ e2 then decide (m1 < m2 <<< (e2 - e1).toNat) else decide (m1 <<< (e1 - e2).toNat < m2)

/-- Whether a value is a zero. -/
def FV.isZero : FV → Bool
  | .fin _ m _ => m == 0
  | _ => false
/-- Whether a value is finite. -/
def FV.isFin : FV → Bool
  | .fin _ _ _ => true
  | _ => false
/-- Whether a value is NaN. -/
def FV.isNan : FV → Bool
  | .nan => true
  | _ => false
/-- Whether a value is an infinity. -/
def FV.isInf : FV → Bool
  | .inf _ => true
  | _ => false
/-- The sign of a value. -/
def FV.neg : FV → Bool
  | .fin s _ _ => s
  | .inf s => s
  | .nan => false
/-- Positive zero. -/
def FV.zero : FV := .fin false 0 0
/-- One. -/
def FV.one : FV := .fin false 1 0
/-- The magnitude of a value. -/
def FV.abs : FV → FV
  | .fin _ m e => .fin false m e
  | .inf _ => .inf false
  | .nan => .nan
/-- A value with its sign changed. -/
def FV.negate : FV → FV
  | .fin s m e => .fin (!s) m e
  | .inf s => .inf (!s)
  | .nan => .nan
/-- An integer as a value. -/
def FV.ofInt (i : Int) : FV := .fin (decide (i < 0)) i.natAbs 0
/-- A value scaled exactly by a power of two. -/
def FV.scale2 (x : FV) (k : Int) : FV :=
  match x with
  | .fin s m e => .fin s m (e + k)
  | y => y
/-- The signed integer `m` of a finite value at exponent `q`, exact when `q ≤ e`. -/
def FV.atExp (x : FV) (q : Int) : Int :=
  match x with
  | .fin s m e => if s then -(shiftI m (e - q) : Int) else (shiftI m (e - q) : Int)
  | _ => 0
/-- The exponent of a finite value. -/
def FV.exp : FV → Int
  | .fin _ _ e => e
  | _ => 0
/-- The significand of a finite value. -/
def FV.mag : FV → Nat
  | .fin _ m _ => m
  | _ => 0
/-- The exact sum. Zero sums are positive unless both operands are negative zeros (IEEE 754-2019). -/
def FV.add (x y : FV) : FV :=
  match x, y with
  | .nan, _ => .nan
  | _, .nan => .nan
  | .inf s, .inf t => if s = t then .inf s else .nan
  | .inf s, _ => .inf s
  | _, .inf t => .inf t
  | .fin s m e, .fin t n f =>
    if m = 0 ∧ n = 0 then .fin (s && t) 0 0
    else if m = 0 then .fin t n f
    else if n = 0 then .fin s m e
    else
      let q := min e f
      let z := FV.atExp (.fin s m e) q + FV.atExp (.fin t n f) q
      .fin (decide (z < 0)) z.natAbs q
/-- The exact product. -/
def FV.mul (x y : FV) : FV :=
  match x, y with
  | .nan, _ => .nan
  | _, .nan => .nan
  | .inf s, .inf t => .inf (s != t)
  | .inf s, .fin t n _ => if n = 0 then .nan else .inf (s != t)
  | .fin s m _, .inf t => if m = 0 then .nan else .inf (s != t)
  | .fin s m e, .fin t n f => .fin (s != t) (m * n) (e + f)
/-- The exact difference. -/
def FV.sub (x y : FV) : FV := x.add y.negate
/-- Comparison `x < y`, false on NaN; zeros are equal (R66). -/
def FV.lt (x y : FV) : Bool :=
  match x, y with
  | .nan, _ => false
  | _, .nan => false
  | .inf s, .inf t => s && !t
  | .inf s, _ => s
  | _, .inf t => !t
  | .fin s m e, .fin t n f =>
    if m = 0 ∧ n = 0 then false
    else if m = 0 then !t
    else if n = 0 then s
    else if s && !t then true
    else if !s && t then false
    else if s then magLt n f m e
    else magLt m e n f
/-- Equality of values, false on NaN; zeros are equal. -/
def FV.eqv (x y : FV) : Bool := !x.isNan && !y.isNan && !(x.lt y) && !(y.lt x)
/-- Comparison `x ≤ y`, false on NaN. -/
def FV.le (x y : FV) : Bool := !x.isNan && !y.isNan && !(y.lt x)
/-- The larger value; NaN when either is NaN (R66). -/
def FV.max (x y : FV) : FV := if x.isNan || y.isNan then .nan else if x.lt y then y else x
/-- The smaller value; NaN when either is NaN (R66). -/
def FV.min (x y : FV) : FV := if x.isNan || y.isNan then .nan else if y.lt x then y else x

/-- What rounding to a format reports: the IEEE 754-2019 exceptions of R68. -/
structure FFlags where
  invalid : Bool
  divZero : Bool
  overflow : Bool
  underflow : Bool
  inexact : Bool
  deriving DecidableEq, Repr

/-- No exception. -/
def FFlags.none : FFlags := ⟨false, false, false, false, false⟩
/-- The union of two flag sets. -/
def FFlags.or (a b : FFlags) : FFlags :=
  ⟨a.invalid || b.invalid, a.divZero || b.divZero, a.overflow || b.overflow, a.underflow || b.underflow,
   a.inexact || b.inexact⟩

/-- Rounds a positive quotient `n / d * 2^e` with a sign to a format: an overflow becomes an infinity (R53). -/
def FFmt.roundQuot (f : FFmt) (neg : Bool) (n d : Nat) (e : Int) : FV × FFlags :=
  let (m, q, ix) := roundQ (f.fb + 1) f.qmin n d e
  if magLt f.maxM f.maxE m q then (.inf neg, { FFlags.none with overflow := true, inexact := true })
  else
    let tiny : Bool := decide (floorLog2Q n d + e < f.emin) && (!Config.tinyAfterRounding ||
      (let (m', q', _) := roundQ (f.fb + 1) (f.qmin - (f.fb : Int) - 4) n d e
       magLt m' q' 1 f.emin))
    (.fin neg m q, { FFlags.none with inexact := ix, underflow := ix && tiny })

/-- Rounds an exact value to a format, nearest even; a finite overflow becomes an infinity (R53, R62). -/
def FFmt.roundF (f : FFmt) (x : FV) : FV × FFlags :=
  match x with
  | .fin s m e => f.roundQuot s m 1 e
  | y => (y, FFlags.none)
/-- `roundF` without its flags. -/
def FFmt.round (f : FFmt) (x : FV) : FV := (f.roundF x).1
/-- Sum rounded once. -/
def FFmt.add (f : FFmt) (x y : FV) : FV := f.round (x.add y)
/-- Difference rounded once. -/
def FFmt.sub (f : FFmt) (x y : FV) : FV := f.round (x.sub y)
/-- Product rounded once. -/
def FFmt.mul (f : FFmt) (x y : FV) : FV := f.round (x.mul y)
/-- Fused multiply-add rounded once. -/
def FFmt.fma (f : FFmt) (x y z : FV) : FV := f.round ((x.mul y).add z)
/-- Quotient rounded once, with the exceptions of IEEE 754-2019. -/
def FFmt.divF (f : FFmt) (x y : FV) : FV × FFlags :=
  match x, y with
  | .nan, _ => (.nan, FFlags.none)
  | _, .nan => (.nan, FFlags.none)
  | .inf _, .inf _ => (.nan, { FFlags.none with invalid := true })
  | .inf s, .fin t _ _ => (.inf (s != t), FFlags.none)
  | .fin s _ _, .inf t => (.fin (s != t) 0 0, FFlags.none)
  | .fin s m e, .fin t n g =>
    if n = 0 then
      if m = 0 then (.nan, { FFlags.none with invalid := true })
      else (.inf (s != t), { FFlags.none with divZero := true })
    else f.roundQuot (s != t) m n (e - g)
/-- Quotient rounded once. -/
def FFmt.div (f : FFmt) (x y : FV) : FV := (f.divF x y).1

/-- Integer square root by bits, from bit `b` down. -/
def isqrtBits (n : Nat) : Nat → Nat → Nat
  | 0, r => r
  | b + 1, r => isqrtBits n b (if (r + 2 ^ b) * (r + 2 ^ b) ≤ n then r + 2 ^ b else r)
/-- The floor of the square root. -/
def isqrt (n : Nat) : Nat := isqrtBits n (n.log2 / 2 + 1) 0

/-- Square root rounded once, with its exceptions. -/
def FFmt.sqrtF (f : FFmt) (x : FV) : FV × FFlags :=
  match x with
  | .nan => (.nan, FFlags.none)
  | .inf true => (.nan, { FFlags.none with invalid := true })
  | .inf false => (.inf false, FFlags.none)
  | .fin s m e =>
    if m = 0 then (.fin s 0 0, FFlags.none)
    else if s then (.nan, { FFlags.none with invalid := true })
    else
      let odd := e % 2 ≠ 0
      let m1 := if odd then m * 2 else m
      let e1 := if odd then e - 1 else e
      let k := f.fb + 4
      let big := m1 <<< (2 * k)
      let r := isqrt big
      let st := if r * r = big then 2 * r else 2 * r + 1
      f.roundQuot false st 1 (e1 / 2 - (k : Int) - 1)
/-- Square root rounded once. -/
def FFmt.sqrt (f : FFmt) (x : FV) : FV := (f.sqrtF x).1

/-- The bits of the canonical NaN of a format (R42, R43). -/
def FFmt.nanBits (f : FFmt) : Nat :=
  if f.hasInf then ((2 ^ f.eb - 1) <<< f.fb) + 2 ^ (f.fb - 1) else 2 ^ (f.eb + f.fb) - 1

/-- Decodes the bits of a format (R42, R43). -/
def FFmt.decode (f : FFmt) (bits : Nat) : FV :=
  let s := bits >>> (f.eb + f.fb) % 2 == 1
  let ex := (bits >>> f.fb) % 2 ^ f.eb
  let fr := bits % 2 ^ f.fb
  if f.hasInf && ex == 2 ^ f.eb - 1 then (if fr = 0 then .inf s else .nan)
  else if !f.hasInf && ex == 2 ^ f.eb - 1 && fr == 2 ^ f.fb - 1 then .nan
  else if ex = 0 then .fin s fr f.qmin
  else .fin s (2 ^ f.fb + fr) ((ex : Int) - (f.bias : Int) - (f.fb : Int))

/-- Encodes a value that the format represents (as `FFmt.round` leaves it). -/
def FFmt.encode (f : FFmt) (x : FV) : Nat :=
  match x with
  | .nan => f.nanBits
  | .inf s => (if s then 2 ^ (f.eb + f.fb) else 0) + (if f.hasInf then (2 ^ f.eb - 1) <<< f.fb else 2 ^ (f.eb + f.fb) - 1)
  | .fin s m e =>
    let sg := if s then 2 ^ (f.eb + f.fb) else 0
    if m = 0 then sg
    else
      let q := max ((m.log2 : Int) + e - (f.fb : Int)) f.qmin
      let k := shiftI m (e - q)
      if k < 2 ^ f.fb then sg + k
      else sg + ((q - f.qmin + 1).toNat <<< f.fb) + (k - 2 ^ f.fb)

/-- Whether a value is exactly a datum of the format. -/
def FFmt.holds (f : FFmt) (x : FV) : Bool :=
  match x with
  | .fin s m e =>
    let (r, fl) := f.roundF (.fin s m e)
    r.isFin && !fl.inexact
  | _ => true

/-- Rounds to an integer, nearest even. -/
def roundInt (x : FV) : Int :=
  match x with
  | .fin s m e =>
    let (k, q, _) := roundQ (m.log2 + e.toNat + 2) 0 m 1 e
    let v := shiftI k q
    if s then -(v : Int) else v
  | _ => 0

/-- The floor of the base-2 logarithm of a positive finite magnitude; 0 for zero. -/
def FV.log2Floor (x : FV) : Int :=
  match x with
  | .fin _ m e => if m = 0 then 0 else (m.log2 : Int) + e
  | _ => 0

/-- Strict-mode NaN propagation (R68): the payload of a quiet NaN operand; a signalling NaN is quieted. -/
def FFmt.isNanBits (f : FFmt) (b : Nat) : Bool := (f.decode b).isNan
/-- A signalling NaN of an interchange format. -/
def FFmt.isSnan (f : FFmt) (b : Nat) : Bool := (f.decode b).isNan && (b >>> (f.fb - 1)) % 2 == 0
/-- A NaN with its quiet bit set. -/
def FFmt.quiet (f : FFmt) (b : Nat) : Nat := b ||| 2 ^ (f.fb - 1)

/-- A strict operation on bits (R68): a NaN operand propagates, which of several is open (log 27), and a signalling NaN raises
invalid; an invalid operation gives the canonical NaN. -/
def FFmt.strict (f : FFmt) (ops : List Nat) (op : List FV → FV × FFlags) : Nat × FFlags :=
  let snan := ops.any f.isSnan
  let nans := ops.filter f.isNanBits
  if nans.isEmpty then
    let (r, fl) := op (ops.map f.decode)
    (f.encode r, { fl with invalid := fl.invalid || r.isNan })
  else (f.quiet (nans.getD (Config.oneOf nans % nans.length) 0), { FFlags.none with invalid := snan })

/-- Strict addition on bits. -/
def FFmt.sAdd (f : FFmt) (a b : Nat) : Nat × FFlags :=
  f.strict [a, b] fun l => match l with
    | [x, y] => f.roundF (x.add y)
    | _ => (.nan, FFlags.none)
/-- Strict subtraction on bits. -/
def FFmt.sSub (f : FFmt) (a b : Nat) : Nat × FFlags :=
  f.strict [a, b] fun l => match l with
    | [x, y] => f.roundF (x.sub y)
    | _ => (.nan, FFlags.none)
/-- Strict multiplication on bits. -/
def FFmt.sMul (f : FFmt) (a b : Nat) : Nat × FFlags :=
  f.strict [a, b] fun l => match l with
    | [x, y] => f.roundF (x.mul y)
    | _ => (.nan, FFlags.none)
/-- Strict division on bits. -/
def FFmt.sDiv (f : FFmt) (a b : Nat) : Nat × FFlags :=
  f.strict [a, b] fun l => match l with
    | [x, y] => f.divF x y
    | _ => (.nan, FFlags.none)
/-- Strict square root on bits. -/
def FFmt.sSqrt (f : FFmt) (a : Nat) : Nat × FFlags :=
  f.strict [a] fun l => match l with
    | [x] => f.sqrtF x
    | _ => (.nan, FFlags.none)
/-- Whether a product is zero times infinity. -/
def FV.zeroTimesInf (x y : FV) : Bool := (x.isZero && y.isInf) || (x.isInf && y.isZero)
/-- Strict fused multiply-add on bits. Whether zero times infinity plus a quiet NaN is invalid is left to the implementation
by IEEE 754-2019 (log 103). -/
def FFmt.sFma (f : FFmt) (a b c : Nat) : Nat × FFlags :=
  let (r, fl) := f.strict [a, b, c] fun l => match l with
    | [x, y, z] => f.roundF ((x.mul y).add z)
    | _ => (.nan, FFlags.none)
  (r, { fl with invalid := fl.invalid || (f.isNanBits c && Config.fmaInvalid && (f.decode a).zeroTimesInf (f.decode b)) })

end Sys2Proof.Machine
end

