-- ==== Sys2Proof/Machine/Formats.lean ====
section
/-! DEFINITION. Element formats, format blocks, shared scales and fast-path conversion (02_number_formats.md R41 to R67).
-/

namespace Sys2Proof.Machine

/-- `n` in `w` bits as a signed integer. -/
def toSigned (w n : Nat) : Int := if n % 2 ^ w < 2 ^ (w - 1) then (n % 2 ^ w : Nat) else (n % 2 ^ w : Nat) - (2 ^ w : Nat)
/-- The two's-complement bits of an integer in `w` bits. -/
def ofSigned (w : Nat) (i : Int) : Nat := (i % (2 ^ w : Nat)).toNat
/-- An integer held between two limits. -/
def clampI (lo hi i : Int) : Int := if i < lo then lo else if hi < i then hi else i
/-- A little-endian byte list as a number (R8). -/
def leNat : List Byte → Nat
  | [] => 0
  | b :: t => b.toNat + 256 * leNat t
/-- A number as `n` little-endian bytes (R8). -/
def leBytes : Nat → Nat → List Byte
  | 0, _ => []
  | n + 1, v => BitVec.ofNat 8 v :: leBytes n (v / 256)
/-- `n` bytes at offset `o` of a byte list, as a number; bytes past the end count as zero. -/
def leAt (bs : List Byte) (o n : Nat) : Nat := leNat ((bs.drop o).take n)
/-- Bits `[hi:lo]` of a number. -/
def bitsOf (v hi lo : Nat) : Nat := (v >>> lo) % 2 ^ (hi + 1 - lo)
/-- Bit `i` of a number. -/
def bitOf (v i : Nat) : Bool := v.testBit i
/-- The smallest integer not below `a / b`. -/
def ceilDiv (a b : Nat) : Nat := (a + b - 1) / b

/-- R41: the width of an element in bytes; 0 for a reserved code. -/
def elemBytes (code : Nat) : Nat :=
  match code with
  | 0 => 8 | 1 => 4 | 2 => 2 | 3 => 2 | 4 => 1 | 5 => 1 | 6 => 1 | 7 => 2 | 8 => 4 | 9 => 4 | 10 => 2 | 11 => 1
  | _ => 0

/-- The floating-point format of an element code. -/
def floatFmt (code : Nat) : Option FFmt :=
  match code with
  | 0 => some fmt64 | 1 => some fmt32 | 2 => some fmt16 | 3 => some fmtBf16 | 4 => some fmtE4M3 | 5 => some fmtE5M2
  | _ => none

/-- The power `2^(num/den)` for `num < den`, rounded to the nearest multiple of `2^-bits` (R49, R50), times `2^bits`:
the largest `t` with `(2t - 1)^den ≤ 2^num * 2^((bits + 1) den)`, found bit by bit. -/
def pow2Frac (num den bits : Nat) : Nat :=
  (List.range bits).foldl (fun t i =>
    let u := t + 2 ^ (bits - 1 - i)
    if (2 * u - 1) ^ den ≤ 2 ^ (num + (bits + 1) * den) then u else t) (2 ^ bits)

/-- R49: `T[f]` in units of `2^-12`. -/
def lnsT (f : Nat) : Nat := pow2Frac f 1024 12

/-- R50: `μ(L)` for a logarithm with `frac` fraction steps per octave, as significand and exponent of a binary32. -/
def lnsMu (steps : Nat) (l : Int) : Nat × Int :=
  let n := (2 * l + 1) / (2 * (steps : Int))
  let f := ((2 * l + 1) % (2 * (steps : Int))).toNat
  (pow2Frac f (2 * steps) 23, n - 23)

/-- R46, R47: width of L in bits, and steps per octave, of a logarithmic code. -/
def lnsShape (code : Nat) : Nat × Nat := if code = 10 then (15, 1024) else (7, 16)

/-- R46, R47, R48: a logarithmic element as none (NaN), or sign and L in units of `2^-10`; zero is `some (s, none)`. -/
def lnsParts (code bits : Nat) : Option (Bool × Option Int) :=
  let (w, steps) := lnsShape code
  let s := bitOf bits w
  let l := toSigned w bits
  if l = -(2 ^ (w - 1) : Nat) then (if s then none else some (false, none))
  else some (s, some (l * ((1024 / steps : Nat) : Int)))

/-- R48 step 5: the magnitude `2^n * T[f]` of a logarithm in units of `2^-10`. -/
def lnsValue (s : Bool) (lam : Int) : FV :=
  let n := lam / 1024
  let f := (lam % 1024).toNat
  .fin s (lnsT f) (n - 12)

/-- The largest `t` with `t^den ≤ 2^num * 2^(bits den)`, found bit by bit: `2^(num/den)` cut to a multiple of `2^-bits`. -/
def pow2Cut (num den bits : Nat) : Nat :=
  (List.range bits).foldl (fun t i =>
    let u := t + 2 ^ (bits - 1 - i)
    if u ^ den ≤ 2 ^ (num + bits * den) then u else t) (2 ^ bits)

/-- R46, R47: the magnitude `2^(lam/1024)` of an element, cut to 80 fraction bits with the lowest bit set when it is not
exact: irrational, so it never ties, and every rounding to at most 78 bits and every comparison with such a value comes
out as for the number itself (log 101). -/
def lnsReal (s : Bool) (lam : Int) : FV :=
  let n := lam / 1024
  let f := (lam % 1024).toNat
  if f = 0 then .fin s 1 n else .fin s (pow2Cut f 1024 80 ||| 1) (n - 80)

/-- The magnitude of a logarithmic element: of the table T (R48) or the number itself (R46, R47). -/
def lnsOf (table : Bool) (s : Bool) (lam : Int) : FV := if table then lnsValue s lam else lnsReal s lam

/-- The value of an element without its scale (R42, R45 to R47); with `table`, logarithmic elements as R48 forms them. -/
def elemOf (table : Bool) (code bits : Nat) : FV :=
  match floatFmt code with
  | some f => f.decode bits
  | none =>
    match code with
    | 6 => FV.ofInt (toSigned 8 bits)
    | 7 => FV.ofInt (toSigned 16 bits)
    | 8 => (FV.ofInt (toSigned 32 bits)).scale2 (-31)
    | 9 => (FV.ofInt (toSigned 32 bits)).scale2 (-30)
    | _ =>
      match lnsParts code bits with
      | none => .nan
      | some (_, none) => FV.zero
      | some (s, some l) => lnsOf table s l
/-- The value of an element without its scale (R42, R45 to R47). -/
def elemValue (code bits : Nat) : FV := elemOf false code bits

/-- The result of a conversion: the code, whether a finite value overflowed (R63), whether it was invalid (R64). -/
structure Conv where
  bits : Nat
  ovf : Bool
  inv : Bool
  deriving DecidableEq, Repr

/-- R50: the code of a finite non-zero magnitude in a logarithmic format: the thresholds μ are those of R50 for a value of
any width, so that a conversion stays one rounding (R62, R77; log 102). -/
def lnsEncode (code : Nat) (s : Bool) (m : Nat) (e : Int) : Conv :=
  let (w, steps) := lnsShape code
  let hi : Int := (2 ^ (w - 1) : Nat) - 1
  let base := ((m.log2 : Int) + e) * (steps : Int) - 1
  let below (l : Int) : Bool := let (mm, me) := lnsMu steps l; magLt m e mm me
  -- the least l in base .. base + 2 * steps with |x| < μ(l)
  let k := (List.range 12).foldl (fun (k : Nat) i =>
    let u : Nat := k + 2 ^ (11 - i)
    if below (base + (u : Int) - 1) then k else u) 0
  let l := base + (k : Int)
  let sg := if s then 2 ^ w else 0
  if hi < l then ⟨sg + ofSigned w hi, true, false⟩
  else if l < -hi then ⟨2 ^ (w - 1), false, false⟩
  else ⟨sg + ofSigned w l, false, false⟩

/-- R63, R64: conversion to a two's-complement integer of `w` bits. -/
def intEncode (w : Nat) (x : FV) : Conv :=
  let hi : Int := (2 ^ (w - 1) : Nat) - 1
  let lo : Int := -(2 ^ (w - 1) : Nat)
  match x with
  | .nan => ⟨0, false, true⟩
  | .inf s => ⟨ofSigned w (if s then lo else hi), false, true⟩
  | y =>
    let i := roundInt y
    if hi < i then ⟨ofSigned w hi, true, false⟩
    else if i < lo then ⟨ofSigned w lo, true, false⟩
    else ⟨ofSigned w i, false, false⟩

/-- Fast-path conversion (R62 to R65) of an exact value to an element code: negative zero becomes positive zero, every
NaN is canonical, a finite overflow saturates and is signalled. -/
def convFast (code : Nat) (x : FV) : Conv :=
  match floatFmt code with
  | some f =>
    match x with
    | .nan => ⟨f.nanBits, false, false⟩
    | .inf s => if f.hasInf then ⟨f.encode (.inf s), false, false⟩ else ⟨f.nanBits, false, false⟩
    | .fin s m e =>
      match f.round (.fin s m e) with
      | .fin s' m' e' => ⟨if m' = 0 then 0 else f.encode (.fin s' m' e'), false, false⟩
      | _ => ⟨f.encode (.fin s f.maxM f.maxE), true, false⟩
  | none =>
    match code with
    | 6 => intEncode 8 x
    | 7 => intEncode 16 x
    | 8 => intEncode 32 (x.scale2 31)
    | 9 => intEncode 32 (x.scale2 30)
    | _ =>
      let (w, _) := lnsShape code
      match x with
      | .fin s m e => if m = 0 then ⟨2 ^ (w - 1), false, false⟩ else lnsEncode code s m e
      | _ => ⟨2 ^ w + 2 ^ (w - 1), false, false⟩

/-- R62: the value of an element code's largest finite magnitude, F of R149. -/
def elemMax (code : Nat) : FV :=
  match floatFmt code with
  | some f => .fin false f.maxM f.maxE
  | none =>
    match code with
    | 6 => FV.ofInt 127
    | 7 => FV.ofInt 32767
    | 8 => .fin false (2 ^ 31 - 1) (-31)
    | 9 => .fin false (2 ^ 31 - 1) (-30)
    | 10 => lnsReal false 16383
    | _ => lnsReal false (63 * 64)

/-- Q1.31 and Q2.30 fraction bits. -/
def fixFrac (code : Nat) : Nat := if code = 8 then 31 else 30

/-- Classes of R51. -/
inductive PClass where
  | short | intU | intS | lns | fp64 | fp32 | fixed
  deriving DecidableEq, Repr

/-- A decoded format block (R55, R56). -/
structure FBlock where
  word : Nat
  pitch : Nat
  base : Nat
  deriving DecidableEq, Repr

/-- R55: the format block at an offset of a descriptor. -/
def fblockAt (bs : List Byte) (o : Nat) : FBlock := ⟨leAt bs o 4, leAt bs (o + 4) 4, leAt bs (o + 8) 8⟩
def FBlock.elem (f : FBlock) : Nat := bitsOf f.word 3 0
def FBlock.scale (f : FBlock) : Nat := bitsOf f.word 5 4
def FBlock.blen (f : FBlock) : Nat := bitsOf f.word 8 6
def FBlock.sdir (f : FBlock) : Nat := bitsOf f.word 10 9
def FBlock.texp (f : FBlock) : Int := toSigned 8 (bitsOf f.word 23 16)
/-- R56: the block length. -/
def FBlock.blockLen (f : FBlock) : Nat := 8 * 2 ^ f.blen
def FBlock.isZero (f : FBlock) : Bool := f.word == 0 && f.pitch == 0 && f.base == 0

/-- The role of a tensor in its descriptor (R60). -/
inductive Role where
  | a | b | out
  deriving DecidableEq, Repr

/-- R60: rows and columns of the scale grid of a `rows x cols` tensor. For role A the K dimension is the columns, for role
B the rows, for an output along K means along the columns. -/
def FBlock.grid (f : FBlock) (r : Role) (rows cols : Nat) : Nat × Nat :=
  let n := f.blockLen
  match f.sdir, r with
  | 2, _ => (ceilDiv rows 16, ceilDiv cols 16)
  | 0, .b => (ceilDiv rows n, cols)
  | 0, _ => (rows, ceilDiv cols n)
  | _, .b => (rows, ceilDiv cols n)
  | _, _ => (ceilDiv rows n, cols)

/-- R60: the grid cell of element (i, j). -/
def FBlock.cell (f : FBlock) (r : Role) (i j : Nat) : Nat × Nat :=
  let n := f.blockLen
  match f.sdir, r with
  | 2, _ => (i / 16, j / 16)
  | 0, .b => (i / n, j)
  | 0, _ => (i, j / n)
  | _, .b => (i, j / n)
  | _, _ => (i / n, j)

/-- R58: whether a unit rejects a format block; the scale pitch must cover the grid columns `cols` (R55). -/
def FBlock.bad (f : FBlock) (cols : Nat) : Bool :=
  decide (12 ≤ f.elem) || f.scale == 3 || decide (6 ≤ f.blen) || f.sdir == 3 ||
  bitsOf f.word 15 11 != 0 || bitsOf f.word 31 24 != 0 ||
  (f.scale != 0 && (f.elem == 0 || f.elem == 1 || f.elem == 8 || f.elem == 9)) ||
  (f.scale == 2 && (f.elem == 10 || f.elem == 11)) ||
  (f.sdir == 2 && f.blen != 5) ||
  (f.scale == 0 && (f.blen != 0 || f.sdir != 0 || f.pitch != 0 || f.base != 0)) ||
  (f.scale != 0 && (f.pitch % 16 != 0 || decide (f.pitch < cols) || f.base % 16 != 0))

/-- R59: the value of a scale byte; SCALE 1 is E8M0, 2 is E4M3, a negative E4M3 scale acts as NaN. -/
def scaleValue (scale byte : Nat) : FV :=
  if scale = 0 then FV.one
  else if scale = 1 then (if byte = 255 then .nan else .fin false 1 ((byte : Int) - 127))
  else if bitOf byte 7 then .nan
  else fmtE4M3.decode byte

/-- R57, R59: the decoded value of an element with its scale byte and tensor exponent. -/
def decodeOf (table : Bool) (f : FBlock) (bits sbyte : Nat) : FV :=
  let v := elemOf table f.elem bits
  let sc := scaleValue f.scale sbyte
  match sc with
  | .nan => .nan
  | .fin _ 0 _ => FV.zero
  | sc => (v.mul sc).scale2 f.texp
/-- R57, R59: the decoded value of an element. -/
def decodeScaled (f : FBlock) (bits sbyte : Nat) : FV := decodeOf false f bits sbyte
/-- R161, R182: the decoded value of an element, a logarithmic one as `2^n * T[f]`. -/
def decodeTable (f : FBlock) (bits sbyte : Nat) : FV := decodeOf true f bits sbyte

/-- R61: the quotient of a value by scale × 2^TEXP, rounded once in a working format whose range does not end. A zero
scale gives an exact zero quotient (the block decodes to zero whatever is stored), a NaN scale gives NaN. -/
def quotScale (work : FFmt) (x scale : FV) (texp : Int) : FV :=
  match x, scale with
  | _, .nan => .nan
  | .nan, _ => .nan
  | .inf s, _ => .inf s
  | .fin s m e, .fin _ n f =>
    if n = 0 then FV.zero
    else
      let (r, q, _) := roundQ (work.fb + 1) work.qmin m n (e - f - texp)
      .fin s r q
  | .fin s _ _, .inf _ => .fin s 0 0

/-- R151: an exponent as an E8M0 byte. -/
def e8m0Byte (e : Int) : Nat := (clampI 0 254 (e + 127)).toNat
/-- R151: an exponent as an E4M3 scale byte, `2^e` with e clamped to -9 .. 8. -/
def e4m3Pow2 (e : Int) : Nat := fmtE4M3.encode (.fin false 1 (clampI (-9) 8 e))
/-- The scale byte of 2^e in a scale format. -/
def scalePow2 (scale : Nat) (e : Int) : Nat := if scale = 2 then e4m3Pow2 e else e8m0Byte e

/-- The least e with `b ≤ F * 2^(e + shift)` for a positive finite b. -/
def leastExp (b F : FV) (shift : Int) : Int :=
  let e0 := b.log2Floor - F.log2Floor - shift
  if !(F.scale2 (e0 - 1 + shift)).lt b then e0 - 1
  else if !(F.scale2 (e0 + shift)).lt b then e0
  else e0 + 1

/-- R155: a scale byte raised by k binades, held at its largest value (R114). -/
def raiseScale (scale byte k : Nat) : Nat :=
  if k = 0 then byte
  else if scale = 1 then (if byte = 255 then 255 else min 254 (byte + k))
  else
    match scaleValue 2 byte with
    | .fin _ m e =>
      let v := FV.fin false m (e + k)
      if (FV.fin false 14 5).lt v then 0x7E else fmtE4M3.encode v
    | _ => byte
/-- R114: whether a scale byte is at its largest value. -/
def scaleAtMax (scale byte : Nat) : Bool := if scale = 1 then byte == 254 else byte == 0x7E

/-- R67: stochastic rounding of a finite value to a float format with the 16-bit draw r; overflow saturates (R63). -/
def stochRound (f : FFmt) (x : FV) (r : Nat) : FV × Bool :=
  match x with
  | .fin s m e =>
    if m = 0 then (FV.zero, false)
    else
      let q := max ((m.log2 : Int) + e - (f.fb : Int)) f.qmin
      let t := shiftI m (e - q)
      let g := shiftI m (e - q + 16) - t * 2 ^ 16
      let t' := if r < g then t + 1 else t
      if magLt f.maxM f.maxE t' q then (.fin s f.maxM f.maxE, true)
      else (if t' = 0 then FV.zero else .fin s t' q, false)
  | y => (y, false)

/-- R65, R66: on the fast path a zero is +0. -/
def plusZero (v : FV) : FV := if v.isZero then FV.zero else v
/-- R65 for a value already rounded to binary32: its fast-path bits. -/
def bits32 (x : FV) : Nat := (convFast 1 x).bits
/-- R65 for binary64. -/
def bits64 (x : FV) : Nat := (convFast 0 x).bits
/-- The binary32 datum of some bits. -/
def val32 (b : Nat) : FV := fmt32.decode b
/-- The binary64 datum of some bits. -/
def val64 (b : Nat) : FV := fmt64.decode b
/-- A binary32 accumulator's bits: signs of zero are kept. -/
def acc32 (x : FV) : Nat := fmt32.encode (fmt32.round x)

end Sys2Proof.Machine
end

