-- ==== Sys2Proof/Machine/RegMap.lean ====
section
/-! DEFINITION. The register map of BAR0 (17_register_interface_and_map.md R542 and the register tables of every
chapter): the offset of every register, the place of every field, and one table row per register with the masks of its
access types (R546), its secure-only and posted marks (R548, R549). Offsets count from the base of BAR0. -/

namespace Sys2Proof.Machine

/-- One field of one register: the BAR0 offset of the register, the lowest bit and the width of the field. -/
structure RF where
  off : Nat
  lo : Nat
  w : Nat
  deriving DecidableEq, Repr

/-- One register of the map, or one family of registers: `base + s1 * i + s2 * j` for `i < n1`, `j < n2`.
The masks say which bits are writable (`wr`), clear on read (`rc`) and read zero because they are write-only (`wo`). -/
structure RegRow where
  base : Nat
  n1 : Nat
  s1 : Nat
  n2 : Nat
  s2 : Nat
  /-- bits of every field the table names; other bits are reserved (R14) -/
  named : Nat
  wr : Nat
  rc : Nat
  wo : Nat
  reset : Nat
  secure : Bool
  posted : Bool
  /-- 0: no half of a pair, 1: the _LO register, 2: the _HI register -/
  half : Nat
  deriving DecidableEq, Repr

/-- Whether the row covers a BAR0 offset. -/
def RegRow.covers (r : RegRow) (off : Nat) : Bool :=
  decide (r.base ≤ off) &&
    (let d := off - r.base
     let i := d / r.s1
     let e := d % r.s1
     decide (i < r.n1) && decide (e % r.s2 = 0) && decide (e / r.s2 < r.n2))

/-- Enable, borrowing, queue reset (03_hearth_matrix_engines.md, R122). -/
def R.HRT_CTRL (i : Nat) : Nat := 0x800000 + 0x1000 * i
def F.HRT_CTRL_EN (i : Nat) : RF := ⟨0x800000 + 0x1000 * i, 0, 1⟩
def F.HRT_CTRL_BORROW_EN (i : Nat) : RF := ⟨0x800000 + 0x1000 * i, 1, 1⟩
def F.HRT_CTRL_QRESET (i : Nat) : RF := ⟨0x800000 + 0x1000 * i, 2, 1⟩
/-- Activity state (03_hearth_matrix_engines.md, R122). -/
def R.HRT_STATUS (i : Nat) : Nat := 0x800004 + 0x1000 * i
def F.HRT_STATUS_IDLE (i : Nat) : RF := ⟨0x800004 + 0x1000 * i, 0, 1⟩
def F.HRT_STATUS_WAITING (i : Nat) : RF := ⟨0x800004 + 0x1000 * i, 1, 1⟩
def F.HRT_STATUS_FENCED (i : Nat) : RF := ⟨0x800004 + 0x1000 * i, 2, 1⟩
def F.HRT_STATUS_BORROWED (i : Nat) : RF := ⟨0x800004 + 0x1000 * i, 3, 1⟩
def F.HRT_STATUS_SUSPENDED (i : Nat) : RF := ⟨0x800004 + 0x1000 * i, 4, 1⟩
def F.HRT_STATUS_INBUBBLE (i : Nat) : RF := ⟨0x800004 + 0x1000 * i, 5, 1⟩
def F.HRT_STATUS_PREFETCH (i : Nat) : RF := ⟨0x800004 + 0x1000 * i, 8, 3⟩
/-- Event flags (03_hearth_matrix_engines.md, R122). -/
def R.HRT_EVENT (i : Nat) : Nat := 0x800008 + 0x1000 * i
def F.HRT_EVENT_PACE_MISS (i : Nat) : RF := ⟨0x800008 + 0x1000 * i, 0, 1⟩
def F.HRT_EVENT_SATURATED (i : Nat) : RF := ⟨0x800008 + 0x1000 * i, 1, 1⟩
def F.HRT_EVENT_RECOMPUTE (i : Nat) : RF := ⟨0x800008 + 0x1000 * i, 2, 1⟩
def F.HRT_EVENT_REJECT (i : Nat) : RF := ⟨0x800008 + 0x1000 * i, 3, 1⟩
def F.HRT_EVENT_MEMERR (i : Nat) : RF := ⟨0x800008 + 0x1000 * i, 4, 1⟩
def F.HRT_EVENT_ABORTED (i : Nat) : RF := ⟨0x800008 + 0x1000 * i, 5, 1⟩
/-- Event enables, same layout as HRT_EVENT. Enabled events are reported to the ERR block (03_hearth_matrix_engines.md, R122). -/
def R.HRT_EVENT_EN (i : Nat) : Nat := 0x80000C + 0x1000 * i
def F.HRT_EVENT_EN_PACE_MISS (i : Nat) : RF := ⟨0x80000C + 0x1000 * i, 0, 1⟩
def F.HRT_EVENT_EN_SATURATED (i : Nat) : RF := ⟨0x80000C + 0x1000 * i, 1, 1⟩
def F.HRT_EVENT_EN_RECOMPUTE (i : Nat) : RF := ⟨0x80000C + 0x1000 * i, 2, 1⟩
def F.HRT_EVENT_EN_REJECT (i : Nat) : RF := ⟨0x80000C + 0x1000 * i, 3, 1⟩
def F.HRT_EVENT_EN_MEMERR (i : Nat) : RF := ⟨0x80000C + 0x1000 * i, 4, 1⟩
def F.HRT_EVENT_EN_ABORTED (i : Nat) : RF := ⟨0x80000C + 0x1000 * i, 5, 1⟩
/-- Queue base [31:0]; bits [5:0] read zero (03_hearth_matrix_engines.md, R122). -/
def R.HRT_QBASE_LO (i : Nat) : Nat := 0x800010 + 0x1000 * i
def F.HRT_QBASE_LO_VALUE (i : Nat) : RF := ⟨0x800010 + 0x1000 * i, 6, 26⟩
/-- Queue base [63:32] (03_hearth_matrix_engines.md, R122). -/
def R.HRT_QBASE_HI (i : Nat) : Nat := 0x800014 + 0x1000 * i
def F.HRT_QBASE_HI_VALUE (i : Nat) : RF := ⟨0x800014 + 0x1000 * i, 0, 32⟩
/-- Ring entries (03_hearth_matrix_engines.md, R122). -/
def R.HRT_QSIZE (i : Nat) : Nat := 0x800018 + 0x1000 * i
def F.HRT_QSIZE_ENTRIES (i : Nat) : RF := ⟨0x800018 + 0x1000 * i, 0, 13⟩
/-- Next slot to fetch (03_hearth_matrix_engines.md, R122). -/
def R.HRT_QHEAD (i : Nat) : Nat := 0x80001C + 0x1000 * i
def F.HRT_QHEAD_HEAD (i : Nat) : RF := ⟨0x80001C + 0x1000 * i, 0, 12⟩
/-- Slot after the last valid command (03_hearth_matrix_engines.md, R122). -/
def R.HRT_QTAIL (i : Nat) : Nat := 0x800020 + 0x1000 * i
def F.HRT_QTAIL_TAIL (i : Nat) : RF := ⟨0x800020 + 0x1000 * i, 0, 12⟩
/-- Logical number from the sparing map (03_hearth_matrix_engines.md, R122). -/
def R.HRT_LOGICAL (i : Nat) : Nat := 0x800024 + 0x1000 * i
def F.HRT_LOGICAL_LNUM (i : Nat) : RF := ⟨0x800024 + 0x1000 * i, 0, 7⟩
def F.HRT_LOGICAL_ACTIVE (i : Nat) : RF := ⟨0x800024 + 0x1000 * i, 8, 1⟩
def F.HRT_LOGICAL_AWAY (i : Nat) : RF := ⟨0x800024 + 0x1000 * i, 9, 1⟩
/-- Slack measurement (R87) (03_hearth_matrix_engines.md, R122). -/
def R.HRT_PACE (i : Nat) : Nat := 0x800028 + 0x1000 * i
def F.HRT_PACE_NOW (i : Nat) : RF := ⟨0x800028 + 0x1000 * i, 0, 8⟩
def F.HRT_PACE_MIN (i : Nat) : RF := ⟨0x800028 + 0x1000 * i, 8, 8⟩
/-- Slack guard for the power manager (03_hearth_matrix_engines.md, R122). -/
def R.HRT_PACE_GUARD (i : Nat) : Nat := 0x80002C + 0x1000 * i
def F.HRT_PACE_GUARD_GUARD (i : Nat) : RF := ⟨0x80002C + 0x1000 * i, 0, 8⟩
/-- Waves issued [31:0]; a read latches the high word (03_hearth_matrix_engines.md, R122). -/
def R.HRT_WAVES_LO (i : Nat) : Nat := 0x800030 + 0x1000 * i
def F.HRT_WAVES_LO_VALUE (i : Nat) : RF := ⟨0x800030 + 0x1000 * i, 0, 32⟩
/-- Waves issued [63:32], from the shadow (03_hearth_matrix_engines.md, R122). -/
def R.HRT_WAVES_HI (i : Nat) : Nat := 0x800034 + 0x1000 * i
def F.HRT_WAVES_HI_VALUE (i : Nat) : RF := ⟨0x800034 + 0x1000 * i, 0, 32⟩
/-- Pace misses, saturating at 0xFFFF_FFFF (03_hearth_matrix_engines.md, R122). -/
def R.HRT_PACEMISS (i : Nat) : Nat := 0x800038 + 0x1000 * i
def F.HRT_PACEMISS_VALUE (i : Nat) : RF := ⟨0x800038 + 0x1000 * i, 0, 32⟩
/-- Recompute attempts, saturating (03_hearth_matrix_engines.md, R122). -/
def R.HRT_RECOMP (i : Nat) : Nat := 0x80003C + 0x1000 * i
def F.HRT_RECOMP_VALUE (i : Nat) : RF := ⟨0x80003C + 0x1000 * i, 0, 32⟩
/-- Saturated tiles, saturating (03_hearth_matrix_engines.md, R122). -/
def R.HRT_SATTILES (i : Nat) : Nat := 0x800040 + 0x1000 * i
def F.HRT_SATTILES_VALUE (i : Nat) : RF := ⟨0x800040 + 0x1000 * i, 0, 32⟩
/-- Engine cycles remaining in the present bubble, or 0; 0xFFFF_FFFF during a hold bubble (R101) (03_hearth_matrix_engines.md, R122). -/
def R.HRT_BUBBLE (i : Nat) : Nat := 0x800044 + 0x1000 * i
def F.HRT_BUBBLE_VALUE (i : Nat) : RF := ⟨0x800044 + 0x1000 * i, 0, 32⟩
/-- Sequence tag to abort (03_hearth_matrix_engines.md, R122). -/
def R.HRT_ABORT (i : Nat) : Nat := 0x800048 + 0x1000 * i
def F.HRT_ABORT_TAG (i : Nat) : RF := ⟨0x800048 + 0x1000 * i, 0, 32⟩
/-- Abort result (03_hearth_matrix_engines.md, R122). -/
def R.HRT_ABORT_RES (i : Nat) : Nat := 0x80004C + 0x1000 * i
def F.HRT_ABORT_RES_RESULT (i : Nat) : RF := ⟨0x80004C + 0x1000 * i, 0, 2⟩
/-- Side-ring reset (04_backward_pass_and_damper.md, R147). -/
def R.DMP_CTRL (i : Nat) : Nat := 0x900000 + 0x1000 * i
def F.DMP_CTRL_SRESET (i : Nat) : RF := ⟨0x900000 + 0x1000 * i, 0, 1⟩
/-- Load and tap state (04_backward_pass_and_damper.md, R147). -/
def R.DMP_STATUS (i : Nat) : Nat := 0x900004 + 0x1000 * i
def F.DMP_STATUS_BUSY (i : Nat) : RF := ⟨0x900004 + 0x1000 * i, 0, 1⟩
def F.DMP_STATUS_TAPFULL (i : Nat) : RF := ⟨0x900004 + 0x1000 * i, 1, 1⟩
def F.DMP_STATUS_SIDEREADY (i : Nat) : RF := ⟨0x900004 + 0x1000 * i, 2, 1⟩
/-- Event flags (04_backward_pass_and_damper.md, R147). -/
def R.DMP_EVENT (i : Nat) : Nat := 0x900008 + 0x1000 * i
def F.DMP_EVENT_SIDE_MISMATCH (i : Nat) : RF := ⟨0x900008 + 0x1000 * i, 0, 1⟩
def F.DMP_EVENT_TAP_STALL (i : Nat) : RF := ⟨0x900008 + 0x1000 * i, 1, 1⟩
def F.DMP_EVENT_PTAB_FAULT (i : Nat) : RF := ⟨0x900008 + 0x1000 * i, 2, 1⟩
def F.DMP_EVENT_PTAB_INVALID (i : Nat) : RF := ⟨0x900008 + 0x1000 * i, 3, 1⟩
def F.DMP_EVENT_SIDE_REJECT (i : Nat) : RF := ⟨0x900008 + 0x1000 * i, 4, 1⟩
/-- Event enables, same layout; enabled events are reported to the ERR block (04_backward_pass_and_damper.md, R147). -/
def R.DMP_EVENT_EN (i : Nat) : Nat := 0x90000C + 0x1000 * i
def F.DMP_EVENT_EN_SIDE_MISMATCH (i : Nat) : RF := ⟨0x90000C + 0x1000 * i, 0, 1⟩
def F.DMP_EVENT_EN_TAP_STALL (i : Nat) : RF := ⟨0x90000C + 0x1000 * i, 1, 1⟩
def F.DMP_EVENT_EN_PTAB_FAULT (i : Nat) : RF := ⟨0x90000C + 0x1000 * i, 2, 1⟩
def F.DMP_EVENT_EN_PTAB_INVALID (i : Nat) : RF := ⟨0x90000C + 0x1000 * i, 3, 1⟩
def F.DMP_EVENT_EN_SIDE_REJECT (i : Nat) : RF := ⟨0x90000C + 0x1000 * i, 4, 1⟩
/-- Side ring base [31:0]; bits [5:0] read zero (04_backward_pass_and_damper.md, R147). -/
def R.DMP_SBASE_LO (i : Nat) : Nat := 0x900010 + 0x1000 * i
def F.DMP_SBASE_LO_VALUE (i : Nat) : RF := ⟨0x900010 + 0x1000 * i, 6, 26⟩
/-- Side ring base [63:32] (04_backward_pass_and_damper.md, R147). -/
def R.DMP_SBASE_HI (i : Nat) : Nat := 0x900014 + 0x1000 * i
def F.DMP_SBASE_HI_VALUE (i : Nat) : RF := ⟨0x900014 + 0x1000 * i, 0, 32⟩
/-- Side ring entries (04_backward_pass_and_damper.md, R147). -/
def R.DMP_SSIZE (i : Nat) : Nat := 0x900018 + 0x1000 * i
def F.DMP_SSIZE_ENTRIES (i : Nat) : RF := ⟨0x900018 + 0x1000 * i, 0, 13⟩
/-- Next side entry (04_backward_pass_and_damper.md, R147). -/
def R.DMP_SHEAD (i : Nat) : Nat := 0x90001C + 0x1000 * i
def F.DMP_SHEAD_HEAD (i : Nat) : RF := ⟨0x90001C + 0x1000 * i, 0, 12⟩
/-- Table to load (04_backward_pass_and_damper.md, R147). -/
def R.DMP_PTSEL (i : Nat) : Nat := 0x900020 + 0x1000 * i
def F.DMP_PTSEL_TABLE (i : Nat) : RF := ⟨0x900020 + 0x1000 * i, 0, 4⟩
/-- Table image address [31:0]; bits [5:0] read zero (04_backward_pass_and_damper.md, R147). -/
def R.DMP_PTADDR_LO (i : Nat) : Nat := 0x900024 + 0x1000 * i
def F.DMP_PTADDR_LO_ADDR (i : Nat) : RF := ⟨0x900024 + 0x1000 * i, 6, 26⟩
/-- Table image address [63:32]; the write starts the load (04_backward_pass_and_damper.md, R147). -/
def R.DMP_PTADDR_HI (i : Nat) : Nat := 0x900028 + 0x1000 * i
def F.DMP_PTADDR_HI_ADDR (i : Nat) : RF := ⟨0x900028 + 0x1000 * i, 0, 32⟩
/-- Tap records sent, saturating at 0xFFFF_FFFF (04_backward_pass_and_damper.md, R147). -/
def R.DMP_TAPREC (i : Nat) : Nat := 0x90002C + 0x1000 * i
def F.DMP_TAPREC_VALUE (i : Nat) : RF := ⟨0x90002C + 0x1000 * i, 0, 32⟩
/-- Engine cycles withheld by tap stalls, saturating (04_backward_pass_and_damper.md, R147). -/
def R.DMP_TAPSTALL (i : Nat) : Nat := 0x900030 + 0x1000 * i
def F.DMP_TAPSTALL_VALUE (i : Nat) : RF := ⟨0x900030 + 0x1000 * i, 0, 32⟩
/-- Seeding and journal activity (05_training_numerics.md, R177). -/
def R.NUM_STATUS : Nat := 0x1500000
def F.NUM_STATUS_BUSY : RF := ⟨0x1500000, 0, 1⟩
def F.NUM_STATUS_SEEDED : RF := ⟨0x1500000, 1, 1⟩
/-- Event flags (05_training_numerics.md, R177). -/
def R.NUM_EVENT : Nat := 0x1500004
def F.NUM_EVENT_WATCH_BREACH : RF := ⟨0x1500004, 0, 1⟩
def F.NUM_EVENT_NF_MISMATCH : RF := ⟨0x1500004, 1, 1⟩
def F.NUM_EVENT_SATURATED : RF := ⟨0x1500004, 2, 1⟩
def F.NUM_EVENT_HIST_SAT : RF := ⟨0x1500004, 3, 1⟩
def F.NUM_EVENT_POLICY_REJECT : RF := ⟨0x1500004, 4, 1⟩
def F.NUM_EVENT_SEED_ZERO : RF := ⟨0x1500004, 5, 1⟩
/-- Event enables, same layout; enabled events are reported to the ERR block (05_training_numerics.md, R177). -/
def R.NUM_EVENT_EN : Nat := 0x1500008
def F.NUM_EVENT_EN_WATCH_BREACH : RF := ⟨0x1500008, 0, 1⟩
def F.NUM_EVENT_EN_NF_MISMATCH : RF := ⟨0x1500008, 1, 1⟩
def F.NUM_EVENT_EN_SATURATED : RF := ⟨0x1500008, 2, 1⟩
def F.NUM_EVENT_EN_HIST_SAT : RF := ⟨0x1500008, 3, 1⟩
def F.NUM_EVENT_EN_POLICY_REJECT : RF := ⟨0x1500008, 4, 1⟩
def F.NUM_EVENT_EN_SEED_ZERO : RF := ⟨0x1500008, 5, 1⟩
/-- Watch control (05_training_numerics.md, R177). -/
def R.NUM_WCTRL : Nat := 0x150000C
def F.NUM_WCTRL_EN : RF := ⟨0x150000C, 0, 1⟩
def F.NUM_WCTRL_LOGN : RF := ⟨0x150000C, 1, 5⟩
def F.NUM_WCTRL_HSUB : RF := ⟨0x150000C, 6, 4⟩
def F.NUM_WCTRL_PHASE : RF := ⟨0x150000C, 16, 16⟩
/-- Checked tiles, saturating at 0xFFFF_FFFF (05_training_numerics.md, R177). -/
def R.NUM_WSAMPLED : Nat := 0x1500010
def F.NUM_WSAMPLED_VALUE : RF := ⟨0x1500010, 0, 32⟩
/-- Not-checked tiles, saturating (05_training_numerics.md, R177). -/
def R.NUM_WNOTCHK : Nat := 0x1500014
def F.NUM_WNOTCHK_VALUE : RF := ⟨0x1500014, 0, 32⟩
/-- Breaching tiles, saturating (05_training_numerics.md, R177). -/
def R.NUM_WBREACH : Nat := 0x1500018
def F.NUM_WBREACH_VALUE : RF := ⟨0x1500018, 0, 32⟩
/-- NaN-mismatch elements, saturating (05_training_numerics.md, R177). -/
def R.NUM_WNFMIS : Nat := 0x150001C
def F.NUM_WNFMIS_VALUE : RF := ⟨0x150001C, 0, 32⟩
/-- Histogram set and kind shown in the bin window (05_training_numerics.md, R177). -/
def R.NUM_HSEL : Nat := 0x1500020
def F.NUM_HSEL_SET : RF := ⟨0x1500020, 0, 4⟩
def F.NUM_HSEL_KIND : RF := ⟨0x1500020, 4, 1⟩
/-- Job seed [31:0] (05_training_numerics.md, R177). -/
def R.NUM_SEED_LO : Nat := 0x1500024
def F.NUM_SEED_LO_VALUE : RF := ⟨0x1500024, 0, 32⟩
/-- Job seed [63:32]; the write starts seeding (05_training_numerics.md, R177). -/
def R.NUM_SEED_HI : Nat := 0x1500028
def F.NUM_SEED_HI_VALUE : RF := ⟨0x1500028, 0, 32⟩
/-- Journal base [31:0]; bits [5:0] read zero (05_training_numerics.md, R177). -/
def R.NUM_JBASE_LO : Nat := 0x150002C
def F.NUM_JBASE_LO_VALUE : RF := ⟨0x150002C, 6, 26⟩
/-- Journal base [63:32] (05_training_numerics.md, R177). -/
def R.NUM_JBASE_HI : Nat := 0x1500030
def F.NUM_JBASE_HI_VALUE : RF := ⟨0x1500030, 0, 32⟩
/-- Journal save and restore by firmware (05_training_numerics.md, R177). -/
def R.NUM_JCTRL : Nat := 0x1500034
def F.NUM_JCTRL_SAVE : RF := ⟨0x1500034, 0, 1⟩
def F.NUM_JCTRL_RESTORE : RF := ⟨0x1500034, 1, 1⟩
/-- Bin i, 0 to 63, of the selected histogram (05_training_numerics.md, R177). -/
def R.NUM_HBIN (i : Nat) : Nat := 0x1500400 + 0x4 * i
def F.NUM_HBIN_COUNT (i : Nat) : RF := ⟨0x1500400 + 0x4 * i, 0, 32⟩
/-- Policy control (05_training_numerics.md, R177). -/
def R.NUM_POL_CTRL (i : Nat) : Nat := 0x1501000 + 0x10 * i
def F.NUM_POL_CTRL_KIND (i : Nat) : RF := ⟨0x1501000 + 0x10 * i, 0, 2⟩
def F.NUM_POL_CTRL_STEP (i : Nat) : RF := ⟨0x1501000 + 0x10 * i, 2, 3⟩
def F.NUM_POL_CTRL_MAXATT (i : Nat) : RF := ⟨0x1501000 + 0x10 * i, 5, 2⟩
def F.NUM_POL_CTRL_HLEN (i : Nat) : RF := ⟨0x1501000 + 0x10 * i, 8, 4⟩
def F.NUM_POL_CTRL_MARGIN (i : Nat) : RF := ⟨0x1501000 + 0x10 * i, 12, 4⟩
def F.NUM_POL_CTRL_HSET (i : Nat) : RF := ⟨0x1501000 + 0x10 * i, 16, 4⟩
def F.NUM_POL_CTRL_HEN (i : Nat) : RF := ⟨0x1501000 + 0x10 * i, 20, 1⟩
def F.NUM_POL_CTRL_ERRX (i : Nat) : RF := ⟨0x1501000 + 0x10 * i, 21, 5⟩
/-- Initial scale and tile limit (05_training_numerics.md, R177). -/
def R.NUM_POL_INIT (i : Nat) : Nat := 0x1501004 + 0x10 * i
def F.NUM_POL_INIT_INIT (i : Nat) : RF := ⟨0x1501004 + 0x10 * i, 0, 8⟩
def F.NUM_POL_INIT_TILE_LIM (i : Nat) : RF := ⟨0x1501004 + 0x10 * i, 16, 16⟩
/-- Pending maximum, binary32 (05_training_numerics.md, R177). -/
def R.NUM_PST_PEND (i : Nat) : Nat := 0x1502000 + 0x10 * i
def F.NUM_PST_PEND_VALUE (i : Nat) : RF := ⟨0x1502000 + 0x10 * i, 0, 32⟩
/-- History maximum, binary32; 0 when absent (05_training_numerics.md, R177). -/
def R.NUM_PST_HMAX (i : Nat) : Nat := 0x1502004 + 0x10 * i
def F.NUM_PST_HMAX_VALUE (i : Nat) : RF := ⟨0x1502004 + 0x10 * i, 0, 32⟩
/-- Recompute and saturation counts (05_training_numerics.md, R177). -/
def R.NUM_PST_CNT (i : Nat) : Nat := 0x1502008 + 0x10 * i
def F.NUM_PST_CNT_RECOMP (i : Nat) : RF := ⟨0x1502008 + 0x10 * i, 0, 16⟩
def F.NUM_PST_CNT_SATT (i : Nat) : RF := ⟨0x1502008 + 0x10 * i, 16, 16⟩
/-- History entries held (05_training_numerics.md, R177). -/
def R.NUM_PST_HCNT (i : Nat) : Nat := 0x150200C + 0x10 * i
def F.NUM_PST_HCNT_HCOUNT (i : Nat) : RF := ⟨0x150200C + 0x10 * i, 0, 5⟩
/-- Enables (06_bellows_curvature_and_roots.md, R209). -/
def R.BLW_CTRL (i : Nat) : Nat := 0xA00000 + 0x10000 * i
def F.BLW_CTRL_EN (i : Nat) : RF := ⟨0xA00000 + 0x10000 * i, 0, 1⟩
def F.BLW_CTRL_ROOT_EN (i : Nat) : RF := ⟨0xA00000 + 0x10000 * i, 1, 1⟩
def F.BLW_CTRL_SVC_EN (i : Nat) : RF := ⟨0xA00000 + 0x10000 * i, 2, 1⟩
/-- Activity state (06_bellows_curvature_and_roots.md, R209). -/
def R.BLW_STATUS (i : Nat) : Nat := 0xA00004 + 0x10000 * i
def F.BLW_STATUS_BUSY (i : Nat) : RF := ⟨0xA00004 + 0x10000 * i, 0, 1⟩
def F.BLW_STATUS_IDLE (i : Nat) : RF := ⟨0xA00004 + 0x10000 * i, 1, 1⟩
def F.BLW_STATUS_SVCBUSY (i : Nat) : RF := ⟨0xA00004 + 0x10000 * i, 2, 1⟩
def F.BLW_STATUS_ROWSTALL (i : Nat) : RF := ⟨0xA00004 + 0x10000 * i, 3, 1⟩
def F.BLW_STATUS_HOLDING (i : Nat) : RF := ⟨0xA00004 + 0x10000 * i, 4, 1⟩
def F.BLW_STATUS_JOBS (i : Nat) : RF := ⟨0xA00004 + 0x10000 * i, 5, 11⟩
/-- Event flags (06_bellows_curvature_and_roots.md, R209). -/
def R.BLW_EVENT (i : Nat) : Nat := 0xA00008 + 0x10000 * i
def F.BLW_EVENT_TAP_DROP (i : Nat) : RF := ⟨0xA00008 + 0x10000 * i, 0, 1⟩
def F.BLW_EVENT_ROW_NONFIN (i : Nat) : RF := ⟨0xA00008 + 0x10000 * i, 1, 1⟩
def F.BLW_EVENT_FACTOR_SHORT (i : Nat) : RF := ⟨0xA00008 + 0x10000 * i, 2, 1⟩
def F.BLW_EVENT_FOLD_NONFIN (i : Nat) : RF := ⟨0xA00008 + 0x10000 * i, 3, 1⟩
def F.BLW_EVENT_ROOT_BREACH (i : Nat) : RF := ⟨0xA00008 + 0x10000 * i, 4, 1⟩
def F.BLW_EVENT_ROOT_RETRY (i : Nat) : RF := ⟨0xA00008 + 0x10000 * i, 5, 1⟩
def F.BLW_EVENT_ROOT_HOLD (i : Nat) : RF := ⟨0xA00008 + 0x10000 * i, 6, 1⟩
def F.BLW_EVENT_KILN_FALLBACK (i : Nat) : RF := ⟨0xA00008 + 0x10000 * i, 7, 1⟩
def F.BLW_EVENT_DESC_REJECT (i : Nat) : RF := ⟨0xA00008 + 0x10000 * i, 8, 1⟩
def F.BLW_EVENT_SVC_ERROR (i : Nat) : RF := ⟨0xA00008 + 0x10000 * i, 9, 1⟩
/-- Event enables, same layout; enabled events are reported to the ERR block (06_bellows_curvature_and_roots.md, R209). -/
def R.BLW_EVENT_EN (i : Nat) : Nat := 0xA0000C + 0x10000 * i
def F.BLW_EVENT_EN_TAP_DROP (i : Nat) : RF := ⟨0xA0000C + 0x10000 * i, 0, 1⟩
def F.BLW_EVENT_EN_ROW_NONFIN (i : Nat) : RF := ⟨0xA0000C + 0x10000 * i, 1, 1⟩
def F.BLW_EVENT_EN_FACTOR_SHORT (i : Nat) : RF := ⟨0xA0000C + 0x10000 * i, 2, 1⟩
def F.BLW_EVENT_EN_FOLD_NONFIN (i : Nat) : RF := ⟨0xA0000C + 0x10000 * i, 3, 1⟩
def F.BLW_EVENT_EN_ROOT_BREACH (i : Nat) : RF := ⟨0xA0000C + 0x10000 * i, 4, 1⟩
def F.BLW_EVENT_EN_ROOT_RETRY (i : Nat) : RF := ⟨0xA0000C + 0x10000 * i, 5, 1⟩
def F.BLW_EVENT_EN_ROOT_HOLD (i : Nat) : RF := ⟨0xA0000C + 0x10000 * i, 6, 1⟩
def F.BLW_EVENT_EN_KILN_FALLBACK (i : Nat) : RF := ⟨0xA0000C + 0x10000 * i, 7, 1⟩
def F.BLW_EVENT_EN_DESC_REJECT (i : Nat) : RF := ⟨0xA0000C + 0x10000 * i, 8, 1⟩
def F.BLW_EVENT_EN_SVC_ERROR (i : Nat) : RF := ⟨0xA0000C + 0x10000 * i, 9, 1⟩
/-- Descriptor table base [31:0]; bits [5:0] read zero (06_bellows_curvature_and_roots.md, R209). -/
def R.BLW_FDBASE_LO (i : Nat) : Nat := 0xA00010 + 0x10000 * i
def F.BLW_FDBASE_LO_VALUE (i : Nat) : RF := ⟨0xA00010 + 0x10000 * i, 6, 26⟩
/-- Descriptor table base [63:32] (06_bellows_curvature_and_roots.md, R209). -/
def R.BLW_FDBASE_HI (i : Nat) : Nat := 0xA00014 + 0x10000 * i
def F.BLW_FDBASE_HI_VALUE (i : Nat) : RF := ⟨0xA00014 + 0x10000 * i, 0, 32⟩
/-- Factor-entry table base [31:0]; bits [5:0] read zero (06_bellows_curvature_and_roots.md, R209). -/
def R.BLW_FEBASE_LO (i : Nat) : Nat := 0xA00018 + 0x10000 * i
def F.BLW_FEBASE_LO_VALUE (i : Nat) : RF := ⟨0xA00018 + 0x10000 * i, 6, 26⟩
/-- Factor-entry table base [63:32] (06_bellows_curvature_and_roots.md, R209). -/
def R.BLW_FEBASE_HI (i : Nat) : Nat := 0xA0001C + 0x10000 * i
def F.BLW_FEBASE_HI_VALUE (i : Nat) : RF := ⟨0xA0001C + 0x10000 * i, 0, 32⟩
/-- State record base [31:0]; bits [5:0] read zero (06_bellows_curvature_and_roots.md, R209). -/
def R.BLW_FSBASE_LO (i : Nat) : Nat := 0xA00020 + 0x10000 * i
def F.BLW_FSBASE_LO_VALUE (i : Nat) : RF := ⟨0xA00020 + 0x10000 * i, 6, 26⟩
/-- State record base [63:32] (06_bellows_curvature_and_roots.md, R209). -/
def R.BLW_FSBASE_HI (i : Nat) : Nat := 0xA00024 + 0x10000 * i
def F.BLW_FSBASE_HI_VALUE (i : Nat) : RF := ⟨0xA00024 + 0x10000 * i, 0, 32⟩
/-- Factors in use (06_bellows_curvature_and_roots.md, R209). -/
def R.BLW_NFACT (i : Nat) : Nat := 0xA00028 + 0x10000 * i
def F.BLW_NFACT_COUNT (i : Nat) : RF := ⟨0xA00028 + 0x10000 * i, 0, 11⟩
/-- Borrow set (06_bellows_curvature_and_roots.md, R209). -/
def R.BLW_BORROW (i : Nat) : Nat := 0xA0002C + 0x10000 * i
def F.BLW_BORROW_MASK (i : Nat) : RF := ⟨0xA0002C + 0x10000 * i, 0, 32⟩
/-- Release barrier (R198) (06_bellows_curvature_and_roots.md, R209). -/
def R.BLW_RELSPK (i : Nat) : Nat := 0xA00030 + 0x10000 * i
def F.BLW_RELSPK_COUNTER (i : Nat) : RF := ⟨0xA00030 + 0x10000 * i, 0, 12⟩
def F.BLW_RELSPK_VALID (i : Nat) : RF := ⟨0xA00030 + 0x10000 * i, 15, 1⟩
/-- Descriptor reload (06_bellows_curvature_and_roots.md, R209). -/
def R.BLW_RELOAD (i : Nat) : Nat := 0xA00034 + 0x10000 * i
def F.BLW_RELOAD_FACTOR (i : Nat) : RF := ⟨0xA00034 + 0x10000 * i, 0, 10⟩
def F.BLW_RELOAD_ALL (i : Nat) : RF := ⟨0xA00034 + 0x10000 * i, 31, 1⟩
/-- Service queue base [31:0]; bits [5:0] read zero (06_bellows_curvature_and_roots.md, R209). -/
def R.BLW_SQBASE_LO (i : Nat) : Nat := 0xA00038 + 0x10000 * i
def F.BLW_SQBASE_LO_VALUE (i : Nat) : RF := ⟨0xA00038 + 0x10000 * i, 6, 26⟩
/-- Service queue base [63:32] (06_bellows_curvature_and_roots.md, R209). -/
def R.BLW_SQBASE_HI (i : Nat) : Nat := 0xA0003C + 0x10000 * i
def F.BLW_SQBASE_HI_VALUE (i : Nat) : RF := ⟨0xA0003C + 0x10000 * i, 0, 32⟩
/-- Service queue entries (06_bellows_curvature_and_roots.md, R209). -/
def R.BLW_SQSIZE (i : Nat) : Nat := 0xA00040 + 0x10000 * i
def F.BLW_SQSIZE_ENTRIES (i : Nat) : RF := ⟨0xA00040 + 0x10000 * i, 0, 9⟩
/-- Next request (06_bellows_curvature_and_roots.md, R209). -/
def R.BLW_SQHEAD (i : Nat) : Nat := 0xA00044 + 0x10000 * i
def F.BLW_SQHEAD_HEAD (i : Nat) : RF := ⟨0xA00044 + 0x10000 * i, 0, 8⟩
/-- Slot after the last valid request (06_bellows_curvature_and_roots.md, R209). -/
def R.BLW_SQTAIL (i : Nat) : Nat := 0xA00048 + 0x10000 * i
def F.BLW_SQTAIL_TAIL (i : Nat) : RF := ⟨0xA00048 + 0x10000 * i, 0, 8⟩
/-- Dropped tap records, saturating at 0xFFFF_FFFF (06_bellows_curvature_and_roots.md, R209). -/
def R.BLW_TAPDROP (i : Nat) : Nat := 0xA0004C + 0x10000 * i
def F.BLW_TAPDROP_VALUE (i : Nat) : RF := ⟨0xA0004C + 0x10000 * i, 0, 32⟩
/-- Non-finite rows, saturating (06_bellows_curvature_and_roots.md, R209). -/
def R.BLW_NONFIN (i : Nat) : Nat := 0xA00050 + 0x10000 * i
def F.BLW_NONFIN_VALUE (i : Nat) : RF := ⟨0xA00050 + 0x10000 * i, 0, 32⟩
/-- Short factor-steps, saturating (06_bellows_curvature_and_roots.md, R209). -/
def R.BLW_SHORT (i : Nat) : Nat := 0xA00054 + 0x10000 * i
def F.BLW_SHORT_VALUE (i : Nat) : RF := ⟨0xA00054 + 0x10000 * i, 0, 32⟩
/-- Breaches, saturating (06_bellows_curvature_and_roots.md, R209). -/
def R.BLW_BREACH (i : Nat) : Nat := 0xA00058 + 0x10000 * i
def F.BLW_BREACH_VALUE (i : Nat) : RF := ⟨0xA00058 + 0x10000 * i, 0, 32⟩
/-- Engine cycles held, saturating (06_bellows_curvature_and_roots.md, R209). -/
def R.BLW_HOLD (i : Nat) : Nat := 0xA0005C + 0x10000 * i
def F.BLW_HOLD_VALUE (i : Nat) : RF := ⟨0xA0005C + 0x10000 * i, 0, 32⟩
/-- Last breach (06_bellows_curvature_and_roots.md, R209). -/
def R.BLW_LASTBR (i : Nat) : Nat := 0xA00060 + 0x10000 * i
def F.BLW_LASTBR_FACTOR (i : Nat) : RF := ⟨0xA00060 + 0x10000 * i, 0, 10⟩
def F.BLW_LASTBR_BLOCK (i : Nat) : RF := ⟨0xA00060 + 0x10000 * i, 10, 5⟩
def F.BLW_LASTBR_ITER (i : Nat) : RF := ⟨0xA00060 + 0x10000 * i, 15, 6⟩
def F.BLW_LASTBR_CAUSE (i : Nat) : RF := ⟨0xA00060 + 0x10000 * i, 21, 3⟩
def F.BLW_LASTBR_RETRY (i : Nat) : RF := ⟨0xA00060 + 0x10000 * i, 24, 1⟩
def F.BLW_LASTBR_VALID (i : Nat) : RF := ⟨0xA00060 + 0x10000 * i, 31, 1⟩
/-- Gram fma count [31:0]; the read latches the high word (06_bellows_curvature_and_roots.md, R209). -/
def R.BLW_FMA_LO (i : Nat) : Nat := 0xA00064 + 0x10000 * i
def F.BLW_FMA_LO_VALUE (i : Nat) : RF := ⟨0xA00064 + 0x10000 * i, 0, 32⟩
/-- Gram fma count [63:32], from the shadow (06_bellows_curvature_and_roots.md, R209). -/
def R.BLW_FMA_HI (i : Nat) : Nat := 0xA00068 + 0x10000 * i
def F.BLW_FMA_HI_VALUE (i : Nat) : RF := ⟨0xA00068 + 0x10000 * i, 0, 32⟩
/-- Barrier counter for kiln request completions (R244) (06_bellows_curvature_and_roots.md, R209). -/
def R.BLW_LAMSPK (i : Nat) : Nat := 0xA0006C + 0x10000 * i
def F.BLW_LAMSPK_COUNTER (i : Nat) : RF := ⟨0xA0006C + 0x10000 * i, 0, 12⟩
def F.BLW_LAMSPK_VALID (i : Nat) : RF := ⟨0xA0006C + 0x10000 * i, 15, 1⟩
/-- Enables, queue reset (07_kiln_solver.md, R249). -/
def R.KLN_CTRL (i : Nat) : Nat := 0xB00000 + 0x10000 * i
def F.KLN_CTRL_EN (i : Nat) : RF := ⟨0xB00000 + 0x10000 * i, 0, 1⟩
def F.KLN_CTRL_LAM_EN (i : Nat) : RF := ⟨0xB00000 + 0x10000 * i, 1, 1⟩
def F.KLN_CTRL_QRESET (i : Nat) : RF := ⟨0xB00000 + 0x10000 * i, 2, 1⟩
/-- Activity state (07_kiln_solver.md, R249). -/
def R.KLN_STATUS (i : Nat) : Nat := 0xB00004 + 0x10000 * i
def F.KLN_STATUS_IDLE (i : Nat) : RF := ⟨0xB00004 + 0x10000 * i, 0, 1⟩
def F.KLN_STATUS_WAITING (i : Nat) : RF := ⟨0xB00004 + 0x10000 * i, 1, 1⟩
def F.KLN_STATUS_LAMBUSY (i : Nat) : RF := ⟨0xB00004 + 0x10000 * i, 2, 1⟩
def F.KLN_STATUS_SOLVING (i : Nat) : RF := ⟨0xB00004 + 0x10000 * i, 3, 1⟩
def F.KLN_STATUS_FACTORING (i : Nat) : RF := ⟨0xB00004 + 0x10000 * i, 4, 1⟩
/-- Event flags (07_kiln_solver.md, R249). -/
def R.KLN_EVENT (i : Nat) : Nat := 0xB00008 + 0x10000 * i
def F.KLN_EVENT_NONCONV (i : Nat) : RF := ⟨0xB00008 + 0x10000 * i, 0, 1⟩
def F.KLN_EVENT_WARM_DISCARDED (i : Nat) : RF := ⟨0xB00008 + 0x10000 * i, 1, 1⟩
def F.KLN_EVENT_PREC_FALLBACK (i : Nat) : RF := ⟨0xB00008 + 0x10000 * i, 2, 1⟩
def F.KLN_EVENT_FACTOR_ABANDONED (i : Nat) : RF := ⟨0xB00008 + 0x10000 * i, 3, 1⟩
def F.KLN_EVENT_FACTOR_FAILED (i : Nat) : RF := ⟨0xB00008 + 0x10000 * i, 4, 1⟩
def F.KLN_EVENT_CERT_BREACH (i : Nat) : RF := ⟨0xB00008 + 0x10000 * i, 5, 1⟩
def F.KLN_EVENT_MATRIX_FAULT (i : Nat) : RF := ⟨0xB00008 + 0x10000 * i, 6, 1⟩
def F.KLN_EVENT_NAN_INPUT (i : Nat) : RF := ⟨0xB00008 + 0x10000 * i, 7, 1⟩
def F.KLN_EVENT_OUT_SAT (i : Nat) : RF := ⟨0xB00008 + 0x10000 * i, 8, 1⟩
def F.KLN_EVENT_REJECT (i : Nat) : RF := ⟨0xB00008 + 0x10000 * i, 9, 1⟩
def F.KLN_EVENT_MEMERR (i : Nat) : RF := ⟨0xB00008 + 0x10000 * i, 10, 1⟩
def F.KLN_EVENT_LAM_INVALID (i : Nat) : RF := ⟨0xB00008 + 0x10000 * i, 11, 1⟩
def F.KLN_EVENT_ABORTED (i : Nat) : RF := ⟨0xB00008 + 0x10000 * i, 12, 1⟩
/-- Event enables, same layout; enabled events are reported to the ERR block (07_kiln_solver.md, R249). -/
def R.KLN_EVENT_EN (i : Nat) : Nat := 0xB0000C + 0x10000 * i
def F.KLN_EVENT_EN_NONCONV (i : Nat) : RF := ⟨0xB0000C + 0x10000 * i, 0, 1⟩
def F.KLN_EVENT_EN_WARM_DISCARDED (i : Nat) : RF := ⟨0xB0000C + 0x10000 * i, 1, 1⟩
def F.KLN_EVENT_EN_PREC_FALLBACK (i : Nat) : RF := ⟨0xB0000C + 0x10000 * i, 2, 1⟩
def F.KLN_EVENT_EN_FACTOR_ABANDONED (i : Nat) : RF := ⟨0xB0000C + 0x10000 * i, 3, 1⟩
def F.KLN_EVENT_EN_FACTOR_FAILED (i : Nat) : RF := ⟨0xB0000C + 0x10000 * i, 4, 1⟩
def F.KLN_EVENT_EN_CERT_BREACH (i : Nat) : RF := ⟨0xB0000C + 0x10000 * i, 5, 1⟩
def F.KLN_EVENT_EN_MATRIX_FAULT (i : Nat) : RF := ⟨0xB0000C + 0x10000 * i, 6, 1⟩
def F.KLN_EVENT_EN_NAN_INPUT (i : Nat) : RF := ⟨0xB0000C + 0x10000 * i, 7, 1⟩
def F.KLN_EVENT_EN_OUT_SAT (i : Nat) : RF := ⟨0xB0000C + 0x10000 * i, 8, 1⟩
def F.KLN_EVENT_EN_REJECT (i : Nat) : RF := ⟨0xB0000C + 0x10000 * i, 9, 1⟩
def F.KLN_EVENT_EN_MEMERR (i : Nat) : RF := ⟨0xB0000C + 0x10000 * i, 10, 1⟩
def F.KLN_EVENT_EN_LAM_INVALID (i : Nat) : RF := ⟨0xB0000C + 0x10000 * i, 11, 1⟩
def F.KLN_EVENT_EN_ABORTED (i : Nat) : RF := ⟨0xB0000C + 0x10000 * i, 12, 1⟩
/-- Queue base [31:0]; bits [5:0] read zero (07_kiln_solver.md, R249). -/
def R.KLN_QBASE_LO (i : Nat) : Nat := 0xB00010 + 0x10000 * i
def F.KLN_QBASE_LO_VALUE (i : Nat) : RF := ⟨0xB00010 + 0x10000 * i, 6, 26⟩
/-- Queue base [63:32] (07_kiln_solver.md, R249). -/
def R.KLN_QBASE_HI (i : Nat) : Nat := 0xB00014 + 0x10000 * i
def F.KLN_QBASE_HI_VALUE (i : Nat) : RF := ⟨0xB00014 + 0x10000 * i, 0, 32⟩
/-- Ring entries (07_kiln_solver.md, R249). -/
def R.KLN_QSIZE (i : Nat) : Nat := 0xB00018 + 0x10000 * i
def F.KLN_QSIZE_ENTRIES (i : Nat) : RF := ⟨0xB00018 + 0x10000 * i, 0, 13⟩
/-- Next slot to fetch (07_kiln_solver.md, R249). -/
def R.KLN_QHEAD (i : Nat) : Nat := 0xB0001C + 0x10000 * i
def F.KLN_QHEAD_HEAD (i : Nat) : RF := ⟨0xB0001C + 0x10000 * i, 0, 12⟩
/-- Slot after the last valid command (07_kiln_solver.md, R249). -/
def R.KLN_QTAIL (i : Nat) : Nat := 0xB00020 + 0x10000 * i
def F.KLN_QTAIL_TAIL (i : Nat) : RF := ⟨0xB00020 + 0x10000 * i, 0, 12⟩
/-- Context records [31:0]; bits [7:0] read zero (07_kiln_solver.md, R249). -/
def R.KLN_CTXBASE_LO (i : Nat) : Nat := 0xB00024 + 0x10000 * i
def F.KLN_CTXBASE_LO_VALUE (i : Nat) : RF := ⟨0xB00024 + 0x10000 * i, 8, 24⟩
/-- Context records [63:32] (07_kiln_solver.md, R249). -/
def R.KLN_CTXBASE_HI (i : Nat) : Nat := 0xB00028 + 0x10000 * i
def F.KLN_CTXBASE_HI_VALUE (i : Nat) : RF := ⟨0xB00028 + 0x10000 * i, 0, 32⟩
/-- Contexts in use (07_kiln_solver.md, R249). -/
def R.KLN_NCTX (i : Nat) : Nat := 0xB0002C + 0x10000 * i
def F.KLN_NCTX_COUNT (i : Nat) : RF := ⟨0xB0002C + 0x10000 * i, 0, 7⟩
/-- Power iterations (07_kiln_solver.md, R249). -/
def R.KLN_LAMCFG (i : Nat) : Nat := 0xB00030 + 0x10000 * i
def F.KLN_LAMCFG_NPI (i : Nat) : RF := ⟨0xB00030 + 0x10000 * i, 0, 5⟩
/-- Eigenvalue request budget (07_kiln_solver.md, R249). -/
def R.KLN_LAMDL (i : Nat) : Nat := 0xB00034 + 0x10000 * i
def F.KLN_LAMDL_CYCLES (i : Nat) : RF := ⟨0xB00034 + 0x10000 * i, 0, 32⟩
/-- Strict-mode sticky flags (07_kiln_solver.md, R249). -/
def R.KLN_FPFLAGS (i : Nat) : Nat := 0xB00038 + 0x10000 * i
def F.KLN_FPFLAGS_INVALID (i : Nat) : RF := ⟨0xB00038 + 0x10000 * i, 0, 1⟩
def F.KLN_FPFLAGS_DIVZERO (i : Nat) : RF := ⟨0xB00038 + 0x10000 * i, 1, 1⟩
def F.KLN_FPFLAGS_OVERFLOW (i : Nat) : RF := ⟨0xB00038 + 0x10000 * i, 2, 1⟩
def F.KLN_FPFLAGS_UNDERFLOW (i : Nat) : RF := ⟨0xB00038 + 0x10000 * i, 3, 1⟩
def F.KLN_FPFLAGS_INEXACT (i : Nat) : RF := ⟨0xB00038 + 0x10000 * i, 4, 1⟩
/-- Unconverged solves, saturating at 0xFFFF_FFFF (07_kiln_solver.md, R249). -/
def R.KLN_NONCONV (i : Nat) : Nat := 0xB0003C + 0x10000 * i
def F.KLN_NONCONV_VALUE (i : Nat) : RF := ⟨0xB0003C + 0x10000 * i, 0, 32⟩
/-- Iterations [31:0]; the read latches the high word (07_kiln_solver.md, R249). -/
def R.KLN_ITERS_LO (i : Nat) : Nat := 0xB00040 + 0x10000 * i
def F.KLN_ITERS_LO_VALUE (i : Nat) : RF := ⟨0xB00040 + 0x10000 * i, 0, 32⟩
/-- Iterations [63:32], from the shadow (07_kiln_solver.md, R249). -/
def R.KLN_ITERS_HI (i : Nat) : Nat := 0xB00044 + 0x10000 * i
def F.KLN_ITERS_HI_VALUE (i : Nat) : RF := ⟨0xB00044 + 0x10000 * i, 0, 32⟩
/-- Sequence tag to abort (07_kiln_solver.md, R249). -/
def R.KLN_ABORT (i : Nat) : Nat := 0xB00048 + 0x10000 * i
def F.KLN_ABORT_TAG (i : Nat) : RF := ⟨0xB00048 + 0x10000 * i, 0, 32⟩
/-- Abort result (07_kiln_solver.md, R249). -/
def R.KLN_ABORT_RES (i : Nat) : Nat := 0xB0004C + 0x10000 * i
def F.KLN_ABORT_RES_RESULT (i : Nat) : RF := ⟨0xB0004C + 0x10000 * i, 0, 2⟩
/-- Enable, queue reset (08_firebox_parameter_update.md, R280). -/
def R.FBX_CTRL (i : Nat) : Nat := 0xC00000 + 0x10000 * i
def F.FBX_CTRL_EN (i : Nat) : RF := ⟨0xC00000 + 0x10000 * i, 0, 1⟩
def F.FBX_CTRL_QRESET (i : Nat) : RF := ⟨0xC00000 + 0x10000 * i, 1, 1⟩
/-- Activity state (08_firebox_parameter_update.md, R280). -/
def R.FBX_STATUS (i : Nat) : Nat := 0xC00004 + 0x10000 * i
def F.FBX_STATUS_IDLE (i : Nat) : RF := ⟨0xC00004 + 0x10000 * i, 0, 1⟩
def F.FBX_STATUS_WAITING (i : Nat) : RF := ⟨0xC00004 + 0x10000 * i, 1, 1⟩
def F.FBX_STATUS_RUNNING (i : Nat) : RF := ⟨0xC00004 + 0x10000 * i, 2, 3⟩
/-- Event flags (08_firebox_parameter_update.md, R280). -/
def R.FBX_EVENT (i : Nat) : Nat := 0xC00008 + 0x10000 * i
def F.FBX_EVENT_NFELEM (i : Nat) : RF := ⟨0xC00008 + 0x10000 * i, 0, 1⟩
def F.FBX_EVENT_STSAT (i : Nat) : RF := ⟨0xC00008 + 0x10000 * i, 1, 1⟩
def F.FBX_EVENT_PUBSAT (i : Nat) : RF := ⟨0xC00008 + 0x10000 * i, 2, 1⟩
def F.FBX_EVENT_DW_DISCARD (i : Nat) : RF := ⟨0xC00008 + 0x10000 * i, 3, 1⟩
def F.FBX_EVENT_REJECT (i : Nat) : RF := ⟨0xC00008 + 0x10000 * i, 4, 1⟩
def F.FBX_EVENT_MEMERR (i : Nat) : RF := ⟨0xC00008 + 0x10000 * i, 5, 1⟩
def F.FBX_EVENT_VETOED (i : Nat) : RF := ⟨0xC00008 + 0x10000 * i, 6, 1⟩
def F.FBX_EVENT_ABORTED (i : Nat) : RF := ⟨0xC00008 + 0x10000 * i, 7, 1⟩
/-- Event enables, same layout; enabled events are reported to the ERR block (08_firebox_parameter_update.md, R280). -/
def R.FBX_EVENT_EN (i : Nat) : Nat := 0xC0000C + 0x10000 * i
def F.FBX_EVENT_EN_NFELEM (i : Nat) : RF := ⟨0xC0000C + 0x10000 * i, 0, 1⟩
def F.FBX_EVENT_EN_STSAT (i : Nat) : RF := ⟨0xC0000C + 0x10000 * i, 1, 1⟩
def F.FBX_EVENT_EN_PUBSAT (i : Nat) : RF := ⟨0xC0000C + 0x10000 * i, 2, 1⟩
def F.FBX_EVENT_EN_DW_DISCARD (i : Nat) : RF := ⟨0xC0000C + 0x10000 * i, 3, 1⟩
def F.FBX_EVENT_EN_REJECT (i : Nat) : RF := ⟨0xC0000C + 0x10000 * i, 4, 1⟩
def F.FBX_EVENT_EN_MEMERR (i : Nat) : RF := ⟨0xC0000C + 0x10000 * i, 5, 1⟩
def F.FBX_EVENT_EN_VETOED (i : Nat) : RF := ⟨0xC0000C + 0x10000 * i, 6, 1⟩
def F.FBX_EVENT_EN_ABORTED (i : Nat) : RF := ⟨0xC0000C + 0x10000 * i, 7, 1⟩
/-- Queue base [31:0]; bits [5:0] read zero (08_firebox_parameter_update.md, R280). -/
def R.FBX_QBASE_LO (i : Nat) : Nat := 0xC00010 + 0x10000 * i
def F.FBX_QBASE_LO_VALUE (i : Nat) : RF := ⟨0xC00010 + 0x10000 * i, 6, 26⟩
/-- Queue base [63:32] (08_firebox_parameter_update.md, R280). -/
def R.FBX_QBASE_HI (i : Nat) : Nat := 0xC00014 + 0x10000 * i
def F.FBX_QBASE_HI_VALUE (i : Nat) : RF := ⟨0xC00014 + 0x10000 * i, 0, 32⟩
/-- Ring entries (08_firebox_parameter_update.md, R280). -/
def R.FBX_QSIZE (i : Nat) : Nat := 0xC00018 + 0x10000 * i
def F.FBX_QSIZE_ENTRIES (i : Nat) : RF := ⟨0xC00018 + 0x10000 * i, 0, 13⟩
/-- Next slot to fetch (08_firebox_parameter_update.md, R280). -/
def R.FBX_QHEAD (i : Nat) : Nat := 0xC0001C + 0x10000 * i
def F.FBX_QHEAD_HEAD (i : Nat) : RF := ⟨0xC0001C + 0x10000 * i, 0, 12⟩
/-- Slot after the last valid command (08_firebox_parameter_update.md, R280). -/
def R.FBX_QTAIL (i : Nat) : Nat := 0xC00020 + 0x10000 * i
def F.FBX_QTAIL_TAIL (i : Nat) : RF := ⟨0xC00020 + 0x10000 * i, 0, 12⟩
/-- Group table [31:0]; bits [6:0] read zero (08_firebox_parameter_update.md, R280). -/
def R.FBX_GTBASE_LO (i : Nat) : Nat := 0xC00024 + 0x10000 * i
def F.FBX_GTBASE_LO_VALUE (i : Nat) : RF := ⟨0xC00024 + 0x10000 * i, 7, 25⟩
/-- Group table [63:32] (08_firebox_parameter_update.md, R280). -/
def R.FBX_GTBASE_HI (i : Nat) : Nat := 0xC00028 + 0x10000 * i
def F.FBX_GTBASE_HI_VALUE (i : Nat) : RF := ⟨0xC00028 + 0x10000 * i, 0, 32⟩
/-- Group states [31:0]; bits [5:0] read zero (08_firebox_parameter_update.md, R280). -/
def R.FBX_GSBASE_LO (i : Nat) : Nat := 0xC0002C + 0x10000 * i
def F.FBX_GSBASE_LO_VALUE (i : Nat) : RF := ⟨0xC0002C + 0x10000 * i, 6, 26⟩
/-- Group states [63:32] (08_firebox_parameter_update.md, R280). -/
def R.FBX_GSBASE_HI (i : Nat) : Nat := 0xC00030 + 0x10000 * i
def F.FBX_GSBASE_HI_VALUE (i : Nat) : RF := ⟨0xC00030 + 0x10000 * i, 0, 32⟩
/-- Shard descriptors [31:0]; bits [5:0] read zero (08_firebox_parameter_update.md, R280). -/
def R.FBX_SHBASE_LO (i : Nat) : Nat := 0xC00034 + 0x10000 * i
def F.FBX_SHBASE_LO_VALUE (i : Nat) : RF := ⟨0xC00034 + 0x10000 * i, 6, 26⟩
/-- Shard descriptors [63:32] (08_firebox_parameter_update.md, R280). -/
def R.FBX_SHBASE_HI (i : Nat) : Nat := 0xC00038 + 0x10000 * i
def F.FBX_SHBASE_HI_VALUE (i : Nat) : RF := ⟨0xC00038 + 0x10000 * i, 0, 32⟩
/-- Shard state records [31:0]; bits [5:0] read zero (08_firebox_parameter_update.md, R280). -/
def R.FBX_SSBASE_LO (i : Nat) : Nat := 0xC0003C + 0x10000 * i
def F.FBX_SSBASE_LO_VALUE (i : Nat) : RF := ⟨0xC0003C + 0x10000 * i, 6, 26⟩
/-- Shard state records [63:32] (08_firebox_parameter_update.md, R280). -/
def R.FBX_SSBASE_HI (i : Nat) : Nat := 0xC00040 + 0x10000 * i
def F.FBX_SSBASE_HI_VALUE (i : Nat) : RF := ⟨0xC00040 + 0x10000 * i, 0, 32⟩
/-- Shards in the table (08_firebox_parameter_update.md, R280). -/
def R.FBX_NSHARD (i : Nat) : Nat := 0xC00044 + 0x10000 * i
def F.FBX_NSHARD_COUNT (i : Nat) : RF := ⟨0xC00044 + 0x10000 * i, 0, 13⟩
/-- Frozen shards skipped, saturating at 0xFFFF_FFFF (08_firebox_parameter_update.md, R280). -/
def R.FBX_SKIPS (i : Nat) : Nat := 0xC00048 + 0x10000 * i
def F.FBX_SKIPS_VALUE (i : Nat) : RF := ⟨0xC00048 + 0x10000 * i, 0, 32⟩
/-- Kept elements, saturating (08_firebox_parameter_update.md, R280). -/
def R.FBX_NFELEM (i : Nat) : Nat := 0xC0004C + 0x10000 * i
def F.FBX_NFELEM_VALUE (i : Nat) : RF := ⟨0xC0004C + 0x10000 * i, 0, 32⟩
/-- Discarded DWRITE commands, saturating (08_firebox_parameter_update.md, R280). -/
def R.FBX_DWDISC (i : Nat) : Nat := 0xC00050 + 0x10000 * i
def F.FBX_DWDISC_VALUE (i : Nat) : RF := ⟨0xC00050 + 0x10000 * i, 0, 32⟩
/-- Saturated state conversions, saturating (08_firebox_parameter_update.md, R280). -/
def R.FBX_STSAT (i : Nat) : Nat := 0xC00054 + 0x10000 * i
def F.FBX_STSAT_VALUE (i : Nat) : RF := ⟨0xC00054 + 0x10000 * i, 0, 32⟩
/-- Elements updated [31:0]; the read latches the high word (08_firebox_parameter_update.md, R280). -/
def R.FBX_ELEMS_LO (i : Nat) : Nat := 0xC00058 + 0x10000 * i
def F.FBX_ELEMS_LO_VALUE (i : Nat) : RF := ⟨0xC00058 + 0x10000 * i, 0, 32⟩
/-- Elements updated [63:32], from the shadow (08_firebox_parameter_update.md, R280). -/
def R.FBX_ELEMS_HI (i : Nat) : Nat := 0xC0005C + 0x10000 * i
def F.FBX_ELEMS_HI_VALUE (i : Nat) : RF := ⟨0xC0005C + 0x10000 * i, 0, 32⟩
/-- Sequence tag to abort (08_firebox_parameter_update.md, R280). -/
def R.FBX_ABORT (i : Nat) : Nat := 0xC00060 + 0x10000 * i
def F.FBX_ABORT_TAG (i : Nat) : RF := ⟨0xC00060 + 0x10000 * i, 0, 32⟩
/-- Abort result (08_firebox_parameter_update.md, R280). -/
def R.FBX_ABORT_RES (i : Nat) : Nat := 0xC00064 + 0x10000 * i
def F.FBX_ABORT_RES_RESULT (i : Nat) : RF := ⟨0xC00064 + 0x10000 * i, 0, 2⟩
/-- Run, halt, reset (09_cricket_cores_and_vector_extensions.md, R322). -/
def R.CRK_CTRL (i : Nat) : Nat := 0xD00000 + 0x1000 * i
def F.CRK_CTRL_RUN (i : Nat) : RF := ⟨0xD00000 + 0x1000 * i, 0, 1⟩
def F.CRK_CTRL_CRESET (i : Nat) : RF := ⟨0xD00000 + 0x1000 * i, 1, 1⟩
def F.CRK_CTRL_SSTEP (i : Nat) : RF := ⟨0xD00000 + 0x1000 * i, 2, 1⟩
/-- State (09_cricket_cores_and_vector_extensions.md, R322). -/
def R.CRK_STATUS (i : Nat) : Nat := 0xD00004 + 0x1000 * i
def F.CRK_STATUS_HALTED (i : Nat) : RF := ⟨0xD00004 + 0x1000 * i, 0, 1⟩
def F.CRK_STATUS_WAITING (i : Nat) : RF := ⟨0xD00004 + 0x1000 * i, 1, 1⟩
def F.CRK_STATUS_LEVEL (i : Nat) : RF := ⟨0xD00004 + 0x1000 * i, 2, 2⟩
def F.CRK_STATUS_IN_TRAP (i : Nat) : RF := ⟨0xD00004 + 0x1000 * i, 4, 1⟩
def F.CRK_STATUS_STORES (i : Nat) : RF := ⟨0xD00004 + 0x1000 * i, 5, 1⟩
/-- Event flags (09_cricket_cores_and_vector_extensions.md, R322). -/
def R.CRK_EVENT (i : Nat) : Nat := 0xD00008 + 0x1000 * i
def F.CRK_EVENT_TRAP (i : Nat) : RF := ⟨0xD00008 + 0x1000 * i, 0, 1⟩
def F.CRK_EVENT_DOUBLE (i : Nat) : RF := ⟨0xD00008 + 0x1000 * i, 1, 1⟩
def F.CRK_EVENT_MCHECK (i : Nat) : RF := ⟨0xD00008 + 0x1000 * i, 2, 1⟩
def F.CRK_EVENT_ACCESS (i : Nat) : RF := ⟨0xD00008 + 0x1000 * i, 3, 1⟩
def F.CRK_EVENT_HALTED (i : Nat) : RF := ⟨0xD00008 + 0x1000 * i, 4, 1⟩
def F.CRK_EVENT_MAIL (i : Nat) : RF := ⟨0xD00008 + 0x1000 * i, 5, 1⟩
/-- Event enables, same layout; enabled events are reported to the ERR block (09_cricket_cores_and_vector_extensions.md, R322). -/
def R.CRK_EVENT_EN (i : Nat) : Nat := 0xD0000C + 0x1000 * i
def F.CRK_EVENT_EN_TRAP (i : Nat) : RF := ⟨0xD0000C + 0x1000 * i, 0, 1⟩
def F.CRK_EVENT_EN_DOUBLE (i : Nat) : RF := ⟨0xD0000C + 0x1000 * i, 1, 1⟩
def F.CRK_EVENT_EN_MCHECK (i : Nat) : RF := ⟨0xD0000C + 0x1000 * i, 2, 1⟩
def F.CRK_EVENT_EN_ACCESS (i : Nat) : RF := ⟨0xD0000C + 0x1000 * i, 3, 1⟩
def F.CRK_EVENT_EN_HALTED (i : Nat) : RF := ⟨0xD0000C + 0x1000 * i, 4, 1⟩
def F.CRK_EVENT_EN_MAIL (i : Nat) : RF := ⟨0xD0000C + 0x1000 * i, 5, 1⟩
/-- Entry address [31:0]; bits [1:0] read zero (09_cricket_cores_and_vector_extensions.md, R322). -/
def R.CRK_ENTRY_LO (i : Nat) : Nat := 0xD00010 + 0x1000 * i
def F.CRK_ENTRY_LO_VALUE (i : Nat) : RF := ⟨0xD00010 + 0x1000 * i, 2, 30⟩
/-- Entry address [63:32]; the write completes the 64-bit value (09_cricket_cores_and_vector_extensions.md, R322). -/
def R.CRK_ENTRY_HI (i : Nat) : Nat := 0xD00014 + 0x1000 * i
def F.CRK_ENTRY_HI_VALUE (i : Nat) : RF := ⟨0xD00014 + 0x1000 * i, 0, 32⟩
/-- Present instruction address [31:0]; the read latches the high word (09_cricket_cores_and_vector_extensions.md, R322). -/
def R.CRK_PC_LO (i : Nat) : Nat := 0xD00018 + 0x1000 * i
def F.CRK_PC_LO_VALUE (i : Nat) : RF := ⟨0xD00018 + 0x1000 * i, 0, 32⟩
/-- Present instruction address [63:32], from the shadow (09_cricket_cores_and_vector_extensions.md, R322). -/
def R.CRK_PC_HI (i : Nat) : Nat := 0xD0001C + 0x1000 * i
def F.CRK_PC_HI_VALUE (i : Nat) : RF := ⟨0xD0001C + 0x1000 * i, 0, 32⟩
/-- Last trap cause and level (09_cricket_cores_and_vector_extensions.md, R322). -/
def R.CRK_TRAP (i : Nat) : Nat := 0xD00020 + 0x1000 * i
def F.CRK_TRAP_CAUSE (i : Nat) : RF := ⟨0xD00020 + 0x1000 * i, 0, 8⟩
def F.CRK_TRAP_LEVEL (i : Nat) : RF := ⟨0xD00020 + 0x1000 * i, 8, 2⟩
def F.CRK_TRAP_VALID (i : Nat) : RF := ⟨0xD00020 + 0x1000 * i, 31, 1⟩
/-- Copy of FPSTAT (09_cricket_cores_and_vector_extensions.md, R322). -/
def R.CRK_FPFLAGS (i : Nat) : Nat := 0xD00024 + 0x1000 * i
def F.CRK_FPFLAGS_FLAGS (i : Nat) : RF := ⟨0xD00024 + 0x1000 * i, 0, 5⟩
/-- Cricket cycles [31:0]; the read latches the high word (09_cricket_cores_and_vector_extensions.md, R322). -/
def R.CRK_CYCLES_LO (i : Nat) : Nat := 0xD00028 + 0x1000 * i
def F.CRK_CYCLES_LO_VALUE (i : Nat) : RF := ⟨0xD00028 + 0x1000 * i, 0, 32⟩
/-- Cricket cycles [63:32], from the shadow (09_cricket_cores_and_vector_extensions.md, R322). -/
def R.CRK_CYCLES_HI (i : Nat) : Nat := 0xD0002C + 0x1000 * i
def F.CRK_CYCLES_HI_VALUE (i : Nat) : RF := ⟨0xD0002C + 0x1000 * i, 0, 32⟩
/-- Logical number (09_cricket_cores_and_vector_extensions.md, R322). -/
def R.CRK_LOGICAL (i : Nat) : Nat := 0xD00030 + 0x1000 * i
def F.CRK_LOGICAL_LNUM (i : Nat) : RF := ⟨0xD00030 + 0x1000 * i, 0, 6⟩
def F.CRK_LOGICAL_ACTIVE (i : Nat) : RF := ⟨0xD00030 + 0x1000 * i, 8, 1⟩
/-- Message word for the cricket (09_cricket_cores_and_vector_extensions.md, R322). -/
def R.CRK_MAILBOX (i : Nat) : Nat := 0xD00034 + 0x1000 * i
def F.CRK_MAILBOX_MSG (i : Nat) : RF := ⟨0xD00034 + 0x1000 * i, 0, 32⟩
/-- Physical worker of logical cricket L, 0 to 63 (09_cricket_cores_and_vector_extensions.md, R323). -/
def R.CRK_MAP (i : Nat) : Nat := 0xD80000 + 0x4 * i
def F.CRK_MAP_PHYS (i : Nat) : RF := ⟨0xD80000 + 0x4 * i, 0, 7⟩
def F.CRK_MAP_VALID (i : Nat) : RF := ⟨0xD80000 + 0x4 * i, 31, 1⟩
/-- Good-worker mask, C00 to C31 (09_cricket_cores_and_vector_extensions.md, R323). -/
def R.CRK_GOOD_LO : Nat := 0xD80100
def F.CRK_GOOD_LO_MASK : RF := ⟨0xD80100, 0, 32⟩
/-- Good-worker mask, C32 to C63; the write completes the 64-bit value of the pair (09_cricket_cores_and_vector_extensions.md, R323). -/
def R.CRK_GOOD_HI : Nat := 0xD80104
def F.CRK_GOOD_HI_MASK : RF := ⟨0xD80104, 0, 32⟩
/-- Good-worker mask, C64 to C67 (09_cricket_cores_and_vector_extensions.md, R323). -/
def R.CRK_GOOD_EXT : Nat := 0xD80108
def F.CRK_GOOD_EXT_MASK : RF := ⟨0xD80108, 0, 4⟩
/-- Weevil and sparing enables (10_comb_hbm_and_far_memory.md, R364). -/
def R.CMB_CTRL : Nat := 0xE00000
def F.CMB_CTRL_WV_EN : RF := ⟨0xE00000, 0, 1⟩
def F.CMB_CTRL_SPARE_EN : RF := ⟨0xE00000, 1, 1⟩
/-- Activity state (10_comb_hbm_and_far_memory.md, R364). -/
def R.CMB_STATUS : Nat := 0xE00004
def F.CMB_STATUS_RETIRING : RF := ⟨0xE00004, 0, 1⟩
def F.CMB_STATUS_SPARING : RF := ⟨0xE00004, 1, 1⟩
/-- Event flags (10_comb_hbm_and_far_memory.md, R364). -/
def R.CMB_EVENT : Nat := 0xE00008
def F.CMB_EVENT_CE : RF := ⟨0xE00008, 0, 1⟩
def F.CMB_EVENT_UE : RF := ⟨0xE00008, 1, 1⟩
def F.CMB_EVENT_ROW_SPARED : RF := ⟨0xE00008, 2, 1⟩
def F.CMB_EVENT_SPARES_OUT : RF := ⟨0xE00008, 3, 1⟩
def F.CMB_EVENT_PAIR_RETIRED : RF := ⟨0xE00008, 4, 1⟩
def F.CMB_EVENT_CAPACITY_LOST : RF := ⟨0xE00008, 5, 1⟩
def F.CMB_EVENT_RGN_BAD : RF := ⟨0xE00008, 6, 1⟩
def F.CMB_EVENT_PHYS_ACCESS : RF := ⟨0xE00008, 7, 1⟩
def F.CMB_EVENT_LATENT : RF := ⟨0xE00008, 8, 1⟩
def F.CMB_EVENT_DECODE : RF := ⟨0xE00008, 9, 1⟩
/-- Event enables, same layout; enabled events are reported to the ERR block (10_comb_hbm_and_far_memory.md, R364). -/
def R.CMB_EVENT_EN : Nat := 0xE0000C
def F.CMB_EVENT_EN_CE : RF := ⟨0xE0000C, 0, 1⟩
def F.CMB_EVENT_EN_UE : RF := ⟨0xE0000C, 1, 1⟩
def F.CMB_EVENT_EN_ROW_SPARED : RF := ⟨0xE0000C, 2, 1⟩
def F.CMB_EVENT_EN_SPARES_OUT : RF := ⟨0xE0000C, 3, 1⟩
def F.CMB_EVENT_EN_PAIR_RETIRED : RF := ⟨0xE0000C, 4, 1⟩
def F.CMB_EVENT_EN_CAPACITY_LOST : RF := ⟨0xE0000C, 5, 1⟩
def F.CMB_EVENT_EN_RGN_BAD : RF := ⟨0xE0000C, 6, 1⟩
def F.CMB_EVENT_EN_PHYS_ACCESS : RF := ⟨0xE0000C, 7, 1⟩
def F.CMB_EVENT_EN_LATENT : RF := ⟨0xE0000C, 8, 1⟩
def F.CMB_EVENT_EN_DECODE : RF := ⟨0xE0000C, 9, 1⟩
/-- Weevil interval (10_comb_hbm_and_far_memory.md, R364). -/
def R.CMB_WVINT : Nat := 0xE00010
def F.CMB_WVINT_CYCLES : RF := ⟨0xE00010, 0, 16⟩
/-- Row repair threshold (10_comb_hbm_and_far_memory.md, R364). -/
def R.CMB_CETHR : Nat := 0xE00014
def F.CMB_CETHR_COUNT : RF := ⟨0xE00014, 0, 4⟩
/-- Correctable errors, saturating at 0xFFFF_FFFF (10_comb_hbm_and_far_memory.md, R364). -/
def R.CMB_CE : Nat := 0xE00018
def F.CMB_CE_VALUE : RF := ⟨0xE00018, 0, 32⟩
/-- Uncorrectable errors, saturating (10_comb_hbm_and_far_memory.md, R364). -/
def R.CMB_UE : Nat := 0xE0001C
def F.CMB_UE_VALUE : RF := ⟨0xE0001C, 0, 32⟩
/-- Last error address [31:0]; the read latches the high word (10_comb_hbm_and_far_memory.md, R364). -/
def R.CMB_LASTERR_LO : Nat := 0xE00020
def F.CMB_LASTERR_LO_ADDR : RF := ⟨0xE00020, 0, 32⟩
/-- Address [47:32] and kind, from the shadow (10_comb_hbm_and_far_memory.md, R364). -/
def R.CMB_LASTERR_HI : Nat := 0xE00024
def F.CMB_LASTERR_HI_ADDR : RF := ⟨0xE00024, 0, 16⟩
def F.CMB_LASTERR_HI_KIND : RF := ⟨0xE00024, 16, 4⟩
def F.CMB_LASTERR_HI_VALID : RF := ⟨0xE00024, 31, 1⟩
/-- Logical slices mapped (10_comb_hbm_and_far_memory.md, R364). -/
def R.CMB_NPAIR : Nat := 0xE00028
def F.CMB_NPAIR_COUNT : RF := ⟨0xE00028, 0, 8⟩
/-- Pair-to-pair copy for retirement (R348) (10_comb_hbm_and_far_memory.md, R364). -/
def R.CMB_RETIRE : Nat := 0xE0002C
def F.CMB_RETIRE_FROM : RF := ⟨0xE0002C, 0, 8⟩
def F.CMB_RETIRE_TO : RF := ⟨0xE0002C, 8, 8⟩
def F.CMB_RETIRE_GO : RF := ⟨0xE0002C, 31, 1⟩
/-- Region i: valid, attribute, base [31:16] (10_comb_hbm_and_far_memory.md, R364). -/
def R.CMB_RGN_BASE_LO (i : Nat) : Nat := 0xE00100 + 0x10 * i
def F.CMB_RGN_BASE_LO_VALID (i : Nat) : RF := ⟨0xE00100 + 0x10 * i, 0, 1⟩
def F.CMB_RGN_BASE_LO_DET (i : Nat) : RF := ⟨0xE00100 + 0x10 * i, 1, 1⟩
def F.CMB_RGN_BASE_LO_BASE (i : Nat) : RF := ⟨0xE00100 + 0x10 * i, 16, 16⟩
/-- Base [47:32]; the write completes and applies the 64-bit value (10_comb_hbm_and_far_memory.md, R364). -/
def R.CMB_RGN_BASE_HI (i : Nat) : Nat := 0xE00104 + 0x10 * i
def F.CMB_RGN_BASE_HI_BASE (i : Nat) : RF := ⟨0xE00104 + 0x10 * i, 0, 16⟩
/-- Limit [31:16] (10_comb_hbm_and_far_memory.md, R364). -/
def R.CMB_RGN_LIM_LO (i : Nat) : Nat := 0xE00108 + 0x10 * i
def F.CMB_RGN_LIM_LO_LIMIT (i : Nat) : RF := ⟨0xE00108 + 0x10 * i, 16, 16⟩
/-- Limit [47:32]; the write completes and applies the 64-bit value (10_comb_hbm_and_far_memory.md, R364). -/
def R.CMB_RGN_LIM_HI (i : Nat) : Nat := 0xE0010C + 0x10 * i
def F.CMB_RGN_LIM_HI_LIMIT (i : Nat) : RF := ⟨0xE0010C + 0x10 * i, 0, 16⟩
/-- Physical pair of logical hearth L (10_comb_hbm_and_far_memory.md, R364). -/
def R.CMB_PAIRMAP (i : Nat) : Nat := 0xE00800 + 0x4 * i
def F.CMB_PAIRMAP_PHYS (i : Nat) : RF := ⟨0xE00800 + 0x4 * i, 0, 8⟩
def F.CMB_PAIRMAP_VALID (i : Nat) : RF := ⟨0xE00800 + 0x4 * i, 31, 1⟩
/-- Slice state (10_comb_hbm_and_far_memory.md, R364). -/
def R.CMB_S_STATE (i : Nat) : Nat := 0xE10000 + 0x100 * i
def F.CMB_S_STATE_STATE (i : Nat) : RF := ⟨0xE10000 + 0x100 * i, 0, 2⟩
/-- Correctable errors of the slice, saturating (10_comb_hbm_and_far_memory.md, R364). -/
def R.CMB_S_CE (i : Nat) : Nat := 0xE10004 + 0x100 * i
def F.CMB_S_CE_VALUE (i : Nat) : RF := ⟨0xE10004 + 0x100 * i, 0, 32⟩
/-- Uncorrectable errors of the slice, saturating (10_comb_hbm_and_far_memory.md, R364). -/
def R.CMB_S_UE (i : Nat) : Nat := 0xE10008 + 0x100 * i
def F.CMB_S_UE_VALUE (i : Nat) : RF := ⟨0xE10008 + 0x100 * i, 0, 32⟩
/-- Spare rows used (10_comb_hbm_and_far_memory.md, R364). -/
def R.CMB_S_SPARED (i : Nat) : Nat := 0xE1000C + 0x100 * i
def F.CMB_S_SPARED_TOTAL (i : Nat) : RF := ⟨0xE1000C + 0x100 * i, 0, 16⟩
def F.CMB_S_SPARED_MAXSUB (i : Nat) : RF := ⟨0xE1000C + 0x100 * i, 16, 6⟩
/-- Line the walker reads next (10_comb_hbm_and_far_memory.md, R364). -/
def R.CMB_S_WVPOS (i : Nat) : Nat := 0xE10010 + 0x100 * i
def F.CMB_S_WVPOS_LINE (i : Nat) : RF := ⟨0xE10010 + 0x100 * i, 0, 22⟩
/-- Weevil, retrain and repair enables (10_comb_hbm_and_far_memory.md, R366). -/
def R.HBM_CTRL : Nat := 0x1000000
def F.HBM_CTRL_WV_EN : RF := ⟨0x1000000, 0, 1⟩
def F.HBM_CTRL_RT_EN : RF := ⟨0x1000000, 1, 1⟩
def F.HBM_CTRL_PPR_EN : RF := ⟨0x1000000, 2, 1⟩
/-- Interleave state (10_comb_hbm_and_far_memory.md, R366). -/
def R.HBM_STATUS : Nat := 0x1000004
def F.HBM_STATUS_BUSY : RF := ⟨0x1000004, 0, 1⟩
def F.HBM_STATUS_NCH : RF := ⟨0x1000004, 1, 9⟩
/-- Event flags (10_comb_hbm_and_far_memory.md, R366). -/
def R.HBM_EVENT : Nat := 0x1000008
def F.HBM_EVENT_CE : RF := ⟨0x1000008, 0, 1⟩
def F.HBM_EVENT_UE : RF := ⟨0x1000008, 1, 1⟩
def F.HBM_EVENT_PAR_RETRY : RF := ⟨0x1000008, 2, 1⟩
def F.HBM_EVENT_RT_EMERG : RF := ⟨0x1000008, 3, 1⟩
def F.HBM_EVENT_RT_PLANNED : RF := ⟨0x1000008, 4, 1⟩
def F.HBM_EVENT_CH_LOST : RF := ⟨0x1000008, 5, 1⟩
def F.HBM_EVENT_PPR_DONE : RF := ⟨0x1000008, 6, 1⟩
def F.HBM_EVENT_PPR_EXH : RF := ⟨0x1000008, 7, 1⟩
def F.HBM_EVENT_LATENT : RF := ⟨0x1000008, 8, 1⟩
def F.HBM_EVENT_DECODE : RF := ⟨0x1000008, 9, 1⟩
/-- Event enables, same layout; enabled events are reported to the ERR block (10_comb_hbm_and_far_memory.md, R366). -/
def R.HBM_EVENT_EN : Nat := 0x100000C
def F.HBM_EVENT_EN_CE : RF := ⟨0x100000C, 0, 1⟩
def F.HBM_EVENT_EN_UE : RF := ⟨0x100000C, 1, 1⟩
def F.HBM_EVENT_EN_PAR_RETRY : RF := ⟨0x100000C, 2, 1⟩
def F.HBM_EVENT_EN_RT_EMERG : RF := ⟨0x100000C, 3, 1⟩
def F.HBM_EVENT_EN_RT_PLANNED : RF := ⟨0x100000C, 4, 1⟩
def F.HBM_EVENT_EN_CH_LOST : RF := ⟨0x100000C, 5, 1⟩
def F.HBM_EVENT_EN_PPR_DONE : RF := ⟨0x100000C, 6, 1⟩
def F.HBM_EVENT_EN_PPR_EXH : RF := ⟨0x100000C, 7, 1⟩
def F.HBM_EVENT_EN_LATENT : RF := ⟨0x100000C, 8, 1⟩
def F.HBM_EVENT_EN_DECODE : RF := ⟨0x100000C, 9, 1⟩
/-- Channels in the interleave (10_comb_hbm_and_far_memory.md, R366). -/
def R.HBM_ILV : Nat := 0x1000010
def F.HBM_ILV_N : RF := ⟨0x1000010, 0, 9⟩
/-- Weevil interval (10_comb_hbm_and_far_memory.md, R366). -/
def R.HBM_WVINT : Nat := 0x1000014
def F.HBM_WVINT_CYCLES : RF := ⟨0x1000014, 0, 16⟩
/-- Parity retries (10_comb_hbm_and_far_memory.md, R366). -/
def R.HBM_RETRY : Nat := 0x1000018
def F.HBM_RETRY_COUNT : RF := ⟨0x1000018, 0, 3⟩
/-- Retrain control (10_comb_hbm_and_far_memory.md, R366). -/
def R.HBM_RTCTRL : Nat := 0x100001C
def F.HBM_RTCTRL_PERSTEP : RF := ⟨0x100001C, 0, 4⟩
def F.HBM_RTCTRL_TDELTA : RF := ⟨0x100001C, 4, 8⟩
def F.HBM_RTCTRL_PARTHR : RF := ⟨0x100001C, 12, 8⟩
/-- Planned retrain interval (10_comb_hbm_and_far_memory.md, R366). -/
def R.HBM_RTPER : Nat := 0x1000020
def F.HBM_RTPER_MS : RF := ⟨0x1000020, 0, 16⟩
/-- Row repair threshold (10_comb_hbm_and_far_memory.md, R366). -/
def R.HBM_CETHR : Nat := 0x1000024
def F.HBM_CETHR_COUNT : RF := ⟨0x1000024, 0, 4⟩
/-- As CMB_LASTERR_LO (10_comb_hbm_and_far_memory.md, R366). -/
def R.HBM_LASTERR_LO : Nat := 0x1000030
def F.HBM_LASTERR_LO_ADDR : RF := ⟨0x1000030, 0, 32⟩
/-- As CMB_LASTERR_HI (10_comb_hbm_and_far_memory.md, R366). -/
def R.HBM_LASTERR_HI : Nat := 0x1000034
def F.HBM_LASTERR_HI_ADDR : RF := ⟨0x1000034, 0, 16⟩
def F.HBM_LASTERR_HI_KIND : RF := ⟨0x1000034, 16, 4⟩
def F.HBM_LASTERR_HI_VALID : RF := ⟨0x1000034, 31, 1⟩
/-- Bit b: channel 32i + b is outside the interleave, whether LOST or EXCLUDED (R352) (10_comb_hbm_and_far_memory.md, R366). -/
def R.HBM_LOST (i : Nat) : Nat := 0x1000040 + 0x4 * i
def F.HBM_LOST_VALUE (i : Nat) : RF := ⟨0x1000040 + 0x4 * i, 0, 32⟩
/-- Channel state (10_comb_hbm_and_far_memory.md, R366). -/
def R.HBM_C_STATE (i : Nat) : Nat := 0x1010000 + 0x40 * i
def F.HBM_C_STATE_STATE (i : Nat) : RF := ⟨0x1010000 + 0x40 * i, 0, 3⟩
def F.HBM_C_STATE_PPR_EXH (i : Nat) : RF := ⟨0x1010000 + 0x40 * i, 3, 1⟩
/-- Correctable errors, saturating at 0xFFFF_FFFF (10_comb_hbm_and_far_memory.md, R366). -/
def R.HBM_C_CE (i : Nat) : Nat := 0x1010004 + 0x40 * i
def F.HBM_C_CE_VALUE (i : Nat) : RF := ⟨0x1010004 + 0x40 * i, 0, 32⟩
/-- Uncorrectable errors, saturating (10_comb_hbm_and_far_memory.md, R366). -/
def R.HBM_C_UE (i : Nat) : Nat := 0x1010008 + 0x40 * i
def F.HBM_C_UE_VALUE (i : Nat) : RF := ⟨0x1010008 + 0x40 * i, 0, 32⟩
/-- Parity retries, saturating (10_comb_hbm_and_far_memory.md, R366). -/
def R.HBM_C_PAR (i : Nat) : Nat := 0x101000C + 0x40 * i
def F.HBM_C_PAR_VALUE (i : Nat) : RF := ⟨0x101000C + 0x40 * i, 0, 32⟩
/-- Retrains (10_comb_hbm_and_far_memory.md, R366). -/
def R.HBM_C_RETRAIN (i : Nat) : Nat := 0x1010010 + 0x40 * i
def F.HBM_C_RETRAIN_EMERG (i : Nat) : RF := ⟨0x1010010 + 0x40 * i, 0, 16⟩
def F.HBM_C_RETRAIN_PLANNED (i : Nat) : RF := ⟨0x1010010 + 0x40 * i, 16, 16⟩
/-- Engine cycles held, saturating (10_comb_hbm_and_far_memory.md, R366). -/
def R.HBM_C_HOLD (i : Nat) : Nat := 0x1010014 + 0x40 * i
def F.HBM_C_HOLD_VALUE (i : Nat) : RF := ⟨0x1010014 + 0x40 * i, 0, 32⟩
/-- Repairs (10_comb_hbm_and_far_memory.md, R366). -/
def R.HBM_C_PPR (i : Nat) : Nat := 0x1010018 + 0x40 * i
def F.HBM_C_PPR_SOFT (i : Nat) : RF := ⟨0x1010018 + 0x40 * i, 0, 8⟩
def F.HBM_C_PPR_PENDING (i : Nat) : RF := ⟨0x1010018 + 0x40 * i, 8, 8⟩
/-- Start and abort (10_comb_hbm_and_far_memory.md, R367). -/
def R.MGN_CTRL : Nat := 0x1700000
def F.MGN_CTRL_START : RF := ⟨0x1700000, 0, 1⟩
def F.MGN_CTRL_ABORT : RF := ⟨0x1700000, 1, 1⟩
/-- Run state; reads only (10_comb_hbm_and_far_memory.md, R367). -/
def R.MGN_STATUS : Nat := 0x1700004
def F.MGN_STATUS_BUSY : RF := ⟨0x1700004, 0, 1⟩
def F.MGN_STATUS_REFUSED : RF := ⟨0x1700004, 1, 1⟩
def F.MGN_STATUS_DONE : RF := ⟨0x1700004, 2, 1⟩
/-- Target (10_comb_hbm_and_far_memory.md, R367). -/
def R.MGN_TARGET : Nat := 0x1700008
def F.MGN_TARGET_KIND : RF := ⟨0x1700008, 0, 1⟩
def F.MGN_TARGET_INDEX : RF := ⟨0x1700008, 8, 8⟩
/-- Axis and offset (10_comb_hbm_and_far_memory.md, R367). -/
def R.MGN_AXIS : Nat := 0x170000C
def F.MGN_AXIS_AXIS : RF := ⟨0x170000C, 0, 3⟩
def F.MGN_AXIS_OFFSET : RF := ⟨0x170000C, 8, 8⟩
/-- Test region offset [31:0]; bits [5:0] read zero (10_comb_hbm_and_far_memory.md, R367). -/
def R.MGN_ADDR_LO : Nat := 0x1700010
def F.MGN_ADDR_LO_VALUE : RF := ⟨0x1700010, 6, 26⟩
/-- Test region offset [63:32]; the write completes the 64-bit value (10_comb_hbm_and_far_memory.md, R367). -/
def R.MGN_ADDR_HI : Nat := 0x1700014
def F.MGN_ADDR_HI_VALUE : RF := ⟨0x1700014, 0, 32⟩
/-- Test lines (10_comb_hbm_and_far_memory.md, R367). -/
def R.MGN_LEN : Nat := 0x1700018
def F.MGN_LEN_LINES : RF := ⟨0x1700018, 0, 21⟩
/-- Pattern passes (10_comb_hbm_and_far_memory.md, R367). -/
def R.MGN_PASSES : Nat := 0x170001C
def F.MGN_PASSES_COUNT : RF := ⟨0x170001C, 0, 8⟩
/-- Correctable reads of the last run; reads only (10_comb_hbm_and_far_memory.md, R367). -/
def R.MGN_CE : Nat := 0x1700020
def F.MGN_CE_COUNT : RF := ⟨0x1700020, 0, 32⟩
/-- Uncorrectable reads of the last run; reads only (10_comb_hbm_and_far_memory.md, R367). -/
def R.MGN_UE : Nat := 0x1700024
def F.MGN_UE_COUNT : RF := ⟨0x1700024, 0, 32⟩
/-- Injector enables (11_flue_fabric.md, R402). -/
def R.FLU_CTRL : Nat := 0x1300000
def F.FLU_CTRL_INJ_EN : RF := ⟨0x1300000, 0, 4⟩
/-- Table and switch state (11_flue_fabric.md, R402). -/
def R.FLU_STATUS : Nat := 0x1300004
def F.FLU_STATUS_BUSY : RF := ⟨0x1300004, 0, 1⟩
def F.FLU_STATUS_INACT_VALID : RF := ⟨0x1300004, 1, 1⟩
def F.FLU_STATUS_MARKLOCK : RF := ⟨0x1300004, 2, 1⟩
def F.FLU_STATUS_MARKPORT : RF := ⟨0x1300004, 3, 4⟩
/-- Event flags (11_flue_fabric.md, R402). -/
def R.FLU_EVENT : Nat := 0x1300008
def F.FLU_EVENT_SCHED_FAULT : RF := ⟨0x1300008, 0, 1⟩
def F.FLU_EVENT_TBL_BAD : RF := ⟨0x1300008, 1, 1⟩
def F.FLU_EVENT_SWITCHED : RF := ⟨0x1300008, 2, 1⟩
def F.FLU_EVENT_EMERG : RF := ⟨0x1300008, 3, 1⟩
def F.FLU_EVENT_LINK_LOSS : RF := ⟨0x1300008, 4, 1⟩
def F.FLU_EVENT_SEQ_FAULT : RF := ⟨0x1300008, 5, 1⟩
def F.FLU_EVENT_MISROUTE : RF := ⟨0x1300008, 6, 1⟩
/-- Event enables, same layout; enabled events are reported to the ERR block (11_flue_fabric.md, R402). -/
def R.FLU_EVENT_EN : Nat := 0x130000C
def F.FLU_EVENT_EN_SCHED_FAULT : RF := ⟨0x130000C, 0, 1⟩
def F.FLU_EVENT_EN_TBL_BAD : RF := ⟨0x130000C, 1, 1⟩
def F.FLU_EVENT_EN_SWITCHED : RF := ⟨0x130000C, 2, 1⟩
def F.FLU_EVENT_EN_EMERG : RF := ⟨0x130000C, 3, 1⟩
def F.FLU_EVENT_EN_LINK_LOSS : RF := ⟨0x130000C, 4, 1⟩
def F.FLU_EVENT_EN_SEQ_FAULT : RF := ⟨0x130000C, 5, 1⟩
def F.FLU_EVENT_EN_MISROUTE : RF := ⟨0x130000C, 6, 1⟩
/-- Fabric number and torus sizes (11_flue_fabric.md, R402). -/
def R.FLU_COORD : Nat := 0x1300010
def F.FLU_COORD_FNUM : RF := ⟨0x1300010, 0, 14⟩
def F.FLU_COORD_SX : RF := ⟨0x1300010, 14, 5⟩
def F.FLU_COORD_SY : RF := ⟨0x1300010, 19, 5⟩
def F.FLU_COORD_SZ : RF := ⟨0x1300010, 24, 5⟩
/-- Frame number [31:0]; the read latches the high word (11_flue_fabric.md, R402). -/
def R.FLU_FRAME_LO : Nat := 0x1300014
def F.FLU_FRAME_LO_VALUE : RF := ⟨0x1300014, 0, 32⟩
/-- Frame number [47:32], from the shadow (11_flue_fabric.md, R402). -/
def R.FLU_FRAME_HI : Nat := 0x1300018
def F.FLU_FRAME_HI_VALUE : RF := ⟨0x1300018, 0, 16⟩
/-- Epoch and planned switch (11_flue_fabric.md, R402). -/
def R.FLU_EPOCH : Nat := 0x130001C
def F.FLU_EPOCH_CUR : RF := ⟨0x130001C, 0, 1⟩
def F.FLU_EPOCH_PEND : RF := ⟨0x130001C, 1, 1⟩
def F.FLU_EPOCH_OLDFREE : RF := ⟨0x130001C, 2, 1⟩
def F.FLU_EPOCH_SWSTEP : RF := ⟨0x130001C, 8, 24⟩
/-- Emergency switch (11_flue_fabric.md, R402). -/
def R.FLU_EMERG : Nat := 0x1300020
def F.FLU_EMERG_LEAD : RF := ⟨0x1300020, 0, 8⟩
def F.FLU_EMERG_GO : RF := ⟨0x1300020, 8, 1⟩
def F.FLU_EMERG_PORT : RF := ⟨0x1300020, 12, 4⟩
/-- Table image [31:0]; bits [5:0] read zero (11_flue_fabric.md, R402). -/
def R.FLU_TBL_ADDR_LO : Nat := 0x1300024
def F.FLU_TBL_ADDR_LO_VALUE : RF := ⟨0x1300024, 6, 26⟩
/-- Table image [63:32]; the write completes the 64-bit value (11_flue_fabric.md, R402). -/
def R.FLU_TBL_ADDR_HI : Nat := 0x1300028
def F.FLU_TBL_ADDR_HI_VALUE : RF := ⟨0x1300028, 0, 32⟩
/-- Route-table commit (11_flue_fabric.md, R402). -/
def R.FLU_TBL_COMMIT : Nat := 0x130002C
def F.FLU_TBL_COMMIT_GO : RF := ⟨0x130002C, 0, 1⟩
/-- Fenced ports (11_flue_fabric.md, R402). -/
def R.FLU_FENCE : Nat := 0x1300030
def F.FLU_FENCE_PORTS : RF := ⟨0x1300030, 0, 12⟩
/-- Receive descriptors [31:0]; bits [5:0] read zero (11_flue_fabric.md, R402). -/
def R.FLU_RDBASE_LO : Nat := 0x1300034
def F.FLU_RDBASE_LO_VALUE : RF := ⟨0x1300034, 6, 26⟩
/-- Receive descriptors [63:32] (11_flue_fabric.md, R402). -/
def R.FLU_RDBASE_HI : Nat := 0x1300038
def F.FLU_RDBASE_HI_VALUE : RF := ⟨0x1300038, 0, 32⟩
/-- Hold limit (R377) (11_flue_fabric.md, R402). -/
def R.FLU_HOLDLIM : Nat := 0x130003C
def F.FLU_HOLDLIM_US : RF := ⟨0x130003C, 0, 32⟩
/-- Schedule faults, saturating at 0xFFFF_FFFF (11_flue_fabric.md, R402). -/
def R.FLU_SCHEDFLT : Nat := 0x1300040
def F.FLU_SCHEDFLT_VALUE : RF := ⟨0x1300040, 0, 32⟩
/-- Old-epoch discards, saturating (11_flue_fabric.md, R402). -/
def R.FLU_OLDDROP : Nat := 0x1300044
def F.FLU_OLDDROP_VALUE : RF := ⟨0x1300044, 0, 32⟩
/-- Default laser life (11_flue_fabric.md, R402). -/
def R.FLU_DEFLIFE : Nat := 0x1300048
def F.FLU_DEFLIFE_HOURS : RF := ⟨0x1300048, 0, 32⟩
/-- Send queue of quadrant q [31:0]; bits [5:0] read zero (11_flue_fabric.md, R402). -/
def R.FLU_SQBASE_LO (i : Nat) : Nat := 0x1300100 + 0x10 * i
def F.FLU_SQBASE_LO_VALUE (i : Nat) : RF := ⟨0x1300100 + 0x10 * i, 6, 26⟩
/-- [63:32] (11_flue_fabric.md, R402). -/
def R.FLU_SQBASE_HI (i : Nat) : Nat := 0x1300104 + 0x10 * i
def F.FLU_SQBASE_HI_VALUE (i : Nat) : RF := ⟨0x1300104 + 0x10 * i, 0, 32⟩
/-- Entries, 16 to 4,096 (11_flue_fabric.md, R402). -/
def R.FLU_SQSIZE (i : Nat) : Nat := 0x1300108 + 0x10 * i
def F.FLU_SQSIZE_VALUE (i : Nat) : RF := ⟨0x1300108 + 0x10 * i, 0, 13⟩
/-- Doorbell; the head reads at 0x140 + 4q (11_flue_fabric.md, R402). -/
def R.FLU_SQTAIL (i : Nat) : Nat := 0x130010C + 0x10 * i
def F.FLU_SQTAIL_VALUE (i : Nat) : RF := ⟨0x130010C + 0x10 * i, 0, 12⟩
/-- Send queue head (named in the FLU_SQTAIL row) (11_flue_fabric.md, R402). -/
def R.FLU_SQHEAD (i : Nat) : Nat := 0x1300140 + 0x4 * i
def F.FLU_SQHEAD_VALUE (i : Nat) : RF := ⟨0x1300140 + 0x4 * i, 0, 12⟩
/-- Mode and training (11_flue_fabric.md, R403). -/
def R.FLU_P_CTRL (i : Nat) : Nat := 0x1310000 + 0x1000 * i
def F.FLU_P_CTRL_MODE (i : Nat) : RF := ⟨0x1310000 + 0x1000 * i, 0, 2⟩
def F.FLU_P_CTRL_RETRAIN (i : Nat) : RF := ⟨0x1310000 + 0x1000 * i, 2, 1⟩
/-- State and lanes (11_flue_fabric.md, R403). -/
def R.FLU_P_STATUS (i : Nat) : Nat := 0x1310004 + 0x1000 * i
def F.FLU_P_STATUS_STATE (i : Nat) : RF := ⟨0x1310004 + 0x1000 * i, 0, 3⟩
def F.FLU_P_STATUS_LANES (i : Nat) : RF := ⟨0x1310004 + 0x1000 * i, 3, 9⟩
/-- Event flags (11_flue_fabric.md, R403). -/
def R.FLU_P_EVENT (i : Nat) : Nat := 0x1310008 + 0x1000 * i
def F.FLU_P_EVENT_LANE_LOST (i : Nat) : RF := ⟨0x1310008 + 0x1000 * i, 0, 1⟩
def F.FLU_P_EVENT_DEAD (i : Nat) : RF := ⟨0x1310008 + 0x1000 * i, 1, 1⟩
def F.FLU_P_EVENT_LIFE_WARN (i : Nat) : RF := ⟨0x1310008 + 0x1000 * i, 2, 1⟩
def F.FLU_P_EVENT_LIFE_OUT (i : Nat) : RF := ⟨0x1310008 + 0x1000 * i, 3, 1⟩
def F.FLU_P_EVENT_CART_CHANGE (i : Nat) : RF := ⟨0x1310008 + 0x1000 * i, 4, 1⟩
/-- Corrected symbols per ms that retire a lane (11_flue_fabric.md, R403). -/
def R.FLU_P_LANETHR (i : Nat) : Nat := 0x131000C + 0x1000 * i
def F.FLU_P_LANETHR_COUNT (i : Nat) : RF := ⟨0x131000C + 0x1000 * i, 0, 16⟩
/-- Dead-port time (11_flue_fabric.md, R403). -/
def R.FLU_P_DEADT (i : Nat) : Nat := 0x1310010 + 0x1000 * i
def F.FLU_P_DEADT_NS (i : Nat) : RF := ⟨0x1310010 + 0x1000 * i, 0, 16⟩
/-- Round trip and hop delay (11_flue_fabric.md, R403). -/
def R.FLU_P_RTT (i : Nat) : Nat := 0x1310014 + 0x1000 * i
def F.FLU_P_RTT_RTT (i : Nat) : RF := ⟨0x1310014 + 0x1000 * i, 0, 8⟩
def F.FLU_P_RTT_HOPSLOTS (i : Nat) : RF := ⟨0x1310014 + 0x1000 * i, 8, 8⟩
/-- Corrected symbols, saturating at 0xFFFF_FFFF (11_flue_fabric.md, R403). -/
def R.FLU_P_FECCORR (i : Nat) : Nat := 0x1310018 + 0x1000 * i
def F.FLU_P_FECCORR_VALUE (i : Nat) : RF := ⟨0x1310018 + 0x1000 * i, 0, 32⟩
/-- Uncorrectable codewords, saturating (11_flue_fabric.md, R403). -/
def R.FLU_P_FECUNC (i : Nat) : Nat := 0x131001C + 0x1000 * i
def F.FLU_P_FECUNC_VALUE (i : Nat) : RF := ⟨0x131001C + 0x1000 * i, 0, 32⟩
/-- Replayed packets, saturating (11_flue_fabric.md, R403). -/
def R.FLU_P_REPLAY (i : Nat) : Nat := 0x1310020 + 0x1000 * i
def F.FLU_P_REPLAY_VALUE (i : Nat) : RF := ⟨0x1310020 + 0x1000 * i, 0, 32⟩
/-- Holds, saturating (11_flue_fabric.md, R403). -/
def R.FLU_P_SCHEDFLT (i : Nat) : Nat := 0x1310024 + 0x1000 * i
def F.FLU_P_SCHEDFLT_VALUE (i : Nat) : RF := ⟨0x1310024 + 0x1000 * i, 0, 32⟩
/-- Discards at a dead or fenced port, saturating (11_flue_fabric.md, R403). -/
def R.FLU_P_FENCEDROP (i : Nat) : Nat := 0x1310028 + 0x1000 * i
def F.FLU_P_FENCEDROP_VALUE (i : Nat) : RF := ⟨0x1310028 + 0x1000 * i, 0, 32⟩
/-- Cartridge state (11_flue_fabric.md, R403). -/
def R.FLU_P_CART (i : Nat) : Nat := 0x131002C + 0x1000 * i
def F.FLU_P_CART_KIND (i : Nat) : RF := ⟨0x131002C + 0x1000 * i, 0, 2⟩
def F.FLU_P_CART_UNVERIFIED (i : Nat) : RF := ⟨0x131002C + 0x1000 * i, 2, 1⟩
def F.FLU_P_CART_LIFEPCT (i : Nat) : RF := ⟨0x131002C + 0x1000 * i, 3, 7⟩
/-- Enable, queue reset (12_collectives_and_job_mapping.md, R436). -/
def R.COL_CTRL (i : Nat) : Nat := 0x1400000 + 0x10000 * i
def F.COL_CTRL_EN (i : Nat) : RF := ⟨0x1400000 + 0x10000 * i, 0, 1⟩
def F.COL_CTRL_QRESET (i : Nat) : RF := ⟨0x1400000 + 0x10000 * i, 1, 1⟩
/-- Activity state (12_collectives_and_job_mapping.md, R436). -/
def R.COL_STATUS (i : Nat) : Nat := 0x1400004 + 0x10000 * i
def F.COL_STATUS_IDLE (i : Nat) : RF := ⟨0x1400004 + 0x10000 * i, 0, 1⟩
def F.COL_STATUS_WAITING (i : Nat) : RF := ⟨0x1400004 + 0x10000 * i, 1, 1⟩
def F.COL_STATUS_RUNNING (i : Nat) : RF := ⟨0x1400004 + 0x10000 * i, 2, 3⟩
def F.COL_STATUS_RESTARTING (i : Nat) : RF := ⟨0x1400004 + 0x10000 * i, 5, 1⟩
/-- Event flags (12_collectives_and_job_mapping.md, R436). -/
def R.COL_EVENT (i : Nat) : Nat := 0x1400008 + 0x10000 * i
def F.COL_EVENT_VETO (i : Nat) : RF := ⟨0x1400008 + 0x10000 * i, 0, 1⟩
def F.COL_EVENT_INCOMPLETE (i : Nat) : RF := ⟨0x1400008 + 0x10000 * i, 1, 1⟩
def F.COL_EVENT_RAISE (i : Nat) : RF := ⟨0x1400008 + 0x10000 * i, 2, 1⟩
def F.COL_EVENT_REJECT (i : Nat) : RF := ⟨0x1400008 + 0x10000 * i, 3, 1⟩
def F.COL_EVENT_MEMERR (i : Nat) : RF := ⟨0x1400008 + 0x10000 * i, 4, 1⟩
def F.COL_EVENT_RESTART (i : Nat) : RF := ⟨0x1400008 + 0x10000 * i, 5, 1⟩
def F.COL_EVENT_OUT_SAT (i : Nat) : RF := ⟨0x1400008 + 0x10000 * i, 6, 1⟩
def F.COL_EVENT_ABORTED (i : Nat) : RF := ⟨0x1400008 + 0x10000 * i, 7, 1⟩
/-- Event enables, same layout; enabled events are reported to the ERR block (12_collectives_and_job_mapping.md, R436). -/
def R.COL_EVENT_EN (i : Nat) : Nat := 0x140000C + 0x10000 * i
def F.COL_EVENT_EN_VETO (i : Nat) : RF := ⟨0x140000C + 0x10000 * i, 0, 1⟩
def F.COL_EVENT_EN_INCOMPLETE (i : Nat) : RF := ⟨0x140000C + 0x10000 * i, 1, 1⟩
def F.COL_EVENT_EN_RAISE (i : Nat) : RF := ⟨0x140000C + 0x10000 * i, 2, 1⟩
def F.COL_EVENT_EN_REJECT (i : Nat) : RF := ⟨0x140000C + 0x10000 * i, 3, 1⟩
def F.COL_EVENT_EN_MEMERR (i : Nat) : RF := ⟨0x140000C + 0x10000 * i, 4, 1⟩
def F.COL_EVENT_EN_RESTART (i : Nat) : RF := ⟨0x140000C + 0x10000 * i, 5, 1⟩
def F.COL_EVENT_EN_OUT_SAT (i : Nat) : RF := ⟨0x140000C + 0x10000 * i, 6, 1⟩
def F.COL_EVENT_EN_ABORTED (i : Nat) : RF := ⟨0x140000C + 0x10000 * i, 7, 1⟩
/-- Queue base [31:0]; bits [6:0] read zero (12_collectives_and_job_mapping.md, R436). -/
def R.COL_QBASE_LO (i : Nat) : Nat := 0x1400010 + 0x10000 * i
def F.COL_QBASE_LO_VALUE (i : Nat) : RF := ⟨0x1400010 + 0x10000 * i, 7, 25⟩
/-- Queue base [63:32] (12_collectives_and_job_mapping.md, R436). -/
def R.COL_QBASE_HI (i : Nat) : Nat := 0x1400014 + 0x10000 * i
def F.COL_QBASE_HI_VALUE (i : Nat) : RF := ⟨0x1400014 + 0x10000 * i, 0, 32⟩
/-- Ring entries (12_collectives_and_job_mapping.md, R436). -/
def R.COL_QSIZE (i : Nat) : Nat := 0x1400018 + 0x10000 * i
def F.COL_QSIZE_ENTRIES (i : Nat) : RF := ⟨0x1400018 + 0x10000 * i, 0, 13⟩
/-- Next slot to fetch (12_collectives_and_job_mapping.md, R436). -/
def R.COL_QHEAD (i : Nat) : Nat := 0x140001C + 0x10000 * i
def F.COL_QHEAD_HEAD (i : Nat) : RF := ⟨0x140001C + 0x10000 * i, 0, 12⟩
/-- Slot after the last valid command (12_collectives_and_job_mapping.md, R436). -/
def R.COL_QTAIL (i : Nat) : Nat := 0x1400020 + 0x10000 * i
def F.COL_QTAIL_TAIL (i : Nat) : RF := ⟨0x1400020 + 0x10000 * i, 0, 12⟩
/-- Last vetoing rank (12_collectives_and_job_mapping.md, R436). -/
def R.COL_VETO (i : Nat) : Nat := 0x1400024 + 0x10000 * i
def F.COL_VETO_RANK (i : Nat) : RF := ⟨0x1400024 + 0x10000 * i, 0, 14⟩
def F.COL_VETO_VALID (i : Nat) : RF := ⟨0x1400024 + 0x10000 * i, 31, 1⟩
/-- Its layer (12_collectives_and_job_mapping.md, R436). -/
def R.COL_VETOLAYER (i : Nat) : Nat := 0x1400028 + 0x10000 * i
def F.COL_VETOLAYER_LAYER (i : Nat) : RF := ⟨0x1400028 + 0x10000 * i, 0, 16⟩
/-- Exponent raises, saturating at 0xFFFF_FFFF (12_collectives_and_job_mapping.md, R436). -/
def R.COL_RAISES (i : Nat) : Nat := 0x140002C + 0x10000 * i
def F.COL_RAISES_VALUE (i : Nat) : RF := ⟨0x140002C + 0x10000 * i, 0, 32⟩
/-- Incomplete operations, saturating (12_collectives_and_job_mapping.md, R436). -/
def R.COL_INCOMPL (i : Nat) : Nat := 0x1400030 + 0x10000 * i
def F.COL_INCOMPL_VALUE (i : Nat) : RF := ⟨0x1400030 + 0x10000 * i, 0, 32⟩
/-- Device count of the job (R520) (12_collectives_and_job_mapping.md, R436). -/
def R.COL_NRANKS (i : Nat) : Nat := 0x1400034 + 0x10000 * i
def F.COL_NRANKS_COUNT (i : Nat) : RF := ⟨0x1400034 + 0x10000 * i, 0, 15⟩
/-- Sequence tag to abort (12_collectives_and_job_mapping.md, R436). -/
def R.COL_ABORT (i : Nat) : Nat := 0x1400038 + 0x10000 * i
def F.COL_ABORT_TAG (i : Nat) : RF := ⟨0x1400038 + 0x10000 * i, 0, 32⟩
/-- Abort result (12_collectives_and_job_mapping.md, R436). -/
def R.COL_ABORT_RES (i : Nat) : Nat := 0x140003C + 0x10000 * i
def F.COL_ABORT_RES_RESULT (i : Nat) : RF := ⟨0x140003C + 0x10000 * i, 0, 2⟩
/-- Enable and snapshot (12_collectives_and_job_mapping.md, R437). -/
def R.FFY_CTRL : Nat := 0x1600000
def F.FFY_CTRL_EN : RF := ⟨0x1600000, 0, 1⟩
def F.FFY_CTRL_SNAP : RF := ⟨0x1600000, 1, 1⟩
/-- Snapshot state (12_collectives_and_job_mapping.md, R437). -/
def R.FFY_STATUS : Nat := 0x1600004
def F.FFY_STATUS_BUSY : RF := ⟨0x1600004, 0, 1⟩
/-- Padding waves [31:0] of the snapshot; the read latches the high word (12_collectives_and_job_mapping.md, R437). -/
def R.FFY_PADWAVES_LO : Nat := 0x1600010
def F.FFY_PADWAVES_LO_COUNT : RF := ⟨0x1600010, 0, 32⟩
/-- Padding waves [63:32], from the shadow (12_collectives_and_job_mapping.md, R437). -/
def R.FFY_PADWAVES_HI : Nat := 0x1600014
def F.FFY_PADWAVES_HI_COUNT : RF := ⟨0x1600014, 0, 32⟩
/-- Idle cycles [31:0] of the snapshot; the read latches the high word (12_collectives_and_job_mapping.md, R437). -/
def R.FFY_CNT_LO (i j : Nat) : Nat := 0x1600100 + 0x40 * i + 0x8 * j
def F.FFY_CNT_LO_COUNT (i j : Nat) : RF := ⟨0x1600100 + 0x40 * i + 0x8 * j, 0, 32⟩
/-- Idle cycles [63:32], from the shadow (12_collectives_and_job_mapping.md, R437). -/
def R.FFY_CNT_HI (i j : Nat) : Nat := 0x1600104 + 0x40 * i + 0x8 * j
def F.FFY_CNT_HI_COUNT (i j : Nat) : RF := ⟨0x1600104 + 0x40 * i + 0x8 * j, 0, 32⟩
/-- Tags of barrier counters 8j to 8j + 7, j from 0 to 511 (12_collectives_and_job_mapping.md, R437). -/
def R.FFY_BCAUSE (i : Nat) : Nat := 0x1601000 + 0x4 * i
def F.FFY_BCAUSE_TAG0 (i : Nat) : RF := ⟨0x1601000 + 0x4 * i, 0, 4⟩
def F.FFY_BCAUSE_TAG1 (i : Nat) : RF := ⟨0x1601000 + 0x4 * i, 4, 4⟩
def F.FFY_BCAUSE_TAG2 (i : Nat) : RF := ⟨0x1601000 + 0x4 * i, 8, 4⟩
def F.FFY_BCAUSE_TAG3 (i : Nat) : RF := ⟨0x1601000 + 0x4 * i, 12, 4⟩
def F.FFY_BCAUSE_TAG4 (i : Nat) : RF := ⟨0x1601000 + 0x4 * i, 16, 4⟩
def F.FFY_BCAUSE_TAG5 (i : Nat) : RF := ⟨0x1601000 + 0x4 * i, 20, 4⟩
def F.FFY_BCAUSE_TAG6 (i : Nat) : RF := ⟨0x1601000 + 0x4 * i, 24, 4⟩
def F.FFY_BCAUSE_TAG7 (i : Nat) : RF := ⟨0x1601000 + 0x4 * i, 28, 4⟩
/-- Enables (13_barriers_sparks_queues.md, R459). -/
def R.SYN_CTRL : Nat := 0x600000
def F.SYN_CTRL_EN : RF := ⟨0x600000, 0, 1⟩
def F.SYN_CTRL_LEND_EN : RF := ⟨0x600000, 1, 1⟩
/-- Hold store and snapshot state (13_barriers_sparks_queues.md, R459). -/
def R.SYN_STATUS : Nat := 0x600004
def F.SYN_STATUS_HOLDS : RF := ⟨0x600004, 0, 9⟩
def F.SYN_STATUS_BUSY : RF := ⟨0x600004, 9, 1⟩
/-- Event flags (13_barriers_sparks_queues.md, R459). -/
def R.SYN_EVENT : Nat := 0x600008
def F.SYN_EVENT_SAT : RF := ⟨0x600008, 0, 1⟩
def F.SYN_EVENT_UNDER : RF := ⟨0x600008, 1, 1⟩
def F.SYN_EVENT_MISUSE : RF := ⟨0x600008, 2, 1⟩
def F.SYN_EVENT_HOLD_FULL : RF := ⟨0x600008, 3, 1⟩
def F.SYN_EVENT_PARTIAL : RF := ⟨0x600008, 4, 1⟩
/-- Event enables, same layout; enabled events are reported to the ERR block (13_barriers_sparks_queues.md, R459). -/
def R.SYN_EVENT_EN : Nat := 0x60000C
def F.SYN_EVENT_EN_SAT : RF := ⟨0x60000C, 0, 1⟩
def F.SYN_EVENT_EN_UNDER : RF := ⟨0x60000C, 1, 1⟩
def F.SYN_EVENT_EN_MISUSE : RF := ⟨0x60000C, 2, 1⟩
def F.SYN_EVENT_EN_HOLD_FULL : RF := ⟨0x60000C, 3, 1⟩
def F.SYN_EVENT_EN_PARTIAL : RF := ⟨0x60000C, 4, 1⟩
/-- Lending threshold (13_barriers_sparks_queues.md, R459). -/
def R.SYN_LENDTHR : Nat := 0x600010
def F.SYN_LENDTHR_CYCLES : RF := ⟨0x600010, 0, 24⟩
/-- Last misuse (13_barriers_sparks_queues.md, R459). -/
def R.SYN_MISUSE : Nat := 0x600014
def F.SYN_MISUSE_COUNTER : RF := ⟨0x600014, 0, 12⟩
def F.SYN_MISUSE_CAUSE : RF := ⟨0x600014, 12, 3⟩
def F.SYN_MISUSE_QID : RF := ⟨0x600014, 16, 9⟩
def F.SYN_MISUSE_VALID : RF := ⟨0x600014, 31, 1⟩
/-- Signal a counter by register write (13_barriers_sparks_queues.md, R459). -/
def R.SYN_SIGNAL : Nat := 0x600018
def F.SYN_SIGNAL_COUNTER : RF := ⟨0x600018, 0, 12⟩
/-- Configuration of counter b (13_barriers_sparks_queues.md, R459). -/
def R.SYN_BAR_CFG (i : Nat) : Nat := 0x610000 + 0x8 * i
def F.SYN_BAR_CFG_P (i : Nat) : RF := ⟨0x610000 + 0x8 * i, 0, 16⟩
def F.SYN_BAR_CFG_VALID (i : Nat) : RF := ⟨0x610000 + 0x8 * i, 16, 1⟩
def F.SYN_BAR_CFG_CLR (i : Nat) : RF := ⟨0x610000 + 0x8 * i, 17, 1⟩
def F.SYN_BAR_CFG_GROUP (i : Nat) : RF := ⟨0x610000 + 0x8 * i, 18, 1⟩
def F.SYN_BAR_CFG_GSLOT (i : Nat) : RF := ⟨0x610000 + 0x8 * i, 19, 8⟩
/-- Count and flags of counter b (13_barriers_sparks_queues.md, R459). -/
def R.SYN_BAR_CNT (i : Nat) : Nat := 0x610004 + 0x8 * i
def F.SYN_BAR_CNT_COUNT (i : Nat) : RF := ⟨0x610004 + 0x8 * i, 0, 16⟩
def F.SYN_BAR_CNT_SAT (i : Nat) : RF := ⟨0x610004 + 0x8 * i, 16, 1⟩
def F.SYN_BAR_CNT_UNDER (i : Nat) : RF := ⟨0x610004 + 0x8 * i, 17, 1⟩
def F.SYN_BAR_CNT_WAITERS (i : Nat) : RF := ⟨0x610004 + 0x8 * i, 18, 8⟩
/-- Subtract from counter b (13_barriers_sparks_queues.md, R459). -/
def R.SYN_BAR_SUB (i : Nat) : Nat := 0x618000 + 0x4 * i
def F.SYN_BAR_SUB_VALUE (i : Nat) : RF := ⟨0x618000 + 0x4 * i, 0, 16⟩
/-- Mask bits 32w to 32w + 31 of slot g, w from 0 to 15 (13_barriers_sparks_queues.md, R459). -/
def R.SYN_GRP_MASK (i j : Nat) : Nat := 0x620000 + 0x80 * i + 0x4 * j
def F.SYN_GRP_MASK_MASK (i j : Nat) : RF := ⟨0x620000 + 0x80 * i + 0x4 * j, 0, 32⟩
/-- Slot g binding and phase (13_barriers_sparks_queues.md, R459). -/
def R.SYN_GRP_CTRL (i : Nat) : Nat := 0x620040 + 0x80 * i
def F.SYN_GRP_CTRL_COUNTER (i : Nat) : RF := ⟨0x620040 + 0x80 * i, 0, 12⟩
def F.SYN_GRP_CTRL_VALID (i : Nat) : RF := ⟨0x620040 + 0x80 * i, 12, 1⟩
def F.SYN_GRP_CTRL_TREE (i : Nat) : RF := ⟨0x620040 + 0x80 * i, 13, 1⟩
def F.SYN_GRP_CTRL_TREEID (i : Nat) : RF := ⟨0x620040 + 0x80 * i, 16, 12⟩
def F.SYN_GRP_CTRL_PHASE (i : Nat) : RF := ⟨0x620040 + 0x80 * i, 28, 2⟩
/-- Trim source and gating (14_clocks_and_power.md, R481). -/
def R.CLK_CTRL : Nat := 0x300000
def F.CLK_CTRL_REFSEL : RF := ⟨0x300000, 0, 2⟩
def F.CLK_CTRL_GATE_DIS : RF := ⟨0x300000, 2, 1⟩
/-- Lock and source state (14_clocks_and_power.md, R481). -/
def R.CLK_STATUS : Nat := 0x300004
def F.CLK_STATUS_PLL_LOCK : RF := ⟨0x300004, 0, 1⟩
def F.CLK_STATUS_TRIMLOCK : RF := ⟨0x300004, 1, 1⟩
def F.CLK_STATUS_SRC : RF := ⟨0x300004, 2, 2⟩
def F.CLK_STATUS_OSCWAIT : RF := ⟨0x300004, 4, 3⟩
def F.CLK_STATUS_REFPRES : RF := ⟨0x300004, 7, 1⟩
/-- Event flags (14_clocks_and_power.md, R481). -/
def R.CLK_EVENT : Nat := 0x300008
def F.CLK_EVENT_REF_LOST : RF := ⟨0x300008, 0, 1⟩
def F.CLK_EVENT_MARK_LOST : RF := ⟨0x300008, 1, 1⟩
def F.CLK_EVENT_HOLD_LIMIT : RF := ⟨0x300008, 2, 1⟩
def F.CLK_EVENT_PLL_UNLOCK : RF := ⟨0x300008, 3, 1⟩
def F.CLK_EVENT_MON_FAULT : RF := ⟨0x300008, 4, 1⟩
def F.CLK_EVENT_TRIM_RANGE : RF := ⟨0x300008, 5, 1⟩
/-- Event enables, same layout; enabled events are reported to the ERR block (14_clocks_and_power.md, R481). -/
def R.CLK_EVENT_EN : Nat := 0x30000C
def F.CLK_EVENT_EN_REF_LOST : RF := ⟨0x30000C, 0, 1⟩
def F.CLK_EVENT_EN_MARK_LOST : RF := ⟨0x30000C, 1, 1⟩
def F.CLK_EVENT_EN_HOLD_LIMIT : RF := ⟨0x30000C, 2, 1⟩
def F.CLK_EVENT_EN_PLL_UNLOCK : RF := ⟨0x30000C, 3, 1⟩
def F.CLK_EVENT_EN_MON_FAULT : RF := ⟨0x30000C, 4, 1⟩
def F.CLK_EVENT_EN_TRIM_RANGE : RF := ⟨0x30000C, 5, 1⟩
/-- Present trim (14_clocks_and_power.md, R481). -/
def R.CLK_TRIM : Nat := 0x300010
def F.CLK_TRIM_TRIM : RF := ⟨0x300010, 0, 16⟩
/-- Error measured in the last window (14_clocks_and_power.md, R481). -/
def R.CLK_OFFSET : Nat := 0x300014
def F.CLK_OFFSET_ERR : RF := ⟨0x300014, 0, 32⟩
/-- Holdover limit (14_clocks_and_power.md, R481). -/
def R.CLK_HOLDLIM : Nat := 0x300018
def F.CLK_HOLDLIM_MS : RF := ⟨0x300018, 0, 16⟩
/-- Monitor faults by domain (14_clocks_and_power.md, R481). -/
def R.CLK_MON : Nat := 0x30001C
def F.CLK_MON_DOMAIN : RF := ⟨0x30001C, 0, 7⟩
/-- Time spent in holdover (14_clocks_and_power.md, R481). -/
def R.CLK_HOLDTIME : Nat := 0x300020
def F.CLK_HOLDTIME_US : RF := ⟨0x300020, 0, 32⟩
/-- Loop and budget enables (14_clocks_and_power.md, R483). -/
def R.PWR_CTRL : Nat := 0x400000
def F.PWR_CTRL_VLOOP_EN : RF := ⟨0x400000, 0, 1⟩
def F.PWR_CTRL_BUDGET_EN : RF := ⟨0x400000, 1, 1⟩
/-- State; reads only (14_clocks_and_power.md, R483). -/
def R.PWR_STATUS : Nat := 0x400004
def F.PWR_STATUS_BUSY : RF := ⟨0x400004, 0, 1⟩
def F.PWR_STATUS_THROT : RF := ⟨0x400004, 1, 3⟩
def F.PWR_STATUS_EXCURSION : RF := ⟨0x400004, 4, 1⟩
def F.PWR_STATUS_THERMAL : RF := ⟨0x400004, 5, 1⟩
/-- Event flags; clear on read (14_clocks_and_power.md, R483). -/
def R.PWR_EVENT : Nat := 0x400008
def F.PWR_EVENT_PACE_RAISE : RF := ⟨0x400008, 0, 1⟩
def F.PWR_EVENT_THROTTLE : RF := ⟨0x400008, 1, 1⟩
def F.PWR_EVENT_EXC_LIMIT : RF := ⟨0x400008, 2, 1⟩
def F.PWR_EVENT_PEAK : RF := ⟨0x400008, 3, 1⟩
def F.PWR_EVENT_TJ_WARN : RF := ⟨0x400008, 4, 1⟩
def F.PWR_EVENT_TJ_THROT : RF := ⟨0x400008, 5, 1⟩
def F.PWR_EVENT_RAIL_FAULT : RF := ⟨0x400008, 6, 1⟩
/-- Event enables, same layout (14_clocks_and_power.md, R483). -/
def R.PWR_EVENT_EN : Nat := 0x40000C
def F.PWR_EVENT_EN_PACE_RAISE : RF := ⟨0x40000C, 0, 1⟩
def F.PWR_EVENT_EN_THROTTLE : RF := ⟨0x40000C, 1, 1⟩
def F.PWR_EVENT_EN_EXC_LIMIT : RF := ⟨0x40000C, 2, 1⟩
def F.PWR_EVENT_EN_PEAK : RF := ⟨0x40000C, 3, 1⟩
def F.PWR_EVENT_EN_TJ_WARN : RF := ⟨0x40000C, 4, 1⟩
def F.PWR_EVENT_EN_TJ_THROT : RF := ⟨0x40000C, 5, 1⟩
def F.PWR_EVENT_EN_RAIL_FAULT : RF := ⟨0x40000C, 6, 1⟩
/-- Sustained limit (14_clocks_and_power.md, R483). -/
def R.PWR_LIMIT : Nat := 0x400010
def F.PWR_LIMIT_W : RF := ⟨0x400010, 0, 16⟩
/-- Peak limit (14_clocks_and_power.md, R483). -/
def R.PWR_PEAK : Nat := 0x400014
def F.PWR_PEAK_W : RF := ⟨0x400014, 0, 16⟩
/-- Excursion allowance (14_clocks_and_power.md, R483). -/
def R.PWR_EXCMAX : Nat := 0x400018
def F.PWR_EXCMAX_US : RF := ⟨0x400018, 0, 16⟩
/-- Thermal limits (14_clocks_and_power.md, R483). -/
def R.PWR_TJ : Nat := 0x40001C
def F.PWR_TJ_WARN : RF := ⟨0x40001C, 0, 8⟩
def F.PWR_TJ_THROT : RF := ⟨0x40001C, 8, 8⟩
def F.PWR_TJ_TRIP : RF := ⟨0x40001C, 16, 8⟩
/-- Array rail loop (14_clocks_and_power.md, R483). -/
def R.PWR_VLOOP : Nat := 0x400020
def F.PWR_VLOOP_PERIOD : RF := ⟨0x400020, 0, 8⟩
def F.PWR_VLOOP_DOWN : RF := ⟨0x400020, 8, 6⟩
def F.PWR_VLOOP_UP : RF := ⟨0x400020, 14, 6⟩
def F.PWR_VLOOP_MISS : RF := ⟨0x400020, 20, 7⟩
/-- Pace floor margin (14_clocks_and_power.md, R483). -/
def R.PWR_FMARGIN : Nat := 0x400024
def F.PWR_FMARGIN_MV : RF := ⟨0x400024, 0, 8⟩
/-- Input power and voltage; reads only (14_clocks_and_power.md, R483). -/
def R.PWR_INPUT : Nat := 0x400028
def F.PWR_INPUT_P : RF := ⟨0x400028, 0, 16⟩
def F.PWR_INPUT_V : RF := ⟨0x400028, 16, 16⟩
/-- Hottest junction per quadrant; reads only (14_clocks_and_power.md, R483). -/
def R.PWR_TJMAX : Nat := 0x40002C
def F.PWR_TJMAX_TQ0 : RF := ⟨0x40002C, 0, 8⟩
def F.PWR_TJMAX_TQ1 : RF := ⟨0x40002C, 8, 8⟩
def F.PWR_TJMAX_TQ2 : RF := ⟨0x40002C, 16, 8⟩
def F.PWR_TJMAX_TQ3 : RF := ⟨0x40002C, 24, 8⟩
/-- Input energy [31:0], reads only; the read latches the high word (14_clocks_and_power.md, R483). -/
def R.PWR_ENERGY_LO : Nat := 0x400030
def F.PWR_ENERGY_LO_MJ : RF := ⟨0x400030, 0, 32⟩
/-- Input energy [63:32], from the shadow (14_clocks_and_power.md, R483). -/
def R.PWR_ENERGY_HI : Nat := 0x400034
def F.PWR_ENERGY_HI_MJ : RF := ⟨0x400034, 0, 32⟩
/-- Reservation of unit class u, 0 to 6 (14_clocks_and_power.md, R483). -/
def R.PWR_RES (i : Nat) : Nat := 0x400040 + 0x4 * i
def F.PWR_RES_W (i : Nat) : RF := ⟨0x400040 + 0x4 * i, 0, 12⟩
/-- Grant of quadrant q (14_clocks_and_power.md, R483). -/
def R.PWR_Q_GRANT (i : Nat) : Nat := 0x400100 + 0x10 * i
def F.PWR_Q_GRANT_W (i : Nat) : RF := ⟨0x400100 + 0x10 * i, 0, 12⟩
/-- Measured quadrant power; reads only (14_clocks_and_power.md, R483). -/
def R.PWR_Q_POWER (i : Nat) : Nat := 0x400104 + 0x10 * i
def F.PWR_Q_POWER_W (i : Nat) : RF := ⟨0x400104 + 0x10 * i, 0, 12⟩
/-- Present VARRq set point; reads only (14_clocks_and_power.md, R483). -/
def R.PWR_Q_VARR (i : Nat) : Nat := 0x400108 + 0x10 * i
def F.PWR_Q_VARR_UV (i : Nat) : RF := ⟨0x400108 + 0x10 * i, 0, 16⟩
/-- Present pace floor; reads only (14_clocks_and_power.md, R483). -/
def R.PWR_Q_FLOOR (i : Nat) : Nat := 0x40010C + 0x10 * i
def F.PWR_Q_FLOOR_UV (i : Nat) : RF := ⟨0x40010C + 0x10 * i, 0, 16⟩
/-- Telemetry of rail r, 0 to 15; reads only (14_clocks_and_power.md, R483). -/
def R.PWR_RAIL (i : Nat) : Nat := 0x400200 + 0x4 * i
def F.PWR_RAIL_MV (i : Nat) : RF := ⟨0x400200 + 0x4 * i, 0, 16⟩
def F.PWR_RAIL_DA (i : Nat) : RF := ⟨0x400200 + 0x4 * i, 16, 16⟩
/-- Start-up state; reads only (15_startup_configuration_security.md, R516). -/
def R.SEC_BOOT : Nat := 0x200000
def F.SEC_BOOT_STAGE : RF := ⟨0x200000, 0, 4⟩
def F.SEC_BOOT_READY : RF := ⟨0x200000, 4, 1⟩
def F.SEC_BOOT_SLOT : RF := ⟨0x200000, 5, 1⟩
def F.SEC_BOOT_OWNED : RF := ⟨0x200000, 6, 1⟩
def F.SEC_BOOT_ID_OK : RF := ⟨0x200000, 7, 1⟩
def F.SEC_BOOT_NVM_MODE : RF := ⟨0x200000, 8, 2⟩
def F.SEC_BOOT_HOB_SEL : RF := ⟨0x200000, 10, 2⟩
def F.SEC_BOOT_FAB_MASTER : RF := ⟨0x200000, 12, 1⟩
/-- Event flags; clear on read (15_startup_configuration_security.md, R516). -/
def R.SEC_EVENT : Nat := 0x200004
def F.SEC_EVENT_ID_FAIL : RF := ⟨0x200004, 0, 1⟩
def F.SEC_EVENT_SLOT_FALLBACK : RF := ⟨0x200004, 1, 1⟩
def F.SEC_EVENT_EMBER_BAD : RF := ⟨0x200004, 2, 1⟩
def F.SEC_EVENT_FALSE_CLAIM : RF := ⟨0x200004, 3, 1⟩
def F.SEC_EVENT_TOKEN_PASS : RF := ⟨0x200004, 4, 1⟩
def F.SEC_EVENT_SESSION_OPEN : RF := ⟨0x200004, 5, 1⟩
def F.SEC_EVENT_TOKEN_REJECT : RF := ⟨0x200004, 6, 1⟩
def F.SEC_EVENT_ROLLBACK : RF := ⟨0x200004, 7, 1⟩
def F.SEC_EVENT_DUAL_MASTER : RF := ⟨0x200004, 8, 1⟩
/-- Event enables, same layout; enabled events are reported to the ERR block (15_startup_configuration_security.md, R516). -/
def R.SEC_EVENT_EN : Nat := 0x200008
def F.SEC_EVENT_EN_ID_FAIL : RF := ⟨0x200008, 0, 1⟩
def F.SEC_EVENT_EN_SLOT_FALLBACK : RF := ⟨0x200008, 1, 1⟩
def F.SEC_EVENT_EN_EMBER_BAD : RF := ⟨0x200008, 2, 1⟩
def F.SEC_EVENT_EN_FALSE_CLAIM : RF := ⟨0x200008, 3, 1⟩
def F.SEC_EVENT_EN_TOKEN_PASS : RF := ⟨0x200008, 4, 1⟩
def F.SEC_EVENT_EN_SESSION_OPEN : RF := ⟨0x200008, 5, 1⟩
def F.SEC_EVENT_EN_TOKEN_REJECT : RF := ⟨0x200008, 6, 1⟩
def F.SEC_EVENT_EN_ROLLBACK : RF := ⟨0x200008, 7, 1⟩
def F.SEC_EVENT_EN_DUAL_MASTER : RF := ⟨0x200008, 8, 1⟩
/-- Token state; reads only (15_startup_configuration_security.md, R516). -/
def R.SEC_MASTER : Nat := 0x20000C
def F.SEC_MASTER_HOLDER : RF := ⟨0x20000C, 0, 2⟩
def F.SEC_MASTER_VALID : RF := ⟨0x20000C, 2, 1⟩
def F.SEC_MASTER_PASSES : RF := ⟨0x20000C, 4, 3⟩
def F.SEC_MASTER_LASTCLAIM : RF := ⟨0x20000C, 8, 2⟩
/-- Holder heartbeat (R506) (15_startup_configuration_security.md, R516). -/
def R.SEC_HEARTBEAT : Nat := 0x200010
def F.SEC_HEARTBEAT_BEAT : RF := ⟨0x200010, 0, 1⟩
/-- Counter 0; reads only (15_startup_configuration_security.md, R516). -/
def R.SEC_SVN0 : Nat := 0x200014
def F.SEC_SVN0_COUNT : RF := ⟨0x200014, 0, 32⟩
/-- Counter 1; reads only (15_startup_configuration_security.md, R516). -/
def R.SEC_SVN1 : Nat := 0x200018
def F.SEC_SVN1_COUNT : RF := ⟨0x200018, 0, 32⟩
/-- Session state; reads only (15_startup_configuration_security.md, R516). -/
def R.SEC_SESSION : Nat := 0x20001C
def F.SEC_SESSION_OPEN : RF := ⟨0x20001C, 0, 1⟩
def F.SEC_SESSION_SCOPE : RF := ⟨0x20001C, 1, 3⟩
/-- Boot count; reads only (15_startup_configuration_security.md, R516). -/
def R.SEC_BOOTCNT : Nat := 0x200020
def F.SEC_BOOTCNT_COUNT : RF := ⟨0x200020, 0, 32⟩
/-- Identity hash bytes 4i to 4i + 3, i from 0 to 15; reads only (15_startup_configuration_security.md, R516). -/
def R.SEC_IDHASH (i : Nat) : Nat := 0x200040 + 0x4 * i
def F.SEC_IDHASH_HASH (i : Nat) : RF := ⟨0x200040 + 0x4 * i, 0, 32⟩
/-- Enables (16_step_commit_replay_and_errors.md, R540). -/
def R.ERR_CTRL : Nat := 0x500000
def F.ERR_CTRL_JOB_EN : RF := ⟨0x500000, 0, 1⟩
def F.ERR_CTRL_WD_EN : RF := ⟨0x500000, 1, 1⟩
/-- Job and checkpoint state (16_step_commit_replay_and_errors.md, R540). -/
def R.ERR_STATUS : Nat := 0x500004
def F.ERR_STATUS_JOB : RF := ⟨0x500004, 0, 3⟩
def F.ERR_STATUS_SNAP : RF := ⟨0x500004, 3, 1⟩
def F.ERR_STATUS_DRAIN : RF := ⟨0x500004, 4, 1⟩
def F.ERR_STATUS_CONF_SLOT : RF := ⟨0x500004, 5, 1⟩
def F.ERR_STATUS_CONF_VALID : RF := ⟨0x500004, 6, 1⟩
def F.ERR_STATUS_BUSY : RF := ⟨0x500004, 7, 1⟩
/-- Event flags (16_step_commit_replay_and_errors.md, R540). -/
def R.ERR_EVENT : Nat := 0x500008
def F.ERR_EVENT_RECORD : RF := ⟨0x500008, 0, 1⟩
def F.ERR_EVENT_RING_FULL : RF := ⟨0x500008, 1, 1⟩
def F.ERR_EVENT_REPLAY : RF := ⟨0x500008, 2, 1⟩
def F.ERR_EVENT_SKIP : RF := ⟨0x500008, 3, 1⟩
def F.ERR_EVENT_REWIND : RF := ⟨0x500008, 4, 1⟩
def F.ERR_EVENT_STOP : RF := ⟨0x500008, 5, 1⟩
def F.ERR_EVENT_WATCHDOG : RF := ⟨0x500008, 6, 1⟩
def F.ERR_EVENT_SPARE_IN : RF := ⟨0x500008, 7, 1⟩
def F.ERR_EVENT_CK_CONFIRMED : RF := ⟨0x500008, 8, 1⟩
def F.ERR_EVENT_CK_DEFER : RF := ⟨0x500008, 9, 1⟩
def F.ERR_EVENT_SUM_MISMATCH : RF := ⟨0x500008, 10, 1⟩
/-- Event enables, same layout (16_step_commit_replay_and_errors.md, R540). -/
def R.ERR_EVENT_EN : Nat := 0x50000C
def F.ERR_EVENT_EN_RECORD : RF := ⟨0x50000C, 0, 1⟩
def F.ERR_EVENT_EN_RING_FULL : RF := ⟨0x50000C, 1, 1⟩
def F.ERR_EVENT_EN_REPLAY : RF := ⟨0x50000C, 2, 1⟩
def F.ERR_EVENT_EN_SKIP : RF := ⟨0x50000C, 3, 1⟩
def F.ERR_EVENT_EN_REWIND : RF := ⟨0x50000C, 4, 1⟩
def F.ERR_EVENT_EN_STOP : RF := ⟨0x50000C, 5, 1⟩
def F.ERR_EVENT_EN_WATCHDOG : RF := ⟨0x50000C, 6, 1⟩
def F.ERR_EVENT_EN_SPARE_IN : RF := ⟨0x50000C, 7, 1⟩
def F.ERR_EVENT_EN_CK_CONFIRMED : RF := ⟨0x50000C, 8, 1⟩
def F.ERR_EVENT_EN_CK_DEFER : RF := ⟨0x50000C, 9, 1⟩
def F.ERR_EVENT_EN_SUM_MISMATCH : RF := ⟨0x50000C, 10, 1⟩
/-- Blocks with a pending enabled event (16_step_commit_replay_and_errors.md, R540). -/
def R.ERR_SRC : Nat := 0x500010
def F.ERR_SRC_BLOCK : RF := ⟨0x500010, 0, 16⟩
/-- Ring base [31:0]; bits [5:0] read zero (16_step_commit_replay_and_errors.md, R540). -/
def R.ERR_RBASE_LO : Nat := 0x500014
def F.ERR_RBASE_LO_VALUE : RF := ⟨0x500014, 6, 26⟩
/-- Ring base [63:32] (16_step_commit_replay_and_errors.md, R540). -/
def R.ERR_RBASE_HI : Nat := 0x500018
def F.ERR_RBASE_HI_VALUE : RF := ⟨0x500018, 0, 32⟩
/-- Next record written (16_step_commit_replay_and_errors.md, R540). -/
def R.ERR_RHEAD : Nat := 0x50001C
def F.ERR_RHEAD_INDEX : RF := ⟨0x50001C, 0, 8⟩
/-- Next record to read (16_step_commit_replay_and_errors.md, R540). -/
def R.ERR_RTAIL : Nat := 0x500020
def F.ERR_RTAIL_INDEX : RF := ⟨0x500020, 0, 8⟩
/-- Lost records, saturating at 0xFFFF_FFFF (16_step_commit_replay_and_errors.md, R540). -/
def R.ERR_LOST : Nat := 0x500024
def F.ERR_LOST_VALUE : RF := ⟨0x500024, 0, 32⟩
/-- Last closed step [31:0]; the read latches the high word (16_step_commit_replay_and_errors.md, R540). -/
def R.ERR_STEP_LO : Nat := 0x500028
def F.ERR_STEP_LO_VALUE : RF := ⟨0x500028, 0, 32⟩
/-- [63:32], from the shadow (16_step_commit_replay_and_errors.md, R540). -/
def R.ERR_STEP_HI : Nat := 0x50002C
def F.ERR_STEP_HI_VALUE : RF := ⟨0x50002C, 0, 32⟩
/-- Replays, saturating (16_step_commit_replay_and_errors.md, R540). -/
def R.ERR_REPLAYS : Nat := 0x500030
def F.ERR_REPLAYS_VALUE : RF := ⟨0x500030, 0, 32⟩
/-- Skips, saturating (16_step_commit_replay_and_errors.md, R540). -/
def R.ERR_SKIPS : Nat := 0x500034
def F.ERR_SKIPS_VALUE : RF := ⟨0x500034, 0, 32⟩
/-- Stop code (16_step_commit_replay_and_errors.md, R540). -/
def R.ERR_STOP : Nat := 0x500038
def F.ERR_STOP_CODE : RF := ⟨0x500038, 0, 8⟩
/-- Replay limit (16_step_commit_replay_and_errors.md, R540). -/
def R.ERR_LIMITS : Nat := 0x50003C
def F.ERR_LIMITS_REPLAYMAX : RF := ⟨0x50003C, 0, 4⟩
/-- Step watchdog (16_step_commit_replay_and_errors.md, R540). -/
def R.ERR_WDOG : Nat := 0x500040
def F.ERR_WDOG_US : RF := ⟨0x500040, 0, 24⟩
/-- Verdict timeout (16_step_commit_replay_and_errors.md, R540). -/
def R.ERR_VTIMEOUT : Nat := 0x500044
def F.ERR_VTIMEOUT_US : RF := ⟨0x500044, 0, 24⟩
/-- Commit area [31:0]; bits [5:0] read zero (16_step_commit_replay_and_errors.md, R540). -/
def R.ERR_CBASE_LO : Nat := 0x500048
def F.ERR_CBASE_LO_VALUE : RF := ⟨0x500048, 6, 26⟩
/-- [63:32] (16_step_commit_replay_and_errors.md, R540). -/
def R.ERR_CBASE_HI : Nat := 0x50004C
def F.ERR_CBASE_HI_VALUE : RF := ⟨0x50004C, 0, 32⟩
/-- Slot A, far tier [31:0]; bits [11:0] read zero (16_step_commit_replay_and_errors.md, R540). -/
def R.ERR_CKBASE_LO : Nat := 0x500050
def F.ERR_CKBASE_LO_VALUE : RF := ⟨0x500050, 12, 20⟩
/-- [63:32] (16_step_commit_replay_and_errors.md, R540). -/
def R.ERR_CKBASE_HI : Nat := 0x500054
def F.ERR_CKBASE_HI_VALUE : RF := ⟨0x500054, 0, 32⟩
/-- Staging, HBM [31:0]; bits [11:0] read zero (16_step_commit_replay_and_errors.md, R540). -/
def R.ERR_CKSTAGE_LO : Nat := 0x500058
def F.ERR_CKSTAGE_LO_VALUE : RF := ⟨0x500058, 12, 20⟩
/-- [63:32] (16_step_commit_replay_and_errors.md, R540). -/
def R.ERR_CKSTAGE_HI : Nat := 0x50005C
def F.ERR_CKSTAGE_HI_VALUE : RF := ⟨0x50005C, 0, 32⟩
/-- Checkpoint control; posted (R548) (16_step_commit_replay_and_errors.md, R540). -/
def R.ERR_CKCTRL : Nat := 0x500060
def F.ERR_CKCTRL_PERIOD : RF := ⟨0x500060, 0, 16⟩
def F.ERR_CKCTRL_SIZE : RF := ⟨0x500060, 16, 6⟩
def F.ERR_CKCTRL_RESTORE : RF := ⟨0x500060, 24, 1⟩
/-- Confirmed step [31:0]; the read latches the high word (16_step_commit_replay_and_errors.md, R540). -/
def R.ERR_CKSTEP_LO : Nat := 0x500064
def F.ERR_CKSTEP_LO_VALUE : RF := ⟨0x500064, 0, 32⟩
/-- [63:32], from the shadow (16_step_commit_replay_and_errors.md, R540). -/
def R.ERR_CKSTEP_HI : Nat := 0x500068
def F.ERR_CKSTEP_HI_VALUE : RF := ⟨0x500068, 0, 32⟩
/-- Unit reset (16_step_commit_replay_and_errors.md, R540). -/
def R.ERR_RESET : Nat := 0x50006C
def F.ERR_RESET_UNIT : RF := ⟨0x50006C, 0, 1⟩
/-- Part and stepping (17_register_interface_and_map.md, R552). -/
def R.GEN_ID : Nat := 0x0
def F.GEN_ID_PART : RF := ⟨0x0, 0, 16⟩
def F.GEN_ID_STEPPING : RF := ⟨0x0, 16, 8⟩
/-- Ordering variant (R2) (17_register_interface_and_map.md, R552). -/
def R.GEN_VARIANT : Nat := 0x4
def F.GEN_VARIANT_STACK_GIB : RF := ⟨0x4, 0, 8⟩
def F.GEN_VARIANT_A192 : RF := ⟨0x4, 8, 1⟩
/-- Active and displaced units (17_register_interface_and_map.md, R552). -/
def R.GEN_UNITS : Nat := 0x8
def F.GEN_UNITS_HEARTHS : RF := ⟨0x8, 0, 8⟩
def F.GEN_UNITS_AWAY : RF := ⟨0x8, 8, 8⟩
def F.GEN_UNITS_CRICKETS : RF := ⟨0x8, 16, 7⟩
def F.GEN_UNITS_SPAREPAIRS : RF := ⟨0x8, 24, 4⟩
/-- Free word for software (17_register_interface_and_map.md, R552). -/
def R.GEN_SCRATCH : Nat := 0xC
def F.GEN_SCRATCH_VALUE : RF := ⟨0xC, 0, 32⟩
/-- Access event flags (17_register_interface_and_map.md, R552). -/
def R.GEN_EVENT : Nat := 0x10
def F.GEN_EVENT_BADACCESS : RF := ⟨0x10, 0, 1⟩
def F.GEN_EVENT_DENIED : RF := ⟨0x10, 1, 1⟩
def F.GEN_EVENT_POST_OVERRUN : RF := ⟨0x10, 2, 1⟩
/-- Denied accesses, saturating at 0xFFFF_FFFF (17_register_interface_and_map.md, R552). -/
def R.GEN_DENIED : Nat := 0x14
def F.GEN_DENIED_VALUE : RF := ⟨0x14, 0, 32⟩
/-- Last refused access (17_register_interface_and_map.md, R552). -/
def R.GEN_LASTBAD : Nat := 0x18
def F.GEN_LASTBAD_OFFSET : RF := ⟨0x18, 0, 26⟩
def F.GEN_LASTBAD_VALID : RF := ⟨0x18, 31, 1⟩
/-- Last discarded posted write (17_register_interface_and_map.md, R552). -/
def R.GEN_POSTERR : Nat := 0x1C
def F.GEN_POSTERR_OFFSET : RF := ⟨0x1C, 0, 26⟩
def F.GEN_POSTERR_VALID : RF := ⟨0x1C, 31, 1⟩
/-- Requester of this read (17_register_interface_and_map.md, R552). -/
def R.GEN_WHOAMI : Nat := 0x20
def F.GEN_WHOAMI_REQ : RF := ⟨0x20, 0, 7⟩
def F.GEN_WHOAMI_SECURE : RF := ⟨0x20, 8, 1⟩
/-- Timebase count [31:0]; the read latches the high word (17_register_interface_and_map.md, R552). -/
def R.GEN_TIME_LO : Nat := 0x28
def F.GEN_TIME_LO_COUNT : RF := ⟨0x28, 0, 32⟩
/-- Timebase count [63:32], from the shadow (17_register_interface_and_map.md, R552). -/
def R.GEN_TIME_HI : Nat := 0x2C
def F.GEN_TIME_HI_COUNT : RF := ⟨0x2C, 0, 32⟩
/-- Load state (17_register_interface_and_map.md, R553). -/
def R.CFG_STATE : Nat := 0x100000
def F.CFG_STATE_IMAGE : RF := ⟨0x100000, 0, 2⟩
def F.CFG_STATE_RESTORE : RF := ⟨0x100000, 2, 1⟩
/-- Devices of the loaded job (17_register_interface_and_map.md, R553). -/
def R.CFG_NDEV : Nat := 0x100004
def F.CFG_NDEV_COUNT : RF := ⟨0x100004, 0, 15⟩
/-- Ring and pipeline sizes (17_register_interface_and_map.md, R553). -/
def R.CFG_CUTS_A : Nat := 0x100008
def F.CFG_CUTS_A_RS : RF := ⟨0x100008, 0, 15⟩
def F.CFG_CUTS_A_S : RF := ⟨0x100008, 16, 15⟩
/-- Replica size and this device's stage (17_register_interface_and_map.md, R553). -/
def R.CFG_CUTS_B : Nat := 0x10000C
def F.CFG_CUTS_B_RR : RF := ⟨0x10000C, 0, 15⟩
def F.CFG_CUTS_B_STAGE : RF := ⟨0x10000C, 16, 15⟩
/-- SVN of the booted configuration image (17_register_interface_and_map.md, R553). -/
def R.CFG_CONFSVN : Nat := 0x100010
def F.CFG_CONFSVN_SVN : RF := ⟨0x100010, 0, 32⟩
/-- SVN of the loaded Cuham image (17_register_interface_and_map.md, R553). -/
def R.CFG_CUHAMSVN : Nat := 0x100014
def F.CFG_CUHAMSVN_SVN : RF := ⟨0x100014, 0, 32⟩
/-- Retention of settings (17_register_interface_and_map.md, R553). -/
def R.CFG_RETAIN : Nat := 0x100018
def F.CFG_RETAIN_EN : RF := ⟨0x100018, 0, 1⟩
/-- Bytes 4i to 4i + 3 of the loaded Cuham header hash, i from 0 to 15 (17_register_interface_and_map.md, R553). -/
def R.CFG_IMGHASH (i : Nat) : Nat := 0x100040 + 0x4 * i
def F.CFG_IMGHASH_HASH (i : Nat) : RF := ⟨0x100040 + 0x4 * i, 0, 32⟩
/-- Far-tier interleave (18_host_and_far_memory_links.md, R567). -/
def R.CXL_CTRL : Nat := 0x1200000
def F.CXL_CTRL_ILV : RF := ⟨0x1200000, 0, 1⟩
/-- PCIe link state (18_host_and_far_memory_links.md, R567). -/
def R.CXL_STATUS : Nat := 0x1200004
def F.CXL_STATUS_GEN : RF := ⟨0x1200004, 0, 3⟩
def F.CXL_STATUS_WIDTH : RF := ⟨0x1200004, 3, 4⟩
/-- Event flags (18_host_and_far_memory_links.md, R567). -/
def R.CXL_EVENT : Nat := 0x1200008
def F.CXL_EVENT_HOST_WDISC : RF := ⟨0x1200008, 0, 1⟩
def F.CXL_EVENT_LINK_DOWN : RF := ⟨0x1200008, 1, 1⟩
def F.CXL_EVENT_OVERSIZE : RF := ⟨0x1200008, 2, 1⟩
def F.CXL_EVENT_POISON : RF := ⟨0x1200008, 3, 1⟩
def F.CXL_EVENT_HOTPLUG : RF := ⟨0x1200008, 4, 1⟩
/-- Enables for vector 2 (18_host_and_far_memory_links.md, R567). -/
def R.CXL_EVENT_EN : Nat := 0x120000C
def F.CXL_EVENT_EN_HOST_WDISC : RF := ⟨0x120000C, 0, 1⟩
def F.CXL_EVENT_EN_LINK_DOWN : RF := ⟨0x120000C, 1, 1⟩
def F.CXL_EVENT_EN_OVERSIZE : RF := ⟨0x120000C, 2, 1⟩
def F.CXL_EVENT_EN_POISON : RF := ⟨0x120000C, 3, 1⟩
def F.CXL_EVENT_EN_HOTPLUG : RF := ⟨0x120000C, 4, 1⟩
/-- Pending causes of vectors 0 and 1 (18_host_and_far_memory_links.md, R567). -/
def R.CXL_IPEND : Nat := 0x1200010
def F.CXL_IPEND_HOSTCMD : RF := ⟨0x1200010, 0, 1⟩
def F.CXL_IPEND_STAGE : RF := ⟨0x1200010, 1, 1⟩
/-- Causes that drive ALERT_N (18_host_and_far_memory_links.md, R567). -/
def R.CXL_IMASK : Nat := 0x1200014
def F.CXL_IMASK_MASK : RF := ⟨0x1200014, 0, 20⟩
/-- Host reset (R560) (18_host_and_far_memory_links.md, R567). -/
def R.CXL_HRESET : Nat := 0x1200018
def F.CXL_HRESET_KEY : RF := ⟨0x1200018, 0, 32⟩
/-- Mapped far-tier bytes [31:0]; the read latches the high word (18_host_and_far_memory_links.md, R567). -/
def R.CXL_FARSIZE_LO : Nat := 0x1200020
def F.CXL_FARSIZE_LO_BYTES : RF := ⟨0x1200020, 0, 32⟩
/-- [63:32], from the shadow (18_host_and_far_memory_links.md, R567). -/
def R.CXL_FARSIZE_HI : Nat := 0x1200024
def F.CXL_FARSIZE_HI_BYTES : RF := ⟨0x1200024, 0, 32⟩
/-- Port state (18_host_and_far_memory_links.md, R567). -/
def R.CXL_P_STATUS (i : Nat) : Nat := 0x1210000 + 0x1000 * i
def F.CXL_P_STATUS_STATE (i : Nat) : RF := ⟨0x1210000 + 0x1000 * i, 0, 2⟩
def F.CXL_P_STATUS_V31 (i : Nat) : RF := ⟨0x1210000 + 0x1000 * i, 2, 1⟩
def F.CXL_P_STATUS_LANES (i : Nat) : RF := ⟨0x1210000 + 0x1000 * i, 3, 5⟩
def F.CXL_P_STATUS_DEVS (i : Nat) : RF := ⟨0x1210000 + 0x1000 * i, 8, 4⟩
/-- Error counts (18_host_and_far_memory_links.md, R567). -/
def R.CXL_P_ERR (i : Nat) : Nat := 0x1210004 + 0x1000 * i
def F.CXL_P_ERR_REPLAY (i : Nat) : RF := ⟨0x1210004 + 0x1000 * i, 0, 16⟩
def F.CXL_P_ERR_UNCORR (i : Nat) : RF := ⟨0x1210004 + 0x1000 * i, 16, 16⟩
/-- Lowest far-tier address of the port [31:0]; the read latches the high word (18_host_and_far_memory_links.md, R567). -/
def R.CXL_P_BASE_LO (i : Nat) : Nat := 0x1210008 + 0x1000 * i
def F.CXL_P_BASE_LO_VALUE (i : Nat) : RF := ⟨0x1210008 + 0x1000 * i, 0, 32⟩
/-- [63:32], from the shadow (18_host_and_far_memory_links.md, R567). -/
def R.CXL_P_BASE_HI (i : Nat) : Nat := 0x121000C + 0x1000 * i
def F.CXL_P_BASE_HI_VALUE (i : Nat) : RF := ⟨0x121000C + 0x1000 * i, 0, 32⟩

/-- The registers of the HRT block, in the order of the chapter. -/
def regRowsHRT : List RegRow := [
  ⟨0x800000, 136, 0x1000, 1, 0x4, 0x7, 0x7, 0x0, 0x4, 0x0, false, false, 0⟩,
  ⟨0x800004, 136, 0x1000, 1, 0x4, 0x73F, 0x0, 0x0, 0x0, 0x1, false, false, 0⟩,
  ⟨0x800008, 136, 0x1000, 1, 0x4, 0x3F, 0x0, 0x3F, 0x0, 0x0, false, false, 0⟩,
  ⟨0x80000C, 136, 0x1000, 1, 0x4, 0x3F, 0x3F, 0x0, 0x0, 0x0, false, false, 0⟩,
  ⟨0x800010, 136, 0x1000, 1, 0x4, 0xFFFFFFC0, 0xFFFFFFC0, 0x0, 0x0, 0x0, false, false, 1⟩,
  ⟨0x800014, 136, 0x1000, 1, 0x4, 0xFFFFFFFF, 0xFFFFFFFF, 0x0, 0x0, 0x0, false, false, 2⟩,
  ⟨0x800018, 136, 0x1000, 1, 0x4, 0x1FFF, 0x1FFF, 0x0, 0x0, 0x0, false, false, 0⟩,
  ⟨0x80001C, 136, 0x1000, 1, 0x4, 0xFFF, 0x0, 0x0, 0x0, 0x0, false, false, 0⟩,
  ⟨0x800020, 136, 0x1000, 1, 0x4, 0xFFF, 0xFFF, 0x0, 0x0, 0x0, false, false, 0⟩,
  ⟨0x800024, 136, 0x1000, 1, 0x4, 0x37F, 0x0, 0x0, 0x0, 0x0, false, false, 0⟩,
  ⟨0x800028, 136, 0x1000, 1, 0x4, 0xFFFF, 0x0, 0xFF00, 0x0, 0xFF00, false, false, 0⟩,
  ⟨0x80002C, 136, 0x1000, 1, 0x4, 0xFF, 0xFF, 0x0, 0x0, 0x10, true, false, 0⟩,
  ⟨0x800030, 136, 0x1000, 1, 0x4, 0xFFFFFFFF, 0x0, 0x0, 0x0, 0x0, false, false, 1⟩,
  ⟨0x800034, 136, 0x1000, 1, 0x4, 0xFFFFFFFF, 0x0, 0x0, 0x0, 0x0, false, false, 2⟩,
  ⟨0x800038, 136, 0x1000, 1, 0x4, 0xFFFFFFFF, 0x0, 0xFFFFFFFF, 0x0, 0x0, false, false, 0⟩,
  ⟨0x80003C, 136, 0x1000, 1, 0x4, 0xFFFFFFFF, 0x0, 0xFFFFFFFF, 0x0, 0x0, false, false, 0⟩,
  ⟨0x800040, 136, 0x1000, 1, 0x4, 0xFFFFFFFF, 0x0, 0xFFFFFFFF, 0x0, 0x0, false, false, 0⟩,
  ⟨0x800044, 136, 0x1000, 1, 0x4, 0xFFFFFFFF, 0x0, 0x0, 0x0, 0x0, false, false, 0⟩,
  ⟨0x800048, 136, 0x1000, 1, 0x4, 0xFFFFFFFF, 0xFFFFFFFF, 0x0, 0xFFFFFFFF, 0x0, false, false, 0⟩,
  ⟨0x80004C, 136, 0x1000, 1, 0x4, 0x3, 0x0, 0x3, 0x0, 0x0, false, false, 0⟩]

/-- The registers of the DMP block, in the order of the chapter. -/
def regRowsDMP : List RegRow := [
  ⟨0x900000, 136, 0x1000, 1, 0x4, 0x1, 0x1, 0x0, 0x1, 0x0, false, false, 0⟩,
  ⟨0x900004, 136, 0x1000, 1, 0x4, 0x7, 0x0, 0x0, 0x0, 0x0, false, false, 0⟩,
  ⟨0x900008, 136, 0x1000, 1, 0x4, 0x1F, 0x0, 0x1F, 0x0, 0x0, false, false, 0⟩,
  ⟨0x90000C, 136, 0x1000, 1, 0x4, 0x1F, 0x1F, 0x0, 0x0, 0x0, false, false, 0⟩,
  ⟨0x900010, 136, 0x1000, 1, 0x4, 0xFFFFFFC0, 0xFFFFFFC0, 0x0, 0x0, 0x0, false, false, 1⟩,
  ⟨0x900014, 136, 0x1000, 1, 0x4, 0xFFFFFFFF, 0xFFFFFFFF, 0x0, 0x0, 0x0, false, false, 2⟩,
  ⟨0x900018, 136, 0x1000, 1, 0x4, 0x1FFF, 0x1FFF, 0x0, 0x0, 0x0, false, false, 0⟩,
  ⟨0x90001C, 136, 0x1000, 1, 0x4, 0xFFF, 0x0, 0x0, 0x0, 0x0, false, false, 0⟩,
  ⟨0x900020, 136, 0x1000, 1, 0x4, 0xF, 0xF, 0x0, 0x0, 0x0, false, false, 0⟩,
  ⟨0x900024, 136, 0x1000, 1, 0x4, 0xFFFFFFC0, 0xFFFFFFC0, 0x0, 0x0, 0x0, false, false, 1⟩,
  ⟨0x900028, 136, 0x1000, 1, 0x4, 0xFFFFFFFF, 0xFFFFFFFF, 0x0, 0x0, 0x0, false, true, 2⟩,
  ⟨0x90002C, 136, 0x1000, 1, 0x4, 0xFFFFFFFF, 0x0, 0xFFFFFFFF, 0x0, 0x0, false, false, 0⟩,
  ⟨0x900030, 136, 0x1000, 1, 0x4, 0xFFFFFFFF, 0x0, 0xFFFFFFFF, 0x0, 0x0, false, false, 0⟩]

/-- The registers of the NUM block, in the order of the chapter. -/
def regRowsNUM : List RegRow := [
  ⟨0x1500000, 1, 0x4, 1, 0x4, 0x3, 0x0, 0x0, 0x0, 0x0, false, false, 0⟩,
  ⟨0x1500004, 1, 0x4, 1, 0x4, 0x3F, 0x0, 0x3F, 0x0, 0x0, false, false, 0⟩,
  ⟨0x1500008, 1, 0x4, 1, 0x4, 0x3F, 0x3F, 0x0, 0x0, 0x0, false, false, 0⟩,
  ⟨0x150000C, 1, 0x4, 1, 0x4, 0xFFFF03FF, 0xFFFF03FF, 0x0, 0x0, 0x20, false, false, 0⟩,
  ⟨0x1500010, 1, 0x4, 1, 0x4, 0xFFFFFFFF, 0x0, 0xFFFFFFFF, 0x0, 0x0, false, false, 0⟩,
  ⟨0x1500014, 1, 0x4, 1, 0x4, 0xFFFFFFFF, 0x0, 0xFFFFFFFF, 0x0, 0x0, false, false, 0⟩,
  ⟨0x1500018, 1, 0x4, 1, 0x4, 0xFFFFFFFF, 0x0, 0xFFFFFFFF, 0x0, 0x0, false, false, 0⟩,
  ⟨0x150001C, 1, 0x4, 1, 0x4, 0xFFFFFFFF, 0x0, 0xFFFFFFFF, 0x0, 0x0, false, false, 0⟩,
  ⟨0x1500020, 1, 0x4, 1, 0x4, 0x1F, 0x1F, 0x0, 0x0, 0x0, false, false, 0⟩,
  ⟨0x1500024, 1, 0x4, 1, 0x4, 0xFFFFFFFF, 0xFFFFFFFF, 0x0, 0x0, 0x0, true, false, 1⟩,
  ⟨0x1500028, 1, 0x4, 1, 0x4, 0xFFFFFFFF, 0xFFFFFFFF, 0x0, 0x0, 0x0, true, true, 2⟩,
  ⟨0x150002C, 1, 0x4, 1, 0x4, 0xFFFFFFC0, 0xFFFFFFC0, 0x0, 0x0, 0x0, true, false, 1⟩,
  ⟨0x1500030, 1, 0x4, 1, 0x4, 0xFFFFFFFF, 0xFFFFFFFF, 0x0, 0x0, 0x0, true, false, 2⟩,
  ⟨0x1500034, 1, 0x4, 1, 0x4, 0x3, 0x3, 0x0, 0x0, 0x0, true, true, 0⟩,
  ⟨0x1500400, 64, 0x4, 1, 0x4, 0xFFFFFFFF, 0x0, 0xFFFFFFFF, 0x0, 0x0, false, false, 0⟩,
  ⟨0x1501000, 256, 0x10, 1, 0x4, 0x3FFFF7F, 0x3FFFF7F, 0x0, 0x0, 0x4, false, false, 0⟩,
  ⟨0x1501004, 256, 0x10, 1, 0x4, 0xFFFF00FF, 0xFFFF00FF, 0x0, 0x0, 0x7F, false, false, 0⟩,
  ⟨0x1502000, 256, 0x10, 1, 0x4, 0xFFFFFFFF, 0x0, 0x0, 0x0, 0x0, false, false, 0⟩,
  ⟨0x1502004, 256, 0x10, 1, 0x4, 0xFFFFFFFF, 0x0, 0x0, 0x0, 0x0, false, false, 0⟩,
  ⟨0x1502008, 256, 0x10, 1, 0x4, 0xFFFFFFFF, 0x0, 0xFFFFFFFF, 0x0, 0x0, false, false, 0⟩,
  ⟨0x150200C, 256, 0x10, 1, 0x4, 0x1F, 0x0, 0x0, 0x0, 0x0, false, false, 0⟩]

/-- The registers of the BLW block, in the order of the chapter. -/
def regRowsBLW : List RegRow := [
  ⟨0xA00000, 4, 0x10000, 1, 0x4, 0x7, 0x7, 0x0, 0x0, 0x0, false, false, 0⟩,
  ⟨0xA00004, 4, 0x10000, 1, 0x4, 0xFFFF, 0x0, 0x0, 0x0, 0x2, false, false, 0⟩,
  ⟨0xA00008, 4, 0x10000, 1, 0x4, 0x3FF, 0x0, 0x3FF, 0x0, 0x0, false, false, 0⟩,
  ⟨0xA0000C, 4, 0x10000, 1, 0x4, 0x3FF, 0x3FF, 0x0, 0x0, 0x0, false, false, 0⟩,
  ⟨0xA00010, 4, 0x10000, 1, 0x4, 0xFFFFFFC0, 0xFFFFFFC0, 0x0, 0x0, 0x0, false, false, 1⟩,
  ⟨0xA00014, 4, 0x10000, 1, 0x4, 0xFFFFFFFF, 0xFFFFFFFF, 0x0, 0x0, 0x0, false, false, 2⟩,
  ⟨0xA00018, 4, 0x10000, 1, 0x4, 0xFFFFFFC0, 0xFFFFFFC0, 0x0, 0x0, 0x0, false, false, 1⟩,
  ⟨0xA0001C, 4, 0x10000, 1, 0x4, 0xFFFFFFFF, 0xFFFFFFFF, 0x0, 0x0, 0x0, false, false, 2⟩,
  ⟨0xA00020, 4, 0x10000, 1, 0x4, 0xFFFFFFC0, 0xFFFFFFC0, 0x0, 0x0, 0x0, false, false, 1⟩,
  ⟨0xA00024, 4, 0x10000, 1, 0x4, 0xFFFFFFFF, 0xFFFFFFFF, 0x0, 0x0, 0x0, false, false, 2⟩,
  ⟨0xA00028, 4, 0x10000, 1, 0x4, 0x7FF, 0x7FF, 0x0, 0x0, 0x0, false, false, 0⟩,
  ⟨0xA0002C, 4, 0x10000, 1, 0x4, 0xFFFFFFFF, 0xFFFFFFFF, 0x0, 0x0, 0x0, false, false, 0⟩,
  ⟨0xA00030, 4, 0x10000, 1, 0x4, 0x8FFF, 0x8FFF, 0x0, 0x0, 0x0, false, false, 0⟩,
  ⟨0xA00034, 4, 0x10000, 1, 0x4, 0x800003FF, 0x800003FF, 0x0, 0x0, 0x0, false, true, 0⟩,
  ⟨0xA00038, 4, 0x10000, 1, 0x4, 0xFFFFFFC0, 0xFFFFFFC0, 0x0, 0x0, 0x0, false, false, 1⟩,
  ⟨0xA0003C, 4, 0x10000, 1, 0x4, 0xFFFFFFFF, 0xFFFFFFFF, 0x0, 0x0, 0x0, false, false, 2⟩,
  ⟨0xA00040, 4, 0x10000, 1, 0x4, 0x1FF, 0x1FF, 0x0, 0x0, 0x0, false, false, 0⟩,
  ⟨0xA00044, 4, 0x10000, 1, 0x4, 0xFF, 0x0, 0x0, 0x0, 0x0, false, false, 0⟩,
  ⟨0xA00048, 4, 0x10000, 1, 0x4, 0xFF, 0xFF, 0x0, 0x0, 0x0, false, false, 0⟩,
  ⟨0xA0004C, 4, 0x10000, 1, 0x4, 0xFFFFFFFF, 0x0, 0xFFFFFFFF, 0x0, 0x0, false, false, 0⟩,
  ⟨0xA00050, 4, 0x10000, 1, 0x4, 0xFFFFFFFF, 0x0, 0xFFFFFFFF, 0x0, 0x0, false, false, 0⟩,
  ⟨0xA00054, 4, 0x10000, 1, 0x4, 0xFFFFFFFF, 0x0, 0xFFFFFFFF, 0x0, 0x0, false, false, 0⟩,
  ⟨0xA00058, 4, 0x10000, 1, 0x4, 0xFFFFFFFF, 0x0, 0xFFFFFFFF, 0x0, 0x0, false, false, 0⟩,
  ⟨0xA0005C, 4, 0x10000, 1, 0x4, 0xFFFFFFFF, 0x0, 0xFFFFFFFF, 0x0, 0x0, false, false, 0⟩,
  ⟨0xA00060, 4, 0x10000, 1, 0x4, 0x81FFFFFF, 0x0, 0x81FFFFFF, 0x0, 0x0, false, false, 0⟩,
  ⟨0xA00064, 4, 0x10000, 1, 0x4, 0xFFFFFFFF, 0x0, 0x0, 0x0, 0x0, false, false, 1⟩,
  ⟨0xA00068, 4, 0x10000, 1, 0x4, 0xFFFFFFFF, 0x0, 0x0, 0x0, 0x0, false, false, 2⟩,
  ⟨0xA0006C, 4, 0x10000, 1, 0x4, 0x8FFF, 0x8FFF, 0x0, 0x0, 0x0, false, false, 0⟩]

/-- The registers of the KLN block, in the order of the chapter. -/
def regRowsKLN : List RegRow := [
  ⟨0xB00000, 4, 0x10000, 1, 0x4, 0x7, 0x7, 0x0, 0x4, 0x0, false, false, 0⟩,
  ⟨0xB00004, 4, 0x10000, 1, 0x4, 0x1F, 0x0, 0x0, 0x0, 0x1, false, false, 0⟩,
  ⟨0xB00008, 4, 0x10000, 1, 0x4, 0x1FFF, 0x0, 0x1FFF, 0x0, 0x0, false, false, 0⟩,
  ⟨0xB0000C, 4, 0x10000, 1, 0x4, 0x1FFF, 0x1FFF, 0x0, 0x0, 0x0, false, false, 0⟩,
  ⟨0xB00010, 4, 0x10000, 1, 0x4, 0xFFFFFFC0, 0xFFFFFFC0, 0x0, 0x0, 0x0, false, false, 1⟩,
  ⟨0xB00014, 4, 0x10000, 1, 0x4, 0xFFFFFFFF, 0xFFFFFFFF, 0x0, 0x0, 0x0, false, false, 2⟩,
  ⟨0xB00018, 4, 0x10000, 1, 0x4, 0x1FFF, 0x1FFF, 0x0, 0x0, 0x0, false, false, 0⟩,
  ⟨0xB0001C, 4, 0x10000, 1, 0x4, 0xFFF, 0x0, 0x0, 0x0, 0x0, false, false, 0⟩,
  ⟨0xB00020, 4, 0x10000, 1, 0x4, 0xFFF, 0xFFF, 0x0, 0x0, 0x0, false, false, 0⟩,
  ⟨0xB00024, 4, 0x10000, 1, 0x4, 0xFFFFFF00, 0xFFFFFF00, 0x0, 0x0, 0x0, false, false, 1⟩,
  ⟨0xB00028, 4, 0x10000, 1, 0x4, 0xFFFFFFFF, 0xFFFFFFFF, 0x0, 0x0, 0x0, false, false, 2⟩,
  ⟨0xB0002C, 4, 0x10000, 1, 0x4, 0x7F, 0x7F, 0x0, 0x0, 0x0, false, false, 0⟩,
  ⟨0xB00030, 4, 0x10000, 1, 0x4, 0x1F, 0x1F, 0x0, 0x0, 0xC, false, false, 0⟩,
  ⟨0xB00034, 4, 0x10000, 1, 0x4, 0xFFFFFFFF, 0xFFFFFFFF, 0x0, 0x0, 0x40000, false, false, 0⟩,
  ⟨0xB00038, 4, 0x10000, 1, 0x4, 0x1F, 0x0, 0x1F, 0x0, 0x0, false, false, 0⟩,
  ⟨0xB0003C, 4, 0x10000, 1, 0x4, 0xFFFFFFFF, 0x0, 0xFFFFFFFF, 0x0, 0x0, false, false, 0⟩,
  ⟨0xB00040, 4, 0x10000, 1, 0x4, 0xFFFFFFFF, 0x0, 0x0, 0x0, 0x0, false, false, 1⟩,
  ⟨0xB00044, 4, 0x10000, 1, 0x4, 0xFFFFFFFF, 0x0, 0x0, 0x0, 0x0, false, false, 2⟩,
  ⟨0xB00048, 4, 0x10000, 1, 0x4, 0xFFFFFFFF, 0xFFFFFFFF, 0x0, 0xFFFFFFFF, 0x0, false, false, 0⟩,
  ⟨0xB0004C, 4, 0x10000, 1, 0x4, 0x3, 0x0, 0x3, 0x0, 0x0, false, false, 0⟩]

/-- The registers of the FBX block, in the order of the chapter. -/
def regRowsFBX : List RegRow := [
  ⟨0xC00000, 4, 0x10000, 1, 0x4, 0x3, 0x3, 0x0, 0x2, 0x0, false, false, 0⟩,
  ⟨0xC00004, 4, 0x10000, 1, 0x4, 0x1F, 0x0, 0x0, 0x0, 0x1, false, false, 0⟩,
  ⟨0xC00008, 4, 0x10000, 1, 0x4, 0xFF, 0x0, 0xFF, 0x0, 0x0, false, false, 0⟩,
  ⟨0xC0000C, 4, 0x10000, 1, 0x4, 0xFF, 0xFF, 0x0, 0x0, 0x0, false, false, 0⟩,
  ⟨0xC00010, 4, 0x10000, 1, 0x4, 0xFFFFFFC0, 0xFFFFFFC0, 0x0, 0x0, 0x0, false, false, 1⟩,
  ⟨0xC00014, 4, 0x10000, 1, 0x4, 0xFFFFFFFF, 0xFFFFFFFF, 0x0, 0x0, 0x0, false, false, 2⟩,
  ⟨0xC00018, 4, 0x10000, 1, 0x4, 0x1FFF, 0x1FFF, 0x0, 0x0, 0x0, false, false, 0⟩,
  ⟨0xC0001C, 4, 0x10000, 1, 0x4, 0xFFF, 0x0, 0x0, 0x0, 0x0, false, false, 0⟩,
  ⟨0xC00020, 4, 0x10000, 1, 0x4, 0xFFF, 0xFFF, 0x0, 0x0, 0x0, false, false, 0⟩,
  ⟨0xC00024, 4, 0x10000, 1, 0x4, 0xFFFFFF80, 0xFFFFFF80, 0x0, 0x0, 0x0, false, false, 1⟩,
  ⟨0xC00028, 4, 0x10000, 1, 0x4, 0xFFFFFFFF, 0xFFFFFFFF, 0x0, 0x0, 0x0, false, false, 2⟩,
  ⟨0xC0002C, 4, 0x10000, 1, 0x4, 0xFFFFFFC0, 0xFFFFFFC0, 0x0, 0x0, 0x0, false, false, 1⟩,
  ⟨0xC00030, 4, 0x10000, 1, 0x4, 0xFFFFFFFF, 0xFFFFFFFF, 0x0, 0x0, 0x0, false, false, 2⟩,
  ⟨0xC00034, 4, 0x10000, 1, 0x4, 0xFFFFFFC0, 0xFFFFFFC0, 0x0, 0x0, 0x0, false, false, 1⟩,
  ⟨0xC00038, 4, 0x10000, 1, 0x4, 0xFFFFFFFF, 0xFFFFFFFF, 0x0, 0x0, 0x0, false, false, 2⟩,
  ⟨0xC0003C, 4, 0x10000, 1, 0x4, 0xFFFFFFC0, 0xFFFFFFC0, 0x0, 0x0, 0x0, false, false, 1⟩,
  ⟨0xC00040, 4, 0x10000, 1, 0x4, 0xFFFFFFFF, 0xFFFFFFFF, 0x0, 0x0, 0x0, false, false, 2⟩,
  ⟨0xC00044, 4, 0x10000, 1, 0x4, 0x1FFF, 0x1FFF, 0x0, 0x0, 0x0, false, false, 0⟩,
  ⟨0xC00048, 4, 0x10000, 1, 0x4, 0xFFFFFFFF, 0x0, 0xFFFFFFFF, 0x0, 0x0, false, false, 0⟩,
  ⟨0xC0004C, 4, 0x10000, 1, 0x4, 0xFFFFFFFF, 0x0, 0xFFFFFFFF, 0x0, 0x0, false, false, 0⟩,
  ⟨0xC00050, 4, 0x10000, 1, 0x4, 0xFFFFFFFF, 0x0, 0xFFFFFFFF, 0x0, 0x0, false, false, 0⟩,
  ⟨0xC00054, 4, 0x10000, 1, 0x4, 0xFFFFFFFF, 0x0, 0xFFFFFFFF, 0x0, 0x0, false, false, 0⟩,
  ⟨0xC00058, 4, 0x10000, 1, 0x4, 0xFFFFFFFF, 0x0, 0x0, 0x0, 0x0, false, false, 1⟩,
  ⟨0xC0005C, 4, 0x10000, 1, 0x4, 0xFFFFFFFF, 0x0, 0x0, 0x0, 0x0, false, false, 2⟩,
  ⟨0xC00060, 4, 0x10000, 1, 0x4, 0xFFFFFFFF, 0xFFFFFFFF, 0x0, 0xFFFFFFFF, 0x0, false, false, 0⟩,
  ⟨0xC00064, 4, 0x10000, 1, 0x4, 0x3, 0x0, 0x3, 0x0, 0x0, false, false, 0⟩]

/-- The registers of the CRK block, in the order of the chapter. -/
def regRowsCRK : List RegRow := [
  ⟨0xD00000, 72, 0x1000, 1, 0x4, 0x7, 0x7, 0x0, 0x2, 0x0, false, false, 0⟩,
  ⟨0xD00004, 72, 0x1000, 1, 0x4, 0x3F, 0x0, 0x0, 0x0, 0x5, false, false, 0⟩,
  ⟨0xD00008, 72, 0x1000, 1, 0x4, 0x3F, 0x0, 0x3F, 0x0, 0x0, false, false, 0⟩,
  ⟨0xD0000C, 72, 0x1000, 1, 0x4, 0x3F, 0x3F, 0x0, 0x0, 0x0, false, false, 0⟩,
  ⟨0xD00010, 72, 0x1000, 1, 0x4, 0xFFFFFFFC, 0xFFFFFFFC, 0x0, 0x0, 0x0, false, false, 1⟩,
  ⟨0xD00014, 72, 0x1000, 1, 0x4, 0xFFFFFFFF, 0xFFFFFFFF, 0x0, 0x0, 0x0, false, false, 2⟩,
  ⟨0xD00018, 72, 0x1000, 1, 0x4, 0xFFFFFFFF, 0x0, 0x0, 0x0, 0x0, false, false, 1⟩,
  ⟨0xD0001C, 72, 0x1000, 1, 0x4, 0xFFFFFFFF, 0x0, 0x0, 0x0, 0x0, false, false, 2⟩,
  ⟨0xD00020, 72, 0x1000, 1, 0x4, 0x800003FF, 0x0, 0x800003FF, 0x0, 0x0, false, false, 0⟩,
  ⟨0xD00024, 72, 0x1000, 1, 0x4, 0x1F, 0x0, 0x0, 0x0, 0x0, false, false, 0⟩,
  ⟨0xD00028, 72, 0x1000, 1, 0x4, 0xFFFFFFFF, 0x0, 0x0, 0x0, 0x0, false, false, 1⟩,
  ⟨0xD0002C, 72, 0x1000, 1, 0x4, 0xFFFFFFFF, 0x0, 0x0, 0x0, 0x0, false, false, 2⟩,
  ⟨0xD00030, 72, 0x1000, 1, 0x4, 0x13F, 0x0, 0x0, 0x0, 0x0, false, false, 0⟩,
  ⟨0xD00034, 72, 0x1000, 1, 0x4, 0xFFFFFFFF, 0xFFFFFFFF, 0x0, 0x0, 0x0, false, false, 0⟩,
  ⟨0xD80000, 64, 0x4, 1, 0x4, 0x8000007F, 0x8000007F, 0x0, 0x0, 0x0, true, false, 0⟩,
  ⟨0xD80100, 1, 0x4, 1, 0x4, 0xFFFFFFFF, 0xFFFFFFFF, 0x0, 0x0, 0x0, true, false, 1⟩,
  ⟨0xD80104, 1, 0x4, 1, 0x4, 0xFFFFFFFF, 0xFFFFFFFF, 0x0, 0x0, 0x0, true, false, 2⟩,
  ⟨0xD80108, 1, 0x4, 1, 0x4, 0xF, 0xF, 0x0, 0x0, 0x0, true, false, 0⟩]

/-- The registers of the CMB block, in the order of the chapter. -/
def regRowsCMB : List RegRow := [
  ⟨0xE00000, 1, 0x4, 1, 0x4, 0x3, 0x3, 0x0, 0x0, 0x0, false, false, 0⟩,
  ⟨0xE00004, 1, 0x4, 1, 0x4, 0x3, 0x0, 0x0, 0x0, 0x0, false, false, 0⟩,
  ⟨0xE00008, 1, 0x4, 1, 0x4, 0x3FF, 0x0, 0x3FF, 0x0, 0x0, false, false, 0⟩,
  ⟨0xE0000C, 1, 0x4, 1, 0x4, 0x3FF, 0x3FF, 0x0, 0x0, 0x0, false, false, 0⟩,
  ⟨0xE00010, 1, 0x4, 1, 0x4, 0xFFFF, 0xFFFF, 0x0, 0x0, 0x40, false, false, 0⟩,
  ⟨0xE00014, 1, 0x4, 1, 0x4, 0xF, 0xF, 0x0, 0x0, 0x3, false, false, 0⟩,
  ⟨0xE00018, 1, 0x4, 1, 0x4, 0xFFFFFFFF, 0x0, 0xFFFFFFFF, 0x0, 0x0, false, false, 0⟩,
  ⟨0xE0001C, 1, 0x4, 1, 0x4, 0xFFFFFFFF, 0x0, 0xFFFFFFFF, 0x0, 0x0, false, false, 0⟩,
  ⟨0xE00020, 1, 0x4, 1, 0x4, 0xFFFFFFFF, 0x0, 0xFFFFFFFF, 0x0, 0x0, false, false, 1⟩,
  ⟨0xE00024, 1, 0x4, 1, 0x4, 0x800FFFFF, 0x0, 0x800FFFFF, 0x0, 0x0, false, false, 2⟩,
  ⟨0xE00028, 1, 0x4, 1, 0x4, 0xFF, 0x0, 0x0, 0x0, 0x0, false, false, 0⟩,
  ⟨0xE0002C, 1, 0x4, 1, 0x4, 0x8000FFFF, 0x8000FFFF, 0x0, 0x80000000, 0x0, true, false, 0⟩,
  ⟨0xE00100, 64, 0x10, 1, 0x4, 0xFFFF0003, 0xFFFF0003, 0x0, 0x0, 0x0, false, false, 1⟩,
  ⟨0xE00104, 64, 0x10, 1, 0x4, 0xFFFF, 0xFFFF, 0x0, 0x0, 0x0, false, false, 2⟩,
  ⟨0xE00108, 64, 0x10, 1, 0x4, 0xFFFF0000, 0xFFFF0000, 0x0, 0x0, 0x0, false, false, 1⟩,
  ⟨0xE0010C, 64, 0x10, 1, 0x4, 0xFFFF, 0xFFFF, 0x0, 0x0, 0x0, false, false, 2⟩,
  ⟨0xE00800, 128, 0x4, 1, 0x4, 0x800000FF, 0x800000FF, 0x0, 0x0, 0x0, true, false, 0⟩,
  ⟨0xE10000, 136, 0x100, 1, 0x4, 0x3, 0x0, 0x0, 0x0, 0x0, false, false, 0⟩,
  ⟨0xE10004, 136, 0x100, 1, 0x4, 0xFFFFFFFF, 0x0, 0xFFFFFFFF, 0x0, 0x0, false, false, 0⟩,
  ⟨0xE10008, 136, 0x100, 1, 0x4, 0xFFFFFFFF, 0x0, 0xFFFFFFFF, 0x0, 0x0, false, false, 0⟩,
  ⟨0xE1000C, 136, 0x100, 1, 0x4, 0x3FFFFF, 0x0, 0x0, 0x0, 0x0, false, false, 0⟩,
  ⟨0xE10010, 136, 0x100, 1, 0x4, 0x3FFFFF, 0x0, 0x0, 0x0, 0x0, false, false, 0⟩]

/-- The registers of the HBM block, in the order of the chapter. -/
def regRowsHBM : List RegRow := [
  ⟨0x1000000, 1, 0x4, 1, 0x4, 0x7, 0x7, 0x0, 0x0, 0x0, false, false, 0⟩,
  ⟨0x1000004, 1, 0x4, 1, 0x4, 0x3FF, 0x0, 0x0, 0x0, 0x0, false, false, 0⟩,
  ⟨0x1000008, 1, 0x4, 1, 0x4, 0x3FF, 0x0, 0x3FF, 0x0, 0x0, false, false, 0⟩,
  ⟨0x100000C, 1, 0x4, 1, 0x4, 0x3FF, 0x3FF, 0x0, 0x0, 0x0, false, false, 0⟩,
  ⟨0x1000010, 1, 0x4, 1, 0x4, 0x1FF, 0x1FF, 0x0, 0x0, 0x0, true, true, 0⟩,
  ⟨0x1000014, 1, 0x4, 1, 0x4, 0xFFFF, 0xFFFF, 0x0, 0x0, 0x40, false, false, 0⟩,
  ⟨0x1000018, 1, 0x4, 1, 0x4, 0x7, 0x7, 0x0, 0x0, 0x3, false, false, 0⟩,
  ⟨0x100001C, 1, 0x4, 1, 0x4, 0xFFFFF, 0xFFFFF, 0x0, 0x0, 0x100A8, false, false, 0⟩,
  ⟨0x1000020, 1, 0x4, 1, 0x4, 0xFFFF, 0xFFFF, 0x0, 0x0, 0x3E8, false, false, 0⟩,
  ⟨0x1000024, 1, 0x4, 1, 0x4, 0xF, 0xF, 0x0, 0x0, 0x3, false, false, 0⟩,
  ⟨0x1000030, 1, 0x4, 1, 0x4, 0xFFFFFFFF, 0x0, 0xFFFFFFFF, 0x0, 0x0, false, false, 1⟩,
  ⟨0x1000034, 1, 0x4, 1, 0x4, 0x800FFFFF, 0x0, 0x800FFFFF, 0x0, 0x0, false, false, 2⟩,
  ⟨0x1000040, 8, 0x4, 1, 0x4, 0xFFFFFFFF, 0x0, 0x0, 0x0, 0x0, false, false, 0⟩,
  ⟨0x1010000, 256, 0x40, 1, 0x4, 0xF, 0x0, 0x0, 0x0, 0x0, false, false, 0⟩,
  ⟨0x1010004, 256, 0x40, 1, 0x4, 0xFFFFFFFF, 0x0, 0xFFFFFFFF, 0x0, 0x0, false, false, 0⟩,
  ⟨0x1010008, 256, 0x40, 1, 0x4, 0xFFFFFFFF, 0x0, 0xFFFFFFFF, 0x0, 0x0, false, false, 0⟩,
  ⟨0x101000C, 256, 0x40, 1, 0x4, 0xFFFFFFFF, 0x0, 0xFFFFFFFF, 0x0, 0x0, false, false, 0⟩,
  ⟨0x1010010, 256, 0x40, 1, 0x4, 0xFFFFFFFF, 0x0, 0xFFFFFFFF, 0x0, 0x0, false, false, 0⟩,
  ⟨0x1010014, 256, 0x40, 1, 0x4, 0xFFFFFFFF, 0x0, 0xFFFFFFFF, 0x0, 0x0, false, false, 0⟩,
  ⟨0x1010018, 256, 0x40, 1, 0x4, 0xFFFF, 0x0, 0x0, 0x0, 0x0, false, false, 0⟩]

/-- The registers of the MGN block, in the order of the chapter. -/
def regRowsMGN : List RegRow := [
  ⟨0x1700000, 1, 0x4, 1, 0x4, 0x3, 0x3, 0x0, 0x0, 0x0, true, false, 0⟩,
  ⟨0x1700004, 1, 0x4, 1, 0x4, 0x7, 0x0, 0x0, 0x0, 0x0, true, false, 0⟩,
  ⟨0x1700008, 1, 0x4, 1, 0x4, 0xFF01, 0xFF01, 0x0, 0x0, 0x0, true, false, 0⟩,
  ⟨0x170000C, 1, 0x4, 1, 0x4, 0xFF07, 0xFF07, 0x0, 0x0, 0x0, true, false, 0⟩,
  ⟨0x1700010, 1, 0x4, 1, 0x4, 0xFFFFFFC0, 0xFFFFFFC0, 0x0, 0x0, 0x0, true, false, 1⟩,
  ⟨0x1700014, 1, 0x4, 1, 0x4, 0xFFFFFFFF, 0xFFFFFFFF, 0x0, 0x0, 0x0, true, false, 2⟩,
  ⟨0x1700018, 1, 0x4, 1, 0x4, 0x1FFFFF, 0x1FFFFF, 0x0, 0x0, 0x0, true, false, 0⟩,
  ⟨0x170001C, 1, 0x4, 1, 0x4, 0xFF, 0xFF, 0x0, 0x0, 0x1, true, false, 0⟩,
  ⟨0x1700020, 1, 0x4, 1, 0x4, 0xFFFFFFFF, 0x0, 0x0, 0x0, 0x0, true, false, 0⟩,
  ⟨0x1700024, 1, 0x4, 1, 0x4, 0xFFFFFFFF, 0x0, 0x0, 0x0, 0x0, true, false, 0⟩]

/-- The registers of the FLU block, in the order of the chapter. -/
def regRowsFLU : List RegRow := [
  ⟨0x1300000, 1, 0x4, 1, 0x4, 0xF, 0xF, 0x0, 0x0, 0x0, false, false, 0⟩,
  ⟨0x1300004, 1, 0x4, 1, 0x4, 0x7F, 0x0, 0x0, 0x0, 0x0, false, false, 0⟩,
  ⟨0x1300008, 1, 0x4, 1, 0x4, 0x7F, 0x0, 0x7F, 0x0, 0x0, false, false, 0⟩,
  ⟨0x130000C, 1, 0x4, 1, 0x4, 0x7F, 0x7F, 0x0, 0x0, 0x0, false, false, 0⟩,
  ⟨0x1300010, 1, 0x4, 1, 0x4, 0x1FFFFFFF, 0x1FFFFFFF, 0x0, 0x0, 0x0, true, false, 0⟩,
  ⟨0x1300014, 1, 0x4, 1, 0x4, 0xFFFFFFFF, 0x0, 0x0, 0x0, 0x0, false, false, 1⟩,
  ⟨0x1300018, 1, 0x4, 1, 0x4, 0xFFFF, 0x0, 0x0, 0x0, 0x0, false, false, 2⟩,
  ⟨0x130001C, 1, 0x4, 1, 0x4, 0xFFFFFF07, 0xFFFFFF02, 0x0, 0x0, 0x4, true, false, 0⟩,
  ⟨0x1300020, 1, 0x4, 1, 0x4, 0xF1FF, 0xF1FF, 0x0, 0x0, 0x20, true, false, 0⟩,
  ⟨0x1300024, 1, 0x4, 1, 0x4, 0xFFFFFFC0, 0xFFFFFFC0, 0x0, 0x0, 0x0, true, false, 1⟩,
  ⟨0x1300028, 1, 0x4, 1, 0x4, 0xFFFFFFFF, 0xFFFFFFFF, 0x0, 0x0, 0x0, true, false, 2⟩,
  ⟨0x130002C, 1, 0x4, 1, 0x4, 0x1, 0x1, 0x0, 0x0, 0x0, true, true, 0⟩,
  ⟨0x1300030, 1, 0x4, 1, 0x4, 0xFFF, 0xFFF, 0x0, 0x0, 0x0, true, false, 0⟩,
  ⟨0x1300034, 1, 0x4, 1, 0x4, 0xFFFFFFC0, 0xFFFFFFC0, 0x0, 0x0, 0x0, false, false, 1⟩,
  ⟨0x1300038, 1, 0x4, 1, 0x4, 0xFFFFFFFF, 0xFFFFFFFF, 0x0, 0x0, 0x0, false, false, 2⟩,
  ⟨0x130003C, 1, 0x4, 1, 0x4, 0xFFFFFFFF, 0xFFFFFFFF, 0x0, 0x0, 0x3E8, false, false, 0⟩,
  ⟨0x1300040, 1, 0x4, 1, 0x4, 0xFFFFFFFF, 0x0, 0xFFFFFFFF, 0x0, 0x0, false, false, 0⟩,
  ⟨0x1300044, 1, 0x4, 1, 0x4, 0xFFFFFFFF, 0x0, 0xFFFFFFFF, 0x0, 0x0, false, false, 0⟩,
  ⟨0x1300048, 1, 0x4, 1, 0x4, 0xFFFFFFFF, 0xFFFFFFFF, 0x0, 0x0, 0x4E20, true, false, 0⟩,
  ⟨0x1300100, 4, 0x10, 1, 0x4, 0xFFFFFFC0, 0xFFFFFFC0, 0x0, 0x0, 0x0, false, false, 1⟩,
  ⟨0x1300104, 4, 0x10, 1, 0x4, 0xFFFFFFFF, 0xFFFFFFFF, 0x0, 0x0, 0x0, false, false, 2⟩,
  ⟨0x1300108, 4, 0x10, 1, 0x4, 0x1FFF, 0x1FFF, 0x0, 0x0, 0x0, false, false, 0⟩,
  ⟨0x130010C, 4, 0x10, 1, 0x4, 0xFFF, 0xFFF, 0x0, 0x0, 0x0, false, false, 0⟩,
  ⟨0x1300140, 4, 0x4, 1, 0x4, 0xFFF, 0x0, 0x0, 0x0, 0x0, false, false, 0⟩,
  ⟨0x1310000, 12, 0x1000, 1, 0x4, 0x7, 0x7, 0x0, 0x0, 0x0, true, false, 0⟩,
  ⟨0x1310004, 12, 0x1000, 1, 0x4, 0xFFF, 0x0, 0x0, 0x0, 0x0, false, false, 0⟩,
  ⟨0x1310008, 12, 0x1000, 1, 0x4, 0x1F, 0x0, 0x1F, 0x0, 0x0, false, false, 0⟩,
  ⟨0x131000C, 12, 0x1000, 1, 0x4, 0xFFFF, 0xFFFF, 0x0, 0x0, 0x1000, false, false, 0⟩,
  ⟨0x1310010, 12, 0x1000, 1, 0x4, 0xFFFF, 0xFFFF, 0x0, 0x0, 0x3E8, false, false, 0⟩,
  ⟨0x1310014, 12, 0x1000, 1, 0x4, 0xFFFF, 0x0, 0x0, 0x0, 0x0, false, false, 0⟩,
  ⟨0x1310018, 12, 0x1000, 1, 0x4, 0xFFFFFFFF, 0x0, 0xFFFFFFFF, 0x0, 0x0, false, false, 0⟩,
  ⟨0x131001C, 12, 0x1000, 1, 0x4, 0xFFFFFFFF, 0x0, 0xFFFFFFFF, 0x0, 0x0, false, false, 0⟩,
  ⟨0x1310020, 12, 0x1000, 1, 0x4, 0xFFFFFFFF, 0x0, 0xFFFFFFFF, 0x0, 0x0, false, false, 0⟩,
  ⟨0x1310024, 12, 0x1000, 1, 0x4, 0xFFFFFFFF, 0x0, 0xFFFFFFFF, 0x0, 0x0, false, false, 0⟩,
  ⟨0x1310028, 12, 0x1000, 1, 0x4, 0xFFFFFFFF, 0x0, 0xFFFFFFFF, 0x0, 0x0, false, false, 0⟩,
  ⟨0x131002C, 12, 0x1000, 1, 0x4, 0x3FF, 0x0, 0x0, 0x0, 0x0, false, false, 0⟩]

/-- The registers of the COL block, in the order of the chapter. -/
def regRowsCOL : List RegRow := [
  ⟨0x1400000, 4, 0x10000, 1, 0x4, 0x3, 0x3, 0x0, 0x2, 0x0, false, false, 0⟩,
  ⟨0x1400004, 4, 0x10000, 1, 0x4, 0x3F, 0x0, 0x0, 0x0, 0x1, false, false, 0⟩,
  ⟨0x1400008, 4, 0x10000, 1, 0x4, 0xFF, 0x0, 0xFF, 0x0, 0x0, false, false, 0⟩,
  ⟨0x140000C, 4, 0x10000, 1, 0x4, 0xFF, 0xFF, 0x0, 0x0, 0x0, false, false, 0⟩,
  ⟨0x1400010, 4, 0x10000, 1, 0x4, 0xFFFFFF80, 0xFFFFFF80, 0x0, 0x0, 0x0, false, false, 1⟩,
  ⟨0x1400014, 4, 0x10000, 1, 0x4, 0xFFFFFFFF, 0xFFFFFFFF, 0x0, 0x0, 0x0, false, false, 2⟩,
  ⟨0x1400018, 4, 0x10000, 1, 0x4, 0x1FFF, 0x1FFF, 0x0, 0x0, 0x0, false, false, 0⟩,
  ⟨0x140001C, 4, 0x10000, 1, 0x4, 0xFFF, 0x0, 0x0, 0x0, 0x0, false, false, 0⟩,
  ⟨0x1400020, 4, 0x10000, 1, 0x4, 0xFFF, 0xFFF, 0x0, 0x0, 0x0, false, false, 0⟩,
  ⟨0x1400024, 4, 0x10000, 1, 0x4, 0x80003FFF, 0x0, 0x80003FFF, 0x0, 0x0, false, false, 0⟩,
  ⟨0x1400028, 4, 0x10000, 1, 0x4, 0xFFFF, 0x0, 0xFFFF, 0x0, 0x0, false, false, 0⟩,
  ⟨0x140002C, 4, 0x10000, 1, 0x4, 0xFFFFFFFF, 0x0, 0xFFFFFFFF, 0x0, 0x0, false, false, 0⟩,
  ⟨0x1400030, 4, 0x10000, 1, 0x4, 0xFFFFFFFF, 0x0, 0xFFFFFFFF, 0x0, 0x0, false, false, 0⟩,
  ⟨0x1400034, 4, 0x10000, 1, 0x4, 0x7FFF, 0x7FFF, 0x0, 0x0, 0x1, false, false, 0⟩,
  ⟨0x1400038, 4, 0x10000, 1, 0x4, 0xFFFFFFFF, 0xFFFFFFFF, 0x0, 0xFFFFFFFF, 0x0, false, false, 0⟩,
  ⟨0x140003C, 4, 0x10000, 1, 0x4, 0x3, 0x0, 0x3, 0x0, 0x0, false, false, 0⟩]

/-- The registers of the FFY block, in the order of the chapter. -/
def regRowsFFY : List RegRow := [
  ⟨0x1600000, 1, 0x4, 1, 0x4, 0x3, 0x3, 0x0, 0x0, 0x0, false, true, 0⟩,
  ⟨0x1600004, 1, 0x4, 1, 0x4, 0x1, 0x0, 0x0, 0x0, 0x0, false, false, 0⟩,
  ⟨0x1600010, 1, 0x4, 1, 0x4, 0xFFFFFFFF, 0x0, 0x0, 0x0, 0x0, false, false, 1⟩,
  ⟨0x1600014, 1, 0x4, 1, 0x4, 0xFFFFFFFF, 0x0, 0x0, 0x0, 0x0, false, false, 2⟩,
  ⟨0x1600100, 7, 0x40, 8, 0x8, 0xFFFFFFFF, 0x0, 0x0, 0x0, 0x0, false, false, 1⟩,
  ⟨0x1600104, 7, 0x40, 8, 0x8, 0xFFFFFFFF, 0x0, 0x0, 0x0, 0x0, false, false, 2⟩,
  ⟨0x1601000, 512, 0x4, 1, 0x4, 0xFFFFFFFF, 0xFFFFFFFF, 0x0, 0x0, 0x0, false, false, 0⟩]

/-- The registers of the SYN block, in the order of the chapter. -/
def regRowsSYN : List RegRow := [
  ⟨0x600000, 1, 0x4, 1, 0x4, 0x3, 0x3, 0x0, 0x0, 0x2, false, false, 0⟩,
  ⟨0x600004, 1, 0x4, 1, 0x4, 0x3FF, 0x0, 0x0, 0x0, 0x0, false, false, 0⟩,
  ⟨0x600008, 1, 0x4, 1, 0x4, 0x1F, 0x0, 0x1F, 0x0, 0x0, false, false, 0⟩,
  ⟨0x60000C, 1, 0x4, 1, 0x4, 0x1F, 0x1F, 0x0, 0x0, 0x0, false, false, 0⟩,
  ⟨0x600010, 1, 0x4, 1, 0x4, 0xFFFFFF, 0xFFFFFF, 0x0, 0x0, 0x898, false, false, 0⟩,
  ⟨0x600014, 1, 0x4, 1, 0x4, 0x81FF7FFF, 0x0, 0x81FF7FFF, 0x0, 0x0, false, false, 0⟩,
  ⟨0x600018, 1, 0x4, 1, 0x4, 0xFFF, 0xFFF, 0x0, 0xFFF, 0x0, false, false, 0⟩,
  ⟨0x610000, 4096, 0x8, 1, 0x4, 0x7FFFFFF, 0x7FFFFFF, 0x0, 0x0, 0x0, false, false, 0⟩,
  ⟨0x610004, 4096, 0x8, 1, 0x4, 0x3FFFFFF, 0xFFFF, 0x30000, 0x0, 0x0, false, false, 0⟩,
  ⟨0x618000, 4096, 0x4, 1, 0x4, 0xFFFF, 0xFFFF, 0x0, 0xFFFF, 0x0, false, false, 0⟩,
  ⟨0x620000, 256, 0x80, 16, 0x4, 0xFFFFFFFF, 0xFFFFFFFF, 0x0, 0x0, 0x0, false, false, 0⟩,
  ⟨0x620040, 256, 0x80, 1, 0x4, 0x3FFF3FFF, 0xFFF3FFF, 0x0, 0x0, 0x0, false, false, 0⟩]

/-- The registers of the CLK block, in the order of the chapter. -/
def regRowsCLK : List RegRow := [
  ⟨0x300000, 1, 0x4, 1, 0x4, 0x7, 0x7, 0x0, 0x0, 0x0, true, false, 0⟩,
  ⟨0x300004, 1, 0x4, 1, 0x4, 0xFF, 0x0, 0x0, 0x0, 0x0, false, false, 0⟩,
  ⟨0x300008, 1, 0x4, 1, 0x4, 0x3F, 0x0, 0x3F, 0x0, 0x0, false, false, 0⟩,
  ⟨0x30000C, 1, 0x4, 1, 0x4, 0x3F, 0x3F, 0x0, 0x0, 0x0, false, false, 0⟩,
  ⟨0x300010, 1, 0x4, 1, 0x4, 0xFFFF, 0x0, 0x0, 0x0, 0x0, false, false, 0⟩,
  ⟨0x300014, 1, 0x4, 1, 0x4, 0xFFFFFFFF, 0x0, 0x0, 0x0, 0x0, false, false, 0⟩,
  ⟨0x300018, 1, 0x4, 1, 0x4, 0xFFFF, 0xFFFF, 0x0, 0x0, 0xA, true, false, 0⟩,
  ⟨0x30001C, 1, 0x4, 1, 0x4, 0x7F, 0x0, 0x7F, 0x0, 0x0, false, false, 0⟩,
  ⟨0x300020, 1, 0x4, 1, 0x4, 0xFFFFFFFF, 0x0, 0xFFFFFFFF, 0x0, 0x0, false, false, 0⟩]

/-- The registers of the PWR block, in the order of the chapter. -/
def regRowsPWR : List RegRow := [
  ⟨0x400000, 1, 0x4, 1, 0x4, 0x3, 0x3, 0x0, 0x0, 0x3, true, true, 0⟩,
  ⟨0x400004, 1, 0x4, 1, 0x4, 0x3F, 0x0, 0x0, 0x0, 0x0, true, true, 0⟩,
  ⟨0x400008, 1, 0x4, 1, 0x4, 0x7F, 0x0, 0x7F, 0x0, 0x0, true, true, 0⟩,
  ⟨0x40000C, 1, 0x4, 1, 0x4, 0x7F, 0x7F, 0x0, 0x0, 0x0, true, true, 0⟩,
  ⟨0x400010, 1, 0x4, 1, 0x4, 0xFFFF, 0xFFFF, 0x0, 0x0, 0xBB8, true, true, 0⟩,
  ⟨0x400014, 1, 0x4, 1, 0x4, 0xFFFF, 0xFFFF, 0x0, 0x0, 0xD48, true, true, 0⟩,
  ⟨0x400018, 1, 0x4, 1, 0x4, 0xFFFF, 0xFFFF, 0x0, 0x0, 0x2710, true, true, 0⟩,
  ⟨0x40001C, 1, 0x4, 1, 0x4, 0xFFFFFF, 0xFFFF, 0x0, 0x0, 0x6E645F, true, true, 0⟩,
  ⟨0x400020, 1, 0x4, 1, 0x4, 0x7FFFFFF, 0x7FFFFFF, 0x0, 0x0, 0x322856E, true, true, 0⟩,
  ⟨0x400024, 1, 0x4, 1, 0x4, 0xFF, 0xFF, 0x0, 0x0, 0xF, true, true, 0⟩,
  ⟨0x400028, 1, 0x4, 1, 0x4, 0xFFFFFFFF, 0x0, 0x0, 0x0, 0x0, true, true, 0⟩,
  ⟨0x40002C, 1, 0x4, 1, 0x4, 0xFFFFFFFF, 0x0, 0x0, 0x0, 0x0, true, true, 0⟩,
  ⟨0x400030, 1, 0x4, 1, 0x4, 0xFFFFFFFF, 0x0, 0x0, 0x0, 0x0, true, true, 1⟩,
  ⟨0x400034, 1, 0x4, 1, 0x4, 0xFFFFFFFF, 0xFFFFFFFF, 0x0, 0x0, 0x0, true, true, 2⟩,
  ⟨0x400040, 7, 0x4, 1, 0x4, 0xFFF, 0xFFF, 0x0, 0x0, 0x0, true, true, 0⟩,
  ⟨0x400100, 4, 0x10, 1, 0x4, 0xFFF, 0xFFF, 0x0, 0x0, 0x2EE, true, true, 0⟩,
  ⟨0x400104, 4, 0x10, 1, 0x4, 0xFFF, 0x0, 0x0, 0x0, 0x0, true, true, 0⟩,
  ⟨0x400108, 4, 0x10, 1, 0x4, 0xFFFF, 0x0, 0x0, 0x0, 0x0, true, true, 0⟩,
  ⟨0x40010C, 4, 0x10, 1, 0x4, 0xFFFF, 0x0, 0x0, 0x0, 0x0, true, true, 0⟩,
  ⟨0x400200, 16, 0x4, 1, 0x4, 0xFFFFFFFF, 0x0, 0x0, 0x0, 0x0, true, true, 0⟩]

/-- The registers of the SEC block, in the order of the chapter. -/
def regRowsSEC : List RegRow := [
  ⟨0x200000, 1, 0x4, 1, 0x4, 0x1FFF, 0x0, 0x0, 0x0, 0x0, true, false, 0⟩,
  ⟨0x200004, 1, 0x4, 1, 0x4, 0x1FF, 0x0, 0x1FF, 0x0, 0x0, true, false, 0⟩,
  ⟨0x200008, 1, 0x4, 1, 0x4, 0x1FF, 0x1FF, 0x0, 0x0, 0x0, true, false, 0⟩,
  ⟨0x20000C, 1, 0x4, 1, 0x4, 0x377, 0x0, 0x0, 0x0, 0x4, true, false, 0⟩,
  ⟨0x200010, 1, 0x4, 1, 0x4, 0x1, 0x1, 0x0, 0x1, 0x0, true, false, 0⟩,
  ⟨0x200014, 1, 0x4, 1, 0x4, 0xFFFFFFFF, 0x0, 0x0, 0x0, 0x0, true, false, 0⟩,
  ⟨0x200018, 1, 0x4, 1, 0x4, 0xFFFFFFFF, 0x0, 0x0, 0x0, 0x0, true, false, 0⟩,
  ⟨0x20001C, 1, 0x4, 1, 0x4, 0xF, 0x0, 0x0, 0x0, 0x0, true, false, 0⟩,
  ⟨0x200020, 1, 0x4, 1, 0x4, 0xFFFFFFFF, 0x0, 0x0, 0x0, 0x0, true, false, 0⟩,
  ⟨0x200040, 16, 0x4, 1, 0x4, 0xFFFFFFFF, 0x0, 0x0, 0x0, 0x0, true, false, 0⟩]

/-- The registers of the ERR block, in the order of the chapter. -/
def regRowsERR : List RegRow := [
  ⟨0x500000, 1, 0x4, 1, 0x4, 0x3, 0x3, 0x0, 0x0, 0x2, true, false, 0⟩,
  ⟨0x500004, 1, 0x4, 1, 0x4, 0xFF, 0x0, 0x0, 0x0, 0x0, false, false, 0⟩,
  ⟨0x500008, 1, 0x4, 1, 0x4, 0x7FF, 0x0, 0x7FF, 0x0, 0x0, false, false, 0⟩,
  ⟨0x50000C, 1, 0x4, 1, 0x4, 0x7FF, 0x7FF, 0x0, 0x0, 0x0, false, false, 0⟩,
  ⟨0x500010, 1, 0x4, 1, 0x4, 0xFFFF, 0x0, 0x0, 0x0, 0x0, false, false, 0⟩,
  ⟨0x500014, 1, 0x4, 1, 0x4, 0xFFFFFFC0, 0xFFFFFFC0, 0x0, 0x0, 0x0, true, false, 1⟩,
  ⟨0x500018, 1, 0x4, 1, 0x4, 0xFFFFFFFF, 0xFFFFFFFF, 0x0, 0x0, 0x0, true, false, 2⟩,
  ⟨0x50001C, 1, 0x4, 1, 0x4, 0xFF, 0x0, 0x0, 0x0, 0x0, false, false, 0⟩,
  ⟨0x500020, 1, 0x4, 1, 0x4, 0xFF, 0xFF, 0x0, 0x0, 0x0, false, false, 0⟩,
  ⟨0x500024, 1, 0x4, 1, 0x4, 0xFFFFFFFF, 0x0, 0xFFFFFFFF, 0x0, 0x0, false, false, 0⟩,
  ⟨0x500028, 1, 0x4, 1, 0x4, 0xFFFFFFFF, 0x0, 0x0, 0x0, 0x0, false, false, 1⟩,
  ⟨0x50002C, 1, 0x4, 1, 0x4, 0xFFFFFFFF, 0x0, 0x0, 0x0, 0x0, false, false, 2⟩,
  ⟨0x500030, 1, 0x4, 1, 0x4, 0xFFFFFFFF, 0x0, 0xFFFFFFFF, 0x0, 0x0, false, false, 0⟩,
  ⟨0x500034, 1, 0x4, 1, 0x4, 0xFFFFFFFF, 0x0, 0xFFFFFFFF, 0x0, 0x0, false, false, 0⟩,
  ⟨0x500038, 1, 0x4, 1, 0x4, 0xFF, 0x0, 0x0, 0x0, 0x0, false, false, 0⟩,
  ⟨0x50003C, 1, 0x4, 1, 0x4, 0xF, 0xF, 0x0, 0x0, 0x3, true, false, 0⟩,
  ⟨0x500040, 1, 0x4, 1, 0x4, 0xFFFFFF, 0xFFFFFF, 0x0, 0x0, 0x186A0, true, false, 0⟩,
  ⟨0x500044, 1, 0x4, 1, 0x4, 0xFFFFFF, 0xFFFFFF, 0x0, 0x0, 0x2710, true, false, 0⟩,
  ⟨0x500048, 1, 0x4, 1, 0x4, 0xFFFFFFC0, 0xFFFFFFC0, 0x0, 0x0, 0x0, true, false, 1⟩,
  ⟨0x50004C, 1, 0x4, 1, 0x4, 0xFFFFFFFF, 0xFFFFFFFF, 0x0, 0x0, 0x0, true, false, 2⟩,
  ⟨0x500050, 1, 0x4, 1, 0x4, 0xFFFFF000, 0xFFFFF000, 0x0, 0x0, 0x0, true, false, 1⟩,
  ⟨0x500054, 1, 0x4, 1, 0x4, 0xFFFFFFFF, 0xFFFFFFFF, 0x0, 0x0, 0x0, true, false, 2⟩,
  ⟨0x500058, 1, 0x4, 1, 0x4, 0xFFFFF000, 0xFFFFF000, 0x0, 0x0, 0x0, true, false, 1⟩,
  ⟨0x50005C, 1, 0x4, 1, 0x4, 0xFFFFFFFF, 0xFFFFFFFF, 0x0, 0x0, 0x0, true, false, 2⟩,
  ⟨0x500060, 1, 0x4, 1, 0x4, 0x13FFFFF, 0x13FFFFF, 0x0, 0x0, 0x280000, true, true, 0⟩,
  ⟨0x500064, 1, 0x4, 1, 0x4, 0xFFFFFFFF, 0x0, 0x0, 0x0, 0x0, false, false, 1⟩,
  ⟨0x500068, 1, 0x4, 1, 0x4, 0xFFFFFFFF, 0x0, 0x0, 0x0, 0x0, false, false, 2⟩,
  ⟨0x50006C, 1, 0x4, 1, 0x4, 0x1, 0x1, 0x0, 0x0, 0x0, true, false, 0⟩]

/-- The registers of the GEN block, in the order of the chapter. -/
def regRowsGEN : List RegRow := [
  ⟨0x0, 1, 0x4, 1, 0x4, 0xFFFFFF, 0x0, 0x0, 0x0, 0x7264, false, false, 0⟩,
  ⟨0x4, 1, 0x4, 1, 0x4, 0x1FF, 0x0, 0x0, 0x0, 0x0, false, false, 0⟩,
  ⟨0x8, 1, 0x4, 1, 0x4, 0xF7FFFFF, 0x0, 0x0, 0x0, 0x0, false, false, 0⟩,
  ⟨0xC, 1, 0x4, 1, 0x4, 0xFFFFFFFF, 0xFFFFFFFF, 0x0, 0x0, 0x0, false, false, 0⟩,
  ⟨0x10, 1, 0x4, 1, 0x4, 0x7, 0x0, 0x7, 0x0, 0x0, false, false, 0⟩,
  ⟨0x14, 1, 0x4, 1, 0x4, 0xFFFFFFFF, 0x0, 0xFFFFFFFF, 0x0, 0x0, false, false, 0⟩,
  ⟨0x18, 1, 0x4, 1, 0x4, 0x83FFFFFF, 0x0, 0x83FFFFFF, 0x0, 0x0, false, false, 0⟩,
  ⟨0x1C, 1, 0x4, 1, 0x4, 0x83FFFFFF, 0x0, 0x83FFFFFF, 0x0, 0x0, false, false, 0⟩,
  ⟨0x20, 1, 0x4, 1, 0x4, 0x17F, 0x0, 0x0, 0x0, 0x0, false, false, 0⟩,
  ⟨0x28, 1, 0x4, 1, 0x4, 0xFFFFFFFF, 0x0, 0x0, 0x0, 0x0, false, false, 1⟩,
  ⟨0x2C, 1, 0x4, 1, 0x4, 0xFFFFFFFF, 0x0, 0x0, 0x0, 0x0, false, false, 2⟩]

/-- The registers of the CFG block, in the order of the chapter. -/
def regRowsCFG : List RegRow := [
  ⟨0x100000, 1, 0x4, 1, 0x4, 0x7, 0x0, 0x0, 0x0, 0x0, false, false, 0⟩,
  ⟨0x100004, 1, 0x4, 1, 0x4, 0x7FFF, 0x0, 0x0, 0x0, 0x0, false, false, 0⟩,
  ⟨0x100008, 1, 0x4, 1, 0x4, 0x7FFF7FFF, 0x0, 0x0, 0x0, 0x0, false, false, 0⟩,
  ⟨0x10000C, 1, 0x4, 1, 0x4, 0x7FFF7FFF, 0x0, 0x0, 0x0, 0x0, false, false, 0⟩,
  ⟨0x100010, 1, 0x4, 1, 0x4, 0xFFFFFFFF, 0x0, 0x0, 0x0, 0x0, false, false, 0⟩,
  ⟨0x100014, 1, 0x4, 1, 0x4, 0xFFFFFFFF, 0x0, 0x0, 0x0, 0x0, false, false, 0⟩,
  ⟨0x100018, 1, 0x4, 1, 0x4, 0x1, 0x1, 0x0, 0x0, 0x1, true, false, 0⟩,
  ⟨0x100040, 16, 0x4, 1, 0x4, 0xFFFFFFFF, 0x0, 0x0, 0x0, 0x0, false, false, 0⟩]

/-- The registers of the CXL block, in the order of the chapter. -/
def regRowsCXL : List RegRow := [
  ⟨0x1200000, 1, 0x4, 1, 0x4, 0x1, 0x1, 0x0, 0x0, 0x0, true, false, 0⟩,
  ⟨0x1200004, 1, 0x4, 1, 0x4, 0x7F, 0x0, 0x0, 0x0, 0x0, false, false, 0⟩,
  ⟨0x1200008, 1, 0x4, 1, 0x4, 0x1F, 0x0, 0x1F, 0x0, 0x0, false, false, 0⟩,
  ⟨0x120000C, 1, 0x4, 1, 0x4, 0x1F, 0x1F, 0x0, 0x0, 0x0, false, false, 0⟩,
  ⟨0x1200010, 1, 0x4, 1, 0x4, 0x3, 0x0, 0x3, 0x0, 0x0, false, false, 0⟩,
  ⟨0x1200014, 1, 0x4, 1, 0x4, 0xFFFFF, 0xFFFFF, 0x0, 0x0, 0xFFFF7, false, false, 0⟩,
  ⟨0x1200018, 1, 0x4, 1, 0x4, 0xFFFFFFFF, 0xFFFFFFFF, 0x0, 0xFFFFFFFF, 0x0, false, false, 0⟩,
  ⟨0x1200020, 1, 0x4, 1, 0x4, 0xFFFFFFFF, 0x0, 0x0, 0x0, 0x0, false, false, 1⟩,
  ⟨0x1200024, 1, 0x4, 1, 0x4, 0xFFFFFFFF, 0x0, 0x0, 0x0, 0x0, false, false, 2⟩,
  ⟨0x1210000, 2, 0x1000, 1, 0x4, 0xFFF, 0x0, 0x0, 0x0, 0x0, false, false, 0⟩,
  ⟨0x1210004, 2, 0x1000, 1, 0x4, 0xFFFFFFFF, 0x0, 0xFFFFFFFF, 0x0, 0x0, false, false, 0⟩,
  ⟨0x1210008, 2, 0x1000, 1, 0x4, 0xFFFFFFFF, 0x0, 0x0, 0x0, 0x0, false, false, 1⟩,
  ⟨0x121000C, 2, 0x1000, 1, 0x4, 0xFFFFFFFF, 0x0, 0x0, 0x0, 0x0, false, false, 2⟩]

/-- Every register of BAR0 that a table lists (R542). -/
def regTable : List RegRow :=
  regRowsHRT ++
  regRowsDMP ++
  regRowsNUM ++
  regRowsBLW ++
  regRowsKLN ++
  regRowsFBX ++
  regRowsCRK ++
  regRowsCMB ++
  regRowsHBM ++
  regRowsMGN ++
  regRowsFLU ++
  regRowsCOL ++
  regRowsFFY ++
  regRowsSYN ++
  regRowsCLK ++
  regRowsPWR ++
  regRowsSEC ++
  regRowsERR ++
  regRowsGEN ++
  regRowsCFG ++
  regRowsCXL

/-- The registers whose tables give a reset value that is not zero. -/
def resetRows : List RegRow := [
  ⟨0x800004, 136, 0x1000, 1, 0x4, 0x73F, 0x0, 0x0, 0x0, 0x1, false, false, 0⟩,
  ⟨0x800028, 136, 0x1000, 1, 0x4, 0xFFFF, 0x0, 0xFF00, 0x0, 0xFF00, false, false, 0⟩,
  ⟨0x80002C, 136, 0x1000, 1, 0x4, 0xFF, 0xFF, 0x0, 0x0, 0x10, true, false, 0⟩,
  ⟨0x150000C, 1, 0x4, 1, 0x4, 0xFFFF03FF, 0xFFFF03FF, 0x0, 0x0, 0x20, false, false, 0⟩,
  ⟨0x1501000, 256, 0x10, 1, 0x4, 0x3FFFF7F, 0x3FFFF7F, 0x0, 0x0, 0x4, false, false, 0⟩,
  ⟨0x1501004, 256, 0x10, 1, 0x4, 0xFFFF00FF, 0xFFFF00FF, 0x0, 0x0, 0x7F, false, false, 0⟩,
  ⟨0xA00004, 4, 0x10000, 1, 0x4, 0xFFFF, 0x0, 0x0, 0x0, 0x2, false, false, 0⟩,
  ⟨0xB00004, 4, 0x10000, 1, 0x4, 0x1F, 0x0, 0x0, 0x0, 0x1, false, false, 0⟩,
  ⟨0xB00030, 4, 0x10000, 1, 0x4, 0x1F, 0x1F, 0x0, 0x0, 0xC, false, false, 0⟩,
  ⟨0xB00034, 4, 0x10000, 1, 0x4, 0xFFFFFFFF, 0xFFFFFFFF, 0x0, 0x0, 0x40000, false, false, 0⟩,
  ⟨0xC00004, 4, 0x10000, 1, 0x4, 0x1F, 0x0, 0x0, 0x0, 0x1, false, false, 0⟩,
  ⟨0xD00004, 72, 0x1000, 1, 0x4, 0x3F, 0x0, 0x0, 0x0, 0x5, false, false, 0⟩,
  ⟨0xE00010, 1, 0x4, 1, 0x4, 0xFFFF, 0xFFFF, 0x0, 0x0, 0x40, false, false, 0⟩,
  ⟨0xE00014, 1, 0x4, 1, 0x4, 0xF, 0xF, 0x0, 0x0, 0x3, false, false, 0⟩,
  ⟨0x1000014, 1, 0x4, 1, 0x4, 0xFFFF, 0xFFFF, 0x0, 0x0, 0x40, false, false, 0⟩,
  ⟨0x1000018, 1, 0x4, 1, 0x4, 0x7, 0x7, 0x0, 0x0, 0x3, false, false, 0⟩,
  ⟨0x100001C, 1, 0x4, 1, 0x4, 0xFFFFF, 0xFFFFF, 0x0, 0x0, 0x100A8, false, false, 0⟩,
  ⟨0x1000020, 1, 0x4, 1, 0x4, 0xFFFF, 0xFFFF, 0x0, 0x0, 0x3E8, false, false, 0⟩,
  ⟨0x1000024, 1, 0x4, 1, 0x4, 0xF, 0xF, 0x0, 0x0, 0x3, false, false, 0⟩,
  ⟨0x170001C, 1, 0x4, 1, 0x4, 0xFF, 0xFF, 0x0, 0x0, 0x1, true, false, 0⟩,
  ⟨0x130001C, 1, 0x4, 1, 0x4, 0xFFFFFF07, 0xFFFFFF02, 0x0, 0x0, 0x4, true, false, 0⟩,
  ⟨0x1300020, 1, 0x4, 1, 0x4, 0xF1FF, 0xF1FF, 0x0, 0x0, 0x20, true, false, 0⟩,
  ⟨0x130003C, 1, 0x4, 1, 0x4, 0xFFFFFFFF, 0xFFFFFFFF, 0x0, 0x0, 0x3E8, false, false, 0⟩,
  ⟨0x1300048, 1, 0x4, 1, 0x4, 0xFFFFFFFF, 0xFFFFFFFF, 0x0, 0x0, 0x4E20, true, false, 0⟩,
  ⟨0x131000C, 12, 0x1000, 1, 0x4, 0xFFFF, 0xFFFF, 0x0, 0x0, 0x1000, false, false, 0⟩,
  ⟨0x1310010, 12, 0x1000, 1, 0x4, 0xFFFF, 0xFFFF, 0x0, 0x0, 0x3E8, false, false, 0⟩,
  ⟨0x1400004, 4, 0x10000, 1, 0x4, 0x3F, 0x0, 0x0, 0x0, 0x1, false, false, 0⟩,
  ⟨0x1400034, 4, 0x10000, 1, 0x4, 0x7FFF, 0x7FFF, 0x0, 0x0, 0x1, false, false, 0⟩,
  ⟨0x600000, 1, 0x4, 1, 0x4, 0x3, 0x3, 0x0, 0x0, 0x2, false, false, 0⟩,
  ⟨0x600010, 1, 0x4, 1, 0x4, 0xFFFFFF, 0xFFFFFF, 0x0, 0x0, 0x898, false, false, 0⟩,
  ⟨0x300018, 1, 0x4, 1, 0x4, 0xFFFF, 0xFFFF, 0x0, 0x0, 0xA, true, false, 0⟩,
  ⟨0x400000, 1, 0x4, 1, 0x4, 0x3, 0x3, 0x0, 0x0, 0x3, true, true, 0⟩,
  ⟨0x400010, 1, 0x4, 1, 0x4, 0xFFFF, 0xFFFF, 0x0, 0x0, 0xBB8, true, true, 0⟩,
  ⟨0x400014, 1, 0x4, 1, 0x4, 0xFFFF, 0xFFFF, 0x0, 0x0, 0xD48, true, true, 0⟩,
  ⟨0x400018, 1, 0x4, 1, 0x4, 0xFFFF, 0xFFFF, 0x0, 0x0, 0x2710, true, true, 0⟩,
  ⟨0x40001C, 1, 0x4, 1, 0x4, 0xFFFFFF, 0xFFFF, 0x0, 0x0, 0x6E645F, true, true, 0⟩,
  ⟨0x400020, 1, 0x4, 1, 0x4, 0x7FFFFFF, 0x7FFFFFF, 0x0, 0x0, 0x322856E, true, true, 0⟩,
  ⟨0x400024, 1, 0x4, 1, 0x4, 0xFF, 0xFF, 0x0, 0x0, 0xF, true, true, 0⟩,
  ⟨0x400100, 4, 0x10, 1, 0x4, 0xFFF, 0xFFF, 0x0, 0x0, 0x2EE, true, true, 0⟩,
  ⟨0x20000C, 1, 0x4, 1, 0x4, 0x377, 0x0, 0x0, 0x0, 0x4, true, false, 0⟩,
  ⟨0x500000, 1, 0x4, 1, 0x4, 0x3, 0x3, 0x0, 0x0, 0x2, true, false, 0⟩,
  ⟨0x50003C, 1, 0x4, 1, 0x4, 0xF, 0xF, 0x0, 0x0, 0x3, true, false, 0⟩,
  ⟨0x500040, 1, 0x4, 1, 0x4, 0xFFFFFF, 0xFFFFFF, 0x0, 0x0, 0x186A0, true, false, 0⟩,
  ⟨0x500044, 1, 0x4, 1, 0x4, 0xFFFFFF, 0xFFFFFF, 0x0, 0x0, 0x2710, true, false, 0⟩,
  ⟨0x500060, 1, 0x4, 1, 0x4, 0x13FFFFF, 0x13FFFFF, 0x0, 0x0, 0x280000, true, true, 0⟩,
  ⟨0x0, 1, 0x4, 1, 0x4, 0xFFFFFF, 0x0, 0x0, 0x0, 0x7264, false, false, 0⟩,
  ⟨0x100018, 1, 0x4, 1, 0x4, 0x1, 0x1, 0x0, 0x0, 0x1, true, false, 0⟩,
  ⟨0x1200014, 1, 0x4, 1, 0x4, 0xFFFFF, 0xFFFFF, 0x0, 0x0, 0xFFFF7, false, false, 0⟩]

/-- The row that covers an offset; none: the offset is reserved (R14, R542). -/
def regRow? (off : Nat) : Option RegRow := regTable.find? (·.covers off)

/-- The value of a register right after reset: what its table gives, zero where the table gives none (log 1, log 2).
The hob windows of the cricket block start at secure level and running (R322). -/
def regReset (off : Nat) : Nat :=
  if 0xD44000 ≤ off ∧ off < 0xD48000 ∧ off % 0x1000 = 0 then 1
  else if 0xD44000 ≤ off ∧ off < 0xD48000 ∧ off % 0x1000 = 4 then 8
  else ((resetRows.find? (·.covers off)).map (·.reset)).getD 0

end Sys2Proof.Machine
end

