-- ==== Sys2Proof/Machine/Sparse.lean ====
section
/-! DEFINITION. Sparse tables: lists of (key, value) pairs in one canonical form, keys strictly rising and no entry
equal to what an unlisted key reads as. Memory, registers and every large family of like things are held so, so that
equal tables are equal data. -/

namespace Sys2Proof.Machine

/-- A sparse table with values in `α`. -/
abbrev Sparse (α : Type) := List (Nat × α)

/-- What key `k` reads as; `d` is what an unlisted key reads as. -/
def Sparse.look {α : Type} (m : Sparse α) (d : α) (k : Nat) : α :=
  match m with
  | [] => d
  | (j, v) :: t => if j = k then v else Sparse.look t d k

/-- Drops the entry of `k`. -/
def Sparse.drop {α : Type} (m : Sparse α) (k : Nat) : Sparse α :=
  match m with
  | [] => []
  | (j, v) :: t => if j = k then Sparse.drop t k else (j, v) :: Sparse.drop t k

/-- Puts an entry for `k` at its place. -/
def Sparse.put {α : Type} (m : Sparse α) (k : Nat) (v : α) : Sparse α :=
  match m with
  | [] => [(k, v)]
  | (j, w) :: t =>
    if k < j then (k, v) :: (j, w) :: t
    else if j = k then (k, v) :: t
    else (j, w) :: Sparse.put t k v

/-- Writes `v` at `k`; the value an unlisted key reads as removes the entry. -/
def Sparse.write {α : Type} [DecidableEq α] (m : Sparse α) (d : α) (k : Nat) (v : α) : Sparse α :=
  if v = d then m.drop k else m.put k v

/-- The canonical form: keys strictly rising above `lo`, no entry equal to its default. -/
def Sparse.wfFrom {α : Type} [DecidableEq α] (d : Nat → α) (lo : Option Nat) (m : Sparse α) : Bool :=
  match m with
  | [] => true
  | (k, v) :: t =>
    (match lo with
     | none => true
     | some l => decide (l < k)) && decide (v ≠ d k) && Sparse.wfFrom d (some k) t

/-- The canonical form of a whole table. -/
def Sparse.wf {α : Type} [DecidableEq α] (d : Nat → α) (m : Sparse α) : Bool := Sparse.wfFrom d none m

end Sys2Proof.Machine
end

