-- ==== Sys2Proof/Machine/State.lean ====
section
/-! DEFINITION. The state of the block: plain data, everything the spec gives the module, and State.reset.
Registers are held by BAR0 offset; an unlisted offset reads the reset value of its table (Machine/RegMap.lean,
`regReset`). Memory is held by physical place (Machine/Memory.lean). -/

namespace Sys2Proof.Machine

/-- Why a command stops the block. No rule of the spec stops the whole block, and no meaning answers a fault. -/
inductive Fault where
  /-- Raised by no meaning: the block has no processor fault, every error is a record, a veto or a stop in State
  (R518, R535 to R537). Safe: it never happens. -/
  | none
  deriving DecidableEq, Repr

/-- Why a command has no meaning. -/
inductive Refusal where
  /-- Raised by an arm of exec whose command has no meaning yet. Safe: the model says nothing about it. -/
  | notModelled (mnemonic : String)
  deriving DecidableEq, Repr

/-- The BAR0 bus beside the registers (R548, R550). `rdata` is the model's own output log (log 3). -/
structure Bus where
  /-- per requester: the pair its read shadow serves and the high word -/
  shadow : Sparse (Option (Nat × Nat))
  /-- per requester: the pair its write holder serves and the low word -/
  holder : Sparse (Option (Nat × Nat))
  /-- per requester: the data its last read returned -/
  rdata : Sparse Nat
  /-- per block base: the posted write that waits, offset, low and high half -/
  posted : Sparse (Option (Nat × Nat × Option Nat))
  deriving DecidableEq, Repr

/-- A command copy that a unit holds in front of its queue. -/
structure QCmd where
  slot : Nat
  addr : Nat
  bytes : List Byte
  /-- the side entry read with it (hearths) -/
  side : List Byte
  /-- the policy words read with it (hearths) -/
  policy : List Nat
  /-- the side entry's read was uncorrectable (R587) -/
  sideBad : Bool
  /-- the command has been aborted in the queue (R456) -/
  aborted : Bool
  deriving DecidableEq, Repr

/-- What every command queue holds beside its registers. -/
structure Queue where
  /-- copies fetched from the ring, oldest first -/
  cmds : List QCmd
  /-- ring slots of commands aborted before they were fetched (R456) -/
  abortedSlots : List Nat
  /-- the head has started (R588) -/
  started : Bool
  /-- the command behind the head has started too: its waves run while the head's last tile drains (R95) -/
  ahead : Bool
  /-- tag of the command that ended last, until the next one starts: an abort may still meet it behind its status write
  point (R455, log 104) -/
  last : Option Nat
  /-- a write of the unit met an unmapped address since the command in progress started (R328) -/
  wfault : Bool
  deriving DecidableEq, Repr

/-- The empty queue. -/
def Queue.empty : Queue := { cmds := [], abortedSlots := [], started := false, ahead := false, last := none, wfault := false }

/-- One lane's accumulator buffer (R83): the 104-bit register in two's complement and the 64-bit register. -/
structure Lane where
  big : BitVec 104
  small : BitVec 64
  /-- the sum became infinite from finite operands (R53, R109) -/
  ovf : Bool
  /-- the 48-bit sum saturated (R52) -/
  sat : Bool
  deriving DecidableEq, Repr

/-- A finished tile in the drain's buffer (R82, R108 to R112). `need`: 0 drain, 1 re-drain, 2 re-run. -/
structure FinTile where
  idx : Nat
  attempt : Nat
  /-- binades that a re-run took from A (R112) -/
  shift : Nat
  lanes : Sparse Lane
  /-- scales chosen at attempt 0, by cell row * 2^32 + cell column (R150) -/
  base : Sparse Nat
  /-- the numerics watch has selected the tile (R160) -/
  sel : Bool
  /-- its last wave left an accumulator infinite from finite operands: the next waves are withheld (R112) -/
  marked : Bool
  need : Nat
  deriving DecidableEq, Repr

/-- A numerics-watch check in progress (R161 to R164). -/
structure Watch where
  idx : Nat
  attempt : Nat
  /-- the recheck has run and the reference sums are in `lanes` -/
  ran : Bool
  notChecked : Bool
  lanes : Sparse Lane
  /-- codes written, by row * 256 + column -/
  codes : Sparse Nat
  /-- scale byte in force, by row * 256 + column -/
  scales : Sparse Nat
  /-- C and bias codes as the drain used them (R161) -/
  c : Sparse Nat
  bias : Sparse Nat
  deriving DecidableEq, Repr

/-- An operand bank of 128 KiB with its scale store of 16 KiB (R126): the first k of the damper block that it holds, the
64-byte strips of it that are in place (R127), element codes by row * 512 + depth, and scale bytes by grid cell. -/
structure Bank where
  k0 : Nat
  strips : Nat
  codes : Sparse Nat
  scales : Sparse Nat
  deriving DecidableEq, Repr

/-- An empty bank. -/
def Bank.empty : Bank := { k0 := 0, strips := 0, codes := [], scales := [] }

/-- The two alternating banks of an operand, and which of them holds the present block. -/
structure BankPair where
  even : Bank
  odd : Bank
  cur : Bool
  deriving DecidableEq, Repr

/-- Both banks empty. -/
def BankPair.empty : BankPair := { even := Bank.empty, odd := Bank.empty, cur := false }

/-- A side bank of 256 KiB (R126): the tile whose side operand it holds, element codes by row * 256 + column, scale bytes by
grid cell. -/
structure SideBank where
  tile : Option Nat
  codes : Sparse Nat
  scales : Sparse Nat
  deriving DecidableEq, Repr

/-- An empty side bank. -/
def SideBank.empty : SideBank := { tile := none, codes := [], scales := [] }

/-- A MATMUL in progress. -/
structure HRun where
  cmd : QCmd
  borrowed : Bool
  /-- tile the array accumulates, and waves issued for it -/
  tile : Nat
  wave : Nat
  lanes : Sparse Lane
  /-- operand banks with their scale stores, and the two side banks: tiles of even and of odd number (R126, R133) -/
  bankA : BankPair
  bankB : BankPair
  side0 : SideBank
  side1 : SideBank
  fin : Option FinTile
  watch : Option Watch
  tilesDone : Nat
  maxAtt : Nat
  tilesSat : Nat
  attempts : Nat
  nonfinite : Nat
  misses : Nat
  breached : Bool
  deriving DecidableEq, Repr

/-- A hearth and its damper beside their registers. `bubble`: 0 none, 1 a BUBBLE, 2 a hold bubble. -/
structure Hearth where
  /-- the command whose waves the array takes -/
  run : Option HRun
  /-- the command before it, whose last tile still drains or is checked (R95) -/
  prev : Option HRun
  borrow : Option QCmd
  susp : Option HRun
  bubble : Nat
  /-- engine cycle at which the bubble started, and the pace misses inside it (R99) -/
  bubbleAt : Nat
  bubbleMiss : Nat
  ptabs : Sparse (List Byte)
  /-- the table load in progress: table, image, its first uncorrectable granule (R139) -/
  ptLoad : Option (Nat × List Byte × Option (Nat × Nat))
  /-- tap records that wait, each with its operand's SCALE code (R145, log 106) -/
  tapBuf : List (Nat × List Byte)
  /-- the power manager's least slack, and whether a wave has run since it was restarted (R87, R474) -/
  pmLeast : Nat
  pmRan : Bool
  deriving DecidableEq, Repr

/-- A hearth after reset. -/
def Hearth.idle : Hearth :=
  { run := none, prev := none, borrow := none, susp := none, bubble := 0, bubbleAt := 0, bubbleMiss := 0, ptabs := [],
    ptLoad := none, tapBuf := [], pmLeast := 255, pmRan := false }

/-- The numerics block beside its registers. -/
structure Num where
  /-- generator states of 128 bits: drain lane 256 h + j, firebox lane 32768 + 256 f + j (R173) -/
  gens : Sparse Nat
  /-- history rings by policy entry, newest first (R158) -/
  hist : Sparse (List Nat)
  /-- histogram copies by ((quadrant * 16 + set) * 2 + kind) * 64 + bin (R166) -/
  bins : Sparse Nat
  /-- watch counters by logical hearth (R160) -/
  watchCtr : Sparse Nat
  /-- operation in progress: 0 none, 1 seeding, 2 save, 3 restore -/
  op : Nat
  deriving DecidableEq, Repr

/-- A stalled wait: queue identifier, counter, whether it takes (R444, R446), and the idle cause that FFY_BCAUSE gave its
counter when it started (R438). -/
structure Waiter where
  qid : Nat
  ctr : Nat
  take : Bool
  cause : Nat
  /-- idle cycles of this wait, not yet counted: by the highest other cause of the cycle, 8 for none (R435) -/
  idle : Sparse Nat
  deriving DecidableEq, Repr

/-- The SYN block beside its registers. -/
structure Syn where
  waiters : List Waiter
  /-- queues whose head wait has been released and whose head has not started -/
  released : List Nat
  /-- per group slot: queues that have arrived in this round -/
  arrived : Sparse (List Nat)
  /-- per group slot: ports whose tree spark has come in this round -/
  treeSeen : Sparse (List Nat)
  /-- held remote sparks, oldest first: counter, stream tag, expected count (R451) -/
  hold : List (Nat × Nat × Nat)
  /-- snapshot of counts by counter and of phases by 4096 + slot (R443) -/
  snap : Sparse Nat
  /-- arrivals and tree sparks of the rounds of that snapshot, by group slot (log 127) -/
  snapArrived : Sparse (List Nat)
  snapSeen : Sparse (List Nat)
  /-- queue identifiers of units that lend their power, and of units whose lent budget returns (R454, R476) -/
  lent : List Nat
  recalled : List Nat
  /-- causes under which the command in progress of a queue was delayed, by queue identifier (R435) -/
  delays : Sparse (List Nat)
  /-- delay cause that the last spark of a counter carried, plus one; 0: none (R435) -/
  carried : Sparse Nat
  deriving DecidableEq, Repr

/-- The memory system beside its bytes. -/
structure Ram where
  /-- spare rows used by pair * 512 + subarray (R338) -/
  sparesUsed : Sparse Nat
  /-- trackers of 16 rows: slices at their pair number, channels at 256 + channel; (row, count) (R343) -/
  trackers : Sparse (List (Nat × Nat))
  /-- next line of each channel walker (R340) -/
  hbmPos : Sparse Nat
  /-- retries of the present transaction by channel, and millisecond * 2^20 + retries in it (R353, R354) -/
  retries : Sparse Nat
  retriesMs : Sparse Nat
  /-- a transaction failed again after its retrain is due one more try, by channel -/
  exhausted : Sparse Bool
  /-- engine cycle at which the channel was last trained (R355) -/
  trainedAt : Sparse Nat
  /-- temperature of each stack in °C as last reported, and of its stack when a channel was last trained (R354) -/
  stackTemp : Sparse Nat
  trainedTemp : Sparse Nat
  /-- places and lengths that the margining run in progress has written (R363, R367) -/
  margin : List (Nat × Nat)
  /-- rows waiting for soft repair: channel and row (R356) -/
  pprRows : List (Nat × Nat)
  /-- soft repair in progress: channel and row -/
  repairing : List (Nat × Nat)
  retiring : Option (Nat × Nat)
  reform : Option Nat
  deriving DecidableEq, Repr

/-- The step in progress and what the hob keeps about it (16_step_commit_replay_and_errors.md). -/
structure Job where
  /-- payload of the JOB record in force (R495) -/
  jrec : List Byte
  /-- number of the step that runs -/
  step : Nat
  /-- the verdict of this step has been issued (R519) -/
  issued : Bool
  hw : Bool
  nf : Bool
  rwd : Bool
  /-- stop code that this device holds for the verdict; 0 none -/
  stop : Nat
  /-- vetoes held for the next run (R519) -/
  heldHw : Bool
  heldNf : Bool
  heldRwd : Bool
  heldStop : Nat
  /-- journal entries of the step: address, value, mask (R523) -/
  entries : List (Nat × Nat × Nat)
  /-- replays of this step in a row (R527) -/
  replays : Nat
  /-- units that found a hardware fault in this run, and in the run before (kind, index) (R528, R529) -/
  faulty : List (Nat × Nat)
  prevFaulty : List (Nat × Nat)
  /-- verdict result: status and the twelve sums, once the collective has ended -/
  result : Option (Nat × List Nat)
  /-- outcome decided and not yet carried out: 0 none, 1 commit, 2 skip, 3 replay, 4 rewind -/
  outcome : Nat
  /-- CKBUSY of the verdict in force (R531) -/
  ckBusy : Bool
  /-- a deferred checkpoint (R531) -/
  ckDefer : Bool
  /-- step whose snapshot is staged and drains; the drain has ended -/
  ckDrain : Option Nat
  ckEnded : Bool
  /-- the ranges that the staged snapshot covers: base and length -/
  ckRegs : List (Nat × Nat)
  /-- step that the load or a rewind resumes at -/
  firstStep : Nat
  /-- number of the last step that committed, or zero (R513) -/
  lastCommit : Nat
  deriving DecidableEq, Repr

/-- No job. -/
def Job.none : Job where
  jrec := []
  step := 0
  issued := false
  hw := false
  nf := false
  rwd := false
  stop := 0
  heldHw := false
  heldNf := false
  heldRwd := false
  heldStop := 0
  entries := []
  replays := 0
  faulty := []
  prevFaulty := []
  result := Option.none
  outcome := 0
  ckBusy := false
  ckDefer := false
  ckDrain := Option.none
  ckEnded := false
  ckRegs := []
  firstStep := 0
  lastCommit := 0

/-- A far-tier range (R564): base address, length in bytes, port; with two-port interleave the port of each 256-byte
unit alternates. -/
structure FarRange where
  base : Nat
  size : Nat
  port : Nat
  ilv : Bool
  deriving DecidableEq, Repr

/-- The CXL ports beside their registers: capacities in GiB of the devices attached per port, in bus order. -/
structure Cxl where
  devs : Sparse (List Nat)
  ranges : List FarRange
  deriving DecidableEq, Repr

/-- The always-on block and the pins (15, 19). -/
structure Aon where
  standby : Bool
  pg : Bool
  ready : Bool
  /-- thermal trip latch (R479, R577) -/
  tripped : Bool
  /-- the root PLL is locked and the divider chain released (R467) -/
  locked : Bool
  oscWait : Nat
  hobSel : Nat
  nvmMode : Nat
  fabMaster : Bool
  /-- PUF seed kept until the next fall of PG (R500) -/
  seed : Option (List Byte)
  /-- the ROM stage has run since the last rising edge of PG -/
  romRan : Bool
  /-- last stop code (R578) -/
  lastStop : Nat
  /-- last byte read on the standby management bus; the model's own output (log 3) -/
  mgmtOut : Nat
  deriving DecidableEq, Repr

/-- Interrupts and the host side beside the CXL registers. `msix` is the model's own output log (log 3). -/
structure Irq where
  /-- bit v: the cause of vector v holds (R561) -/
  active : Nat
  /-- vectors sent, oldest first -/
  msix : List Nat
  /-- vectors that wait for the link (R559) -/
  owed : List Nat
  alertN : Bool
  /-- resets of the endpoint's configuration space and MSI-X table so far (R555) -/
  epResets : Nat
  deriving DecidableEq, Repr

/-- A message that leaves in link control: a NAK of a link sequence number (R374), or a frame mark with its frame number
(R393). -/
inductive LinkMsg where
  | nak (seq : Nat)
  | mark (frame : Nat)
  deriving DecidableEq, Repr

/-- A flue port beside its registers. `out` and `held` are packets of 64 bytes. -/
structure Port where
  /-- the last 64 packets sent with their link sequence numbers, oldest first (R374) -/
  replay : List (Nat × List Byte)
  nextSeq : Nat
  /-- packets that wait in the output queue, oldest first (R376) -/
  held : List (List Byte)
  /-- packet buffers of the neighbour taken and not yet known to be free again, by traffic class (R376) -/
  used : Sparse Nat
  /-- link sequence numbers asked for again and not yet received (R374) -/
  missing : List Nat
  /-- reorder buffer: later packets with their numbers, oldest first (R374) -/
  reorder : List (Nat × List Byte)
  /-- identity record of the cartridge; none: no cartridge (R398) -/
  cart : Option (List Byte)
  /-- the cartridge's laser is enabled, and its supply is on (R399, R586) -/
  laser : Bool
  /-- retrain at the next step boundary (R403, R586) -/
  retrain : Bool
  /-- thresholds of the cartridge's life that have been reported: 0 none, 1 LIFE_WARN, 2 LIFE_OUT (R400) -/
  lifeSeen : Nat
  deriving DecidableEq, Repr

/-- A flue port after reset. -/
def Port.idle : Port where
  replay := []
  nextSeq := 0
  held := []
  used := []
  missing := []
  reorder := []
  cart := none
  laser := false
  retrain := false
  lifeSeen := 0

/-- A send whose stream has left and is not yet acknowledged whole (R384). -/
structure OpenSend where
  cmd : QCmd
  acked : List Nat
  deriving DecidableEq, Repr

/-- A stream injector (R384). -/
structure Injector where
  opened : List OpenSend
  deriving DecidableEq, Repr

/-- The fabric beside its registers. -/
structure Flue where
  ports : Sparse Port
  /-- table entries of 128 bits: version * 8192 + entry for routes, + 4096 for trees (R388) -/
  tables : Sparse Nat
  /-- validity of versions 0 and 1 (R389) -/
  valid0 : Bool
  valid1 : Bool
  /-- image address of the commit that runs -/
  commit : Option Nat
  /-- packets at local delivery or at a tree leg, oldest first: arrival port (12: this device), packet (R381, R589) -/
  deliver : List (Nat × List Byte)
  injs : Sparse Injector
  /-- running stream sums by receive descriptor (R539) -/
  rxSum : Sparse Nat
  /-- switch frame of an emergency switch (R395) -/
  emergAt : Option Nat
  /-- notices seen: link and switch frame -/
  notices : List (Nat × Nat)
  /-- packets of the other epoch are discarded: an emergency switch has happened (R395) -/
  dropOld : Bool
  /-- last step for which this device has injected a packet (R390) -/
  injected : Option Nat
  /-- step of the last planned switch (R391) -/
  switchStep : Nat
  /-- injections that wait for a planned switch, oldest first: the route identifier of a routed one, the packet (R390) -/
  waiting : List (Option Nat × List Byte)
  /-- fallback route sets of the loaded image: link and device address of its table image (R395, R495) -/
  fallbacks : List (Nat × Nat)
  /-- last monitor readings by port (R398) -/
  monitors : List (List Nat)
  /-- packets that left the device, oldest first: port, packet; the model's own output (log 3) -/
  out : List (Nat × List Byte)
  /-- link control that left the device, oldest first: port, message; the model's own output (log 3) -/
  ctl : List (Nat × LinkMsg)
  deriving DecidableEq, Repr

/-- The fabric after reset. -/
def Flue.reset : Flue where
  ports := []
  tables := []
  valid0 := false
  valid1 := false
  commit := none
  deliver := []
  injs := []
  rxSum := []
  emergAt := none
  notices := []
  dropOld := false
  injected := none
  switchStep := 0
  waiting := []
  fallbacks := []
  monitors := []
  out := []
  ctl := []

/-- A product of a root iteration (R194): addresses and format words of its operands and its result. -/
structure Prod where
  a : Nat
  aw : Nat
  b : Nat
  bw : Nat
  d : Nat
  dw : Nat
  deriving DecidableEq, Repr

/-- A root job (R192 to R203). `st`: 0 IDLE, 1 PREP, 2 RUN, 3 DONE, 4 BREACHED. `req`: 0 no request yet, 1 outstanding,
2 answered. -/
structure RootJob where
  block : Nat
  st : Nat
  retry : Bool
  iter : Nat
  /-- the products of iteration `iter` have been started -/
  ran : Bool
  exp : Int
  req : Nat
  deliver : Nat
  prods : List Prod
  next : Nat
  flight : Nat
  deriving DecidableEq, Repr

/-- No job. -/
def RootJob.none : RootJob where
  block := 0
  st := 0
  retry := false
  iter := 0
  ran := false
  exp := 0
  req := 0
  deliver := 0
  prods := []
  next := 0
  flight := 0

/-- A factor of a bellows: its validated descriptor (empty: invalid), the rows of the step and its job. -/
structure Fact where
  desc : List Byte
  /-- lowest row of the step not yet processed (R184) -/
  jo : Nat
  /-- a row of the step has been accumulated -/
  acc : Bool
  /-- chunks present, by row: bit c of the value (R184) -/
  got : Sparse Nat
  /-- G is being read; next vector of G (R186) -/
  reading : Bool
  vec : Nat
  folded : Bool
  job : RootJob
  /-- the job as the last commit saved it (R199) -/
  saved : RootJob
  deriving DecidableEq, Repr

/-- An invalid factor. -/
def Fact.none : Fact where
  desc := []
  jo := 0
  acc := false
  got := []
  reading := false
  vec := 0
  folded := false
  job := RootJob.none
  saved := RootJob.none

/-- A bellows beside its registers. -/
structure Blw where
  facts : Sparse Fact
  /-- factors whose eigenvalue request waits, in the order their jobs started (R244) -/
  order : List Nat
  /-- the factor whose request is outstanding -/
  asked : Option Nat
  /-- the step holds, since an engine cycle (R198) -/
  hold : Option Nat
  deriving DecidableEq, Repr

/-- A bellows after reset. -/
def Blw.reset : Blw := { facts := [], order := [], asked := none, hold := none }

/-- A SOLVE in progress (R226 to R242). Numbers are strict binary64 data by their bits (R68). -/
structure Solve where
  cmd : QCmd
  /-- the base of the context records when the command started (R250) -/
  ctxBase : Nat
  /-- the curvature-class iteration runs; false: physics class or retry -/
  fixed : Bool
  /-- preconditioner in use: 0 none, 1 Jacobi, 2 block-Jacobi, 3 IC(0), 4 ILU(0) -/
  prec : Nat
  /-- iterate and working vectors, by the names of R228 -/
  x : List Nat
  r : List Nat
  p : List Nat
  z : List Nat
  rho : Nat
  /-- GMRES: basis, columns of h after rotation, rotations, right-hand side g -/
  vs : List (List Nat)
  hs : List (List Nat)
  rot : List (Nat × Nat)
  g : List Nat
  bnorm : Nat
  r0 : Nat
  /-- the residual of the last iteration, and that of the iterate `x` (R236) -/
  res : Nat
  xres : Nat
  iters : Nat
  restarts : Nat
  charged : Nat
  flags : Nat
  deriving DecidableEq, Repr

/-- A kiln beside its registers. -/
structure Kln where
  run : Option Solve
  /-- the request slot (R244) -/
  req : Option Nat
  deriving DecidableEq, Repr

/-- A kiln after reset. -/
def Kln.reset : Kln := { run := none, req := none }

/-- The ember store (R502), by content. -/
structure Ember where
  /-- the integrity tag verifies (R503) -/
  tagOk : Bool
  /-- digest of the configuration headers in force when last written -/
  digest : List Byte
  trim : Int
  bootCount : Nat
  /-- retained settings: BAR0 offset and value -/
  retained : List (Nat × Nat)
  /-- cartridge hours: cartridge key and minutes, least recently seen first (R399) -/
  minutes : List (Nat × Nat)
  /-- HBM repair list: channel and row (R356) -/
  repair : List (Nat × Nat)
  /-- power, thermal and start-up records, newest last -/
  ring : List (List Byte)
  deriving DecidableEq, Repr

/-- An ember store that holds nothing. -/
def Ember.empty : Ember where
  tagOk := false
  digest := []
  trim := 0
  bootCount := 0
  retained := []
  minutes := []
  repair := []
  ring := []

/-- The configuration NVM (R491). -/
structure Nvm where
  /-- the directory: boot slot, and the two slots' images -/
  boot : Nat
  slot0 : List Byte
  slot1 : List Byte
  /-- the device certificate -/
  cert : List Byte
  count0 : Nat
  count1 : Nat
  deriving DecidableEq, Repr

/-- An NVM that holds nothing. -/
def Nvm.empty : Nvm := { boot := 0, slot0 := [], slot1 := [], cert := [], count0 := 0, count1 := 0 }

/-- A cricket core (R285, R293, R318). -/
structure Crk where
  g : Sparse DWord
  v : Sparse (BitVec 512)
  w : Sparse (BitVec 32768)
  msk : Sparse (BitVec 4096)
  store : Sparse Byte
  /-- bytes of the local store whose read is uncorrectable (R320) -/
  storeBad : List Nat
  /-- words in the instruction cache by address / 4 (R288) -/
  icache : List (Nat × Word)
  vl : Nat
  wl : Nat
  tz : Bool
  mz : Bool
  fpstat : BitVec 5
  tvec : DWord
  tcause : DWord
  tval : DWord
  tpc : DWord
  /-- TSTATE: level before the trap, IN_TRAP -/
  tlevel : Nat
  inTrap : Bool
  rgnBase : Sparse DWord
  rgnCtl : Sparse DWord
  secctl : DWord
  /-- a hob cricket that runs the boot ROM (R284) -/
  rom : Bool
  pc : DWord
  halted : Bool
  level : Nat
  /-- stalled in WAIT or WAITT (R295); stalled in SYNCW (R311) -/
  waiting : Bool
  syncing : Bool
  deriving DecidableEq, Repr

/-- A halted core whose registers are clear, at level `l`. -/
def Crk.clear (l : Nat) : Crk where
  g := []
  v := []
  w := []
  msk := []
  store := []
  storeBad := []
  icache := []
  vl := 0
  wl := 0
  tz := false
  mz := false
  fpstat := 0
  tvec := 0
  tcause := 0
  tval := 0
  tpc := 0
  tlevel := 0
  inTrap := false
  rgnBase := []
  rgnCtl := []
  secctl := 0
  rom := false
  pc := 0
  halted := true
  level := l
  waiting := false
  syncing := false

/-- Cricket c after reset: workers halted, hob crickets in the boot ROM at secure level (R284). -/
def Crk.reset (c : Nat) : Crk := if c < 68 then Crk.clear 1 else { Crk.clear 2 with halted := false, rom := true }

/-- The power manager beside its registers (R472 to R479). -/
structure Pwr where
  /-- by quadrant: V0 in 0.1 mV and Tcal, found at stage CALIB; the last hottest junction reading -/
  v0 : Sparse Nat
  tcal : Sparse Int
  hot : Sparse Int
  /-- by quadrant: a pace miss in this period; periods for which step-downs stay blocked -/
  missed : Sparse Bool
  block : Sparse Nat
  /-- the excursion counter (R477) -/
  exc : Nat
  /-- the limits that have raised the throttle level -/
  byExc : Bool
  byPeak : Bool
  byHot : Bool
  /-- the last input reading in watts; the junction stands at or above THROT -/
  input : Nat
  tooHot : Bool
  /-- quadrants over their grant (R475) -/
  overs : List Nat
  /-- microjoules not yet counted in PWR_ENERGY -/
  microJ : Nat
  /-- VARR rails that their regulators try to restore, oldest first (R472) -/
  restoring : List Nat
  deriving DecidableEq, Repr

/-- The power manager after reset. -/
def Pwr.reset : Pwr where
  v0 := []
  tcal := []
  hot := []
  missed := []
  block := []
  exc := 0
  byExc := false
  byPeak := false
  byHot := false
  input := 0
  tooHot := false
  overs := []
  microJ := 0
  restoring := []

/-- What the hob holds: the configuration in force, the loaded image, the host command that runs, the debug session. -/
structure Hob where
  /-- first 256 bytes of the configuration container in force, and of its owner section; empty: none -/
  cfgHdr : List Byte
  ownHdr : List Byte
  /-- the records in force, in order: type, owner section, payload -/
  recs : List (Nat × Bool × List Byte)
  /-- first 256 bytes of the Cuham image that is loaded; empty: none -/
  imgHdr : List Byte
  /-- CODE records of the loaded image: target and payload -/
  code : List (Nat × List Byte)
  /-- the command taken from the control page: command, sequence, arguments (R509) -/
  cmd : Option (Nat × Nat × Nat × Nat)
  /-- a LOAD waits on the load barrier (R510 step 9) -/
  loading : Bool
  /-- offsets of registers with Loaded fields that software has changed and the ember store does not hold yet (R504) -/
  changed : List Nat
  /-- this fabric master has received frame marks (R486) -/
  dual : Bool
  nonce : Option (List Byte)
  deriving DecidableEq, Repr

/-- The hob after reset. -/
def Hob.reset : Hob where
  cfgHdr := []
  ownHdr := []
  recs := []
  imgHdr := []
  code := []
  cmd := none
  loading := false
  changed := []
  dual := false
  nonce := none

/-- What a device holds of one tree in one epoch (R409, R410, R421). -/
structure TNode where
  /-- next block index to combine -/
  next : Nat
  /-- contributions held: source * 2^32 + index, source 12 for the local one -/
  contrib : Sparse (List Byte)
  /-- next index expected of each child port -/
  expect : Sparse Nat
  /-- combined blocks that the parent has not acknowledged, oldest first -/
  kept : List (Nat × List Byte)
  /-- lowest chunk that the parent has not acknowledged -/
  acked : Nat
  /-- packets of an operation that has not started here: port, packet -/
  early : List (Nat × List Byte)
  /-- additions that overflowed (R416) -/
  nonfin : Nat
  raises : Nat
  /-- the node holds a vetoing status and forwards no data (R420) -/
  stopped : Bool
  deriving DecidableEq, Repr

/-- A tree node that holds nothing. -/
def TNode.empty : TNode where
  next := 0
  contrib := []
  expect := []
  kept := []
  acked := 0
  early := []
  nonfin := 0
  raises := 0
  stopped := false

/-- A collective operation that this device takes part in (R405 to R424). -/
structure ColRun where
  cmd : QCmd
  tree : Nat
  epoch : Nat
  /-- data blocks; the status has this index (R418) -/
  nb : Nat
  /-- this device writes the result -/
  writes : Bool
  root : Bool
  /-- the local contribution, block by block, with its status as the last -/
  own : List (List Byte)
  /-- result blocks received or combined -/
  res : Sparse (List Byte)
  rnext : Nat
  /-- the status this node sent on -/
  sent : Option (List Byte)
  restarted : Bool
  deriving DecidableEq, Repr

/-- A collective engine beside its registers. -/
structure Col where
  run : Option ColRun
  /-- the verdict ALLREDUCE (R519) -/
  verdict : Option ColRun
  /-- tree nodes by epoch * 4096 + tree -/
  nodes : Sparse TNode
  deriving DecidableEq, Repr

/-- A collective engine after reset. -/
def Col.reset : Col := { run := none, verdict := none, nodes := [] }

/-- The whole state. -/
structure State where
  regs : Sparse Word
  bus : Bus
  mem : Sparse Byte
  errs : Sparse (BitVec 144)
  ram : Ram
  /-- command queues by unit kind * 256 + unit -/
  queues : Sparse Queue
  hrt : Sparse Hearth
  blw : Sparse Blw
  kln : Sparse Kln
  /-- groups whose incoming state a FOLD has written in this step (R275) -/
  folded : List Nat
  num : Num
  syn : Syn
  flue : Flue
  col : Sparse Col
  ember : Ember
  nvm : Nvm
  hob : Hob
  /-- crickets: 0 to 67 workers, 68 to 71 hob crickets -/
  crk : Sparse Crk
  pwr : Pwr
  /-- the trim source in auto is frame marks (R461); good windows in a row, at most 2 (R462) -/
  onMarks : Bool
  goodWins : Nat
  job : Job
  errSeq : Nat
  cxl : Cxl
  aon : Aon
  irq : Irq
  /-- live counter of padding waves, and live idle counters by 8 * class + cause (R434, R437) -/
  padWaves : Nat
  ffy : Sparse Nat
  a192 : Bool
  cycle : Nat
  freeCtr : Nat
  pending : List Instr
  deriving DecidableEq, Repr

/-- The memory system after reset. -/
def Ram.reset : Ram where
  sparesUsed := []
  trackers := []
  hbmPos := []
  retries := []
  retriesMs := []
  exhausted := []
  trainedAt := []
  stackTemp := []
  trainedTemp := []
  margin := []
  pprRows := []
  repairing := []
  retiring := none
  reform := none

/-- The SYN block after reset. -/
def Syn.reset : Syn where
  waiters := []
  released := []
  arrived := []
  treeSeen := []
  hold := []
  snap := []
  snapArrived := []
  snapSeen := []
  lent := []
  recalled := []
  delays := []
  carried := []

/-- The always-on block with standby power up and PG low (log 4); straps float to the values of R573. -/
def Aon.reset : Aon where
  standby := true
  pg := false
  ready := false
  tripped := false
  locked := false
  oscWait := 7
  hobSel := 0
  nvmMode := 0
  fabMaster := false
  seed := none
  romRan := false
  lastStop := 0
  mgmtOut := 0

/-- The block right after reset: standby power up, PG low (log 4). -/
def State.reset : State where
  regs := []
  bus := { shadow := [], holder := [], rdata := [], posted := [] }
  mem := []
  errs := []
  ram := Ram.reset
  queues := []
  hrt := []
  blw := []
  kln := []
  folded := []
  num := { gens := [], hist := [], bins := [], watchCtr := [], op := 0 }
  syn := Syn.reset
  flue := Flue.reset
  col := []
  ember := Ember.empty
  nvm := Nvm.empty
  hob := Hob.reset
  crk := []
  pwr := Pwr.reset
  onMarks := false
  goodWins := 0
  job := Job.none
  errSeq := 0
  cxl := { devs := [], ranges := [] }
  aon := Aon.reset
  irq := { active := 0, msix := [], owed := [], alertN := true, epResets := 0 }
  padWaves := 0
  ffy := []
  a192 := false
  cycle := 0
  freeCtr := 0
  pending := []

end Sys2Proof.Machine
end

