-- ==== Sys2Proof/Machine/Ops.lean ====
section
/-! DEFINITION. The named operations over registers: reading and setting fields, saturating counters, 64-bit pairs, free
values. Every meaning reads and writes registers through these. -/

namespace Sys2Proof.Machine

/-- The present word of a register. -/
def State.reg (s : State) (off : Nat) : Word := s.regs.look (BitVec.ofNat 32 (regReset off)) off
/-- Sets the word of a register. -/
def State.setReg (s : State) (off : Nat) (v : Word) : State :=
  { s with regs := s.regs.write (BitVec.ofNat 32 (regReset off)) off v }
/-- A word with the bits of a field replaced. -/
def setBits (x : Word) (lo w v : Nat) : Word :=
  (x &&& ~~~(BitVec.ofNat 32 ((2 ^ w - 1) <<< lo))) ||| BitVec.ofNat 32 ((v % 2 ^ w) <<< lo)
/-- The value of a field. -/
def State.get (s : State) (f : RF) : Nat := ((s.reg f.off).toNat >>> f.lo) % 2 ^ f.w
/-- Sets a field, modulo its width. -/
def State.set (s : State) (f : RF) (v : Nat) : State := s.setReg f.off (setBits (s.reg f.off) f.lo f.w v)
/-- Whether a one-bit field is 1. -/
def State.on (s : State) (f : RF) : Bool := s.get f != 0
/-- Sets a one-bit field to 1: an event flag. -/
def State.raise (s : State) (f : RF) : State := s.set f 1
/-- Clears a field. -/
def State.clear (s : State) (f : RF) : State := s.set f 0
/-- Sets a field to a Bool. -/
def State.put (s : State) (f : RF) (b : Bool) : State := s.set f (if b then 1 else 0)
/-- Adds to a counter that saturates at the largest value of its field. -/
def State.count (s : State) (f : RF) (n : Nat) : State := s.set f (min (s.get f + n) (2 ^ f.w - 1))
/-- The value of a 64-bit pair by the offset of its low word. -/
def State.pair (s : State) (lo : Nat) : Nat := (s.reg lo).toNat + 2 ^ 32 * (s.reg (lo + 4)).toNat
/-- Sets both words of a 64-bit pair. -/
def State.setPair (s : State) (lo v : Nat) : State :=
  (s.setReg lo (BitVec.ofNat 32 v)).setReg (lo + 4) (BitVec.ofNat 32 (v / 2 ^ 32))

/-- A fresh free value of `w` bits (log 6). -/
def State.fresh (s : State) (w : Nat) : Nat × State :=
  ((Config.free s.freeCtr).toNat % 2 ^ w, { s with freeCtr := s.freeCtr + 1 })
/-- `n` fresh free bytes. -/
def State.freshBytes (s : State) (n : Nat) : List Byte × State :=
  ((List.range n).map fun i => (Config.free (s.freeCtr + i)).setWidth 8, { s with freeCtr := s.freeCtr + n })

/-- One of the numbers of a list, where the spec does not say which (log 27). -/
def pickOne (l : List Nat) : Nat := l.getD (Config.oneOf l % l.length) 0

/-- The timebase of R552: 100 MHz cycles since power good, of 11 engine cycles each. -/
def State.timebase (s : State) : Nat := s.cycle / 11
/-- The clocked units run: power good, root PLL locked, no thermal trip (R467, R468, R479, R576). -/
def State.clocked (s : State) : Bool := s.aon.pg && s.aon.locked && !s.aon.tripped
/-- A job is loaded and steps run (R540, R590). -/
def State.jobEn (s : State) : Bool := s.on F.ERR_CTRL_JOB_EN
/-- The quadrant that holds the master token (R505). -/
def State.master (s : State) : Nat := s.get F.SEC_MASTER_HOLDER

/-- Applies an operation to each element in turn. -/
def State.each {α : Type} (s : State) (l : List α) (f : State → α → State) : State := l.foldl f s

/-- R18: the home quadrant of a physical pair or a logical hearth numbering of 34 or 32 per quadrant. -/
def pairQuad (p : Nat) : Nat := p / 34

/-- The physical pair of logical hearth L (R326). -/
def State.physOf (s : State) (l : Nat) : Option Nat :=
  if l < 128 ∧ s.on (F.CMB_PAIRMAP_VALID l) then some (s.get (F.CMB_PAIRMAP_PHYS l)) else none
/-- The logical hearth mapped to a physical pair. -/
def State.logicalOf (s : State) (p : Nat) : Option Nat :=
  (List.range 128).find? fun l => s.physOf l == some p

end Sys2Proof.Machine
end

