-- ==== Sys2Proof/Machine/Memory.lean ====
section
/-! DEFINITION. Memory: device addresses to physical places, bytes, the Glaene 144 code and raw granules
(10_comb_hbm_and_far_memory.md R325 to R337, R351). A place is a key: comb slices at their address in the physical window,
channel c of HBM at 0x100_0000_0000 + c * 2^31, the far tier at its device address. -/

namespace Sys2Proof.Machine

/-- Channels in the interleave (R352). -/
def State.nch (s : State) : Nat := s.get F.HBM_STATUS_NCH
/-- Whether a channel is outside the interleave (R352, HBM_LOST). -/
def State.chOut (s : State) (c : Nat) : Bool := ((s.reg (R.HBM_LOST (c / 32))).toNat >>> (c % 32)) % 2 == 1
/-- The channels of the interleave in ascending order (R351). -/
def State.live (s : State) : List Nat := (List.range 256).filter fun c => !s.chOut c
/-- R327: bytes per channel. -/
def State.chCap (s : State) : Nat := if s.a192 then 0x30000000 else 0x60000000
/-- R351: channel and channel offset of an HBM offset. -/
def State.hbmSplit (s : State) (a : Nat) : Nat × Nat :=
  let l := a / 256
  if s.nch = 256 then
    ((l ^^^ (l / 2 ^ 8) ^^^ (l / 2 ^ 16) ^^^ (l / 2 ^ 24)) % 256, l / 256 * 256 + a % 256)
  else
    let n := s.nch
    (s.live.getD (l % n) 0, l / n * 256 + a % 256)

/-- The far-tier range that backs an address (R358, R564). -/
def State.farRange (s : State) (a : Nat) : Option FarRange :=
  s.cxl.ranges.find? fun r => decide (r.base ≤ a) && decide (a < r.base + r.size)
/-- The CXL port behind a far-tier address: one of the two (R564). -/
def FarRange.portOf (r : FarRange) (a : Nat) : Nat := if r.ilv then (a - r.base) / 256 % 2 else r.port % 2

/-- R325: base of the physical comb window. -/
def physBase : Nat := 0x001000000000
/-- R325: base of HBM. -/
def hbmBase : Nat := 0x010000000000
/-- R325: base of the far tier. -/
def farBase : Nat := 0x100000000000

/-- Whether an address lies in the physical comb window (R325, R326). -/
def inPhys (a : Nat) : Bool := decide (physBase ≤ a) && decide (a < physBase + 136 * 2 ^ 28)
/-- Whether an address lies in the far-tier window. -/
def inFar (a : Nat) : Bool := decide (farBase ≤ a) && decide (a < 0x180000000000)

/-- Whether an address lies in the comb or in the HBM (R325 to R327), as R102 and R214 ask of a base. -/
def State.inCombHbm (s : State) (a : Nat) : Bool :=
  decide (a < 0x800000000) || inPhys a || (decide (hbmBase ≤ a) && decide (a < hbmBase + s.nch * s.chCap))

/-- R325 to R328: the place of a device address; none: unmapped. -/
def State.locate (s : State) (a : Nat) : Option Nat :=
  if a < 0x800000000 then
    match s.physOf (a / 2 ^ 28) with
    | some p => if p < 136 then some (physBase + p * 2 ^ 28 + a % 2 ^ 28) else none
    | none => none
  else if inPhys a then some a
  else if hbmBase ≤ a ∧ a < hbmBase + s.nch * s.chCap then
    let (c, o) := s.hbmSplit (a - hbmBase)
    some (hbmBase + c * 2 ^ 31 + o)
  else if inFar a then (s.farRange a).map fun _ => a
  else none

/-- The pair of a comb place. -/
def keyPair (k : Nat) : Nat := (k - physBase) / 2 ^ 28
/-- The channel of an HBM place. -/
def keyChan (k : Nat) : Nat := (k - hbmBase) / 2 ^ 31
/-- Whether a place is in the comb. -/
def keyComb (k : Nat) : Bool := decide (k < hbmBase)
/-- Whether a place is in the far tier. -/
def keyFar (k : Nat) : Bool := decide (farBase ≤ k)

/-- A byte at a place; memory that nothing has written reads zero (R329). -/
def State.byteAt (s : State) (k : Nat) : Byte := s.mem.look 0 k
/-- Writes a byte at a place. -/
def State.putByte (s : State) (k : Nat) (b : Byte) : State := { s with mem := s.mem.write 0 k b }
/-- Writes bytes at consecutive places. -/
def State.putBytes (s : State) (k : Nat) : List Byte → State
  | [] => s
  | b :: t => (s.putByte k b).putBytes (k + 1) t
/-- The error pattern of the codeword of a granule, by place divided by 16; zero: the codeword is intact (R333). -/
def State.errAt (s : State) (g : Nat) : BitVec 144 := s.errs.look 0 g
/-- Sets the error pattern of a granule. -/
def State.putErr (s : State) (g : Nat) (e : BitVec 144) : State := { s with errs := s.errs.write 0 g e }
/-- The canonical form of memory: addresses strictly rising, no entry equal to the zero an unlisted byte reads as. -/
def Memory.wf (m : Sparse Byte) : Bool := Sparse.wf (fun _ => 0) m

/-- R333: the remainder of a codeword pattern modulo g(x) = 0x1_6F63. -/
def syndrome (e : Nat) : Nat :=
  (List.range 128).foldl (fun r i => if r.testBit (143 - i) then r ^^^ (0x16F63 <<< (127 - i)) else r) e

/-- R334: the 540 non-zero errors confined to one symbol. -/
def symbolErrors : List Nat :=
  (List.range 36).flatMap fun i => (List.range 15).map fun v => (v + 1) <<< (4 * i)

/-- What a decoder makes of an error pattern (R334). -/
inductive Dec where
  /-- zero syndrome: data as read -/
  | clean
  /-- one symbol corrected: the pattern that is applied -/
  | fixed (p : Nat)
  | bad
  deriving DecidableEq, Repr

/-- R334: the correcting (`det` false) or the detect-only decoder. -/
def decodeErr (det : Bool) (e : Nat) : Dec :=
  let sy := syndrome e
  if sy = 0 then .clean
  else if det then .bad
  else
    match symbolErrors.find? fun p => syndrome p == sy with
    | some p => .fixed p
    | none => .bad

/-- R330: base and exclusive limit of region entry i. -/
def State.rgnBase (s : State) (i : Nat) : Nat := s.get (F.CMB_RGN_BASE_HI_BASE i) * 2 ^ 32 + s.get (F.CMB_RGN_BASE_LO_BASE i) * 2 ^ 16
def State.rgnLim (s : State) (i : Nat) : Nat := s.get (F.CMB_RGN_LIM_HI_LIMIT i) * 2 ^ 32 + s.get (F.CMB_RGN_LIM_LO_LIMIT i) * 2 ^ 16
/-- R330: an entry that covers an address outside the logical comb window or the HBM window is ignored. -/
def State.rgnOutside (s : State) (i : Nat) : Bool :=
  let b := s.rgnBase i
  let l := s.rgnLim i
  decide (b < l) && !(decide (l ≤ 0x800000000)) &&
    !(decide (hbmBase ≤ b) && decide (l ≤ hbmBase + s.nch * s.chCap))
/-- R330: whether valid entry i contains an address. -/
def State.rgnHas (s : State) (i a : Nat) : Bool :=
  s.on (F.CMB_RGN_BASE_LO_VALID i) && !s.rgnOutside i && decide (s.rgnBase i ≤ a) && decide (a < s.rgnLim i)
/-- R330, R331: whether an address is detected; the host control page and far addresses never are (R359, R556). -/
def State.detected (s : State) (a : Nat) : Bool :=
  let la :=
    if inPhys a then
      match s.logicalOf ((a - physBase) / 2 ^ 28) with
      | some l => l * 2 ^ 28 + a % 2 ^ 28
      | none => 0xFFFFFFFFFFFF
    else a
  if 0x3FFFF000 ≤ la ∧ la < 0x40000000 then false
  else match (List.range 64).find? fun i => s.rgnHas i la with
  | some i => s.on (F.CMB_RGN_BASE_LO_DET i)
  | none => false

/-- R338: subarray and row of a slice offset. -/
def combRow (o : Nat) : Nat × Nat := (o / 64 % 512, o / 64 / 4096)

end Sys2Proof.Machine
end

