-- ==== Sys2Proof/Machine/Errors.lean ====
section
/-! DEFINITION. Error records, vetoes and the conditions that stop a job (16_step_commit_replay_and_errors.md R518, R535
to R537, R590), and memory accesses with their errors (10_comb_hbm_and_far_memory.md R326, R328, R334 to R348). -/

namespace Sys2Proof.Machine

/-- R535: the unit kinds of an error record's source. -/
inductive UKind where
  | hearth | kiln | firebox | collective | bellows | worker | injector | damper | slice | channel | port | hob | syn | clock
  | num | cxl
  deriving DecidableEq, Repr

/-- R535: the code of a unit kind. -/
def UKind.code : UKind → Nat
  | .hearth => 0 | .kiln => 1 | .firebox => 2 | .collective => 3 | .bellows => 4 | .worker => 5 | .injector => 6
  | .damper => 7 | .slice => 8 | .channel => 9 | .port => 10 | .hob => 11 | .syn => 12 | .clock => 13 | .num => 14
  | .cxl => 15

/-- R536: the classes of error records. -/
inductive ECls where
  | descriptor | memory | latent | numerics | curvature | firebox | cricket | fabric | sync | clock | power | security
  | startup | hardware | load | job
  deriving DecidableEq, Repr

/-- R536: the code of a class. -/
def ECls.code : ECls → Nat
  | .descriptor => 1 | .memory => 2 | .latent => 3 | .numerics => 4 | .curvature => 5 | .firebox => 6 | .cricket => 7
  | .fabric => 8 | .sync => 9 | .clock => 10 | .power => 11 | .security => 12 | .startup => 13 | .hardware => 14
  | .load => 15 | .job => 16

/-- Writes 16 bytes of whole granule at a device address: new check bits, so any error pattern goes (R333). Answers
whether the write was made. -/
def State.putGranule (s : State) (a : Nat) (bs : List Byte) : Bool × State :=
  match s.locate a with
  | some k => (true, (s.putBytes k bs).putErr (k / 16) 0)
  | none => (false, s)

/-- R328: an access to an unmapped address sets DECODE and enters LASTERR with kind 4. -/
def State.noteDecode (s : State) (a : Nat) : State :=
  if a < hbmBase then
    (((s.raise F.CMB_EVENT_DECODE).setReg R.CMB_LASTERR_LO (BitVec.ofNat 32 a)).setReg R.CMB_LASTERR_HI
      (BitVec.ofNat 32 (a / 2 ^ 32 % 2 ^ 16 + 4 * 2 ^ 16 + 2 ^ 31)))
  else
    (((s.raise F.HBM_EVENT_DECODE).setReg R.HBM_LASTERR_LO (BitVec.ofNat 32 a)).setReg R.HBM_LASTERR_HI
      (BitVec.ofNat 32 (a / 2 ^ 32 % 2 ^ 16 + 4 * 2 ^ 16 + 2 ^ 31)))

/-- R535: the 32 bytes of an error record. -/
def recordBytes (seq cls action kind unit step d0 d1 time : Nat) : List Byte :=
  leBytes 4 seq ++ leBytes 1 cls ++ leBytes 1 action ++ leBytes 2 (unit % 256 + 256 * kind) ++ leBytes 8 step ++
  leBytes 8 d0 ++ leBytes 4 d1 ++ leBytes 4 time

/-- R535: writes an error record into the ring, or loses it. `action`: 0 LOG, 1 VETO, 2 STOP, 3 REWIND. -/
def State.errRecord (s : State) (cls : ECls) (action : Nat) (kind : UKind) (unit d0 d1 : Nat) : State :=
  let bs := recordBytes s.errSeq cls.code action kind.code unit s.job.step d0 d1 s.timebase
  let s1 := { s with errSeq := (s.errSeq + 1) % 2 ^ 32 }
  let head := s.get F.ERR_RHEAD_INDEX
  let a := s.pair R.ERR_RBASE_LO + 32 * head
  if (head + 1) % 256 = s.get F.ERR_RTAIL_INDEX then
    (s1.count F.ERR_LOST_VALUE 1).raise F.ERR_EVENT_RING_FULL
  else
    match s1.locate a, s1.locate (a + 16) with
    | some _, some _ =>
      let s2 := (s1.putGranule a (bs.take 16)).2
      let s3 := (s2.putGranule (a + 16) (bs.drop 16)).2
      (s3.set F.ERR_RHEAD_INDEX (head + 1)).raise F.ERR_EVENT_RECORD
    | _, _ => (s1.noteDecode a).count F.ERR_LOST_VALUE 1

/-- R590: the action of a record that vetoes: LOG while no step runs. -/
def State.vetoAction (s : State) : Nat := if s.jobEn then 1 else 0

/-- R518, R519: a hardware-fault veto on this device; after the verdict it is held for the next run (R590: nothing is
vetoed while no step runs). -/
def State.veto (s : State) : State :=
  if !s.jobEn then s
  else if s.job.issued then { s with job := { s.job with heldHw := true } }
  else { s with job := { s.job with hw := true } }
/-- R518, R519: the device must stop the job; the first code stands. -/
def State.vetoStop (s : State) (code : Nat) : State :=
  if !s.jobEn then s
  else if s.job.issued then { s with job := { s.job with heldStop := if s.job.heldStop = 0 then code else s.job.heldStop } }
  else { s with job := { s.job with stop := if s.job.stop = 0 then code else s.job.stop } }
/-- R518, R519, R357: the device requires a rewind. -/
def State.vetoRewind (s : State) : State :=
  if !s.jobEn then s
  else if s.job.issued then { s with job := { s.job with heldRwd := true } }
  else { s with job := { s.job with rwd := true } }
/-- R518, R519: the reduced norm vector had VETO set. -/
def State.vetoNf (s : State) : State :=
  if !s.jobEn then s
  else if s.job.issued then { s with job := { s.job with heldNf := true } }
  else { s with job := { s.job with nf := true } }

/-- R537: the stop codes. -/
inductive Stop where
  | capacityLost | scheduleBroken | linkLost | clockLost | powerFault | thermalTrip | masterLost | memberLost
  | replayExhausted | unitLost | descriptorFault | journalFull | peerStop | hostStop | checkpointBad
  deriving DecidableEq, Repr

/-- R537: the code of a stop. -/
def Stop.code : Stop → Nat
  | .capacityLost => 1 | .scheduleBroken => 2 | .linkLost => 3 | .clockLost => 4 | .powerFault => 5 | .thermalTrip => 6
  | .masterLost => 7 | .memberLost => 8 | .replayExhausted => 9 | .unitLost => 10 | .descriptorFault => 11
  | .journalFull => 12 | .peerStop => 13 | .hostStop => 14 | .checkpointBad => 15

/-- A record with a veto (R518). -/
def State.vetoRecord (s : State) (cls : ECls) (kind : UKind) (unit d0 d1 : Nat) : State :=
  (s.errRecord cls s.vetoAction kind unit d0 d1).veto
/-- R518: a record of a condition that stops the job at its verdict; LOG while no step runs. -/
def State.stopRecord (s : State) (cls : ECls) (kind : UKind) (unit d0 d1 : Nat) (code : Stop) : State :=
  (s.errRecord cls (if s.jobEn then 2 else 0) kind unit d0 d1).vetoStop code.code
/-- R536 class 0x01: a rejected descriptor stops the job during a step. -/
def State.descRecord (s : State) (kind : UKind) (unit addr tag : Nat) : State :=
  s.stopRecord .descriptor kind unit addr tag .descriptorFault
/-- R529: unit kinds that have no spare: kilns, fireboxes, collective engines, bellows, injectors, CXL ports (R566). -/
def noSpareKind (k : Nat) : Bool := [1, 2, 3, 4, 6, 15].contains k
/-- R528, R529: a hardware fault of a unit. On one that has no spare, a second fault in the replay stops the job. -/
def State.hwFault (s : State) (cls : ECls) (kind : UKind) (unit d0 d1 : Nat) : State :=
  let s1 := s.vetoRecord cls kind unit d0 d1
  { s1 with job := { s1.job with faulty := (kind.code, unit) :: s1.job.faulty } }

/-- R360: the CXL port whose device holds a far-tier address. -/
def State.farPort (s : State) (a : Nat) : Nat := match s.farRange a with
  | some r => r.portOf a
  | none => 0
/-- R120, R336, R360: a unit meets an uncorrectable read at an address: a MEMORY record and a veto. The record of a read that
the far tier failed names its port. On a unit without a spare it is a hardware fault that may recur (R518, R529, log 134). -/
def State.memFault (s : State) (kind : UKind) (unit addr dec : Nat) : State :=
  if inFar addr && dec == 0 then s.vetoRecord .memory .cxl (s.farPort addr) addr dec
  else if noSpareKind kind.code then s.hwFault .memory kind unit addr dec
  else s.vetoRecord .memory kind unit addr dec

/-- R343: adds one to a row's entry of a tracker of 16 rows. Which of several lowest entries goes is open (log 27). -/
def trackAdd (t : List (Nat × Nat)) (row : Nat) : List (Nat × Nat) :=
  if t.any (·.1 == row) then t.map fun e => if e.1 = row then (row, e.2 + 1) else e
  else if t.length < 16 then t ++ [(row, 1)]
  else
    let least := (t.map (·.2)).foldl Nat.min (2 ^ 32)
    t.set (pickOne ((List.range t.length).filter fun i => (t.getD i (0, 0)).2 == least)) (row, 1)
/-- R343: the count of a row. -/
def trackCount (t : List (Nat × Nat)) (row : Nat) : Nat := ((t.find? (·.1 == row)).map (·.2)).getD 0

/-- The tracker threshold: 0 acts as 1 (R364, R366). -/
def State.cethr (s : State) (comb : Bool) : Nat :=
  max 1 (if comb then s.get F.CMB_CETHR_COUNT else s.get F.HBM_CETHR_COUNT)

/-- R345, R347: the granules of a comb row as places divided by 16. -/
def combRowGranules (p sub row : Nat) : List Nat :=
  (List.range 8).flatMap fun pos =>
    let l := row * 4096 + pos * 512 + sub
    (List.range 4).map fun g => (physBase + p * 2 ^ 28 + l * 64) / 16 + g

/-- R347: one granule of a copied row or slice: a correctable one is corrected, an uncorrectable one stays raw. -/
def State.cleanGranule (s : State) (g : Nat) : State :=
  match decodeErr false (s.errAt g).toNat with
  | .fixed p =>
    let e := (s.errAt g).toNat ^^^ p
    -- the corrected data are written with new check bits; what the correction missed stays as data
    let d := leNat ((List.range 16).map fun i => s.byteAt (g * 16 + i)) ^^^ (e / 2 ^ 16)
    (s.putBytes (g * 16) (leBytes 16 d)).putErr g 0
  | _ => s

/-- R344 to R348: a comb row must be repaired: the lowest unused spare row of its subarray takes it, or the slice fails. -/
def State.spareRow (s : State) (p sub row : Nat) : State :=
  if !s.on F.CMB_CTRL_SPARE_EN then s
  else
    let used := s.ram.sparesUsed.look 0 (p * 512 + sub)
    if used < 32 then
      let s1 := s.each (combRowGranules p sub row) State.cleanGranule
      let rt := (s1.ram.trackers.look [] p).filter (·.1 != sub * 1024 + row)
      let s2 := { s1 with ram := { s1.ram with sparesUsed := s1.ram.sparesUsed.write 0 (p * 512 + sub) (used + 1), trackers := s1.ram.trackers.write [] p rt } }
      let s3 := (s2.set (F.CMB_S_SPARED_TOTAL p) (s2.get (F.CMB_S_SPARED_TOTAL p) + 1)).set (F.CMB_S_SPARED_MAXSUB p)
        (max (s2.get (F.CMB_S_SPARED_MAXSUB p)) (used + 1))
      s3.raise F.CMB_EVENT_ROW_SPARED
    else
      let s1 := (s.set (F.CMB_S_STATE_STATE p) 3).raise F.CMB_EVENT_SPARES_OUT
      let (d, s2) := s1.fresh 64
      s2.vetoRecord .hardware .slice p d p

/-- R343, R344, R356: an error was found in the row of a place. `kind`: 1 correctable, 2 uncorrectable, 3 latent; the trackers
count correctable and latent ones (R342, R343). -/
def State.noteRow (s : State) (k kind : Nat) : State :=
  if keyComb k then
    let p := keyPair k
    let (sub, row) := combRow (k % 2 ^ 28)
    let id := sub * 1024 + row
    let t := if kind = 2 then s.ram.trackers.look [] p else trackAdd (s.ram.trackers.look [] p) id
    let s1 := { s with ram := { s.ram with trackers := s.ram.trackers.write [] p t } }
    if kind ≠ 1 ∨ s.cethr true ≤ trackCount t id then s1.spareRow p sub row else s1
  else
    let c := keyChan k
    let id := (Config.hbmRow (k % 2 ^ 31)).toNat
    let t := if kind = 2 then s.ram.trackers.look [] (256 + c) else trackAdd (s.ram.trackers.look [] (256 + c)) id
    let s1 := { s with ram := { s.ram with trackers := s.ram.trackers.write [] (256 + c) t } }
    if (kind ≠ 1 ∨ s.cethr false ≤ trackCount t id) ∧ ¬ (c, id) ∈ s1.ram.pprRows then
      { s1 with ram := { s1.ram with pprRows := s1.ram.pprRows ++ [(c, id)] } }
    else s1

/-- R364, R366: flags, counters and LASTERR of an error found at an address. -/
def State.noteErr (s : State) (a k kind : Nat) : State :=
  let hi := BitVec.ofNat 32 (a / 2 ^ 32 % 2 ^ 16 + kind * 2 ^ 16 + 2 ^ 31)
  let s1 :=
    if keyComb k then
      let p := keyPair k
      let t := (s.setReg R.CMB_LASTERR_LO (BitVec.ofNat 32 a)).setReg R.CMB_LASTERR_HI hi
      if kind = 1 then ((t.raise F.CMB_EVENT_CE).count F.CMB_CE_VALUE 1).count (F.CMB_S_CE_VALUE p) 1
      else if kind = 2 then ((t.raise F.CMB_EVENT_UE).count F.CMB_UE_VALUE 1).count (F.CMB_S_UE_VALUE p) 1
      else t.raise F.CMB_EVENT_LATENT
    else
      let c := keyChan k
      let t := (s.setReg R.HBM_LASTERR_LO (BitVec.ofNat 32 a)).setReg R.HBM_LASTERR_HI hi
      if kind = 1 then (t.raise F.HBM_EVENT_CE).count (F.HBM_C_CE_VALUE c) 1
      else if kind = 2 then (t.raise F.HBM_EVENT_UE).count (F.HBM_C_UE_VALUE c) 1
      else t.raise F.HBM_EVENT_LATENT
  s1.noteRow k kind

/-- The earlier of two errors. -/
def firstBad (a b : Option (Nat × Nat)) : Option (Nat × Nat) := match a with
  | some v => some v
  | none => b

/-- What a read of memory gives: the bytes, the address and decoder of the first uncorrectable granule, the state. -/
structure Rd where
  bytes : List Byte
  bad : Option (Nat × Nat)
  st : State

/-- R360: flit errors that the link of port p recovered under a read: how many is free (log 124). -/
def State.linkReplays (s : State) (p : Nat) : State :=
  let (n, s1) := s.fresh 4
  s1.count (F.CXL_P_ERR_REPLAY p) n
/-- R360: a read of a far granule at a place: it fails when the port is down, or with a data error or poison. -/
def State.readFar (s : State) (a k p : Nat) (raw : List Byte) : Rd :=
  if s.get (F.CXL_P_STATUS_STATE p) = 2 ∧ s.errAt (k / 16) = 0 then ⟨raw, none, s.linkReplays p⟩
  else ⟨raw, some (a, 0), (s.count (F.CXL_P_ERR_UNCORR p) 1).raise F.CXL_EVENT_POISON⟩
/-- R334, R336: a read of the granule that holds an address. -/
def State.readGranule (s : State) (sec : Bool) (a : Nat) : Rd :=
  let a := a / 16 * 16
  if inPhys a && !sec then ⟨List.replicate 16 0, none, s.raise F.CMB_EVENT_PHYS_ACCESS⟩
  else
    match s.locate a with
    | none => ⟨List.replicate 16 0, some (a, 3), s.noteDecode a⟩
    | some k =>
      let raw := (List.range 16).map fun i => s.byteAt (k + i)
      if keyFar k then
        s.readFar a k (s.farPort a) raw
      else
        let e := (s.errAt (k / 16)).toNat
        if e = 0 then ⟨raw, none, s⟩
        else
          let det := s.detected a
          match decodeErr det e with
          | .clean => ⟨leBytes 16 (leNat raw ^^^ (e / 2 ^ 16)), none, s⟩
          | .fixed p => ⟨leBytes 16 (leNat raw ^^^ ((e ^^^ p) / 2 ^ 16)), none, s.noteErr a k 1⟩
          | .bad => ⟨leBytes 16 (leNat raw ^^^ (e / 2 ^ 16)), some (a, if det then 2 else 1), s.noteErr a k 2⟩

/-- Reads the granules `g, g + 1, ...` in order. -/
def State.readGranules (s : State) (sec : Bool) (g : Nat) : Nat → Rd
  | 0 => ⟨[], none, s⟩
  | n + 1 =>
    let r := s.readGranule sec (g * 16)
    let t := r.st.readGranules sec (g + 1) n
    ⟨r.bytes ++ t.bytes, (match r.bad with | some b => some b | none => t.bad), t.st⟩

/-- Reads `n` bytes at a device address. -/
def State.readAt (s : State) (sec : Bool) (a n : Nat) : Rd :=
  if n = 0 then ⟨[], none, s⟩
  else
    let g := a / 16
    let r := s.readGranules sec g ((a + n - 1) / 16 + 1 - g)
    ⟨(r.bytes.drop (a % 16)).take n, r.bad, r.st⟩

/-- A unit's read (no secure access). -/
def State.read (s : State) (a n : Nat) : Rd := s.readAt false a n

/-- R337: writes part of one granule: the bytes `bs` from offset `o` of the granule of `a`. A merge whose read is
uncorrectable is not made, and the memory controller writes the record. Answers whether the address was unmapped. -/
def State.writeGranule (s : State) (sec : Bool) (a o : Nat) (bs : List Byte) : Bool × State :=
  if inPhys a && !sec then (false, s.raise F.CMB_EVENT_PHYS_ACCESS)
  else
    match s.locate a with
    | none => (true, s.noteDecode a)
    | some k =>
      if bs.length = 16 ∧ o = 0 then (false, (s.putBytes k bs).putErr (k / 16) 0)
      else
        let r := s.readGranule sec a
        match r.bad with
        | some (b, dec) =>
          (false, if keyFar k then r.st.memFault .cxl 0 b dec
            else if keyComb k then r.st.memFault .slice (keyPair k) b dec
            else r.st.memFault .channel (keyChan k) b dec)
        | none =>
          let m := r.bytes.take o ++ bs ++ r.bytes.drop (o + bs.length)
          (false, (r.st.putBytes k m).putErr (k / 16) 0)

/-- Writes bytes granule by granule, `fuel` granules at most. Answers whether some address was unmapped. -/
def State.writeFrom (s : State) (sec : Bool) : Nat → Nat → List Byte → Bool × State
  | 0, _, _ => (false, s)
  | fuel + 1, a, bs =>
    match bs with
    | [] => (false, s)
    | _ =>
      let o := a % 16
      let (u, s1) := s.writeGranule sec (a - o) o (bs.take (16 - o))
      let (v, s2) := s1.writeFrom sec fuel (a - o + 16) (bs.drop (16 - o))
      (u || v, s2)

/-- Writes bytes at a device address. -/
def State.writeAt (s : State) (sec : Bool) (a : Nat) (bs : List Byte) : Bool × State :=
  s.writeFrom sec (bs.length / 16 + 2) a bs
/-- A unit's write; an unmapped address is handled as an uncorrectable read of the unit (R328). -/
def State.write (s : State) (a : Nat) (bs : List Byte) : Bool × State := s.writeAt false a bs
/-- R328: whether a write of a unit met an unmapped address since its command started. -/
def State.writeFaulted (s : State) (kind : UKind) (unit : Nat) : Bool := (s.queues.look Queue.empty (kind.code * 256 + unit)).wfault
/-- Keeps or clears that mark. -/
def State.noteWriteFault (s : State) (kind : UKind) (unit : Nat) (b : Bool) : State :=
  let k := kind.code * 256 + unit
  { s with queues := s.queues.write Queue.empty k { s.queues.look Queue.empty k with wfault := b } }
/-- R328: the status of a command that ends: MEMORY_ERROR when a write of it was not made. -/
def State.endStatus (s : State) (kind : UKind) (unit st : Nat) : Nat := if s.writeFaulted kind unit && decide (st < 0x10) then 0x12 else st
/-- Whether a unit takes commands from a queue that ends them with a status. -/
def UKind.queued : UKind → Bool
  | .hearth | .kiln | .firebox | .collective => true
  | _ => false
/-- A unit's write with its own MEMORY record when an address is unmapped (R328, R336). -/
def State.unitWrite (s : State) (kind : UKind) (unit a : Nat) (bs : List Byte) : State :=
  let (u, s1) := s.write a bs
  if u then
    let s2 := s1.memFault kind unit a 3
    if kind.queued then s2.noteWriteFault kind unit true else s2
  else s1

end Sys2Proof.Machine
end

