-- ==== Sys2Proof/Machine/FlueBase.lean ====
section
/-! DEFINITION. Packets, table entries and sending on a port (11_flue_fabric.md R373, R374, R378, R381, R388). -/

namespace Sys2Proof.Machine

/-- Updates port p. -/
def State.modPort (s : State) (p : Nat) (f : Port → Port) : State :=
  { s with flue := { s.flue with ports := s.flue.ports.write Port.idle p (f (s.flue.ports.look Port.idle p)) } }
/-- Port p. -/
def State.port (s : State) (p : Nat) : Port := s.flue.ports.look Port.idle p
/-- The state of a port (R373). -/
def State.portState (s : State) (p : Nat) : Nat := s.get (F.FLU_P_STATUS_STATE p)
/-- A live port: UP or DEGRADED. -/
def State.portLive (s : State) (p : Nat) : Bool := s.portState p == 2 || s.portState p == 3

/-- Bits of a packet's 16 header bytes as a number. -/
def pktHdr (pkt : List Byte) : Nat := leNat (pkt.take 16)
/-- R378: port code of leg i. -/
def legCode (pkt : List Byte) (i : Nat) : Nat := (pkt.getD i 0).toNat % 16
/-- R378: run of leg i. -/
def legRun (pkt : List Byte) (i : Nat) : Nat := (pkt.getD i 0).toNat / 16
def pktType (pkt : List Byte) : Nat := (pkt.getD 8 0).toNat % 16
def pktIdx (pkt : List Byte) : Nat := (pkt.getD 8 0).toNat / 16 % 8
def pktEpoch (pkt : List Byte) : Nat := (pkt.getD 8 0).toNat / 128
def pktDest (pkt : List Byte) : Nat := leAt pkt 9 2 % 2 ^ 14
def pktClass (pkt : List Byte) : Nat := leAt pkt 9 2 / 2 ^ 14
def pktTag (pkt : List Byte) : Nat := leAt pkt 11 2
def pktSeq (pkt : List Byte) : Nat := leAt pkt 13 1
def pktAux (pkt : List Byte) : Nat := leAt pkt 14 2
def pktPayload (pkt : List Byte) : List Byte := pkt.drop 16
/-- A packet with its leg index set. -/
def pktSetIdx (pkt : List Byte) (i : Nat) : List Byte := pkt.set 8 (BitVec.ofNat 8 ((pkt.getD 8 0).toNat / 128 * 128 + i % 8 * 16 + pktType pkt))
/-- A packet with the run of leg i set. -/
def pktSetRun (pkt : List Byte) (i r : Nat) : List Byte := pkt.set i (BitVec.ofNat 8 (r % 16 * 16 + legCode pkt i))

/-- R378: builds a packet from its legs, type, epoch, destination, class, tag, sequence number, auxiliary field, payload;
the payload is padded to 48 bytes. -/
def mkPacket (legs : List Byte) (type epoch dest cls tag seq aux : Nat) (payload : List Byte) : List Byte :=
  (legs ++ List.replicate (8 - legs.length) 0x0F) ++ [BitVec.ofNat 8 (type + epoch * 128)] ++ leBytes 2 (dest + cls * 2 ^ 14) ++
    leBytes 2 tag ++ leBytes 1 seq ++ leBytes 2 aux ++ payload ++ List.replicate (48 - payload.length) 0

/-- The present injection epoch (R390). -/
def State.epoch (s : State) : Nat := s.get F.FLU_EPOCH_CUR
/-- This device's fabric number (R370). -/
def State.fnum (s : State) : Nat := s.get F.FLU_COORD_FNUM
/-- Whether a table version is valid (R389). -/
def State.verValid (s : State) (v : Nat) : Bool := if v = 0 then s.flue.valid0 else s.flue.valid1
/-- The 16 bytes of route entry i of version v. -/
def State.routeEntry (s : State) (v i : Nat) : Nat := s.flue.tables.look 0 (v * 8192 + i)
/-- The 16 bytes of tree entry i of version v. -/
def State.treeEntry (s : State) (v i : Nat) : Nat := s.flue.tables.look 0 (v * 8192 + 4096 + i)
def treeChildren (e : Nat) : Nat := e % 2 ^ 12
def treeLocal (e : Nat) : Bool := e.testBit 12
def treeValid (e : Nat) : Bool := e.testBit 13
def treeParent (e : Nat) : Nat := e / 2 ^ 16 % 256
def treeExpected (e : Nat) : Nat := e / 2 ^ 24 % 256
def treeTag (e : Nat) : Nat := e / 2 ^ 32 % 2 ^ 16
def treeEngine (e : Nat) : Nat := e / 2 ^ 48 % 4
/-- The child ports of a tree entry, ascending. -/
def treePorts (e : Nat) : List Nat := (List.range 12).filter fun p => (treeChildren e).testBit p
/-- Whether a route entry is valid, its destination and its eight legs (R388). -/
def routeValid (e : Nat) : Bool := e.testBit 79
def routeDest (e : Nat) : Nat := e / 2 ^ 64 % 2 ^ 14
def routeLegs (e : Nat) : List Byte := leBytes 8 (e % 2 ^ 64)
/-- A tree entry counts only in a valid version. -/
def State.treeOk (s : State) (v i : Nat) : Bool := s.verValid v && treeValid (s.treeEntry v i)

/-- R374, R393: a message leaves in link control. -/
def State.linkCtl (s : State) (p : Nat) (m : LinkMsg) : State := { s with flue := { s.flue with ctl := s.flue.ctl ++ [(p, m)] } }
/-- R374: a packet leaves on a port in service: it enters the replay buffer of the last 64 with the next link sequence
number. -/
def State.transmit (s : State) (p : Nat) (pkt : List Byte) : State :=
  let s1 := s.modPort p fun q => { q with replay := (q.replay ++ [(q.nextSeq, pkt)]).drop (q.replay.length + 1 - 64), nextSeq := (q.nextSeq + 1) % 64 }
  { s1 with flue := { s1.flue with out := s1.flue.out ++ [(p, pkt)] } }

/-- R536: a FABRIC record about a packet: the source route and the arrival port and type. -/
def fabD1 (port type : Nat) : Nat := port + 256 * type
/-- R382: a misroute discards the packet, writes a fabric record and vetoes the step. -/
def State.misroute (s : State) (port : Nat) (pkt : List Byte) : State :=
  (s.raise F.FLU_EVENT_MISROUTE)
    |>.vetoRecord .fabric (if port < 12 then .port else .hob) (if port < 12 then port else s.master) (leNat (pkt.take 8)) (fabD1 port (pktType pkt))

/-- R397: whether a port in Asivo mode carries a packet: DATA and SPARK of class 0 or 2. -/
def asivoCarries (pkt : List Byte) : Bool :=
  (pktType pkt == 0 || pktType pkt == 3) && (pktClass pkt == 0 || pktClass pkt == 2)
/-- R376: whether the neighbour of port p has a buffer of a class for one more packet, which is taken then. It has 128;
when all are taken, the credits that have come back meanwhile are a free value (log 21). -/
def State.takeCredit (s : State) (p cls : Nat) : Bool × State :=
  let n := (s.port p).used.look 0 cls
  let put (t : State) (k : Nat) : State := t.modPort p fun q => { q with used := q.used.write 0 cls k }
  if n < 128 then (true, put s (n + 1))
  else
    let (back, s1) := s.fresh 8
    if back = 0 then (false, s1) else (true, put s1 (128 - min back 128 + 1))
/-- R376: a packet finds no credit: it is held, counted and shown. -/
def State.holdPacket (s : State) (p : Nat) (pkt : List Byte) : State :=
  (((s.modPort p fun q => { q with held := q.held ++ [pkt] }).count (F.FLU_P_SCHEDFLT_VALUE p) 1).count F.FLU_SCHEDFLT_VALUE 1).raise
    F.FLU_EVENT_SCHED_FAULT
/-- R373, R376: a packet leaves on a live port, or is held behind an earlier one of its class or for want of a credit. -/
def State.offer (s : State) (p : Nat) (pkt : List Byte) : State :=
  if (s.port p).held.any fun h => pktClass h == pktClass pkt then s.holdPacket p pkt
  else
    let (ok, s1) := s.takeCredit p (pktClass pkt)
    if ok then s1.transmit p pkt else s1.holdPacket p pkt
/-- R373, R382, R394, R397: sends a packet on a port. A DEAD or fenced port discards and counts it; a port that carries no
packet yet keeps it in its output queue; an Asivo port carries only its types, with the epoch bit 0. -/
def State.sendOn (s : State) (p : Nat) (pkt : List Byte) : State :=
  let asivo := s.get (F.FLU_P_CTRL_MODE p) == 2
  if asivo && !asivoCarries pkt then s.misroute 12 pkt
  else
    let pkt := if asivo then pkt.set 8 (BitVec.ofNat 8 ((pkt.getD 8 0).toNat % 128)) else pkt
    if (s.get F.FLU_FENCE_PORTS).testBit p ∨ s.portState p = 4 then s.count (F.FLU_P_FENCEDROP_VALUE p) 1
    else if s.portLive p then s.offer p pkt
    else s.modPort p fun q => { q with held := q.held ++ [pkt] }

/-- R376: a packet of the output queue leaves when its class has a credit; else it goes on waiting. -/
def State.offerHeld (s : State) (p : Nat) (pkt : List Byte) : State :=
  let wait (t : State) : State := t.modPort p fun q => { q with held := q.held ++ [pkt] }
  if (s.port p).held.any fun h => pktClass h == pktClass pkt then wait s
  else
    let (ok, s1) := s.takeCredit p (pktClass pkt)
    if ok then s1.transmit p pkt else wait s1
/-- R376: the packets of the output queue leave in order, class by class, as the port and its credits allow. -/
def State.flushPort (s : State) (p : Nat) : State :=
  if s.portLive p then
    let l := (s.port p).held
    (s.modPort p fun q => { q with held := [] }).each l fun t pkt => t.offerHeld p pkt
  else s

/-- R390: the device has injected a packet for the step that runs. -/
def State.noteInjection (s : State) : State :=
  if s.jobEn then { s with flue := { s.flue with injected := some s.job.step } } else s
/-- R390: injections wait: a planned switch is pending for the step that runs or for an earlier one. -/
def State.switchHold (s : State) : Bool :=
  s.on F.FLU_EPOCH_PEND && s.jobEn && decide ((s.job.step + 2 ^ 24 - s.get F.FLU_EPOCH_SWSTEP) % 2 ^ 24 < 2 ^ 23)

/-- R390: an injection that the hold keeps back until the switch has taken effect. -/
def State.deferInjection (s : State) (rid : Option Nat) (pkt : List Byte) : State :=
  { s with flue := { s.flue with waiting := s.flue.waiting ++ [(rid, pkt)] } }

end Sys2Proof.Machine
end

