-- ==== Sys2Proof/Machine/Syn.lean ====
section
/-! DEFINITION. Barriers, sparks and waits (13_barriers_sparks_queues.md R439 to R454, R459, R460). -/

namespace Sys2Proof.Machine

/-- R439: queue identifiers. -/
def qidWorker (l : Nat) : Nat := 128 + l
def qidHob (q : Nat) : Nat := 192 + q
def qidKiln (q : Nat) : Nat := 196 + q
def qidFirebox (q : Nat) : Nat := 200 + q
def qidCollective (q : Nat) : Nat := 204 + q
def qidInjector (q : Nat) : Nat := 208 + q
def qidBellows (q : Nat) : Nat := 212 + q

/-- The group slot that counter b names. -/
def State.gslot (s : State) (b : Nat) : Nat := s.get (F.SYN_BAR_CFG_GSLOT b)
def State.isGroup (s : State) (b : Nat) : Bool := s.on (F.SYN_BAR_CFG_GROUP b)
/-- Whether queue k is in the mask of slot g (R448). -/
def State.inMask (s : State) (g k : Nat) : Bool := (s.get (F.SYN_GRP_MASK_MASK g (k / 32))).testBit (k % 32)
/-- The number of mask bits set (R449). -/
def State.maskCount (s : State) (g : Nat) : Nat := ((List.range 512).filter fun k => s.inMask g k).length
/-- R453 cause 7: the slot of group counter b is unusable: not valid or bound to another counter, named by two counters, or
with a reserved mask bit. -/
def State.groupBad (s : State) (b : Nat) : Bool :=
  let g := s.gslot b
  !s.on (F.SYN_GRP_CTRL_VALID g) || s.get (F.SYN_GRP_CTRL_COUNTER g) != b ||
  ((List.range 296).any fun k => s.inMask g (216 + k)) ||
  ((List.range 4096).any fun c => c != b && s.on (F.SYN_BAR_CFG_VALID c) && s.isGroup c && s.gslot c == g)
/-- Whether counter b acts as configured; a count barrier with P = 0 acts as VALID 0 (R459), as does a bad group (R453). -/
def State.ctrValid (s : State) (b : Nat) : Bool :=
  s.on (F.SYN_BAR_CFG_VALID b) && (if s.isGroup b then !s.groupBad b else s.get (F.SYN_BAR_CFG_P b) != 0)
/-- The misuse cause of a counter that is not usable: 7 for a bad group, else the given cause (R453). -/
def State.badCause (s : State) (b cause : Nat) : Nat :=
  if s.on (F.SYN_BAR_CFG_VALID b) && s.isGroup b then 7 else cause
/-- R442: whether counter b is satisfied. -/
def State.satisfied (s : State) (b : Nat) : Bool :=
  s.ctrValid b &&
    (if s.isGroup b then s.get (F.SYN_GRP_CTRL_PHASE (s.gslot b)) == 2
     else decide (s.get (F.SYN_BAR_CFG_P b) ≤ s.get (F.SYN_BAR_CNT_COUNT b)))

/-- R453: a misuse sets its flag, is latched and writes a LOG record; it vetoes nothing. -/
def State.misuse (s : State) (b cause qid : Nat) : State :=
  let s1 := (s.raise F.SYN_EVENT_MISUSE).setReg R.SYN_MISUSE (BitVec.ofNat 32 (b + cause * 2 ^ 12 + qid * 2 ^ 16 + 2 ^ 31))
  s1.errRecord .sync 0 .syn 0 b (qid + cause * 2 ^ 12)

/-- The waiters of counter b, and their number in its register (R459). -/
def State.noteWaiters (s : State) (b : Nat) : State :=
  s.set (F.SYN_BAR_CNT_WAITERS b) (min 255 ((s.syn.waiters.filter (·.ctr == b)).length))
/-- R435: of several causes the first in the order repair, power, memory, backpressure, fabric data, host, imbalance, barrier. -/
def firstCause (l : List Nat) : Option Nat := [4, 3, 2, 6, 1, 7, 5, 0].find? fun c => l.contains c
/-- The unit class of the FFY block that a queue identifier belongs to (R437, R439); hob crickets have none. -/
def idleClass (k : Nat) : Option Nat :=
  if k < 128 then some 0 else if k < 192 then some 5 else if k < 196 then none else if k < 200 then some 1
  else if k < 204 then some 2 else if k < 208 then some 3 else if k < 212 then some 6 else if k < 216 then some 4 else none
/-- R434: adds idle cycles to the live counter of a unit class and cause. -/
def State.countFfy (s : State) (u c n : Nat) : State :=
  { s with ffy := Sparse.write s.ffy 0 (8 * u + c) ((Sparse.look s.ffy 0 (8 * u + c) + n) % 2 ^ 64) }
/-- R435: the idle cycles of a wait that has ended count under its cause, or under a higher one that held in the cycle. -/
def State.countWait (s : State) (w : Waiter) (cause : Nat) : State :=
  match idleClass w.qid with
  | some u => s.each w.idle fun t (e : Nat × Nat) => t.countFfy u ((firstCause [cause, e.1]).getD cause) e.2
  | none => s
/-- R435: the command in progress of a queue was delayed under a cause. -/
def State.noteDelay (s : State) (qid cause : Nat) : State :=
  if (s.syn.delays.look [] qid).contains cause then s
  else { s with syn := { s.syn with delays := s.syn.delays.write [] qid (s.syn.delays.look [] qid ++ [cause]) } }
/-- The next command of a queue has not been delayed yet. -/
def State.clearDelays (s : State) (qid : Nat) : State := { s with syn := { s.syn with delays := s.syn.delays.write [] qid [] } }
/-- R435: what the last spark of counter b carried: the highest cause under which its signalling command was delayed. -/
def State.carry (s : State) (b : Nat) (qid : Option Nat) : State :=
  let c := match qid with
    | some k => (match firstCause (s.syn.delays.look [] k) with
      | some c => c + 1
      | none => 0)
    | none => 0
  { s with syn := { s.syn with carried := s.syn.carried.write 0 b c } }
/-- R435: the cause of a wait: what the satisfying spark carried, else the tag of its counter. -/
def State.waitCause (s : State) (w : Waiter) : Nat :=
  let c := s.syn.carried.look 0 w.ctr
  if c = 0 then w.cause else c - 1
/-- A queue's wait is released; a unit that lends recalls its reservation (R476). Its idle cycles count, and the command
that waited was delayed under their cause (R435). -/
def State.releaseQ (s : State) (w : Waiter) : State :=
  let rc := if s.syn.lent.contains w.qid then s.syn.recalled ++ [w.qid] else s.syn.recalled
  let s1 := { s with syn := { s.syn with waiters := s.syn.waiters.filter (· != w), released := s.syn.released ++ [w.qid], lent := s.syn.lent.filter (· != w.qid), recalled := rc } }
  ((s1.noteWaiters w.ctr).countWait w (s.waitCause w)).noteDelay w.qid (s.waitCause w)
/-- R444: the level test of every waiter of counter b, made after every change of it; with SYN_CTRL.EN at 0 no wait is
tested (R459). A take-waiter of a group barrier acts as a level wait (R446). -/
def State.retest (s : State) (b : Nat) : State :=
  if s.on F.SYN_CTRL_EN && s.satisfied b then
    s.each (s.syn.waiters.filter fun w => w.ctr == b && (!w.take || s.isGroup b)) State.releaseQ
  else s

/-- R438: the cause code of counter b; values 8 to 15 act as 0. -/
def State.bcause (s : State) (b : Nat) : Nat :=
  let v := (s.reg (R.FFY_BCAUSE (b / 8))).toNat / 2 ^ (4 * (b % 8)) % 16
  if v < 8 then v else 0
/-- R444, R446, R453: a wait reaches the head of queue `qid`. Answers whether it is released at once; else it stalls. -/
def State.waitOn (s : State) (qid b : Nat) (take : Bool) : Bool × State :=
  let s0 := if s.ctrValid b then (if take && s.isGroup b then s.misuse b 5 qid else s) else s.misuse b (s.badCause b 1) qid
  if s0.on F.SYN_CTRL_EN && s0.satisfied b && (!take || s0.isGroup b) then (true, s0)
  else
    let s1 := { s0 with syn := { s0.syn with waiters := s0.syn.waiters ++ [Waiter.mk qid b take (s.bcause b) []] } }
    (false, s1.noteWaiters b)
/-- A stalled wait is withdrawn and the barrier is unchanged (R456); its idle cycles count under its tag. -/
def State.withdraw (s : State) (qid : Nat) : State :=
  let ws := s.syn.waiters.filter (·.qid == qid)
  let s1 := { s with syn := { s.syn with waiters := s.syn.waiters.filter (·.qid != qid), released := s.syn.released.filter (· != qid), lent := s.syn.lent.filter (· != qid) } }
  s1.each ws fun t w => (t.noteWaiters w.ctr).countWait w w.cause
/-- Whether queue `qid` stands stalled in a wait. -/
def State.stalled (s : State) (qid : Nat) : Bool := s.syn.waiters.any (·.qid == qid)
/-- Whether the head wait of queue `qid` has been released and not used yet. -/
def State.wasReleased (s : State) (qid : Nat) : Bool := s.syn.released.any (· == qid)
/-- The release of queue `qid` is used: its head starts (R588). -/
def State.useRelease (s : State) (qid : Nat) : State :=
  { s with syn := { s.syn with released := s.syn.released.filter (· != qid) } }

/-- R450: a tree spark: one hop on the named port, then local delivery, with the counter in its auxiliary field. The
neighbour's fabric number is the one the cabling plan of the JOB record gives. -/
def State.treeSpark (s : State) (port b : Nat) : State :=
  let dest := (Config.jobNeighbour s.job.jrec port).toNat
  let pkt := mkPacket [BitVec.ofNat 8 port, 12] 3 s.epoch dest 2 0 0 b []
  if s.switchHold then s.deferInjection none pkt else s.noteInjection.sendOn port pkt

/-- R394, R450: child ports that a node waits for: those that are not fenced. -/
def State.awaited (s : State) (e : Nat) : List Nat := (treePorts e).filter fun p => !(s.get F.FLU_FENCE_PORTS).testBit p

/-- R450 steps 1 to 3: a tree slot whose local part is complete and whose children have signalled moves on. -/
def State.treeAdvance (s : State) (g b : Nat) : State :=
  let id := s.get (F.SYN_GRP_CTRL_TREEID g)
  if s.get (F.SYN_GRP_CTRL_PHASE g) ≠ 0 ∨ s.get (F.SYN_BAR_CNT_COUNT b) ≠ s.maskCount g then s
  else if !s.treeOk s.epoch id then s
  else
    let e := s.treeEntry s.epoch id
    let seen := s.syn.treeSeen.look [] g
    if !(s.awaited e).all (seen.contains ·) then s
    else
      let s0 := if (s.awaited e).length < (treePorts e).length then s.raise F.SYN_EVENT_PARTIAL else s
      if treeParent e = 12 then
        ((s0.set (F.SYN_GRP_CTRL_PHASE g) 2).each (s.awaited e) fun t p => t.treeSpark p b).retest b
      else (s0.set (F.SYN_GRP_CTRL_PHASE g) 1).treeSpark (treeParent e) b

/-- R449, R450: the local part of slot g may be complete: without TREE the slot is released, with TREE it moves on. A tree
identifier without a VALID entry is misuse of cause 7. -/
def State.groupComplete (s : State) (g b : Nat) : State :=
  if s.get (F.SYN_BAR_CNT_COUNT b) ≠ s.maskCount g then s
  else if !s.on (F.SYN_GRP_CTRL_TREE g) then (s.set (F.SYN_GRP_CTRL_PHASE g) 2).retest b
  else if !s.treeOk s.epoch (s.get (F.SYN_GRP_CTRL_TREEID g)) then s.misuse b 7 0
  else s.treeAdvance g b

/-- R441: adds one to a count; at 0xFFFF it stays and sets SAT. -/
def State.bump (s : State) (b : Nat) : State :=
  let c := s.get (F.SYN_BAR_CNT_COUNT b)
  if c = 0xFFFF then (s.raise (F.SYN_BAR_CNT_SAT b)).raise F.SYN_EVENT_SAT
  else s.set (F.SYN_BAR_CNT_COUNT b) (c + 1)

/-- R441, R449, R453: a signal to counter b, with the queue identifier of the queue that makes it, if it carries one. With
SYN_CTRL.EN at 0 no signal is counted. -/
def State.signal (s : State) (b : Nat) (qid : Option Nat) : State :=
  if !s.on F.SYN_CTRL_EN then s
  else if !s.ctrValid b then s.misuse b (s.badCause b 2) (qid.getD 0)
  else if s.isGroup b then
    let s := s.carry b qid
    let g := s.gslot b
    match qid with
    | none => s.misuse b 3 0
    | some k =>
      if !s.inMask g k then s.misuse b 3 k
      else if (s.syn.arrived.look [] g).contains k then s.misuse b 4 k
      else
        let s1 := { s with syn := { s.syn with arrived := s.syn.arrived.write [] g ((s.syn.arrived.look [] g) ++ [k]) } }
        (s1.bump b).groupComplete g b
  else ((s.carry b qid).bump b).retest b

/-- R106 and its like: a spark field of a descriptor, [11:0] counter and [15] valid, raised for queue `qid`. -/
def State.spark (s : State) (field : Nat) (qid : Option Nat) : State :=
  if field.testBit 15 then s.signal (field % 4096) qid else s

/-- R449: the round of a cleared group counter ends. -/
def State.endRound (s : State) (b : Nat) : State :=
  if s.isGroup b then
    let g := s.gslot b
    { s.set (F.SYN_GRP_CTRL_PHASE g) 0 with syn := { s.syn with arrived := s.syn.arrived.write [] g [], treeSeen := s.syn.treeSeen.write [] g [] } }
  else s

/-- R441, R443: subtracts from a count, clamping at zero; a write to a group counter ends its round. -/
def State.subtract (s : State) (b v : Nat) : State :=
  let c := s.get (F.SYN_BAR_CNT_COUNT b)
  let s1 := s.set (F.SYN_BAR_CNT_COUNT b) (c - v)
  let s2 := if c < v then (s1.raise (F.SYN_BAR_CNT_UNDER b)).raise F.SYN_EVENT_UNDER else s1
  (s2.endRound b).retest b

/-- R446: one engine cycle of counter b: while it is satisfied, the stalled take-waiter with the lowest queue identifier is
released and P is subtracted. -/
def State.takeCycle (s : State) (b : Nat) : State :=
  if s.on F.SYN_CTRL_EN && s.satisfied b && !s.isGroup b then
    let ws := s.syn.waiters.filter fun w => w.ctr == b && w.take
    match ws.find? fun w => ws.all fun v => decide (w.qid ≤ v.qid) with
    | some w => (s.releaseQ w).set (F.SYN_BAR_CNT_COUNT b) (s.get (F.SYN_BAR_CNT_COUNT b) - s.get (F.SYN_BAR_CFG_P b))
    | none => s
  else s

/-- R443: the snapshot of every count and phase, and of who has arrived in each round (log 127). -/
def State.synSnapshot (s : State) : State :=
  let cs := (List.range 4096).foldl (fun m b => Sparse.write m 0 b (s.get (F.SYN_BAR_CNT_COUNT b))) ([] : Sparse Nat)
  let ps := (List.range 256).foldl (fun m g => Sparse.write m 0 (4096 + g) (s.get (F.SYN_GRP_CTRL_PHASE g))) cs
  { s with syn := { s.syn with snap := ps, snapArrived := s.syn.arrived, snapSeen := s.syn.treeSeen } }
/-- R443: clears the counters with CLR set; rounds of group barriers end. -/
def State.synClear (s : State) : State :=
  s.each (List.range 4096) fun t b =>
    if t.on (F.SYN_BAR_CFG_CLR b) then ((t.set (F.SYN_BAR_CNT_COUNT b) 0).endRound b).retest b else t
/-- R443: a step start. -/
def State.synStepStart (s : State) : State := s.synSnapshot.synClear
/-- R443, R444: the start of a replay: counts and phases from the snapshot, then the clear, and the hold store empties; waits
that still stand are tested. -/
def State.synReplay (s : State) : State :=
  let s1 := s.each (List.range 4096) fun t b => t.set (F.SYN_BAR_CNT_COUNT b) (s.syn.snap.look 0 b)
  let s2 := s1.each (List.range 256) fun t g => t.set (F.SYN_GRP_CTRL_PHASE g) (s.syn.snap.look 0 (4096 + g))
  let s3 := { s2 with syn := { s2.syn with arrived := s.syn.snapArrived, treeSeen := s.syn.snapSeen } }.synClear
  let s4 := { s3 with syn := { s3.syn with hold := [] } }.set F.SYN_STATUS_HOLDS 0
  s4.each ((s4.syn.waiters.map (·.ctr)).dedup) State.retest

/-- R450 step 1 and 4: a tree spark for counter b arrives on a port. -/
def State.treeSparkIn (s : State) (b port : Nat) : State :=
  let s := s.carry b none
  let g := s.gslot b
  let id := s.get (F.SYN_GRP_CTRL_TREEID g)
  let e := s.treeEntry s.epoch id
  if !s.treeOk s.epoch id then s.misuse b 3 0
  else if (treePorts e).contains port then
    let s1 := { s with syn := { s.syn with treeSeen := s.syn.treeSeen.write [] g (s.syn.treeSeen.look [] g ++ [port]) } }
    s1.treeAdvance g b
  else if treeParent e = port then
    if s.get (F.SYN_GRP_CTRL_PHASE g) = 1 then
      ((s.set (F.SYN_GRP_CTRL_PHASE g) 2).each (s.awaited e) fun t p => t.treeSpark p b).retest b
    else s
  else s.misuse b 3 0

end Sys2Proof.Machine
end

