-- ==== Sys2Proof/Machine/BlwBase.lean ====
section
/-! DEFINITION. Root jobs of the bellows as the hearths see them: descriptor fields, breaches and the end of a borrowed
tile (06_bellows_curvature_and_roots.md R190, R196, R201 to R203). -/

namespace Sys2Proof.Machine

/-- Bellows q. -/
def State.bellows (s : State) (q : Nat) : Blw := s.blw.look Blw.reset q
/-- Updates bellows q. -/
def State.modBlw (s : State) (q : Nat) (f : Blw → Blw) : State := { s with blw := s.blw.write Blw.reset q (f (s.bellows q)) }
/-- Factor f of bellows q. -/
def State.fact (s : State) (q f : Nat) : Fact := (s.bellows q).facts.look Fact.none f
/-- Updates factor f of bellows q. -/
def State.modFact (s : State) (q f : Nat) (g : Fact → Fact) : State :=
  s.modBlw q fun b => { b with facts := b.facts.write Fact.none f (g (b.facts.look Fact.none f)) }
/-- Updates the job of factor f. -/
def State.modJob (s : State) (q f : Nat) (g : RootJob → RootJob) : State := s.modFact q f fun x => { x with job := g x.job }

/-- Fields of a factor descriptor (R190). -/
def fdKind (d : List Byte) : Nat := bitsOf (leAt d 0 4) 1 0
def fdRoot (d : List Byte) : Bool := (leAt d 0 4).testBit 2
def fdPcode (d : List Byte) : Nat := bitsOf (leAt d 0 4) 4 3
def fdRetry (d : List Byte) : Bool := (leAt d 0 4).testBit 5
def fdValid (d : List Byte) : Bool := (leAt d 0 4).testBit 6
def fdDim (d : List Byte) : Nat := leAt d 4 2
def fdBs (d : List Byte) : Nat := 256 * leAt d 6 1
def fdRows (d : List Byte) : Nat := leAt d 8 4
def fdRwin (d : List Byte) : Nat := leAt d 12 2
def fdSm1 (d : List Byte) : Nat := bitsOf (leAt d 14 2) 5 0
def fdPhase (d : List Byte) : Nat := bitsOf (leAt d 14 2) 11 6
def fdBeta (d : List Byte) : FV := val32 (leAt d 16 4)
def fdWeight (d : List Byte) : FV := val32 (leAt d 20 4)
def fdCopy (d : List Byte) (i : Nat) : Nat := leAt d (24 + 8 * i) 8
def fdRootCopy (d : List Byte) (i : Nat) : Nat := leAt d (40 + 8 * i) 8
def fdWork (d : List Byte) : Nat := leAt d 56 8
def fdCert (d : List Byte) : Nat := leAt d 64 8
def fdRcad (d : List Byte) : Nat := leAt d 72 2
def fdRphase (d : List Byte) : Nat := leAt d 74 2
def fdRstag (d : List Byte) : Nat := leAt d 76 2
def fdLag (d : List Byte) : Nat := leAt d 78 2
def fdGuard (d : List Byte) : FV := val32 (leAt d 80 4)
def fdDampRel (d : List Byte) : FV := val32 (leAt d 84 4)
def fdDampAbs (d : List Byte) : FV := val32 (leAt d 88 4)
def fdNit (d : List Byte) : Nat := leAt d 92 1
def fdBar (d : List Byte) : Nat := leAt d 94 2
def fdG (d : List Byte) : Nat := leAt d 96 8
def fdGpitch (d : List Byte) : Nat := leAt d 104 4
def fdGlen (d : List Byte) : Nat := leAt d 108 4
/-- The root's p (R190). -/
def fdP (d : List Byte) : Nat := 2 ^ fdPcode d
/-- Blocks of a factor (R180). -/
def fdBlocks (d : List Byte) : Nat := ceilDiv (fdDim d) (fdBs d)
/-- Size of block b. -/
def fdSize (d : List Byte) (b : Nat) : Nat := min (fdBs d) (fdDim d - b * fdBs d)
/-- R180: byte offset of block b in a copy, and the pitch of its rows. -/
def fdBlkOff (d : List Byte) (b : Nat) : Nat := b * fdBs d * fdBs d * 4
def fdPitch (d : List Byte) : Nat := fdBs d * 4
/-- Chunks of a row. -/
def fdChunks (d : List Byte) : Nat := ceilDiv (fdDim d) 256
/-- R190: address of buffer i of the work region: M0, M[0], M[1], X[0], X[1], T, P1, P2. -/
def fdBuf (d : List Byte) (i : Nat) : Nat := fdWork d + fdRwin d * fdChunks d * 1024 + i * fdBs d * fdBs d * 4
/-- R190: address of the request record. -/
def fdReq (d : List Byte) : Nat := fdBuf d 8

/-- The tag of borrowed commands of factor f of bellows q. -/
def tileTag (q f : Nat) : Nat := q * 1024 + f

/-- Takes the borrowed commands of a factor out of the borrow slots: a breach or a reload abandons its iteration. -/
def State.abandonTiles (s : State) (q f : Nat) : State :=
  let mine (o : Option QCmd) : Bool := match o with
    | some c => leAt c.bytes 4 4 == tileTag q f
    | none => false
  s.each (List.range 136) fun t p =>
    let h := t.hrt.look Hearth.idle p
    if mine h.borrow then
      let h1 := { h with borrow := none, susp := none, run := h.run.filter fun r => !r.borrowed }
      { t with hrt := t.hrt.write Hearth.idle p h1 }
    else t

/-- R198: the hold of bellows q ends when no job still owes this step a root: the held cycles are counted and the release
barrier is signalled. -/
def State.endHold (s : State) (q : Nat) : State :=
  match (s.bellows q).hold with
  | none => s
  | some c0 =>
    if (s.bellows q).facts.any fun x => x.2.job.deliver == s.job.step && (x.2.job.st == 1 || x.2.job.st == 2) then s
    else
      let s1 := (s.modBlw q fun b => { b with hold := none }).count (F.BLW_HOLD_VALUE q) (s.cycle - c0)
      if s1.on (F.BLW_RELSPK_VALID q) then s1.signal (s1.get (F.BLW_RELSPK_COUNTER q)) none else s1

/-- R201 to R203: a breach of a job, by cause. One of cause 4 or 5 with RETRY set starts a retry at once. -/
def State.breach (s : State) (q f cause : Nat) : State :=
  let x := s.fact q f
  let j := x.job
  let s1 := (s.raise (F.BLW_EVENT_ROOT_BREACH q)).count (F.BLW_BREACH_VALUE q) 1
  let s2 := s1.setReg (R.BLW_LASTBR q) (BitVec.ofNat 32 (f + j.block * 2 ^ 10 + j.iter % 64 * 2 ^ 15 + cause * 2 ^ 21 +
    (if j.retry then 2 ^ 24 else 0) + 2 ^ 31))
  let s3 := s2.errRecord .curvature 0 .bellows q (f + j.block * 2 ^ 10) (j.iter % 64 + cause * 2 ^ 8 + (if j.retry then 2 ^ 11 else 0))
  let s4 := s3.abandonTiles q f
  if (cause = 4 ∨ cause = 5) ∧ fdRetry x.desc ∧ !j.retry then
    (s4.raise (F.BLW_EVENT_ROOT_RETRY q)).modJob q f fun j => { j with retry := true, iter := 0, ran := false, prods := [], next := 0, flight := 0 }
  else (s4.modJob q f fun j => { j with st := 4, prods := [], next := 0, flight := 0 }).endHold q

/-- R196, R201: a borrowed tile of a factor has ended: in a retry a non-finite element written is a breach of cause 2, a
tile written saturated is one of cause 4. -/
def State.tileEnded (s : State) (tag status nonfin : Nat) : State :=
  let q := tag / 1024 % 4
  let f := tag % 1024
  let j := (s.fact q f).job
  if j.st ≠ 2 ∨ j.flight = 0 then s
  else
    let s1 := s.modJob q f fun j => { j with flight := j.flight - 1 }
    if j.retry ∧ nonfin ≠ 0 then s1.breach q f 2 else if status = 1 then s1.breach q f 4 else s1

end Sys2Proof.Machine
end

