-- ==== Sys2Proof/Machine/Queues.lean ====
section
/-! DEFINITION. Command queues, shared by hearths, kilns, fireboxes, collective engines, injectors and the bellows'
service queues: fetching, start barriers, the order of the ring, aborts (03 R95 to R97, 13 R439, R444, R445, R455 to R458,
R587, R588). HEAD is the next slot to fetch; a fetched command is a copy that the unit holds. -/

namespace Sys2Proof.Machine

/-- What the shared queue operations need to know of one unit's queue. -/
structure QI where
  kind : UKind
  unit : Nat
  qid : Option Nat
  slotBytes : Nat
  /-- copies the unit holds at most, the one in progress included -/
  depth : Nat
  base : Nat
  size : RF
  head : RF
  tail : RF
  res : RF
  evAborted : RF
  evReject : Option RF
  /-- the most ring entries -/
  cap : Nat
  /-- the unit's enable bit -/
  en : State → Bool
  /-- a ring size out of range empties the queue (R249, R280, R436) -/
  empties : Bool
  /-- the start-barrier field of a command -/
  bar : List Byte → Nat
  /-- whether byte 0 names a command of the unit -/
  known : Nat → Bool
  /-- makes the copy of a fetched slot: what a hearth reads beside the slot -/
  grab : State → Nat → Nat → List Byte → Bool → QCmd × State
  /-- ends a command with a status: its completion record, then its spark -/
  finish : State → QCmd → Nat → State
  /-- the descriptor-format record of a rejected command (R15) -/
  reject : State → QCmd → State
  /-- what a command that ends ABORTED before it has started leaves undefined -/
  void : State → QCmd → State

/-- The key of a queue in the state. -/
def QI.key (Q : QI) : Nat := Q.kind.code * 256 + Q.unit
/-- The queue of a unit. -/
def State.queue (s : State) (Q : QI) : Queue := s.queues.look Queue.empty Q.key
/-- Updates the queue of a unit. -/
def State.modQueue (s : State) (Q : QI) (f : Queue → Queue) : State :=
  { s with queues := s.queues.write Queue.empty Q.key (f (s.queue Q)) }
/-- R122 and its like: 16 to 4,096 ring entries. -/
def State.qsizeOk (s : State) (Q : QI) : Bool := decide (16 ≤ s.get Q.size) && decide (s.get Q.size ≤ Q.cap)
/-- The tail, modulo the entries. -/
def State.qtail (s : State) (Q : QI) : Nat := s.get Q.tail % s.get Q.size
/-- Device address of a slot. -/
def State.slotAddr (s : State) (Q : QI) (i : Nat) : Nat := s.pair Q.base + i * Q.slotBytes

/-- A plain copy of a slot. -/
def plainGrab (s : State) (slot addr : Nat) (bytes : List Byte) (aborted : Bool) : QCmd × State :=
  ({ slot := slot, addr := addr, bytes := bytes, side := [], policy := [], sideBad := false, aborted := aborted }, s)

/-- The sequence tag of a command. -/
def QCmd.tag (c : QCmd) : Nat := leAt c.bytes 4 4
/-- The opcode of a command. -/
def QCmd.op (c : QCmd) : Nat := leAt c.bytes 0 1

/-- The unit fetches and executes: enabled, and clocked (R468). -/
def State.qOn (s : State) (Q : QI) : Bool := s.clocked && Q.en s

/-- R95, R587: fetches slots while the queue is enabled, HEAD differs from TAIL and a copy can be held. A slot whose read
is uncorrectable is skipped with a MEMORY record that names it. -/
def State.fetchSlots (s : State) (Q : QI) : Nat → State
  | 0 => s
  | n + 1 =>
    if !s.qOn Q then s
    else if !s.qsizeOk Q then (match Q.evReject with
      | some f => s.raise f
      | none => s)
    else
      let h := s.get Q.head
      if h = s.qtail Q ∨ Q.depth ≤ (s.queue Q).cmds.length then s
      else
        let a := s.slotAddr Q h
        let r := s.read a Q.slotBytes
        let s1 := r.st.set Q.head ((h + 1) % s.get Q.size)
        match r.bad with
        | some (_, dec) => (s1.memFault Q.kind Q.unit a dec).fetchSlots Q n
        | none =>
          let ab := (s1.queue Q).abortedSlots.contains h
          let (c, s2) := Q.grab s1 h a r.bytes ab
          (s2.modQueue Q fun q => { q with cmds := q.cmds ++ [c], abortedSlots := q.abortedSlots.filter (· != h) }).fetchSlots Q n

/-- The head copy leaves the queue; a command that started ahead is the one in progress then (R95). -/
def State.dropHead (s : State) (Q : QI) : State :=
  let s1 := s.modQueue Q fun q =>
    { q with cmds := q.cmds.drop 1, started := q.ahead, ahead := false, last := if q.started then q.cmds.head?.map QCmd.tag else q.last }
  match Q.qid with
  | some k => if (s.queue Q).ahead then s1 else s1.clearDelays k
  | none => s1

/-- R444, R456, R98, R588: the copies at the head: an aborted one ends with status ABORTED, one with a start barrier begins
its wait, and one with an unknown opcode that waits no longer is rejected. -/
def State.headArrives (s : State) (Q : QI) : Nat → State
  | 0 => s
  | n + 1 =>
    match (s.queue Q).cmds with
    | [] => s
    | c :: _ =>
      if (s.queue Q).started then s
      else if c.aborted then ((Q.finish (Q.void s c) c 0x11).dropHead Q).headArrives Q n
      else
        let b := Q.bar c.bytes
        let (held, s1) : Bool × State :=
          match Q.qid with
          | none => (b.testBit 15 && !s.satisfied (b % 4096), s)
          | some k =>
            if b.testBit 15 && !s.stalled k && !s.wasReleased k then
              let (now, s1) := s.waitOn k (b % 4096) false
              if now then (false, { s1 with syn := { s1.syn with released := s1.syn.released ++ [k] } }) else (true, s1)
            else (b.testBit 15 && s.stalled k, s)
        if Q.known c.op || held then s1
        else
          let s2 := match Q.qid with
            | some k => s1.useRelease k
            | none => s1
          ((Q.reject s2 c).dropHead Q).headArrives Q n

/-- Fetches what can be fetched and brings the head to its wait. -/
def State.advance (s : State) (Q : QI) : State :=
  let s1 := s.fetchSlots Q (s.get Q.size + Q.depth + 1)
  let n := (s1.queue Q).cmds.length
  let s2 := s1.headArrives Q n
  if (s2.queue Q).cmds.length < n then (s2.fetchSlots Q (s2.get Q.size + Q.depth + 1)).headArrives Q (Q.depth + 1) else s2

/-- R588: the head command, when nothing holds it any longer and it has not started. -/
def State.readyHead (s : State) (Q : QI) : Option QCmd :=
  match (s.queue Q).cmds with
  | [] => none
  | c :: _ =>
    let b := Q.bar c.bytes
    let held : Bool := b.testBit 15 &&
      (match Q.qid with
       | some k => !s.wasReleased k
       | none => !s.satisfied (b % 4096))
    if (s.queue Q).started || c.aborted || held then none else some c
/-- The command in progress. -/
def State.startedHead (s : State) (Q : QI) : Option QCmd :=
  if (s.queue Q).started then (s.queue Q).cmds.head? else none
/-- The command that a unit executes: the one in progress, or the head of an enabled queue that nothing holds (log 115). -/
def State.inHand (s : State) (Q : QI) : Option QCmd :=
  match s.startedHead Q with
  | some c => some c
  | none => if s.qOn Q then s.readyHead Q else none
/-- R588: the head starts: its release is used. -/
def State.startHead (s : State) (Q : QI) : State :=
  let s1 := match Q.qid with
    | some k => s.useRelease k
    | none => s
  s1.modQueue Q fun q => { q with started := true, last := none, wfault := false }
/-- R588, R252: an unknown command whose wait is over is rejected, and the next one comes to the head. -/
def State.headMoves (s : State) (Q : QI) : State :=
  match s.readyHead Q with
  | some c => if Q.known c.op then s else s.advance Q
  | none => s
/-- The command in progress has ended: the next one comes to the head. -/
def State.endHead (s : State) (Q : QI) : State := (s.dropHead Q).advance Q

/-- A start, a whole command and its end in one: `f` answers the final status and the state. -/
def State.runHead (s : State) (Q : QI) (c : QCmd) (f : State → Nat × State) : State :=
  let (st, s1) := f (s.startHead Q)
  (Q.finish s1 c st).endHead Q

/-- The slots between HEAD and TAIL. -/
def State.waitingSlots (s : State) (Q : QI) : List Nat :=
  if s.qsizeOk Q then
    let e := s.get Q.size
    (List.range ((s.qtail Q + e - s.get Q.head) % e)).map fun i => (s.get Q.head + i) % e
  else []

/-- R456 to R458: the result of an abort; an ABORTED result writes a synchronisation record and vetoes the step. -/
def State.abortResult (s : State) (Q : QI) (res tag : Nat) : State :=
  let s1 := (s.set Q.res res).raise Q.evAborted
  if res = 1 then s1.vetoRecord .sync Q.kind Q.unit tag ((Q.qid.getD 0) + 8 * 2 ^ 12) else s1

/-- R456: the first queued command that carries the tag. -/
def State.abortQueued (s : State) (Q : QI) (tag : Nat) : State :=
  let cs := (s.queue Q).cmds
  match cs.findIdx? fun c => c.tag == tag && !c.aborted with
  | some i =>
    let s1 := s.modQueue Q fun q => { q with cmds := q.cmds.mapIdx fun j c => if j = i then { c with aborted := true } else c }
    let s2 := if i = 0 then (match Q.qid with
      | some k => s1.withdraw k
      | none => s1) else s1
    (s2.abortResult Q 1 tag).advance Q
  | none =>
    let ab := (s.queue Q).abortedSlots
    match (s.waitingSlots Q).find? fun i =>
        !ab.contains i && ((s.read (s.slotAddr Q i) Q.slotBytes).bad.isNone && leAt (s.read (s.slotAddr Q i) Q.slotBytes).bytes 4 4 == tag) with
    | some i =>
      (s.modQueue Q fun q => { q with abortedSlots := q.abortedSlots ++ [i] }).abortResult Q 1 tag
    | none => s.abortResult Q 3 tag

/-- The command behind the head that has started too (R95). -/
def State.aheadCmd (s : State) (Q : QI) : Option QCmd := if (s.queue Q).ahead then (s.queue Q).cmds[1]? else none
/-- R456: an abort that looks at the commands in progress and then at the queue. `stop` ends a command in progress. -/
def State.abortLive (s : State) (Q : QI) (tag : Nat) (stop : State → QCmd → State) : State :=
  match (s.startedHead Q).filter fun c => c.tag == tag with
  | some c => (stop s c).abortResult Q 1 tag
  | none =>
    match (s.aheadCmd Q).filter fun c => c.tag == tag with
    | some c => (stop s c).abortResult Q 1 tag
    | none => s.abortQueued Q tag
/-- R455 to R457: an abort by tag. A write before the previous result has been read is ignored. A command ends in one
command of the model, so whether the abort of the one that ended last met it behind its status write point, or found it
gone, is free (log 104). -/
def State.abortTag (s : State) (Q : QI) (tag : Nat) (stop : State → QCmd → State) : State :=
  if s.get Q.res ≠ 0 then s
  else if (s.queue Q).last = some tag then
    let (b, s1) := s.fresh 1
    if b = 1 then s1.abortResult Q 2 tag else s1.abortLive Q tag stop
  else s.abortLive Q tag stop

/-- R15: whether a completion record address keeps its rules: aligned, not in the far tier, mapped. -/
def State.recAddrOk (s : State) (a : Nat) : Bool := a % 32 == 0 && !inFar a && (s.locate a).isSome
/-- Writes a completion record when the command names a usable address (R15, R106). -/
def State.writeRecord (s : State) (kind : UKind) (unit a : Nat) (bs : List Byte) : State :=
  if a = 0 ∨ !s.recAddrOk a then s else s.unitWrite kind unit a bs

/-- Whether the unit has no command in progress. -/
def State.queueIdle (s : State) (Q : QI) : Bool := !(s.queue Q).started && (s.queue Q).cmds.isEmpty
/-- R122, R249, R280, R436: QRESET: HEAD and TAIL become 0 and fetched copies are discarded; ignored while the unit is
enabled or not idle. -/
def State.queueReset (s : State) (Q : QI) (idle : Bool) : State :=
  if Q.en s || !idle then s
  else
    let s1 := (s.set Q.head 0).set Q.tail 0
    let s2 := match Q.qid with
      | some k => s1.withdraw k
      | none => s1
    s2.modQueue Q fun _ => Queue.empty

/-- R123, R250, R249, R280, R436: a write of the ring size: one out of range sets REJECT, and empties the queue of a unit
whose table says so: HEAD and TAIL become 0 and copies that have not started are discarded (log 107). -/
def State.queueSize (s : State) (Q : QI) (v : Nat) : State :=
  let s1 := s.set Q.size v
  if s1.qsizeOk Q then s1.advance Q
  else
    let s2 := match Q.evReject with
      | some f => s1.raise f
      | none => s1
    if !Q.empties then s2
    else
      let s3 := match Q.qid with
        | some k => s2.withdraw k
        | none => s2
      ((s3.set Q.head 0).set Q.tail 0).modQueue Q fun q =>
        { q with cmds := if q.started then q.cmds.take 1 else [], abortedSlots := [] }
end Sys2Proof.Machine
end

