-- ==== Sys2Proof/Machine/Shake.lean ====
section
/-! DEFINITION. SHAKE256 as FIPS 202 publishes it: the spec names it and does not repeat it (log 11). -/

namespace Sys2Proof.Machine

/-- One lane of the 1,600-bit state, lanes at x + 5 y. -/
abbrev KLane := BitVec 64

/-- Lane x, y, coordinates modulo 5. -/
def klane (a : List KLane) (x y : Nat) : KLane := a.getD (x % 5 + 5 * (y % 5)) 0

/-- The rotation offsets, lanes at x + 5 y. -/
def kRot : List Nat :=
  [0, 1, 62, 28, 27, 36, 44, 6, 55, 20, 3, 10, 43, 25, 39, 41, 45, 15, 21, 8, 18, 2, 61, 56, 14]

/-- The round constants. -/
def kRound : List KLane :=
  [0x0000000000000001, 0x0000000000008082, 0x800000000000808A, 0x8000000080008000, 0x000000000000808B,
   0x0000000080000001, 0x8000000080008081, 0x8000000000008009, 0x000000000000008A, 0x0000000000000088,
   0x0000000080008009, 0x000000008000000A] ++
  [0x000000008000808B, 0x800000000000008B, 0x8000000000008089, 0x8000000000008003, 0x8000000000008002,
   0x8000000000000080, 0x000000000000800A, 0x800000008000000A, 0x8000000080008081, 0x8000000000008080,
   0x0000000080000001, 0x8000000080008008]

/-- One round with constant rc. -/
def keccakRound (a : List KLane) (rc : KLane) : List KLane :=
  let c := (List.range 5).map fun x => klane a x 0 ^^^ klane a x 1 ^^^ klane a x 2 ^^^ klane a x 3 ^^^ klane a x 4
  let d := (List.range 5).map fun x => c.getD ((x + 4) % 5) 0 ^^^ (c.getD ((x + 1) % 5) 0).rotateLeft 1
  let th := (List.range 25).map fun i => a.getD i 0 ^^^ d.getD (i % 5) 0
  -- rho and pi: the lane at (x, y) goes to (y, 2 x + 3 y); so (x, y) takes the lane at (x + 3 y, x)
  let b := (List.range 25).map fun i =>
    let x := i % 5
    let y := i / 5
    let j := (x + 3 * y) % 5 + 5 * x
    (th.getD j 0).rotateLeft (kRot.getD j 0)
  let ch := (List.range 25).map fun i =>
    let x := i % 5
    let y := i / 5
    klane b x y ^^^ (~~~(klane b (x + 1) y) &&& klane b (x + 2) y)
  match ch with
  | [] => []
  | l :: t => (l ^^^ rc) :: t

/-- The permutation of 24 rounds. -/
def keccakF (a : List KLane) : List KLane := kRound.foldl keccakRound a

/-- Absorbs one block of 136 bytes. -/
def shakeAbsorb (a : List KLane) (blk : List Byte) : List KLane :=
  keccakF ((List.range 25).map fun i => a.getD i 0 ^^^ (if i < 17 then BitVec.ofNat 64 (leAt blk (8 * i) 8) else 0))

/-- Absorbs `n` blocks. -/
def shakeBlocks : Nat → List KLane → List Byte → List KLane
  | 0, a, _ => a
  | n + 1, a, m => shakeBlocks n (shakeAbsorb a (m.take 136)) (m.drop 136)

/-- Squeezes `n` blocks of 136 bytes. -/
def shakeSqueeze : Nat → List KLane → List Byte
  | 0, _ => []
  | n + 1, a => ((a.take 17).flatMap fun l => leBytes 8 l.toNat) ++ shakeSqueeze n (keccakF a)

/-- `out` bytes of SHAKE256 over a message. -/
def shake256 (msg : List Byte) (out : Nat) : List Byte :=
  let n := msg.length
  let pad := 136 - n % 136
  let tail : List Byte := if pad = 1 then [0x9F] else 0x1F :: (List.replicate (pad - 2) 0 ++ [0x80])
  ((shakeSqueeze (ceilDiv out 136) (shakeBlocks (n / 136 + 1) (List.replicate 25 0) (msg ++ tail)))).take out

end Sys2Proof.Machine
end

