-- ==== Sys2Proof/Machine/Numerics.lean ====
section
/-! DEFINITION. Scale policies, observation and history, generators and the generator journal
(05_training_numerics.md R149 to R159, R166, R173 to R176, R591). -/

namespace Sys2Proof.Machine

/-- R149: the copy of policy entry i that a hearth takes: control, initial scale, history maximum, entries held. -/
def State.policyCopy (s : State) (i : Nat) : List Nat :=
  [(s.reg (R.NUM_POL_CTRL i)).toNat, (s.reg (R.NUM_POL_INIT i)).toNat, (s.reg (R.NUM_PST_HMAX i)).toNat,
   s.get (F.NUM_PST_HCNT_HCOUNT i)]

/-- Fields of a policy copy (R177). -/
def polKind (p : List Nat) : Nat := bitsOf (p.getD 0 0) 1 0
def polStep (p : List Nat) : Nat := bitsOf (p.getD 0 0) 4 2
def polMaxAtt (p : List Nat) : Nat := bitsOf (p.getD 0 0) 6 5
def polMargin (p : List Nat) : Nat := bitsOf (p.getD 0 0) 15 12
def polHset (p : List Nat) : Nat := bitsOf (p.getD 0 0) 19 16
def polHen (p : List Nat) : Bool := (p.getD 0 0).testBit 20
def polErrx (p : List Nat) : Nat := bitsOf (p.getD 0 0) 25 21
def polInit (p : List Nat) : Nat := bitsOf (p.getD 1 0) 7 0
def polTileLim (p : List Nat) : Nat := bitsOf (p.getD 1 0) 31 16
/-- R158: the history maximum; none while the ring is empty. -/
def polHmax (p : List Nat) : Option FV := if p.getD 3 0 = 0 then none else some (val32 (p.getD 2 0))
/-- R150: the history maximum is absent or zero. -/
def polHmaxAbsent (p : List Nat) : Bool :=
  match polHmax p with
  | none => true
  | some a => a.isZero

/-- R153: whether a hearth rejects a command under policy copy `p` for output format block `d`. -/
def policyBad (p : List Nat) (d : FBlock) : Bool :=
  polKind p == 3 || polStep p == 0 ||
  (d.scale != 0 && polKind p == 2 && d.sdir != 0) ||
  (d.scale != 0 && (polKind p == 0 || polKind p == 2 || (polKind p == 1 && polHmaxAbsent p)) &&
    (match scaleValue d.scale (polInit p) with
     | .nan => true
     | v => v.isZero))

/-- R150 KIND 1, R151: the scale byte for a history maximum `a`. -/
def delayedScale (d : FBlock) (margin : Nat) (a : FV) : Nat :=
  scalePow2 d.scale (leastExp a (elemMax d.elem) (d.texp - margin))
/-- R150 KIND 2: the scale byte from a block's largest finite magnitude `b`; INIT when it is zero or absent. -/
def rowScale (d : FBlock) (margin init : Nat) (b : Option FV) : Nat :=
  match b with
  | none => init
  | some b =>
    if b.isZero then init
    else if d.scale = 1 then e8m0Byte (leastExp b (elemMax d.elem) (d.texp - margin))
    else
      let q := fmt32.div (b.scale2 ((margin : Int) - d.texp)) (elemMax d.elem)
      let c := if q.isFin then convFast 4 q else ⟨0x7E, true, false⟩
      if c.bits = 0 then 1 else c.bits
/-- R150: the scale of one output block at attempt 0, from the block's largest finite magnitude. -/
def policyScale (p : List Nat) (d : FBlock) (b : Option FV) : Nat :=
  match polKind p with
  | 0 => polInit p
  | 1 =>
    match polHmax p with
    | some a => if a.isZero then polInit p else delayedScale d (polMargin p) a
    | none => polInit p
  | _ => rowScale d (polMargin p) (polInit p) b
/-- R151: block scales chosen as KIND 2 with MARGIN 0 and INIT 0x7F, for units without a policy. -/
def freeRowScale (d : FBlock) (b : Option FV) : Nat := rowScale d 0 0x7F b

/-- The larger of two optional magnitudes. -/
def maxMag (a : Option FV) (x : FV) : Option FV :=
  match x with
  | .fin _ m e =>
    match a with
    | none => some (.fin false m e)
    | some b => some (b.max (.fin false m e))
  | _ => a

/-- R157: an observation enters the pending maximum of an entry, saturating at the largest finite binary32. -/
def State.observe (s : State) (i : Nat) (x : FV) : State :=
  let v := match fmt32.round x with
    | .fin _ m e => FV.fin false m e
    | _ => .fin false fmt32.maxM fmt32.maxE
  let old := val32 (s.reg (R.NUM_PST_PEND i)).toNat
  if old.lt v then s.setReg (R.NUM_PST_PEND i) (BitVec.ofNat 32 (fmt32.encode v)) else s

/-- R158: the history maximum and its count after the ring of entry i changed. -/
def State.noteHistory (s : State) (i : Nat) (h : List Nat) : State :=
  let s1 := { s with num := { s.num with hist := s.num.hist.write [] i h } }
  (s1.setReg (R.NUM_PST_HMAX i) (BitVec.ofNat 32 (h.foldl Nat.max 0))).set (F.NUM_PST_HCNT_HCOUNT i) h.length
/-- R158: entry i pushes a non-zero pending maximum into its ring of HLEN + 1 values and clears it. -/
def State.pushHistory (s : State) (i : Nat) : State :=
  let p := (s.reg (R.NUM_PST_PEND i)).toNat
  if p = 0 then s
  else
    let h := (p :: s.num.hist.look [] i).take (s.get (F.NUM_POL_CTRL_HLEN i) + 1)
    (s.noteHistory i h).setReg (R.NUM_PST_PEND i) 0
/-- R158: the push at a commit or a skip. -/
def State.pushHistories (s : State) : State := s.each (List.range 256) State.pushHistory
/-- R158: a replay clears the pending maxima without a push. -/
def State.clearPending (s : State) : State := s.each (List.range 256) fun t i => t.setReg (R.NUM_PST_PEND i) 0
/-- R159: a write of NUM_POL_CTRL clears the entry's history and pending maximum. -/
def State.clearPolicy (s : State) (i : Nat) : State := (s.noteHistory i []).setReg (R.NUM_PST_PEND i) 0

/-- R173: one draw of a generator state of four 32-bit words, a lowest: the draw and the next state. -/
def genDraw (g : Nat) : Nat × Nat :=
  let a : BitVec 32 := BitVec.ofNat 32 g
  let b : BitVec 32 := BitVec.ofNat 32 (g / 2 ^ 32)
  let c : BitVec 32 := BitVec.ofNat 32 (g / 2 ^ 64)
  let d : BitVec 32 := BitVec.ofNat 32 (g / 2 ^ 96)
  let t := a ^^^ (a <<< 11)
  let d' := d ^^^ (d >>> 19) ^^^ t ^^^ (t >>> 8)
  (d'.toNat / 2 ^ 16, b.toNat + 2 ^ 32 * c.toNat + 2 ^ 64 * d.toNat + 2 ^ 96 * d'.toNat)
/-- Generator numbers (R173): drain lane j of logical hearth h, firebox lane j of firebox f. -/
def genDrain (h j : Nat) : Nat := 256 * h + j
def genFirebox (f j : Nat) : Nat := 32768 + 256 * f + j
/-- The state of generator i; a = 1 and b = c = d = 0 until seeding (R173). -/
def State.gen (s : State) (i : Nat) : Nat := s.num.gens.look 1 i
/-- Sets generator i. -/
def State.setGen (s : State) (i g : Nat) : State := { s with num := { s.num with gens := s.num.gens.write 1 i g } }
/-- Draws from generator i. -/
def State.draw (s : State) (i : Nat) : Nat × State :=
  let (r, g) := genDraw (s.gen i)
  (r, s.setGen i g)

/-- R174: the seeded state of one generator: unit kind, unit number and lane. -/
def seedState (seed fnum kind unit lane : Nat) : Nat :=
  leNat (shake256 (leBytes 8 seed ++ leBytes 2 fnum ++ [BitVec.ofNat 8 kind, BitVec.ofNat 8 unit, BitVec.ofNat 8 lane]) 16)
/-- R174: kind, unit and lane of generator i. -/
def genWho (i : Nat) : Nat × Nat × Nat := if i < 32768 then (1, i / 256, i % 256) else (2, (i - 32768) / 256, i % 256)
/-- R174: seeds every generator; an all-zero state is replaced by a = 1 and recorded. -/
def State.seedAll (s : State) : State :=
  s.each (List.range 33792) fun t i =>
    let (k, u, l) := genWho i
    let g := seedState (t.pair R.NUM_SEED_LO) t.fnum k u l
    if g = 0 then (t.setGen i 1).raise F.NUM_EVENT_SEED_ZERO else t.setGen i g

/-- R176: journal offset of generator i. -/
def genOffset (i : Nat) : Nat := if i < 32768 then 64 + 16 * i else 524352 + 16 * (i - 32768)
/-- R176, R591: saves every generator state into the journal from offset 8; the step field stays. -/
def State.saveGens (s : State) : State :=
  let base := s.pair R.NUM_JBASE_LO
  let s1 := s.unitWrite .num 0 (base + 8) (leBytes 4 32768 ++ leBytes 4 1024 ++ List.replicate 48 0)
  s1.each (List.range 33792) fun t i => t.unitWrite .num 0 (base + genOffset i) (leBytes 16 (t.gen i))
/-- R591: the hob writes the journal's step field. -/
def State.journalStep (s : State) (n : Nat) : State := s.unitWrite .hob s.master (s.pair R.NUM_JBASE_LO) (leBytes 8 n)
/-- R176: restores every generator state from the journal; an uncorrectable granule leaves its generator as it is. -/
def State.restoreGens (s : State) : State :=
  let base := s.pair R.NUM_JBASE_LO
  s.each (List.range 33792) fun t i =>
    let r := t.read (base + genOffset i) 16
    match r.bad with
    | some (a, d) => r.st.memFault .num 0 a d
    | none => r.st.setGen i (leNat r.bytes)

/-- R166: the copy that quadrant q keeps of a histogram bin. -/
def binKey (q set kind i : Nat) : Nat := ((q * 16 + set) * 2 + kind) * 64 + i
/-- R166: adds one to a bin of quadrant q, saturating. -/
def State.binAdd (s : State) (q set kind i : Nat) : State :=
  let k := binKey q set kind i
  let v := s.num.bins.look 0 k
  if v = 0xFFFFFFFF then s.raise F.NUM_EVENT_HIST_SAT
  else { s with num := { s.num with bins := s.num.bins.write 0 k (v + 1) } }
/-- R166: the saturating sum of the four copies of bin i of the selected histogram. -/
def State.binSum (s : State) (i : Nat) : Nat :=
  min 0xFFFFFFFF (((List.range 4).map fun q => s.num.bins.look 0 (binKey q (s.get F.NUM_HSEL_SET) (s.get F.NUM_HSEL_KIND) i)).sum)
/-- R166: a read of a bin clears all four copies. -/
def State.binClear (s : State) (i : Nat) : State :=
  s.each (List.range 4) fun t q =>
    { t with num := { t.num with bins := t.num.bins.write 0 (binKey q (s.get F.NUM_HSEL_SET) (s.get F.NUM_HSEL_KIND) i) 0 } }

end Sys2Proof.Machine
end

