-- ==== Sys2Proof/Machine/Operands.lean ====
section
/-! DEFINITION. Operand forms: how a product names its operands, how the damper reads them strip by strip, and the
arithmetic of one lane in each product class (02 R48, R51 to R54, R70 to R78; 03 R81 to R94; 04 R125 to R128). -/

namespace Sys2Proof.Machine

/-- One operand of a product as the damper sees it. `t`: stored transposed (TA or TB). -/
structure Operand where
  fb : FBlock
  isB : Bool
  t : Bool
  base : Nat
  pitch : Nat

/-- Whether the stored rows are indexed by k. -/
def Operand.rowIsK (o : Operand) : Bool := o.isB != o.t
def Operand.w (o : Operand) : Nat := elemBytes o.fb.elem
/-- Device address of the element of row or column r at depth k. -/
def Operand.addr (o : Operand) (r k : Nat) : Nat :=
  if o.rowIsK then o.base + k * o.pitch + r * o.w else o.base + r * o.pitch + k * o.w
/-- R60: the grid cell of element (r, k). -/
def Operand.cell (o : Operand) (r k : Nat) : Nat × Nat :=
  if o.isB then o.fb.cell .b k r else o.fb.cell .a r k
/-- R60, R128: device address of a grid cell. -/
def Operand.cellAddr (o : Operand) (c : Nat × Nat) : Nat :=
  if o.t then o.fb.base + c.2 * o.fb.pitch + c.1 else o.fb.base + c.1 * o.fb.pitch + c.2
/-- Columns of the stored scale grid (R58, R128). -/
def Operand.gridCols (o : Operand) (n k : Nat) : Nat :=
  let g := if o.isB then o.fb.grid .b k n else o.fb.grid .a n k
  if o.t then g.1 else g.2

/-- R51: the class of a pair of format blocks; none: not allowed. -/
def pclass (a b : FBlock) : Option PClass :=
  let sh (c : Nat) : Bool := decide (2 ≤ c) && decide (c ≤ 5)
  let it (c : Nat) : Bool := c == 6 || c == 7
  let lg (c : Nat) : Bool := c == 10 || c == 11
  let fx (c : Nat) : Bool := c == 8 || c == 9
  if sh a.elem && sh b.elem then some .short
  else if it a.elem && it b.elem then some (if a.scale = 0 ∧ b.scale = 0 then .intU else .intS)
  else if lg a.elem && lg b.elem then some .lns
  else if a.elem == 0 && b.elem == 0 then some .fp64
  else if a.elem == 1 && b.elem == 1 then some .fp32
  else if fx a.elem && fx b.elem then some .fixed
  else none

/-- R70: the slice pairs of a class, in order; one pass outside slice mode. -/
def slicePairs : PClass → List (Nat × Nat)
  | .fp64 => [(0, 0), (0, 1), (1, 0), (0, 2), (1, 1), (2, 0), (0, 3), (1, 2), (2, 1), (3, 0)]
  | .fp32 => [(0, 0), (0, 1), (1, 0)]
  | .fixed => [(0, 0), (0, 1), (1, 0), (1, 1)]
  | _ => [(0, 0)]
/-- R70: passes per K-step. -/
def PClass.passes (c : PClass) : Nat := (slicePairs c).length
/-- FP64 and FP32 slice mode: the modes with K-blocks (R71). -/
def PClass.blocked (c : PClass) : Bool := c == .fp64 || c == .fp32
/-- The slice modes. -/
def PClass.slice (c : PClass) : Bool := c.blocked || c == .fixed

/-- R126: values of K in one damper block, whose rows of M or N take 512 bytes each. -/
def Operand.blockLen (o : Operand) : Nat := 512 / o.w
/-- R127: values of K in one strip, 64 bytes of each row of the block whatever the storage orientation. -/
def Operand.stripLen (o : Operand) : Nat := 64 / o.w

/-- Splits bytes into element codes of width w. -/
def splitCodes (w : Nat) (bs : List Byte) : Nat → List Nat
  | 0 => []
  | n + 1 => leNat (bs.take w) :: splitCodes w (bs.drop w) n

/-- What a load of the damper gives. -/
structure Load where
  codes : Sparse Nat
  bad : Option (Nat × Nat)
  st : State

/-- R127: reads the strip at depth k0 into a block that begins at b0: codes by r * 512 + (k - b0) for rows r0 .. r0 + cnt - 1. -/
def Operand.loadStrip (o : Operand) (l0 : Load) (b0 r0 cnt k0 len : Nat) : Load :=
  if o.rowIsK then
    (List.range len).foldl (fun (l : Load) j =>
      let r := l.st.read (o.addr r0 (k0 + j)) (cnt * o.w)
      let cs := splitCodes o.w r.bytes cnt
      ⟨(cs.zipIdx).foldl (fun m (v, i) => Sparse.write m 0 (i * 512 + (k0 + j - b0)) v) l.codes, firstBad l.bad r.bad, r.st⟩) l0
  else
    (List.range cnt).foldl (fun (l : Load) i =>
      let r := l.st.read (o.addr (r0 + i) k0) (len * o.w)
      let cs := splitCodes o.w r.bytes len
      ⟨(cs.zipIdx).foldl (fun m (v, j) => Sparse.write m 0 (i * 512 + (k0 + j - b0)) v) l.codes, firstBad l.bad r.bad, r.st⟩) l0

/-- Reads the scale bytes of that strip: by cell row * 2^32 + cell column. -/
def Operand.loadScales (o : Operand) (l0 : Load) (r0 cnt k0 len : Nat) : Load :=
  if o.fb.scale = 0 ∨ cnt = 0 ∨ len = 0 then l0
  else
    let c0 := o.cell r0 k0
    let c1 := o.cell (r0 + cnt - 1) (k0 + len - 1)
    (List.range (c1.1 + 1 - c0.1)).foldl (fun (l : Load) i =>
      (List.range (c1.2 + 1 - c0.2)).foldl (fun (l : Load) j =>
        let c := (c0.1 + i, c0.2 + j)
        let r := l.st.read (o.cellAddr c) 1
        ⟨Sparse.write l.codes 0 (c.1 * 2 ^ 32 + c.2) (leNat r.bytes), firstBad l.bad r.bad, r.st⟩) l) l0

/-- The present bank of an operand. -/
def BankPair.now (p : BankPair) : Bank := if p.cur then p.odd else p.even
/-- Replaces the present bank. -/
def BankPair.put (p : BankPair) (b : Bank) : BankPair := if p.cur then { p with odd := b } else { p with even := b }

/-- What filling the present bank gives. -/
structure Fill where
  banks : BankPair
  bad : Option (Nat × Nat)
  st : State

/-- R126, R127: at the first wave of a damper block the other bank takes its place, and the strips of the block that the
wave at depth k needs are in place, in ascending order. In FP64 and FP32 slice mode a wave needs its whole K-block (R93). -/
def Operand.fill (o : Operand) (s : State) (c : PClass) (kk r0 cnt k : Nat) (start : Bool) (p : BankPair) : Fill :=
  let p1 : BankPair :=
    if start && k % o.blockLen == 0 then
      let q : BankPair := { p with cur := !p.cur }
      q.put { Bank.empty with k0 := k }
    else p
  let b := p1.now
  let top := if c.blocked then min (k / 32 * 32 + 31) (kk - 1) else k
  let want := (top - b.k0) / o.stripLen + 1
  let l0 : Load × Load := (⟨b.codes, none, s⟩, ⟨b.scales, none, s⟩)
  let l := (List.range (want - b.strips)).foldl (fun (l : Load × Load) i =>
    let k1 := b.k0 + (b.strips + i) * o.stripLen
    let n := min o.stripLen (kk - k1)
    let l1 := o.loadStrip { l.1 with st := l.2.st } b.k0 r0 cnt k1 n
    (l1, o.loadScales { l.2 with st := l1.st } r0 cnt k1 n)) l0
  ⟨p1.put { b with strips := max b.strips want, codes := l.1.codes, scales := l.2.codes }, firstBad l.1.bad l.2.bad, l.2.st⟩

/-- The code of element (r0 + i, j) of a block, counted from its first k. -/
def codeIn (m : Sparse Nat) (i j : Nat) : Nat := m.look 0 (i * 512 + j)
/-- The code of row or column i of a tile at depth k in a bank. -/
def Bank.code (b : Bank) (i k : Nat) : Nat := codeIn b.codes i (k - b.k0)
/-- The scale byte of element (r, k) in a loaded scale store. -/
def Operand.scaleIn (o : Operand) (m : Sparse Nat) (r k : Nat) : Nat :=
  let c := o.cell r k
  m.look 0 (c.1 * 2 ^ 32 + c.2)

/-- R71: the block exponent of a row or column: the exponent of its largest finite magnitude, 0 when all are zero. -/
def blockExp (xs : List FV) : Int :=
  match xs.foldl maxMag none with
  | some b => if b.isZero then 0 else b.log2Floor
  | none => 0

/-- R72: digit i of the balanced recoding of an aligned value. -/
def digit64 (v : Int) (i : Nat) : Int :=
  let cut (v : Int) : Int × Int :=
    let t := v % 65536
    let t := if 32768 ≤ t then t - 65536 else t
    (t, (v - t) / 65536)
  let (d3, v2) := cut v
  let (d2, v1) := cut v2
  let (d1, v0) := cut v1
  match i with
  | 0 => v0 | 1 => d1 | 2 => d2 | _ => d3

/-- R72 to R74: slice i of a value in a class; `e` is the block exponent, `x` the stored integer in fixed-point mode. -/
def sliceOf (c : PClass) (e : Int) (x : FV) (i : Nat) : Int :=
  match x with
  | .fin s m ex =>
    match c with
    | .fp64 => digit64 (let v : Int := shiftI m (ex + 62 - e); if s then -v else v) i
    | _ =>
      let a := if c == .fp32 then shiftI m (ex + 31 - e) else shiftI m ex
      let d : Int := if i = 0 then (a / 65536 : Nat) else (a % 65536 : Nat)
      if s then -d else d
  | _ => 0

/-- R72, R73, R75: the weight, in accumulator units, of a slice pair. -/
def pairShift (c : PClass) (i j : Nat) : Nat :=
  match c with
  | .fp64 => 16 * (3 - (i + j))
  | .fp32 => 16 * (1 - (i + j))
  | _ => 16 * (2 - (i + j))
/-- R75: the exponent of the accumulator unit above eA + eB. -/
def accUnit (c : PClass) : Int := if c == .fp64 then -76 else -46
/-- The target format of a blocked class. -/
def blockFmt (c : PClass) : FFmt := if c == .fp64 then fmt64 else fmt32

/-- An empty accumulator buffer. -/
def Lane.zero : Lane := { big := 0, small := 0, ovf := false, sat := false }

/-- R53, R54: adds a product, already rounded to binary32, to a binary32 running sum. -/
def Lane.add32 (l : Lane) (p : FV) (finiteOps : Bool) : Lane :=
  let acc := val32 l.small.toNat
  let sum := fmt32.add acc p
  let newInf : Bool := finiteOps && acc.isFin && sum.isInf
  { l with small := BitVec.ofNat 64 (fmt32.encode sum), ovf := l.ovf || newInf }

/-- Whether a K-run of the scaled-integer class ends after k (R92). -/
def runEnds (f : FBlock) (k : Nat) : Bool :=
  f.scale != 0 && (match f.sdir with
    | 0 => (k + 1) % f.blockLen == 0
    | 2 => (k + 1) % 16 == 0
    | _ => true)

/-- One wave in a lane outside slice mode: codes and scale bytes of both elements, the binades `sh` that a re-run takes
from A (R112), and whether the K-run ends after this k. -/
def Lane.step (l : Lane) (c : PClass) (fa fb : FBlock) (ca sa cb sb sh : Nat) (close : Bool) : Lane :=
  match c with
  | .short =>
    let a := (decodeScaled fa ca sa).scale2 (-(sh : Int))
    let b := decodeScaled fb cb sb
    l.add32 (fmt32.mul a b) (a.isFin && b.isFin)
  | .lns =>
    let za := scaleValue fa.scale sa
    let zb := scaleValue fb.scale sb
    match lnsParts fa.elem ca, lnsParts fb.elem cb with
    | some (s1, l1), some (s2, l2) =>
      if za.isNan || zb.isNan then l.add32 .nan false
      else
        match l1, l2 with
        | some x, some y =>
          let p := lnsValue (s1 != s2) (x + y)
          let q := fmt32.round ((((p.mul za).mul zb).scale2 (fa.texp + fb.texp)).scale2 (-(sh : Int)))
          l.add32 q true
        | _, _ => l
    | _, _ => l.add32 .nan false
  | .intU =>
    if l.sat then l
    else
      let sum := l.big.toInt + toSigned (8 * elemBytes fa.elem) ca * toSigned (8 * elemBytes fb.elem) cb
      let lim := clampI (-(2 ^ 47)) (2 ^ 47 - 1) sum
      { l with big := BitVec.ofInt 104 lim, sat := decide (lim ≠ sum) }
  | .intS =>
    let sum := l.big.toInt + toSigned (8 * elemBytes fa.elem) ca * toSigned (8 * elemBytes fb.elem) cb
    if close then
      let x := (((FV.ofInt sum).mul (scaleValue fa.scale sa)).mul (scaleValue fb.scale sb)).scale2 (fa.texp + fb.texp - (sh : Int))
      ({ l with big := 0 }).add32 (fmt32.round x) x.isFin
    else { l with big := BitVec.ofInt 104 sum }
  | _ => l

/-- One pass of a slice mode in a lane. -/
def Lane.pass (l : Lane) (c : PClass) (ij : Nat × Nat) (ea eb : Int) (a b : FV) : Lane :=
  let d := sliceOf c ea a ij.1 * sliceOf c eb b ij.2
  { l with big := BitVec.ofInt 104 (l.big.toInt + d * (2 ^ pairShift c ij.1 ij.2 : Nat)) }
/-- R76, R78, R93: the close of a K-block: the block sum is rounded once and joins the running sum. `first`: the first
K-block. `bad`: the A row or the B column holds a NaN or an infinity. -/
def Lane.closeBlock (l : Lane) (c : PClass) (ea eb : Int) (bad first : Bool) : Lane :=
  let f := blockFmt c
  let r : FV := if bad then .nan else f.round ((FV.ofInt l.big.toInt).scale2 (ea + eb + accUnit c))
  let acc := f.decode l.small.toNat
  let sum := if first then r else f.add acc r
  let o := l.ovf || (!bad && r.isInf) || (!first && acc.isFin && r.isFin && sum.isInf)
  { l with big := 0, small := BitVec.ofNat 64 (f.encode sum), ovf := o }

/-- R71 to R78 at once: the FP32 slice-mode sum of a row and a column of decoded values, for the watch's recheck (R161).
Answers the running sum. -/
def dot32 (as bs : List FV) : FV :=
  let n := as.length
  (List.range (ceilDiv n 32)).foldl (fun acc b =>
    let xs := (as.drop (32 * b)).take 32
    let ys := (bs.drop (32 * b)).take 32
    let ea := blockExp xs
    let eb := blockExp ys
    let bad := xs.any (fun x => !x.isFin) || ys.any (fun y => !y.isFin)
    let sum := (xs.zip ys).foldl (fun (t : Int) (x, y) =>
      (slicePairs .fp32).foldl (fun t ij => t + sliceOf .fp32 ea x ij.1 * sliceOf .fp32 eb y ij.2 * (2 ^ pairShift .fp32 ij.1 ij.2 : Nat)) t) 0
    let r : FV := if bad then .nan else fmt32.round ((FV.ofInt sum).scale2 (ea + eb + accUnit .fp32))
    if b = 0 then r else fmt32.add acc r) FV.zero

end Sys2Proof.Machine
end

