-- ==== Sys2Proof/Machine/Trans.lean ====
section
/-! DEFINITION. The functions that drain codes name (04_backward_pass_and_damper.md R134, R135): each formula in fixed point
with 128 fraction bits, far inside the bound of R135, and the value of the device anywhere within that bound of it. -/

namespace Sys2Proof.Machine

/-- One, in fixed point with 128 fraction bits. -/
def fxOne : Int := 2 ^ 128
/-- Product in fixed point. -/
def fxMul (a b : Int) : Int := a * b / 2 ^ 128
/-- Quotient in fixed point. -/
def fxDiv (a b : Int) : Int := a * 2 ^ 128 / b
/-- √(2/π), 2/√π, 1/√(2π) and 1/√2 in fixed point. -/
def fxSqrt2Pi : Int := 271506046879672464325182014351570923903
def fxTwoSqrtPi : Int := 383967533763538142977158567454335403656
def fxInvSqrt2Pi : Int := 135753023439836232162591007175785461951
def fxInvSqrt2 : Int := 240615969168004511545033772477625056927

/-- `e^(-z)` for `z ≥ 0`: the Taylor sum at `z / 4096`, squared twelve times; zero above 128. -/
def fxExpNeg (z : Int) : Int :=
  if 128 * fxOne ≤ z then 0
  else
    let r := z / 4096
    let t := (List.range 14).foldr (fun i acc => fxOne - fxMul r acc / ((i : Int) + 1)) fxOne
    (List.range 12).foldl (fun t _ => fxMul t t) t
/-- `e^z` for `0 ≤ z < 1024`, in factors of `e^16`. -/
def fxExpPos (z : Int) : Int :=
  let n := (z / (16 * fxOne)).toNat
  let e16 := fxDiv fxOne (fxExpNeg (16 * fxOne))
  (List.range n).foldl (fun t _ => fxMul t e16) (fxDiv fxOne (fxExpNeg (z - n * (16 * fxOne))))
/-- The absolute value of an integer. -/
def fxAbs (z : Int) : Int := if z < 0 then -z else z
/-- The logistic function. -/
def fxSigma (z : Int) : Int :=
  let e := fxExpNeg (fxAbs z)
  if z < 0 then fxDiv e (fxOne + e) else fxDiv fxOne (fxOne + e)
/-- The hyperbolic tangent. -/
def fxTanh (z : Int) : Int :=
  let e := fxExpNeg (2 * fxAbs z)
  let t := fxDiv (fxOne - e) (fxOne + e)
  if z < 0 then -t else t
/-- The error function: `2/√π e^(-z²) Σ 2^n z^(2n+1) / (1 · 3 ⋯ (2n+1))`; one above 8. -/
def fxErf (z : Int) : Int :=
  let a := fxAbs z
  let v :=
    if 8 * fxOne ≤ a then fxOne
    else
      let q := 2 * fxMul a a
      let (s, _) := (List.range 240).foldl (fun (p : Int × Int) n => (p.1 + p.2, fxMul p.2 q / (2 * (n : Int) + 3))) (0, a)
      fxMul (fxMul fxTwoSqrtPi (fxExpNeg (fxMul a a))) s
  if z < 0 then -v else v
/-- `ln(1 + t)` for `0 ≤ t ≤ 1`, as twice the area tangent of `t / (2 + t)`. -/
def fxLn1p (t : Int) : Int :=
  let u := fxDiv t (2 * fxOne + t)
  let q := fxMul u u
  let (s, _) := (List.range 60).foldl (fun (p : Int × Int) k => (p.1 + p.2 / (2 * (k : Int) + 1), fxMul p.2 q)) (0, u)
  2 * s
/-- The argument of the tanh form of gelu: `√(2/π) (z + 0.044715 z³)`. -/
def fxGeluArg (z : Int) : Int := fxMul fxSqrt2Pi (z + fxMul (fxMul z z) z * 44715 / 1000000)

/-- Whether a finite value is so large that a drain function stands at its limit. -/
def fxBig (x : FV) : Bool := !x.abs.lt (FV.ofInt 1024)
/-- A fixed-point number as a value. -/
def fxVal (v : Int) : FV := (FV.ofInt v).scale2 (-128)

/-- R134: forward codes 0x02 to 0x07 at a finite argument. -/
def forwardValue (f : Nat) (x : FV) : FV :=
  if fxBig x then
    (match f with
     | 6 => if x.neg then FV.one.negate else FV.one
     | 7 => if x.neg then FV.zero else FV.one
     | _ => if x.neg then FV.zero else x)
  else
    let z := x.atExp (-128)
    fxVal (match f with
      | 2 => fxMul z (fxOne + fxTanh (fxGeluArg z)) / 2
      | 3 => fxMul z (fxOne + fxErf (fxMul z fxInvSqrt2)) / 2
      | 4 => fxMul z (fxSigma z)
      | 5 => (if z < 0 then 0 else z) + fxLn1p (fxExpNeg (fxAbs z))
      | 6 => fxTanh z
      | _ => fxSigma z)

/-- R134: the factor of derivative codes 0x42 to 0x47 and 0x65 at a finite side operand. -/
def factorValue (f : Nat) (s : FV) : FV :=
  if fxBig s then
    (match f with
     | 0x46 => FV.zero
     | 0x47 => FV.zero
     | 0x65 => if s.neg then .fin true 1 1400 else FV.one
     | _ => if s.neg then FV.zero else FV.one)
  else
    let z := s.atExp (-128)
    let sg := fxSigma z
    fxVal (match f with
      | 0x42 =>
        let t := fxTanh (fxGeluArg z)
        (fxOne + t) / 2 + fxMul (fxMul z (fxOne - fxMul t t)) (fxMul fxSqrt2Pi (fxOne + fxMul z z * 134145 / 1000000)) / 2
      | 0x43 => (fxOne + fxErf (fxMul z fxInvSqrt2)) / 2 + fxMul z (fxMul fxInvSqrt2Pi (fxExpNeg (fxMul z z / 2)))
      | 0x44 => fxMul sg (fxOne + fxMul z (fxOne - sg))
      | 0x45 => sg
      | 0x46 => fxOne - fxMul (fxTanh z) (fxTanh z)
      | 0x47 => fxMul sg (fxOne - sg)
      | _ => if z < 0 then fxOne - fxExpPos (-z) else fxOne - fxExpNeg z)

/-- R135: a value within relative error 2^-21 or absolute error 2^-24 of `y`, whichever is larger: where inside, the open
fraction `k` says (log 12). -/
def withinBound (y : FV) (k : BitVec 32) : FV :=
  let rel := y.abs.scale2 (-21)
  let tol := if rel.lt (.fin false 1 (-24)) then .fin false 1 (-24) else rel
  y.add ((tol.mul (FV.ofInt (k.toInt * (2 ^ 20 - 1)))).scale2 (-51))

end Sys2Proof.Machine
end

