-- ==== Sys2Proof/Machine/Drain.lean ====
section
/-! DEFINITION. The drain: MATMUL descriptors, the drain functions, polynomial tables and one pass over a finished tile
(03 R102 to R114; 04 R129 to R138; 05 R150 to R157). -/

namespace Sys2Proof.Machine

/-- A MATMUL descriptor, read field by field (R102 to R104). -/
structure MM where
  tag : Nat
  m : Nat
  n : Nat
  k : Nat
  a : Operand
  b : Operand
  cin : Bool
  bias : Nat
  aux : Bool
  watchx : Bool
  tap : Nat
  pad : Bool
  c : FBlock
  d : FBlock
  cBase : Nat
  dBase : Nat
  auxBase : Nat
  biasBase : Nat
  cPitch : Nat
  dPitch : Nat
  auxPitch : Nat
  alpha : Nat
  auxElem : Nat
  func : Nat
  policy : Nat
  ptab : Nat
  spark : Nat
  record : Nat

/-- R102 to R104: the descriptor in 192 bytes. -/
def mmOf (d : List Byte) : MM where
  tag := leAt d 4 4
  m := leAt d 8 4
  n := leAt d 12 4
  k := leAt d 16 4
  a := { fb := fblockAt d 96, isB := false, t := (leAt d 20 4).testBit 0, base := leAt d 24 8, pitch := leAt d 72 4 }
  b := { fb := fblockAt d 112, isB := true, t := (leAt d 20 4).testBit 1, base := leAt d 32 8, pitch := leAt d 76 4 }
  cin := (leAt d 20 4).testBit 2
  bias := bitsOf (leAt d 20 4) 4 3
  aux := (leAt d 20 4).testBit 5
  watchx := (leAt d 20 4).testBit 6
  tap := bitsOf (leAt d 20 4) 8 7
  pad := (leAt d 20 4).testBit 9
  c := fblockAt d 128
  d := fblockAt d 144
  cBase := leAt d 40 8
  dBase := leAt d 48 8
  auxBase := leAt d 56 8
  biasBase := leAt d 64 8
  cPitch := leAt d 80 4
  dPitch := leAt d 84 4
  auxPitch := leAt d 88 4
  alpha := leAt d 92 4
  auxElem := leAt d 160 4
  func := bitsOf (leAt d 164 4) 6 0
  policy := bitsOf (leAt d 164 4) 15 8
  ptab := bitsOf (leAt d 164 4) 19 16
  spark := leAt d 168 2
  record := leAt d 176 8

/-- R51: the product class; the classes are checked before use. -/
def MM.cls (x : MM) : PClass := (pclass x.a.fb x.b.fb).getD .short
/-- R108: the working format. -/
def MM.work (x : MM) : FFmt := if x.cls == .fp64 then fmt64 else fmt32
/-- R90: tile columns and tiles. -/
def MM.tcols (x : MM) : Nat := ceilDiv x.n 256
def MM.tiles (x : MM) : Nat := ceilDiv x.m 256 * x.tcols
/-- First row and column, and rows and columns inside M and N, of a tile. -/
def MM.row0 (x : MM) (t : Nat) : Nat := t / x.tcols * 256
def MM.col0 (x : MM) (t : Nat) : Nat := t % x.tcols * 256
def MM.rows (x : MM) (t : Nat) : Nat := min 256 (x.m - x.row0 t)
def MM.cols (x : MM) (t : Nat) : Nat := min 256 (x.n - x.col0 t)
/-- R117: waves of a tile. -/
def MM.waves (x : MM) : Nat := x.k * x.cls.passes

/-- R134: the codes of FUNC that are not reserved. -/
def funcCodes : List Nat := (List.range 10) ++ [0x41, 0x42, 0x43, 0x44, 0x45, 0x46, 0x47, 0x48, 0x49, 0x61, 0x65, 0x66, 0x67]
/-- R129: the derivative codes. -/
def isDeriv (f : Nat) : Bool := decide (0x41 ≤ f) && funcCodes.contains f
/-- R129: whether a command consumes a side entry. -/
def MM.needsSide (x : MM) : Bool := isDeriv x.func || x.tap != 0

/-- R138: cubic segments of a table image. -/
def ptCoef (t : List Byte) (i j : Nat) : FV := val32 (leAt t (16 + 16 * i + 4 * j) 4)
/-- R138: value and derivative of a user polynomial table at a binary32 argument. -/
def polyEval (t : List Byte) (z : FV) : FV × FV :=
  if z.isNan then (.nan, .nan)
  else
    let wexp := toSigned 8 (leAt t 4 1)
    let left := (leAt t 5 1).testBit 0
    let right := (leAt t 5 1).testBit 1
    let u := (fmt32.sub z (val32 (leAt t 0 4))).scale2 (-wexp)
    let (i, tt, flat) : Nat × FV × Bool :=
      if u.isNan then (0, .nan, false)
      else if u.lt FV.zero then (if left then (0, u, false) else (0, FV.zero, true))
      else if !u.lt (FV.ofInt 64) then (if right then (63, fmt32.sub u (FV.ofInt 63), false) else (63, FV.one, true))
      else
        let i := (u.atExp 0).toNat
        (i, u.sub (FV.ofInt i), false)
    let c := ptCoef t i
    let v := fmt32.fma (fmt32.fma (fmt32.fma (c 3) tt (c 2)) tt (c 1)) tt (c 0)
    let d := (fmt32.fma (fmt32.fma (fmt32.mul (FV.ofInt 3) (c 3)) tt (fmt32.mul (FV.ofInt 2) (c 2))) tt (c 1)).scale2 (-wexp)
    (v, if flat then FV.zero else d)

/-- R136: the limits of a forward code at plus and minus infinity. -/
def fwdLimit (f : Nat) (neg : Bool) : FV :=
  if neg then (match f with
    | 0 => .inf true
    | 6 => FV.one.negate
    | _ => FV.zero)
  else (match f with
    | 6 => FV.one
    | 7 => FV.one
    | _ => .inf false)
/-- R136: the limits of a derivative factor. -/
def factorLimit (f : Nat) (neg : Bool) : FV :=
  match f with
  | 0x46 => FV.zero
  | 0x47 => FV.zero
  | 0x48 => if neg then FV.zero else .inf false
  | 0x65 => if neg then .inf true else FV.one
  | _ => if neg then FV.zero else FV.one

/-- R134 to R136: stage 6 before its rounding: FUNC at x with side element s and table t. The product with x is exact
here, and the caller rounds it once. -/
def drainFunc (f : Nat) (x s : FV) (t : List Byte) : FV :=
  let relu := if x.lt FV.zero then FV.zero else x
  if x.isNan then .nan
  else
    match f with
    | 0 => x
    | 1 => relu
    | 8 => relu.mul relu
    | 9 => (polyEval t x).1
    | _ =>
      if f < 0x41 then
        (match x with
         | .inf neg => fwdLimit f neg
         | y => withinBound (forwardValue f y) (Config.drainForward f (BitVec.ofNat 64 (bits64 (fmt64.round y)))))
      else if s.isNan then .nan
      else if f = 0x41 ∨ f = 0x61 then (if FV.zero.lt s then x else FV.zero)
      else if f = 0x49 then x.mul (polyEval t s).2
      else if f = 0x66 then x.mul (fmt64.fma s.negate s FV.one)
      else if f = 0x67 then x.mul (fmt64.mul s (fmt64.sub FV.one s))
      else if f = 0x48 ∧ s.isFin then x.mul ((if s.lt FV.zero then FV.zero else s).scale2 1)
      else
        match s with
        | .inf neg => x.mul (factorLimit f neg)
        | y => x.mul (withinBound (factorValue f y) (Config.drainFactor f (BitVec.ofNat 32 (bits32 (fmt32.round y)))))

/-- One element on its way through the drain: the stage-4 and stage-6 values in unshifted units, and whether it overflowed
at stages 1 to 6 (R109). -/
structure DEl where
  v4 : FV
  v6 : FV
  ovf : Bool

/-- Stage 1: the lane's value in unshifted units (R108). -/
def MM.stage1 (x : MM) (l : Lane) (sh : Nat) : FV :=
  match x.cls with
  | .intU => fmt32.round ((fmt32.round (FV.ofInt l.big.toInt)).scale2 (x.a.fb.texp + x.b.fb.texp))
  | .fp64 => val64 l.small.toNat
  | .fixed => (FV.ofInt l.big.toInt).scale2 (-((fixFrac x.a.fb.elem : Int) + fixFrac x.b.fb.elem) + x.a.fb.texp + x.b.fb.texp)
  | _ => (val32 l.small.toNat).scale2 sh

/-- Stages 2 to 6 of one element (R108): input value, C element, bias element, side element, table. Each operation rounds
once to the working format, in the domain of the re-run's shift (R112). -/
def MM.stages (x : MM) (v : FV) (ovf0 : Bool) (sh : Nat) (c bias : Option FV) (side : FV) (t : List Byte) : DEl :=
  let rnd (y : FV) : FV := (x.work.round (y.scale2 (-(sh : Int)))).scale2 sh
  let al := val32 x.alpha
  let v2 := if x.alpha = 0x3F800000 then v else rnd (v.mul al)
  let o2 := v.isFin && al.isFin && v2.isInf
  let v3 := match c with
    | some c => rnd (v2.add c)
    | none => v2
  let o3 := v2.isFin && (match c with | some c => c.isFin | none => true) && v3.isInf
  let v4 := match bias with
    | some b => rnd (v3.add b)
    | none => v3
  let o4 := v3.isFin && (match bias with | some b => b.isFin | none => true) && v4.isInf
  let v6 := if x.func = 0 ∨ x.func = 1 ∨ x.func = 0x41 ∨ x.func = 0x61 then drainFunc x.func v4 side t
    else rnd (drainFunc x.func v4 side t)
  let o6 := v4.isFin && (side.isFin || !isDeriv x.func) && v6.isInf
  ⟨v4, v6, ovf0 || o2 || o3 || o4 || o6⟩

/-- The operands that a drain pass reads beside the accumulators: a C row, a bias vector. -/
structure DIn where
  c : Sparse Nat
  bias : Sparse Nat
  bad : Option (Nat × Nat)
  st : State

/-- Reads C and the bias of a tile: C codes by row * 256 + column, bias codes by row or column. -/
def MM.readIn (x : MM) (s : State) (t : Nat) : DIn :=
  let r0 := x.row0 t
  let c0 := x.col0 t
  let bw := if x.cls == .fp64 then 8 else 4
  let d0 : DIn :=
    if x.bias = 0 then ⟨[], [], none, s⟩
    else
      let (o, n) := if x.bias = 1 then (c0, x.cols t) else (r0, x.rows t)
      let r := s.read (x.biasBase + o * bw) (n * bw)
      ⟨[], (splitCodes bw r.bytes n).zipIdx.foldl (fun m (v, i) => Sparse.write m 0 i v) [], r.bad, r.st⟩
  if !x.cin then d0
  else
    let w := elemBytes x.c.elem
    (List.range (x.rows t)).foldl (fun (d : DIn) i =>
      let r := d.st.read (x.cBase + (r0 + i) * x.cPitch + c0 * w) (x.cols t * w)
      ⟨(splitCodes w r.bytes (x.cols t)).zipIdx.foldl (fun m (v, j) => Sparse.write m 0 (i * 256 + j) v) d.c, d.bias,
       (match d.bad with | some b => some b | none => r.bad), r.st⟩) d0

/-- The C element of a tile, widened exactly (R108 stage 3). -/
def MM.cAt (x : MM) (d : DIn) (i j : Nat) : Option FV :=
  if x.cin then some ((elemValue x.c.elem (d.c.look 0 (i * 256 + j))).scale2 x.c.texp) else none
/-- The bias element of a tile. -/
def MM.biasAt (x : MM) (d : DIn) (i j : Nat) : Option FV :=
  if x.bias = 0 then none
  else
    let v := d.bias.look 0 (if x.bias = 1 then j else i)
    some (if x.cls == .fp64 then val64 v else val32 v)

/-- The side operand's format block, base and pitch (R130). -/
def sideFb (e : List Byte) : FBlock := fblockAt e 32
def sideBase (e : List Byte) : Nat := leAt e 8 8
def sidePitch (e : List Byte) : Nat := leAt e 16 4
/-- R134: the side element at (i, j) of a tile, decoded and widened exactly. -/
def sideAt (e : List Byte) (b : SideBank) (r0 c0 i j : Nat) : FV :=
  let f := sideFb e
  let cell := f.cell .out (r0 + i) (c0 + j)
  plusZero (decodeScaled f (b.codes.look 0 (i * 256 + j)) (b.scales.look 0 (cell.1 * 2 ^ 32 + cell.2)))

/-- R133: reads the side operand tile and its scales. -/
def MM.readSide (x : MM) (s : State) (e : List Byte) (t : Nat) : Load × Load :=
  let f := sideFb e
  let w := elemBytes f.elem
  let r0 := x.row0 t
  let c0 := x.col0 t
  let l1 := (List.range (x.rows t)).foldl (fun (l : Load) i =>
    let r := l.st.read (sideBase e + (r0 + i) * sidePitch e + c0 * w) (x.cols t * w)
    ⟨(splitCodes w r.bytes (x.cols t)).zipIdx.foldl (fun m (v, j) => Sparse.write m 0 (i * 256 + j) v) l.codes,
     firstBad l.bad r.bad, r.st⟩) (⟨[], none, s⟩ : Load)
  if f.scale = 0 then (l1, ⟨[], none, l1.st⟩)
  else
    let a := f.cell .out r0 c0
    let b := f.cell .out (r0 + x.rows t - 1) (c0 + x.cols t - 1)
    let l2 := (List.range (b.1 + 1 - a.1)).foldl (fun (l : Load) i =>
      let n := b.2 + 1 - a.2
      let r := l.st.read (f.base + (a.1 + i) * f.pitch + a.2) n
      ⟨(splitCodes 1 r.bytes n).zipIdx.foldl (fun m (v, j) => Sparse.write m 0 ((a.1 + i) * 2 ^ 32 + a.2 + j) v) l.codes,
       firstBad l.bad r.bad, r.st⟩) (⟨[], none, l1.st⟩ : Load)
    (l1, l2)

/-- What loading a side bank gives. -/
structure SideLoad where
  bank : SideBank
  bad : Option (Nat × Nat)
  st : State
/-- R133: at the first wave of a tile of a derivative, its side operand tile is loaded into a side bank; else the bank
stays. -/
def MM.loadSide (x : MM) (s : State) (e : List Byte) (t wave : Nat) (b : SideBank) : SideLoad :=
  if isDeriv x.func && wave == 0 then
    let (l1, l2) := x.readSide s e t
    ⟨{ tile := some t, codes := l1.codes, scales := l2.codes }, firstBad l1.bad l2.bad, l2.st⟩
  else ⟨b, none, s⟩

/-- The grid cell, as a key, of element (i, j) of a tile of D. -/
def MM.dCell (x : MM) (t i j : Nat) : Nat :=
  let c := x.d.cell .out (x.row0 t + i) (x.col0 t + j)
  c.1 * 2 ^ 32 + c.2

/-- What one pass over a tile gives, before anything is written. -/
structure DPass where
  els : List (Nat × Nat × DEl)
  /-- code by row * 256 + column -/
  codes : Sparse Nat
  /-- scale byte in force by row * 256 + column -/
  scales : Sparse Nat
  ovfl : Bool
  /-- a block that holds an overflowing element has its scale at its largest value (R114) -/
  stuck : Bool
  nonfinite : Nat
  /-- scales of attempt 0 by cell -/
  base : Sparse Nat

/-- R108 stages 1 to 9 over a tile, without its writes (R150, R155). -/
def MM.pass (x : MM) (pol : List Nat) (ft : FinTile) (e : List Byte) (side : SideBank) (pt : List Byte) (inp : DIn) : DPass :=
  let t := ft.idx
  let r0 := x.row0 t
  let c0 := x.col0 t
  let els : List (Nat × Nat × DEl) := (List.range (x.rows t)).flatMap fun i => (List.range (x.cols t)).map fun j =>
    let l := ft.lanes.look Lane.zero (i * 256 + j)
    let v := x.stage1 l ft.shift
    (i, j, if x.cls == .fixed then ⟨v, v, false⟩
      else x.stages v (l.ovf || l.sat) ft.shift (x.cAt inp i j) (x.biasAt inp i j)
        (if isDeriv x.func then sideAt e side r0 c0 i j else FV.zero) pt)
  let base : Sparse Nat :=
    if x.d.scale = 0 then []
    else if ft.attempt = 0 then
      let maxs : Sparse (Option FV) := els.foldl (fun m (i, j, el) =>
        let k := x.dCell t i j
        Sparse.write m none k (maxMag (Sparse.look m none k) el.v6)) []
      els.foldl (fun m (i, j, _) =>
        let k := x.dCell t i j
        Sparse.write m 0 k (policyScale pol x.d (Sparse.look maxs none k))) []
    else ft.base
  let fin : DPass := els.foldl (fun (p : DPass) (i, j, el) =>
    let sb := if x.d.scale = 0 then 0 else raiseScale x.d.scale (base.look 0 (x.dCell t i j)) (ft.attempt * polStep pol)
    let q := if x.cls == .fixed then el.v6.scale2 (-x.d.texp)
      else if el.ovf && el.v6.isInf then .fin el.v6.neg 1 100000
      else quotScale x.work el.v6 (scaleValue x.d.scale sb) x.d.texp
    let cv := convFast x.d.elem q
    let o := el.ovf || cv.ovf
    { p with codes := p.codes.write 0 (i * 256 + j) cv.bits, scales := p.scales.write 0 (i * 256 + j) sb, ovfl := p.ovfl || o, stuck := p.stuck || (o && x.d.scale != 0 && scaleAtMax x.d.scale sb), nonfinite := p.nonfinite + (if (elemValue x.d.elem cv.bits).isFin then 0 else 1) })
    ⟨els, [], [], false, false, 0, base⟩
  fin

/-- Writes a row segment of codes of width w. -/
def rowBytes (w n : Nat) (f : Nat → Nat) : List Byte := (List.range n).flatMap fun j => leBytes w (f j)

/-- Writes a tile of D and its scales (R108 stage 9, R61). Answers whether an address was unmapped. -/
def MM.writeTile (x : MM) (s : State) (t : Nat) (p : DPass) (att step : Nat) : Option Nat × State :=
  let w := elemBytes x.d.elem
  let r0 := x.row0 t
  let c0 := x.col0 t
  let (u, s1) := (List.range (x.rows t)).foldl (fun (acc : Option Nat × State) i =>
    let a := x.dBase + (r0 + i) * x.dPitch + c0 * w
    let (b, s2) := acc.2.write a (rowBytes w (x.cols t) fun j => p.codes.look 0 (i * 256 + j))
    (if b && acc.1.isNone then some a else acc.1, s2)) (none, s)
  if x.d.scale = 0 then (u, s1)
  else
    let a := x.d.cell .out r0 c0
    let b := x.d.cell .out (r0 + x.rows t - 1) (c0 + x.cols t - 1)
    (List.range (b.1 + 1 - a.1)).foldl (fun (acc : Option Nat × State) i =>
      let ad := x.d.base + (a.1 + i) * x.d.pitch + a.2
      let (v, s2) := acc.2.write ad (rowBytes 1 (b.2 + 1 - a.2) fun j =>
        raiseScale x.d.scale (p.base.look 0 ((a.1 + i) * 2 ^ 32 + a.2 + j)) (att * step))
      (if v && acc.1.isNone then some ad else acc.1, s2)) (u, s1)

/-- R108 stage 5: writes the auxiliary output of a tile. -/
def MM.writeAux (x : MM) (s : State) (t : Nat) (p : DPass) : Option Nat × State :=
  if !x.aux then (none, s)
  else
    let w := elemBytes x.auxElem
    let vals : Sparse Nat := p.els.foldl (fun m (i, j, el) => Sparse.write m 0 (i * 256 + j) (convFast x.auxElem el.v4).bits) []
    (List.range (x.rows t)).foldl (fun (acc : Option Nat × State) i =>
      let a := x.auxBase + (x.row0 t + i) * x.auxPitch + x.col0 t * w
      let (b, s2) := acc.2.write a (rowBytes w (x.cols t) fun j => vals.look 0 (i * 256 + j))
      (if b && acc.1.isNone then some a else acc.1, s2)) (none, s)

end Sys2Proof.Machine
end

