-- ==== Sys2Proof/Machine/Hearth.lean ====
section
/-! DEFINITION. Hearth matrix engines: queue, validation, waves, drain, recompute, the numerics watch and the ends of a
command (03_hearth_matrix_engines.md, 04 R129 to R146, 05 R155 to R168). -/

namespace Sys2Proof.Machine

/-- Hearth p. -/
def State.hearth (s : State) (p : Nat) : Hearth := s.hrt.look Hearth.idle p
/-- Updates hearth p. -/
def State.modHearth (s : State) (p : Nat) (f : Hearth → Hearth) : State :=
  { s with hrt := s.hrt.write Hearth.idle p (f (s.hearth p)) }
/-- R95: the command whose finished tiles drain and are checked: the one before the command whose waves the array takes,
while it has not ended. -/
def Hearth.old (h : Hearth) : Option HRun := match h.prev with
  | some r => some r
  | none => h.run
/-- Updates that command. -/
def Hearth.modOld (h : Hearth) (f : HRun → HRun) : Hearth :=
  if h.prev.isSome then { h with prev := h.prev.map f } else { h with run := h.run.map f }
/-- That command leaves. -/
def Hearth.dropOld (h : Hearth) : Hearth := if h.prev.isSome then { h with prev := none } else { h with run := none }
/-- Updates the command of hearth p whose tiles drain. -/
def State.modOld (s : State) (p : Nat) (f : HRun → HRun) : State := s.modHearth p fun h => h.modOld f
/-- The queue identifier of hearth p: its logical number (R439). -/
def State.hearthQid (s : State) (p : Nat) : Option Nat := s.logicalOf p

/-- R106: the completion record. Elapsed engine cycles are a free value (log 6). -/
def State.hearthRecord (s : State) (p : Nat) (c : QCmd) (status : Nat) (r : Option HRun) : State :=
  let (cyc, s1) := s.fresh 64
  let (a, t, n, nf, pm) : Nat × Nat × Nat × Nat × Nat := match r with
    | some r => (r.maxAtt, min r.tilesSat 0xFFFF, r.attempts, min r.nonfinite 0xFFFFFFFF, r.misses)
    | none => (0, 0, 0, 0, if c.op = 2 ∧ (s.hearth p).bubble = 1 then (s.hearth p).bubbleMiss else 0)
  s1.writeRecord .hearth p (leAt c.bytes 176 8)
    (leBytes 4 c.tag ++ leBytes 1 status ++ leBytes 1 a ++ leBytes 2 t ++ leBytes 4 n ++ leBytes 4 nf ++ leBytes 8 cyc ++
      leBytes 4 pm ++ leBytes 4 0)

/-- R106, R107: record, then spark. A BUBBLE has no spark (R98). -/
def State.hearthFinish (s : State) (p : Nat) (c : QCmd) (status : Nat) : State :=
  let r := (s.hearth p).old.filter fun r => !r.borrowed && r.cmd == c
  let s1 := s.hearthRecord p c status r
  if c.op = 2 then s1 else s1.spark (leAt c.bytes 168 2) (s.hearthQid p)

/-- R107, R15: a rejected command. -/
def State.hearthReject (s : State) (p : Nat) (c : QCmd) : State :=
  ((s.raise (F.HRT_EVENT_REJECT p)).descRecord .hearth p c.addr c.tag).hearthFinish p c 0x10

/-- R95, R129, R131, R149, R153: the copy of a fetched slot: for a MATMUL its policy entry, which is checked as it is read,
and, when it consumes one, its side entry; SHEAD advances past an entry whose tag is the command's, and past one that
cannot be read (log 105). -/
def hearthGrab (p : Nat) (s : State) (slot addr : Nat) (bytes : List Byte) (aborted : Bool) : QCmd × State :=
  let c : QCmd := { slot := slot, addr := addr, bytes := bytes, side := [], policy := [], sideBad := false, aborted := aborted }
  if c.op ≠ 1 then (c, s)
  else
    let x := mmOf bytes
    let c1 := { c with policy := s.policyCopy x.policy }
    let s := if policyBad c1.policy x.d then s.raise F.NUM_EVENT_POLICY_REJECT else s
    let e := s.get (F.DMP_SSIZE_ENTRIES p)
    if !x.needsSide || !(decide (16 ≤ e) && decide (e ≤ 4096)) then (c1, s)
    else
      let h := s.get (F.DMP_SHEAD_HEAD p)
      let a := s.pair (R.DMP_SBASE_LO p) + 64 * h
      let r := s.read a 64
      match r.bad with
      | some (b, d) => ({ c1 with sideBad := true }, (r.st.set (F.DMP_SHEAD_HEAD p) ((h + 1) % e)).memFault .damper p b d)
      | none =>
        if leAt r.bytes 0 4 = c.tag then ({ c1 with side := r.bytes }, r.st.set (F.DMP_SHEAD_HEAD p) ((h + 1) % e))
        else ({ c1 with side := r.bytes }, r.st)

/-- Whether a range of a descriptor's bytes is zero. -/
def zeroAt (d : List Byte) (o n : Nat) : Bool := ((d.drop o).take n).all (· == 0)

/-- R55, R58: a format block that the hearth rejects. -/
def fbBad (f : FBlock) (cols : Nat) : Bool := f.bad cols

/-- R358: an address that is not 64-byte aligned or lies in the far tier. -/
def addrBad (a : Nat) : Bool := a % 64 != 0 || inFar a

/-- R102 to R105, R134, R143: what makes a MATMUL descriptor rejected, side entry and policy apart. -/
def mmBad (s : State) (d : List Byte) : Bool :=
  let x := mmOf d
  let dim (v : Nat) : Bool := v == 0 || decide (16777216 < v)
  let mode := leAt d 20 4
  let rsv : Bool := bitsOf (leAt d 0 4) 31 9 != 0 || mode / 2 ^ 10 != 0 || x.bias == 3 || x.auxElem / 16 != 0 ||
    (leAt d 164 4).testBit 7 || bitsOf (leAt d 164 4) 31 20 != 0 || bitsOf (leAt d 168 2) 14 12 != 0 ||
    bitsOf (leAt d 170 2) 14 12 != 0 || leAt d 172 4 != 0 || leAt d 184 8 != 0
  let pit : Bool := x.a.pitch % 64 != 0 || x.b.pitch % 64 != 0 || x.cPitch % 64 != 0 || x.dPitch % 64 != 0 || x.auxPitch % 64 != 0
  let adr : Bool := addrBad x.a.base || addrBad x.b.base || addrBad x.cBase || addrBad x.dBase || addrBad x.auxBase || addrBad x.biasBase ||
    !([x.a.base, x.b.base, x.cBase, x.dBase, x.auxBase, x.biasBase].all s.inCombHbm)
  let must0 : Bool := (!x.cin && (x.cBase != 0 || !x.c.isZero)) || (!x.aux && x.auxBase != 0) || (x.bias == 0 && x.biasBase != 0)
  let fbs : Bool := fbBad x.a.fb (x.a.gridCols x.m x.k) || fbBad x.b.fb (x.b.gridCols x.n x.k) ||
    fbBad x.d (x.d.grid .out x.m x.n).2 || (x.cin && fbBad x.c 0) ||
    inFar x.a.fb.base || inFar x.b.fb.base || inFar x.d.base
  let rec_ : Bool := x.record != 0 && !s.recAddrOk x.record
  let cls := pclass x.a.fb x.b.fb
  dim x.m || dim x.n || dim x.k || rsv || pit || adr || must0 || fbs || rec_ || cls.isNone || decide (12 ≤ x.auxElem % 16) ||
    (x.cin && (x.c.scale != 0 ||
      !(if x.cls == .fp64 then x.c.elem == 0 else x.c.elem == 1 || x.c.elem == 2 || x.c.elem == 3))) ||
    !funcCodes.contains x.func ||
    (x.cls == .fixed && (x.alpha != 0x3F800000 || x.cin || x.bias != 0 || x.aux || x.func != 0 || x.d.scale != 0)) ||
    (x.cls == .fp64 && x.func != 0) || (x.cls.slice && x.tap != 0)

/-- Fills rows of a region with free bytes: a region that a rule calls undefined. -/
def State.undefRows (s : State) (base pitch rows n : Nat) : State :=
  s.each (List.range rows) fun t i =>
    let (bs, t1) := t.freshBytes n
    (t1.write (base + i * pitch) bs).2
/-- R120, R121: the D and auxiliary regions of a command are undefined. -/
def State.undefOutputs (s : State) (x : MM) : State :=
  let s1 := s.undefRows x.dBase x.dPitch x.m (x.n * elemBytes x.d.elem)
  let s2 := if x.aux then s1.undefRows x.auxBase x.auxPitch x.m (x.n * elemBytes x.auxElem) else s1
  if x.d.scale = 0 then s2
  else
    let g := x.d.grid .out x.m x.n
    s2.undefRows x.d.base x.d.pitch g.1 g.2

/-- The main queue of hearth p; `depth` is 1, or 5 when descriptors are prefetched (R95). -/
def hearthQ (s : State) (p depth : Nat) : QI where
  kind := .hearth
  unit := p
  qid := s.hearthQid p
  slotBytes := 192
  depth := depth
  base := R.HRT_QBASE_LO p
  size := F.HRT_QSIZE_ENTRIES p
  head := F.HRT_QHEAD_HEAD p
  tail := F.HRT_QTAIL_TAIL p
  res := F.HRT_ABORT_RES_RESULT p
  evAborted := F.HRT_EVENT_ABORTED p
  evReject := some (F.HRT_EVENT_REJECT p)
  cap := 4096
  en := fun t => t.on (F.HRT_CTRL_EN p)
  empties := false
  bar := fun b => if leAt b 0 1 = 1 then leAt b 170 2 else 0
  known := fun o => o == 1 || o == 2 || o == 3
  grab := hearthGrab p
  finish := fun t c st => t.hearthFinish p c st
  reject := fun t c => t.hearthReject p c
  void := fun t c => if c.op == 1 && !mmBad t c.bytes then t.undefOutputs (mmOf c.bytes) else t

/-- R130, R131: a side entry that breaks its rules other than by its tag; a base or a pitch that breaks R130 counts with
them (log 105). -/
def sideEntryBad (s : State) (x : MM) (e : List Byte) : Bool :=
  let flags := leAt e 4 4
  let sv := flags.testBit 0
  let tw := leAt e 20 4
  let f := sideFb e
  flags / 2 != 0 || bitsOf tw 31 24 != 0 || !zeroAt e 24 8 || !zeroAt e 48 16 || (sv != isDeriv x.func) ||
    (x.tap == 0 && tw != 0) || (x.tap != 0 && decide (bitsOf tw 5 0 + 1 ≤ bitsOf tw 11 6)) ||
    (!sv && (sideBase e != 0 || sidePitch e != 0 || !f.isZero)) ||
    (sv && (addrBad (sideBase e) || !s.inCombHbm (sideBase e) || inFar f.base || sidePitch e % 64 != 0 || !(f.elem == 1 || f.elem == 2 || f.elem == 3 || f.elem == 4 || f.elem == 5) ||
      f.bad (f.grid .out x.m x.n).2))

/-- The validity of the polynomial table that a command names (R140). -/
def State.ptabOk (s : State) (p : Nat) (x : MM) : Bool :=
  !(x.func == 9 || x.func == 0x49) || !((s.hearth p).ptabs.look [] x.ptab).isEmpty

/-- Validation at the start of a MATMUL: none when it may run, else the state with the flags of the reason (R105, R131,
R140, R153). -/
def State.mmReject (s : State) (p : Nat) (c : QCmd) : Option State :=
  let x := mmOf c.bytes
  let e := s.get (F.DMP_SSIZE_ENTRIES p)
  let side := x.needsSide && !c.sideBad
  if mmBad s c.bytes then some s
  else if side && !(decide (16 ≤ e) && decide (e ≤ 4096)) then some s
  else if side && leAt c.side 0 4 != c.tag then some (s.raise (F.DMP_EVENT_SIDE_MISMATCH p))
  else if side && sideEntryBad s x c.side then some (s.raise (F.DMP_EVENT_SIDE_REJECT p))
  else if !s.ptabOk p x then some (s.raise (F.DMP_EVENT_PTAB_INVALID p))
  else if policyBad c.policy x.d then some s
  else none

/-- A command at its first tile. -/
def HRun.new (c : QCmd) (borrowed : Bool) : HRun where
  cmd := c
  borrowed := borrowed
  tile := 0
  wave := 0
  lanes := []
  bankA := BankPair.empty
  bankB := BankPair.empty
  side0 := SideBank.empty
  side1 := SideBank.empty
  fin := none
  watch := none
  tilesDone := 0
  maxAtt := 0
  tilesSat := 0
  attempts := 0
  nonfinite := 0
  misses := 0
  breached := false

/-- R106: the end of the command whose tiles drain, with a status: its record and spark; a main-queue command makes room
for the next, a borrowed one frees the borrow slot. -/
def State.endRun (s : State) (p status : Nat) : State :=
  match (s.hearth p).old with
  | none => s
  | some r =>
    let st := s.endStatus .hearth p status
    let s := if st = status then s else (s.raise (F.HRT_EVENT_MEMERR p)).noteWriteFault .hearth p false
    let status := st
    if r.borrowed then
      let s1 := (s.hearthRecord p r.cmd status (some r)).spark (leAt r.cmd.bytes 168 2) none
      (s1.modHearth p fun h => { h with run := none, borrow := none }).tileEnded (leAt r.cmd.bytes 4 4) status r.nonfinite
    else
      let Q := hearthQ s p 1
      let s1 := s.hearthFinish p r.cmd status
      (s1.modHearth p Hearth.dropOld).endHead Q

/-- R120: an uncorrectable operand read ends the command. -/
def State.memErrorRun (s : State) (p addr dec : Nat) : State :=
  match (s.hearth p).old with
  | none => s
  | some r =>
    let s1 := (s.raise (F.HRT_EVENT_MEMERR p)).memFault .hearth p addr dec
    (s1.undefOutputs (mmOf r.cmd.bytes)).endRun p 0x12

/-- R95: whether the hearth may start command `c` while the last tile of the one before it drains: a MATMUL that waits
for nothing and that is to run. -/
def State.mayFollow (s : State) (p : Nat) (c : QCmd) : Bool :=
  c.op == 1 && !c.aborted && !c.sideBad && !(leAt c.bytes 0 4).testBit 8 && !(leAt c.bytes 170 2).testBit 15 && (s.mmReject p c).isNone

/-- R95: the command in progress has issued its last wave: the next one follows it, its descriptor prefetched if need be,
and the other drains to its end beside it. -/
def State.startNext (s : State) (p : Nat) : State :=
  match (s.hearth p).run with
  | none => s
  | some r =>
    if r.borrowed || (s.hearth p).prev.isSome || decide (r.tile < (mmOf r.cmd.bytes).tiles) || !s.qOn (hearthQ s p 1) then s
    else
      let Q := hearthQ s p 1
      let s1 := s.advance (hearthQ s p 5)
      match (s1.queue Q).cmds[1]? with
      | some c =>
        if s1.mayFollow p c then
          (s1.modQueue Q fun q => { q with ahead := true }).modHearth p fun h => { h with prev := some r, run := some (HRun.new c false) }
        else s1
      | none => s1

/-- R102, R588: the MATMUL at the head starts, is rejected, or ends with MEMORY_ERROR when its side entry was unreadable. -/
def State.startMatmul (s : State) (p : Nat) : State :=
  let Q := hearthQ s p 1
  if (s.hearth p).run.isSome then s.startNext p
  else if (s.hearth p).bubble != 0 || !s.qOn Q then s
  else
    match s.readyHead Q with
    | none => s
    | some c =>
      if c.op ≠ 1 then s.headMoves Q
      else if c.sideBad && !policyBad c.policy (mmOf c.bytes).d then
        s.runHead Q c fun t => (0x12, t.raise (F.HRT_EVENT_MEMERR p))
      else
        match s.mmReject p c with
        | some s1 => ((s1.startHead Q).hearthReject p c).endHead Q
        | none => (s.startHead Q).modHearth p fun h => { h with run := some (HRun.new c false) }

/-- R146: space of the tap buffer in bytes. -/
def tapRoom : Nat := 32768
/-- R145: bytes waiting in the tap buffer. -/
def Hearth.tapUsed (h : Hearth) : Nat := (h.tapBuf.map (·.2.length)).sum

/-- R145: one tap record of operand o: 256 elements as stored with their scale bytes; lanes outside carry the zero code. -/
def tapRecordOf (x : MM) (e : List Byte) (o : Operand) (b : Bank) (r0 cnt k row col : Nat) : List Byte :=
  let tw := leAt e 20 4
  let el := o.fb.elem
  let code0 := (convFast el FV.zero).bits
  let scaled := o.fb.scale != 0
  leBytes 4 x.tag ++ leBytes 2 (bitsOf tw 23 12 + (if o.isB then 2 ^ 15 else 0)) ++
    leBytes 1 (el + if scaled then 16 else 0) ++ leBytes 1 (bitsOf o.fb.word 23 16) ++ leBytes 4 k ++ leBytes 2 row ++ leBytes 2 col ++
    ((List.range 256).flatMap fun i => leBytes o.w (if i < cnt then b.code i k else code0)) ++
    (if scaled then (List.range 256).flatMap fun i => leBytes 1 (if i < cnt then o.scaleIn b.scales (r0 + i) k else 0) else [])

/-- R143, R144: whether the A and the B stream of wave k of the tile in the array are tapped. -/
def HRun.tapped (r : HRun) (x : MM) (k : Nat) : Bool × Bool :=
  let tw := leAt r.cmd.side 20 4
  let on := x.tap != 0 && k % (bitsOf tw 5 0 + 1) == bitsOf tw 11 6
  (on && x.tap.testBit 0 && r.tile % x.tcols == 0, on && x.tap.testBit 1 && r.tile / x.tcols == 0)
/-- R145: bytes of the tap records of wave k. -/
def HRun.tapBytes (r : HRun) (x : MM) (k : Nat) : Nat :=
  let one (o : Operand) : Nat := 16 + 256 * o.w + if o.fb.scale != 0 then 256 else 0
  let (a, b) := r.tapped x k
  (if a then one x.a else 0) + (if b then one x.b else 0)
/-- R143 to R145: the tap records of wave k of a tile, each with its operand's SCALE code (log 106). -/
def HRun.tapsOf (r : HRun) (x : MM) (k : Nat) (a b : Bank) : List (Nat × List Byte) :=
  let row := r.tile / x.tcols
  let col := r.tile % x.tcols
  let (ta, tb) := r.tapped x k
  (if ta then [(x.a.fb.scale, tapRecordOf x r.cmd.side x.a a (x.row0 r.tile) (x.rows r.tile) k row col)] else []) ++
  (if tb then [(x.b.fb.scale, tapRecordOf x r.cmd.side x.b b (x.col0 r.tile) (x.cols r.tile) k row col)] else [])

/-- A lane table from a function on the rows and columns inside the tile. -/
def laneTable (rows cols : Nat) (f : Nat → Nat → Lane) : Sparse Lane :=
  (List.range rows).flatMap fun i => (List.range cols).filterMap fun j =>
    let l := f i j
    if l = Lane.zero then none else some (i * 256 + j, l)

/-- One wave's effect on the lanes of a tile: K-step k, pass number, banks with their scale stores (R91 to R94, R112). -/
def MM.waveLanes (x : MM) (t k pass sh : Nat) (ba bb : Bank) (old : Sparse Lane) : Sparse Lane :=
  let r0 := x.row0 t
  let c0 := x.col0 t
  let c := x.cls
  let pairs := slicePairs c
  let ij := pairs.getD pass (0, 0)
  let kb := k / 32 * 32
  let lenK := min 32 (x.k - kb)
  let rowA (i : Nat) : List FV := (List.range lenK).map fun q => (elemValue x.a.fb.elem (ba.code i (kb + q))).scale2 x.a.fb.texp
  let colB (j : Nat) : List FV := (List.range lenK).map fun q => (elemValue x.b.fb.elem (bb.code j (kb + q))).scale2 x.b.fb.texp
  let close := k + 1 == x.k || runEnds x.a.fb k || runEnds x.b.fb k
  laneTable (x.rows t) (x.cols t) fun i j =>
    let l := old.look Lane.zero (i * 256 + j)
    if c.blocked then
      let ra := rowA i
      let cb := colB j
      let ea := blockExp ra
      let eb := blockExp cb
      let l1 := l.pass c ij ea eb (ra.getD (k % 32) FV.zero) (cb.getD (k % 32) FV.zero)
      if pass + 1 = pairs.length ∧ (k % 32 = 31 ∨ k + 1 = x.k) then
        l1.closeBlock c ea eb (ra.any (fun v => !v.isFin) || cb.any (fun v => !v.isFin)) (k < 32)
      else l1
    else if c == .fixed then
      l.pass c ij 0 0 (FV.ofInt (toSigned 32 (ba.code i k))) (FV.ofInt (toSigned 32 (bb.code j k)))
    else
      l.step c x.a.fb x.b.fb (ba.code i k) (x.a.scaleIn ba.scales (r0 + i) k) (bb.code j k) (x.b.scaleIn bb.scales (c0 + j) k) sh close

/-- The banks of both operands as a wave finds them, the first uncorrectable granule, the state. -/
structure Banks where
  a : BankPair
  b : BankPair
  bad : Option (Nat × Nat)
  st : State

/-- R126, R127: both operands' banks hold what the wave at depth k of tile t needs. -/
def MM.loadBanks (x : MM) (s : State) (t k pass : Nat) (a b : BankPair) : Banks :=
  let fa := x.a.fill s x.cls x.k (x.row0 t) (x.rows t) k (pass == 0) a
  let fb := x.b.fill fa.st x.cls x.k (x.col0 t) (x.cols t) k (pass == 0) b
  ⟨fa.banks, fb.banks, firstBad fa.bad fb.bad, fb.st⟩

/-- R87: the pace monitor of hearth p takes a slack. -/
def State.noteSlack (s : State) (p slack : Nat) : State :=
  let s1 := (s.set (F.HRT_PACE_NOW p) slack).set (F.HRT_PACE_MIN p) (min (s.get (F.HRT_PACE_MIN p)) slack)
  s1.modHearth p fun h => { h with pmLeast := min h.pmLeast slack, pmRan := true }
/-- HRT_WAVES counts a wave, FFY's pad counter counts those of padding commands (R103). -/
def State.countWave (s : State) (p : Nat) (pad : Bool) : State :=
  let s1 := s.setPair (R.HRT_WAVES_LO p) ((s.pair (R.HRT_WAVES_LO p) + 1) % 2 ^ 64)
  if pad && s1.on F.FFY_CTRL_EN then { s1 with padWaves := s1.padWaves + 1 } else s1
/-- R87, R122: a wave is issued and leaves its slack. -/
def State.waveIssued (s : State) (p slack : Nat) (pad : Bool) : State := (s.noteSlack p slack).countWave p pad
/-- A wave whose slack no command carries: a free value (log 6). -/
def State.waveFree (s : State) (p : Nat) (pad : Bool) : State :=
  let (sl, s1) := s.fresh 8
  s1.waveIssued p sl pad

/-- R160: whether the watch counts tiles of a command. -/
def HRun.eligible (r : HRun) (x : MM) : Bool := !x.cls.slice && !x.watchx && !r.borrowed
/-- R160: N of the watch, 64 to 65,536. -/
def State.watchN (s : State) : Nat := 2 ^ (max 6 (min 16 (s.get F.NUM_WCTRL_LOGN)))

/-- R112: whether a lane's accumulator is infinite from finite operands. -/
def lanesMarked (l : Sparse Lane) : Bool := l.any fun e => e.2.ovf

/-- The last wave of a tile has been issued: the buffer goes to the drain, and the watch selects (R82, R112, R160). -/
def State.tileFinished (s : State) (p : Nat) (r : HRun) (x : MM) : State :=
  let lg := (s.logicalOf p).getD 0
  let c := s.num.watchCtr.look 0 lg
  let el := r.eligible x
  let sel := el && s.on F.NUM_WCTRL_EN && c % s.watchN == s.get F.NUM_WCTRL_PHASE % s.watchN
  let s1 := if el then { s with num := { s.num with watchCtr := s.num.watchCtr.write 0 lg (c + 1) } } else s
  let ft : FinTile :=
    { idx := r.tile, attempt := 0, shift := 0, lanes := r.lanes, base := [], sel := sel, marked := lanesMarked r.lanes, need := 0 }
  s1.modHearth p fun h => { h with run := some { r with tile := r.tile + 1, wave := 0, lanes := [], fin := some ft } }

/-- The tile in the drain's buffer, and the check in progress. -/
def Hearth.fin (h : Hearth) : Option FinTile := h.old.bind (·.fin)
def Hearth.watch (h : Hearth) : Option Watch := h.old.bind (·.watch)

/-- R112, R116, R162: whether the sequencer withholds the next wave of the command in the array: no tile is left, the tile
in the drain is marked, needs a re-run or is selected, a recheck is due, or this is a tile's last wave and the drain still
holds the other buffer or compares. -/
def Hearth.withheld (h : Hearth) (r : HRun) (x : MM) : Bool :=
  let last := decide (x.waves ≤ r.wave + 1)
  decide (x.tiles ≤ r.tile) ||
  (match h.fin with
   | some f => f.marked || f.need == 2 || f.sel || last
   | none => false) ||
  (match h.watch with
   | some w => !w.ran || last
   | none => false)

/-- R146: whether the wave that is next is withheld because the tap buffer cannot take its records. -/
def Hearth.tapStalled (h : Hearth) : Bool :=
  match h.run with
  | some r =>
    let x := mmOf r.cmd.bytes
    !h.withheld r x && decide (tapRoom < h.tapUsed + r.tapBytes x (r.wave / x.cls.passes))
  | none => false
/-- R146, R435: a cycle in which the tap withholds a wave of hearth p. -/
def State.tapStall (s : State) (p : Nat) : State :=
  (s.count (F.DMP_TAPSTALL_VALUE p) 1).raise (F.DMP_EVENT_TAP_STALL p)

/-- R133: the side bank of a tile. -/
def HRun.sideBank (r : HRun) (t : Nat) : SideBank := if t % 2 = 0 then r.side0 else r.side1
/-- Replaces it. -/
def HRun.putSide (r : HRun) (t : Nat) (b : SideBank) : HRun := if t % 2 = 0 then { r with side0 := b } else { r with side1 := b }

/-- R81, R90 to R94, R133: one wave of the command in the array. A wave whose reads are uncorrectable ends its command, once
the command before it has ended. -/
def State.issueWave (s : State) (p slack : Nat) : State :=
  match (s.hearth p).run with
  | none => s
  | some r =>
    let x := mmOf r.cmd.bytes
    if (s.hearth p).withheld r x then s
    else if (s.hearth p).tapStalled then
      let s1 := s.tapStall p
      if s1.on F.FFY_CTRL_EN then s1.countFfy 0 6 1 else s1
    else
      let k := r.wave / x.cls.passes
      let pass := r.wave % x.cls.passes
      let bk := x.loadBanks s r.tile k pass r.bankA r.bankB
      let sd := x.loadSide bk.st r.cmd.side r.tile r.wave (r.sideBank r.tile)
      match firstBad bk.bad sd.bad with
      | some (a, d) => if (s.hearth p).prev.isSome then s else sd.st.memErrorRun p a d
      | none =>
        let taps := r.tapsOf x k bk.a.now bk.b.now
        let lanes := x.waveLanes r.tile k pass 0 bk.a.now bk.b.now r.lanes
        let r1 := { r.putSide r.tile sd.bank with wave := r.wave + 1, lanes := lanes, bankA := bk.a, bankB := bk.b }
        let s1 := (sd.st.waveIssued p slack x.pad).modHearth p fun h => { h with run := some r1, tapBuf := h.tapBuf ++ taps }
        if r1.wave = x.waves then s1.tileFinished p r1 x else s1

/-- A tile's place in the command is settled; the last one ends the command (R106). -/
def State.tileDone (s : State) (p : Nat) : State :=
  match (s.hearth p).old with
  | none => s
  | some r =>
    let x := mmOf r.cmd.bytes
    if x.tiles ≤ r.tilesDone ∧ r.watch.isNone then s.endRun p (if r.tilesSat = 0 then 0 else 1) else s

/-- The largest finite magnitude among the stage-6 values (R157). -/
def DPass.observed (d : DPass) : Option FV := d.els.foldl (fun m (_, _, e) => maxMag m e.v6) none

/-- R108 to R114, R142, R155: one drain pass over the tile in the drain's buffer at its present attempt. The auxiliary
output is written on the first pass only. -/
def State.drainPass (s : State) (p : Nat) (r : HRun) (ft : FinTile) : State :=
  let x := mmOf r.cmd.bytes
  let pol := r.cmd.policy
  let inp := x.readIn s ft.idx
  match inp.bad with
  | some (a, d) => inp.st.memErrorRun p a d
  | none =>
    let d := x.pass pol ft r.cmd.side (r.sideBank ft.idx) ((s.hearth p).ptabs.look [] x.ptab) inp
    let (ub, s1) := if ft.attempt = 0 then x.writeAux inp.st ft.idx d else (none, inp.st)
    let recomp := x.d.scale != 0 && (x.cls == .short || x.cls == .intS || x.cls == .lns)
    if d.ovfl && recomp && !d.stuck && decide (ft.attempt < polMaxAtt pol) then
      -- R111, R112: the tile is recomputed; one that no lane marks is drained again (log 108)
      s1.modOld p fun r => { r with fin := some { ft with base := d.base, need := if ft.marked then 2 else 1 } }
    else
      let (ud, s2) := x.writeTile s1 ft.idx d ft.attempt (polStep pol)
      let sat := d.ovfl
      let s3 := if sat then ((s2.raise (F.HRT_EVENT_SATURATED p)).count (F.HRT_SATTILES_VALUE p) 1).count (F.NUM_PST_CNT_SATT x.policy) 1 |>.raise F.NUM_EVENT_SATURATED else s2
      let s4 := match d.observed with
        | some b => if x.cls.slice then s3 else s3.observe x.policy b
        | none => s3
      let w : Option Watch := if ft.sel then
        some { idx := ft.idx, attempt := ft.attempt, ran := false, notChecked := false, lanes := [], codes := d.codes, scales := d.scales, c := inp.c, bias := inp.bias }
        else none
      let s5 := s4.modOld p fun r => { r with fin := none, watch := (match w with | some w => some w | none => r.watch), tilesDone := r.tilesDone + 1, tilesSat := r.tilesSat + (if sat then 1 else 0), nonfinite := r.nonfinite + d.nonfinite }
      match (match ub with | some a => some a | none => ud) with
      | some a => s5.memErrorRun p a 3
      | none => s5.tileDone p

/-- R108: the drain takes the finished tile. -/
def State.tileDrain (s : State) (p : Nat) : State :=
  match (s.hearth p).old with
  | some r => match r.fin with
    | some ft => if ft.need = 0 then s.drainPass p r ft else s
    | none => s
  | none => s

/-- R156: a recompute attempt is counted. -/
def State.countAttempt (s : State) (p : Nat) (pol n : Nat) : State :=
  let s1 := ((s.raise (F.HRT_EVENT_RECOMPUTE p)).count (F.HRT_RECOMP_VALUE p) 1).count (F.NUM_PST_CNT_RECOMP pol) 1
  s1.modOld p fun r => { r with attempts := r.attempts + 1, maxAtt := max r.maxAtt n }

/-- R111: the held tile is drained again with its block scales raised by one more step. -/
def State.reDrain (s : State) (p : Nat) : State :=
  match (s.hearth p).old with
  | some r => match r.fin with
    | some ft =>
      if ft.need = 1 then
        let ft1 := { ft with attempt := ft.attempt + 1, need := 0 }
        let s1 := s.countAttempt p (mmOf r.cmd.bytes).policy ft1.attempt
        match (s1.hearth p).old with
        | some r1 => s1.drainPass p r1 ft1
        | none => s1
      else s
    | none => s
  | none => s

/-- What the waves of a re-run leave: both operands' banks, the lanes, the first uncorrectable granule, the state. -/
structure Rerun where
  a : BankPair
  b : BankPair
  lanes : Sparse Lane
  bad : Option (Nat × Nat)
  st : State

/-- R112: all waves of a tile again with A scaled down by `sh` binades; taps ignore them (R144), the pace monitor and the
wave count do not (R87, R122). -/
def State.rerunWaves (p : Nat) (x : MM) (t sh : Nat) : Nat → Nat → Rerun → Rerun
  | 0, _, u => u
  | n + 1, wv, u =>
    let k := wv / x.cls.passes
    let pass := wv % x.cls.passes
    let bk := x.loadBanks u.st t k pass u.a u.b
    if bk.bad.isSome then ⟨bk.a, bk.b, u.lanes, bk.bad, bk.st⟩
    else
      State.rerunWaves p x t sh n (wv + 1)
        ⟨bk.a, bk.b, x.waveLanes t k pass sh bk.a.now bk.b.now u.lanes, none, bk.st.waveFree p x.pad⟩

/-- R112: the failed tile reruns into its buffer. -/
def State.reRun (s : State) (p : Nat) : State :=
  match (s.hearth p).old with
  | some r => match r.fin with
    | some ft =>
      if ft.need = 2 then
        let x := mmOf r.cmd.bytes
        let n := ft.attempt + 1
        let sh := n * polStep r.cmd.policy
        let u := State.rerunWaves p x ft.idx sh x.waves 0 ⟨r.bankA, r.bankB, [], none, s.countAttempt p x.policy n⟩
        match u.bad with
        | some (a, d) => u.st.memErrorRun p a d
        | none => u.st.modOld p fun r =>
          { r with bankA := u.a, bankB := u.b, fin := some { ft with attempt := n, shift := sh, lanes := u.lanes, marked := lanesMarked u.lanes, need := 0 } }
      else s
    | none => s
  | none => s

/-- Decoded operand values of a tile for the recheck: rows of A and columns of B over all of K; a logarithmic element is
`2^n * T[f]` (R161). -/
def Operand.decodeRows (o : Operand) (s : State) (r0 cnt k : Nat) : List (List FV) × Option (Nat × Nat) × State :=
  let len := o.stripLen
  let (m, bad, s1) := (List.range (ceilDiv k len)).foldl (fun (acc : Sparse FV × Option (Nat × Nat) × State) b =>
    let (m, bad, t) := acc
    let n := min len (k - b * len)
    let l := o.loadStrip ⟨[], none, t⟩ (b * len) r0 cnt (b * len) n
    let z := o.loadScales ⟨[], none, l.st⟩ r0 cnt (b * len) n
    let m1 := (List.range cnt).foldl (fun m i => (List.range n).foldl (fun m j =>
      Sparse.write m FV.zero (i * 2 ^ 32 + b * len + j)
        (decodeTable o.fb (codeIn l.codes i j) (o.scaleIn z.codes (r0 + i) (b * len + j)))) m) m
    (m1, firstBad bad (firstBad l.bad z.bad), z.st)) ([], none, s)
  ((List.range cnt).map fun i => (List.range k).map fun j => m.look FV.zero (i * 2 ^ 32 + j), bad, s1)

/-- R161 to R163: the recheck of the selected tile in FP32 slice mode: 3 waves for each k, whatever the operands hold. -/
def State.watchRecheck (s : State) (p : Nat) : State :=
  match (s.hearth p).old with
  | some r => match r.watch with
    | some w =>
      if w.ran then s
      else
        let x := mmOf r.cmd.bytes
        let (as, b1, s1) := x.a.decodeRows s (x.row0 w.idx) (x.rows w.idx) x.k
        let (bs, b2, s2) := x.b.decodeRows s1 (x.col0 w.idx) (x.cols w.idx) x.k
        match firstBad b1 b2 with
        | some (a, d) => s2.memErrorRun p a d
        | none =>
          let ok (v : FV) : Bool := v.isFin && fmt32.holds v
          let nc := as.any (fun l => l.any fun v => !ok v) || bs.any (fun l => l.any fun v => !ok v)
          let lanes := if nc then [] else laneTable (x.rows w.idx) (x.cols w.idx) fun i j =>
            { Lane.zero with small := BitVec.ofNat 64 (fmt32.encode (dot32 (as.getD i []) (bs.getD j []))) }
          let s3 := s2.each (List.range (3 * x.k)) fun t _ => t.waveFree p x.pad
          s3.modOld p fun r => { r with watch := some { w with ran := true, notChecked := nc, lanes := lanes } }
    | none => s
  | none => s

/-- R164: the smallest positive normal of an output format, one code step of a fixed-point one. -/
def elemTau (code : Nat) : FV :=
  match floatFmt code with
  | some f => .fin false 1 f.emin
  | none =>
    match code with
    | 6 => FV.one | 7 => FV.one
    | 8 => .fin false 1 (-31) | 9 => .fin false 1 (-30)
    | 10 => lnsReal false (-16383)
    | _ => lnsReal false (-63 * 64)

/-- What comparing one element gives (R164, R165): error bin, headroom bin, breach, mismatch; none: not comparable. -/
structure Cmp where
  err : Option Nat
  head : Option Nat
  breach : Bool
  mismatch : Bool

/-- R164, R165, R167. A logarithmic code compares as `2^n * T[f]`, like the operands of the recheck (log 101). -/
def compareEl (d : FBlock) (pol : List Nat) (code sb : Nat) (ref : FV) : Option Cmp :=
  let nar := decodeTable d code sb
  if !fmt32.holds nar then none
  else
    let sc := (scaleValue d.scale sb).scale2 d.texp
    let head : Option Nat := match ref, sc with
      | .fin _ m e, .fin _ n f =>
        if m = 0 ∨ n = 0 then none
        else
          let top := (elemMax d.elem).mul (.fin false n f)
          some (clampI 0 63 (floorLog2Q top.mag m + top.exp - e + 16)).toNat
      | _, _ => none
    if nar.isNan && ref.isNan then some ⟨some 0, none, false, false⟩
    else if nar.isInf && ref.isInf && nar.neg == ref.neg then some ⟨some 0, none, false, false⟩
    else if !nar.isFin || !ref.isFin then some ⟨none, head, true, true⟩
    else
      let tau := fmt32.round (sc.mul (elemTau d.elem))
      let rel := fmt32.div (fmt32.sub nar ref).abs (ref.abs.max tau)
      let bin := if rel.isZero then 0 else (clampI 1 63 (match rel with | .fin _ _ _ => rel.log2Floor + 48 | _ => 63)).toNat
      some ⟨some bin, head, (FV.fin false 1 (-(polErrx pol : Int))).lt rel, false⟩

/-- The running totals of a comparison pass. -/
structure CmpSum where
  breaches : Nat
  top : Nat
  mism : Nat
  st : State

/-- R161, R164 to R168: the comparison pass of the selected tile, with C, bias and side operand as its drain used them. -/
def State.watchCompare (s : State) (p : Nat) : State :=
  match (s.hearth p).old with
  | some r => match r.watch with
    | some w =>
      if !w.ran then s
      else if w.notChecked then
        ((s.count F.NUM_WNOTCHK_VALUE 1).modOld p fun r => { r with watch := none }).tileDone p
      else
        let x := mmOf r.cmd.bytes
        let pol := r.cmd.policy
        let inp : DIn := ⟨w.c, w.bias, none, s⟩
        let pt := (s.hearth p).ptabs.look [] x.ptab
        let lg := (s.logicalOf p).getD 0
        let hsub := min 8 (s.get F.NUM_WCTRL_HSUB)
        let idxs := (List.range (x.rows w.idx)).flatMap fun i => (List.range (x.cols w.idx)).map fun j => (i, j)
        let tot := idxs.foldl (fun (c : CmpSum) (i, j) =>
          let l := w.lanes.look Lane.zero (i * 256 + j)
          let ref := (x.stages (val32 l.small.toNat) false 0 (x.cAt inp i j) (x.biasAt inp i j)
            (if isDeriv x.func then sideAt r.cmd.side (r.sideBank w.idx) (x.row0 w.idx) (x.col0 w.idx) i j else FV.zero) pt).v6
          match compareEl x.d pol (w.codes.look 0 (i * 256 + j)) (w.scales.look 0 (i * 256 + j)) ref with
          | none => c
          | some k =>
            let (take, s1) := if hsub = 0 then (true, c.st) else
              let (dr, t) := c.st.draw (genDrain lg j)
              (decide (dr < 2 ^ (16 - hsub)), t)
            let add := take && polHen pol
            let q := pairQuad p
            let s2 := match k.err with
              | some b => if add then s1.binAdd q (polHset pol) 0 b else s1
              | none => s1
            let s3 := match k.head with
              | some b => if add then s2.binAdd q (polHset pol) 1 b else s2
              | none => s2
            ⟨c.breaches + (if k.breach then 1 else 0), max c.top (k.err.getD 0), c.mism + (if k.mismatch then 1 else 0), s3⟩)
          (⟨0, 0, 0, inp.st⟩ : CmpSum)
        let s1 := tot.st.count F.NUM_WSAMPLED_VALUE 1
        let s2 := if tot.mism = 0 then s1 else (s1.count F.NUM_WNFMIS_VALUE tot.mism).raise F.NUM_EVENT_NF_MISMATCH
        let br := decide (polTileLim pol < tot.breaches)
        let s3 := if br then (s2.count F.NUM_WBREACH_VALUE 1).raise F.NUM_EVENT_WATCH_BREACH else s2
        let s4 := if br && !r.breached then
            s3.errRecord .numerics 0 .num 0 (x.tag + (w.idx / x.tcols % 2 ^ 16) * 2 ^ 32 + (w.idx % x.tcols % 2 ^ 16) * 2 ^ 48)
              (lg + x.policy * 2 ^ 8 + tot.top * 2 ^ 16 + (min 1023 tot.breaches) * 2 ^ 22)
          else s3
        (s4.modOld p fun r => { r with watch := none, breached := r.breached || br }).tileDone p
    | none => s
  | none => s

/-- The next thing a hearth does on its own: a check, a drain, a recompute, or a wave with slack `sl`. -/
def State.hearthTick (s : State) (p sl : Nat) : State :=
  match (s.hearth p).watch, (s.hearth p).fin with
  | some w, _ => if w.ran then s.watchCompare p else s.watchRecheck p
  | none, some f => if f.need = 0 then s.tileDrain p else if f.need = 1 then s.reDrain p else s.reRun p
  | none, none => s.issueWave p sl

/-- Runs the command in the array to its end, or until the tap buffer is full. Slacks are free values (log 6). -/
def State.hearthRunOut (s : State) (p : Nat) : Nat → State
  | 0 => s
  | n + 1 =>
    match (s.hearth p).run with
    | none => s
    | some r =>
      let (sl, s1) := s.fresh 8
      let s2 := s1.hearthTick p sl
      match (s2.hearth p).run with
      | none => s2
      | some r2 =>
        if r2.cmd ≠ r.cmd ∨ (r2 = r ∧ (s2.hearth p).prev = (s.hearth p).prev) then s2 else s2.hearthRunOut p n

/-- Enough ticks for a command, and for what is left of the one before it. -/
def HRun.fuel (r : HRun) : Nat := (mmOf r.cmd.bytes).tiles * ((mmOf r.cmd.bytes).waves + 16) + 32

end Sys2Proof.Machine
end

