-- ==== Sys2Proof/Machine/Vec.lean ====
section
/-! DEFINITION. Matrices in memory, journal entries, and strict binary64 vector arithmetic with sticky flags
(02 R68; 07 R211, R229; 16 R523). -/

namespace Sys2Proof.Machine

/-- R523: a unit enters a 32-bit change in the step's commit journal. -/
def State.journal (s : State) (addr value mask : Nat) : State :=
  { s with job := { s.job with entries := s.job.entries ++ [(addr, value, mask)] } }
/-- Enters a whole word when it differs from what memory holds. -/
def State.journalWord (s : State) (addr value : Nat) : State :=
  if leNat (s.read addr 4).bytes = value then s else s.journal addr value 0xFFFFFFFF

/-- What reading a matrix gives: rows of codes. -/
structure MRd where
  rows : List (List Nat)
  bad : Option (Nat × Nat)
  st : State

/-- Splits bytes into `n` codes of width `w`. -/
def codesOf (w : Nat) (bs : List Byte) (n : Nat) : List Nat :=
  match n with
  | 0 => []
  | n + 1 => leNat (bs.take w) :: codesOf w (bs.drop w) n

/-- Reads a rows x cols matrix of elements of `w` bytes. -/
def State.readMat (s : State) (base pitch rows cols w : Nat) : MRd :=
  (List.range rows).foldl (fun (m : MRd) i =>
    let r := m.st.read (base + i * pitch) (cols * w)
    ⟨m.rows ++ [codesOf w r.bytes cols], firstBad m.bad r.bad, r.st⟩) ⟨[], none, s⟩

/-- Writes a matrix of elements of `w` bytes; an unmapped address is an error of the unit (R328). -/
def State.writeMat (s : State) (kind : UKind) (unit base pitch w : Nat) (rows : List (List Nat)) : State :=
  (rows.zipIdx).foldl (fun t (r, i) => t.unitWrite kind unit (base + i * pitch) (r.flatMap fun v => leBytes w v)) s

/-- The element (i, j) of a matrix. -/
def matAt {α : Type} (m : List (List α)) (d : α) (i j : Nat) : α := (m.getD i []).getD j d

/-- A rows x cols matrix from a function. -/
def matOf {α : Type} (rows cols : Nat) (f : Nat → Nat → α) : List (List α) :=
  (List.range rows).map fun i => (List.range cols).map fun j => f i j

/-- A computation in strict mode: it gathers the sticky flags of R68. -/
abbrev KM (α : Type) := FFlags → α × FFlags
/-- The result without flags. -/
def kpure {α : Type} (x : α) : KM α := fun fl => (x, fl)
/-- Sequencing. -/
def kbind {α β : Type} (m : KM α) (f : α → KM β) : KM β := fun fl =>
  let (x, fl1) := m fl
  f x fl1
/-- A fold whose steps are strict operations. -/
def kfold {α β : Type} (f : β → α → KM β) (b : β) : List α → KM β
  | [] => kpure b
  | x :: t => kbind (f b x) fun c => kfold f c t
/-- A map whose steps are strict operations. -/
def kmap {α β : Type} (f : α → KM β) : List α → KM (List β)
  | [] => kpure []
  | x :: t => kbind (f x) fun y => kbind (kmap f t) fun l => kpure (y :: l)

/-- A strict binary64 datum by its bits, so that a NaN keeps its payload (R68). -/
abbrev Dbl := Nat
/-- One. -/
def dOne : Dbl := 0x3FF0000000000000
/-- A datum with its sign changed; a NaN stays as it is (log 114). -/
def dNeg (x : Dbl) : Dbl := if fmt64.isNanBits x then x else x ^^^ 2 ^ 63
/-- The magnitude of a datum. -/
def dAbs (x : Dbl) : Dbl := x % 2 ^ 63
/-- Whether a datum is a zero. -/
def dIsZero (x : Dbl) : Bool := (val64 x).isZero
/-- Whether a datum is finite. -/
def dIsFin (x : Dbl) : Bool := (val64 x).isFin
/-- The quiet comparisons x ≤ y and x < y. -/
def dLe (x y : Dbl) : Bool := (val64 x).le (val64 y)
def dLt (x y : Dbl) : Bool := (val64 x).lt (val64 y)
/-- The datum of a value that binary64 holds, or nearest to it. -/
def dOf (v : FV) : Dbl := fmt64.encode (fmt64.round v)

/-- Takes one strict result. -/
def kop (r : Dbl × FFlags) : KM Dbl := fun fl => (r.1, fl.or r.2)
/-- Takes one rounding of an exact value. -/
def kround (r : FV × FFlags) : KM Dbl := kop (fmt64.encode r.1, { r.2 with invalid := r.2.invalid || r.1.isNan })
def kadd (x y : Dbl) : KM Dbl := kop (fmt64.sAdd x y)
def ksub (x y : Dbl) : KM Dbl := kop (fmt64.sSub x y)
def kmul (x y : Dbl) : KM Dbl := kop (fmt64.sMul x y)
def kfma (x y z : Dbl) : KM Dbl := kop (fmt64.sFma x y z)
def kdiv (x y : Dbl) : KM Dbl := kop (fmt64.sDiv x y)
def ksqrt (x : Dbl) : KM Dbl := kop (fmt64.sSqrt x)

/-- R229: neighbouring lanes are added, level by level. -/
def ktree : Nat → List Dbl → KM Dbl
  | 0, l => kpure (l.getD 0 0)
  | n + 1, l =>
    match l with
    | [] => kpure 0
    | [x] => kpure x
    | l => kbind (kmap (fun i => kadd (l.getD (2 * i) 0) (l.getD (2 * i + 1) 0)) (List.range (l.length / 2))) (ktree n)
/-- R229: a dot product: element i in lane i mod 256 as a chain in ascending i, then the tree of 256 lanes. -/
def kdot (a b : List Dbl) : KM Dbl :=
  let ps := a.zip b
  kbind (kmap (fun j => kfold (fun acc k => kfma (ps.getD (j + 256 * k) ((0 : Nat), (0 : Nat))).1 (ps.getD (j + 256 * k) ((0 : Nat), (0 : Nat))).2 acc)
    0 (List.range ((ps.length + 255 - j) / 256))) (List.range 256)) (ktree 8)
/-- R229: a norm is the correctly rounded root of the squared norm. -/
def knorm (a : List Dbl) : KM Dbl := kbind (kdot a a) ksqrt
/-- R228: x + alpha p, an fma for each element. -/
def kaxpy (alpha : Dbl) (p x : List Dbl) : KM (List Dbl) := kmap (fun (pr : Dbl × Dbl) => kfma alpha pr.1 pr.2) (p.zip x)
/-- An fma chain from +0 over pairs. -/
def kchain (l : List (Dbl × Dbl)) : KM Dbl := kfold (fun acc p => kfma p.1 p.2 acc) 0 l

/-- A list of zeros. -/
def zeros (n : Nat) : List Dbl := List.replicate n 0

end Sys2Proof.Machine
end

