-- ==== Sys2Proof/Machine/Bellows.lean ====
section
/-! DEFINITION. The bellows: factor descriptors, tap records, row stores, sums, folds, root jobs and the
orthogonalisation service (06_bellows_curvature_and_roots.md R179 to R210). -/

namespace Sys2Proof.Machine

/-- The bellows runs curvature work. -/
def State.blwOn (s : State) (q : Nat) : Bool := s.clocked && s.on (F.BLW_CTRL_EN q)
/-- The bellows runs root jobs. -/
def State.rootOn (s : State) (q : Nat) : Bool := s.clocked && s.on (F.BLW_CTRL_ROOT_EN q)
/-- R204: address of a factor state record. -/
def State.factRec (s : State) (q f : Nat) : Nat := s.pair (R.BLW_FSBASE_LO q) + 64 * f
/-- A word of a factor state record. -/
def State.factWord (s : State) (q f o : Nat) : Nat := leNat (s.read (s.factRec q f + o) 4).bytes
/-- R204: the current copy of a factor. -/
def State.factCur (s : State) (q f : Nat) : Nat := s.factWord q f 8 % 2
/-- R208: an uncorrectable read by bellows q. -/
def State.blwFault (s : State) (q : Nat) (b : Nat × Nat) : State := s.memFault .bellows q b.1 b.2
/-- R208: what bellows q makes of the first uncorrectable granule of its reads, if there is one. -/
def State.blwNote (s : State) (q : Nat) (b : Option (Nat × Nat)) : State := match b with
  | some b => s.blwFault q b
  | none => s
/-- R204, R208: bellows q reads the state record of factor f. -/
def State.factCheck (s : State) (q f : Nat) : State :=
  let r := s.read (s.factRec q f) 64
  r.st.blwNote q r.bad
/-- A value widened to binary32 (R182); the result is free where binary32 does not hold the value (log 13). -/
def State.widen32 (s : State) (v : FV) : Nat × State := if fmt32.holds v then (bits32 v, s) else s.fresh 32

/-- R191, R330: whether `n` bytes at an address lie in corrected comb regions: the logical comb window, mapped, and
detected nowhere; regions begin and end at multiples of 64 KiB. -/
def State.correctedComb (s : State) (a n : Nat) : Bool :=
  decide (a + n ≤ 0x800000000) && (List.range (n / 2 ^ 16 + 2)).all fun i =>
    let b := min (a + i * 2 ^ 16) (a + n - 1)
    (s.locate b).isSome && !s.detected b

/-- R200: the certificate header of a descriptor is in order. -/
def certHeaderOk (d : List Byte) (h : List Byte) : Bool :=
  leAt h 0 2 == 1 && leAt h 2 1 == fdPcode d && leAt h 3 1 == fdNit d && leAt h 8 8 == 0
/-- R200, R201: the reserved fields of the entries are zero. -/
def certEntriesOk (d : List Byte) (c : List Byte) : Bool :=
  (List.range (fdNit d)).all fun i => leAt c (16 * (i + 1) + 3) 1 == 0 && leAt c (16 * (i + 1) + 12) 4 == 0

/-- Whether a binary32 parameter is finite and not negative. -/
def paramOk (v : FV) : Bool := v.isFin && !v.lt FV.zero
/-- A binary32 parameter that is not negative. -/
def notNeg (v : FV) : Bool := !v.isNan && !v.lt FV.zero

/-- R191: whether bellows q rejects a factor descriptor. -/
def State.factBad (s : State) (d : List Byte) : Bool :=
  let k := fdKind d
  let blk := fdBs d * fdBs d * 4 * fdBlocks d
  let al (a : Nat) : Bool := a % 64 != 0
  let root := fdRoot d
  let mat := decide (2 ≤ k)
  let g := fblockAt d 112
  (leAt d 0 4) / 2 ^ 7 != 0 || fdPcode d == 3 || leAt d 7 1 != 0 || leAt d 93 1 != 0 || leAt d 14 2 / 2 ^ 12 != 0 ||
  bitsOf (fdBar d) 14 12 != 0 ||
  fdDim d == 0 || decide (8192 < fdDim d) || leAt d 6 1 == 0 || decide (8 < leAt d 6 1) ||
  fdRows d == 0 || decide (65536 < fdRows d) || decide (fdRwin d < 8) || decide (256 < fdRwin d) ||
  !(paramOk (fdBeta d) && (fdBeta d).lt FV.one) || !paramOk (fdWeight d) ||
  al (fdCopy d 0) || al (fdCopy d 1) || al (fdWork d) ||
  !s.correctedComb (fdCopy d 0) blk || !s.correctedComb (fdCopy d 1) blk ||
  !s.correctedComb (fdWork d) (fdRwin d * fdChunks d * 1024 + (if root then 8 * fdBs d * fdBs d * 4 + 64 else 0)) ||
  fdRcad d == 0 || decide (fdRcad d ≤ fdRphase d) || fdLag d == 0 || !notNeg (fdDampRel d) || !notNeg (fdDampAbs d) ||
  !(FV.one.le (fdGuard d)) || fdNit d == 0 || decide (32 < fdNit d) || fdGpitch d % 64 != 0 ||
  (if root then al (fdRootCopy d 0) || al (fdRootCopy d 1) || al (fdCert d) ||
      !s.correctedComb (fdRootCopy d 0) blk || !s.correctedComb (fdRootCopy d 1) blk || !s.correctedComb (fdCert d) (16 * (fdNit d + 1)) ||
      decide (fdRstag d < fdLag d) || decide (fdRcad d < fdBlocks d * fdRstag d)
    else fdRootCopy d 0 != 0 || fdRootCopy d 1 != 0 || fdCert d != 0) ||
  (if mat then
      let (r, c) := if k = 2 then (fdDim d, fdGlen d) else (fdGlen d, fdDim d)
      let gr := g.grid .out r c
      al (fdG d) || !s.correctedComb (fdG d) ((r - 1) * fdGpitch d + c * elemBytes g.elem) || !([1, 2, 3, 4, 5].contains g.elem) || g.bad gr.2 ||
        (g.scale != 0 && !s.correctedComb g.base ((gr.1 - 1) * g.pitch + gr.2))
    else leAt d 14 2 != 0 || fdG d != 0)

/-- R191, R210: reloads and validates the descriptor of factor f, abandoning its job. A request of that job that is
outstanding keeps its place at the kiln and belongs to no factor any longer. -/
def State.reloadFact (s : State) (q f : Nat) : State :=
  let a := s.pair (R.BLW_FDBASE_LO q) + 128 * f
  let r := s.read a 128
  let s0 := (r.st.abandonTiles q f).modBlw q fun b =>
    { b with order := b.order.filter (· != f), asked := if b.asked = some f then some 1024 else b.asked }
  let s1 := s0.modFact q f fun _ => Fact.none
  let reject (t : State) : State := (t.raise (F.BLW_EVENT_DESC_REJECT q)).descRecord .bellows q a f
  match r.bad with
  | some b => s1.blwFault q b
  | none =>
    let d := r.bytes
    if !fdValid d then s1
    else if s1.factBad d then reject s1
    else if !fdRoot d then s1.modFact q f fun _ => { Fact.none with desc := d }
    else
      let c := s1.read (fdCert d) 16
      match c.bad with
      | some b => c.st.blwFault q b
      | none => if certHeaderOk d c.bytes then c.st.modFact q f fun _ => { Fact.none with desc := d } else reject c.st

/-- R210: the write of BLW_RELOAD is applied. -/
def State.blwReload (s : State) (q v : Nat) : State :=
  let fs := if v.testBit 31 then List.range (s.get (F.BLW_NFACT_COUNT q)) else [v % 1024]
  (s.each fs fun t f => t.reloadFact q f).set (F.BLW_STATUS_BUSY q) 1

/-- R182, R66: the value of element e of a tap record whose operand has SCALE code `sc` (log 106). -/
def tapValue (sc : Nat) (bs : List Byte) (e : Nat) : FV :=
  let el := leAt bs 6 1 % 16
  let w := elemBytes el
  let code := leAt bs (16 + e * w) w
  let f : FBlock := { word := el + (if (leAt bs 6 1).testBit 4 then 16 * sc else 0) + leAt bs 7 1 * 2 ^ 16, pitch := 0, base := 0 }
  plusZero (decodeTable f code (if (leAt bs 6 1).testBit 4 then leAt bs (16 + 256 * w + e) 1 else 0))

/-- R184: address of a chunk of the row store. -/
def rowChunk (d : List Byte) (j c : Nat) : Nat := fdWork d + ((j % fdRwin d) * fdChunks d + c) * 1024

/-- Writes values into a chunk, widened (R182). -/
def State.putChunk (s : State) (q : Nat) (a : Nat) (vs : List FV) : State :=
  let (bs, s1) := vs.foldl (fun (acc : List Byte × State) v =>
    let (c, t) := acc.2.widen32 v
    (acc.1 ++ leBytes 4 c, t)) ([], s)
  s1.unitWrite .bellows q a bs

/-- R183: a tap record is dropped. -/
def State.tapDrop (s : State) (q : Nat) : State := (s.count (F.BLW_TAPDROP_VALUE q) 1).raise (F.BLW_EVENT_TAP_DROP q)
/-- Marks a chunk of a row as present. -/
def State.gotChunk (s : State) (q f j c : Nat) : State :=
  s.modFact q f fun x => { x with got := x.got.write 0 j ((x.got.look 0 j) ||| 2 ^ c) }

/-- R182 to R184: where a tap record goes under its tap entry: row, first element, and 0 accepted, 1 dropped, 2 not
accepted while the row window is full. -/
def State.tapPlace (s : State) (q : Nat) (bs e : List Byte) : Nat × Nat × Nat :=
  let f := leAt e 0 2 % 1024
  let strm := leAt bs 4 2 / 2 ^ 15
  let x := s.fact q f
  let j := leAt bs 8 4 / (leAt e 3 1 % 64 + 1) + leAt e 8 4
  let start := leAt e 4 4 + 256 * (if strm = 0 then leAt bs 12 2 else leAt bs 14 2)
  let drop : Bool := leAt e 2 1 % 2 == 0 || leAt e 2 1 / 2 % 2 != strm || x.desc.isEmpty || decide (s.get (F.BLW_NFACT_COUNT q) ≤ f) ||
    decide (2 ≤ fdKind x.desc) || decide (fdRows x.desc ≤ j) || decide (fdDim x.desc ≤ start) || decide (j < x.jo) ||
    (x.got.look 0 j).testBit (start / 256)
  (j, start, if drop then 1 else if x.jo + fdRwin x.desc ≤ j then 2 else 0)
/-- Address of the tap entry that a tap record names (R182). -/
def State.tapEntry (s : State) (q : Nat) (bs : List Byte) : Nat := s.pair (R.BLW_FEBASE_LO q) + 16 * (leAt bs 4 2 % 4096)
/-- R184: the oldest tap record of hearth p waits because the row window of its factor is full. -/
def State.rowStalled (s : State) (p : Nat) : Bool :=
  match (s.hearth p).tapBuf, s.logicalOf p with
  | (_, bs) :: _, some lg =>
    let r := s.read (s.tapEntry (lg / 32) bs) 16
    r.bad.isNone && (s.tapPlace (lg / 32) bs r.bytes).2.2 == 2
  | _, _ => false
/-- R181 to R184: the oldest tap record of hearth p arrives at its home bellows. -/
def State.tapRecord (s : State) (p : Nat) : State :=
  match (s.hearth p).tapBuf, s.logicalOf p with
  | (sc, bs) :: rest, some lg =>
    let q := lg / 32
    if !s.blwOn q then s
    else
      let r := s.read (s.tapEntry q bs) 16
      let s1 := (r.st.modHearth p fun h => { h with tapBuf := rest }).count (F.DMP_TAPREC_VALUE p) 1
      match r.bad with
      | some b => s1.blwFault q b
      | none =>
        let f := leAt r.bytes 0 2 % 1024
        let x := s.fact q f
        let (j, start, how) := s.tapPlace q bs r.bytes
        if how = 1 then s1.tapDrop q
        else if how = 2 then r.st
        else
          let n := min 256 (fdDim x.desc - start)
          (s1.putChunk q (rowChunk x.desc j (start / 256)) ((List.range n).map (tapValue sc bs))).gotChunk q f j (start / 256)
  | _, _ => s

/-- R186: reads vector c of G: its elements, the first uncorrectable granule and the state. -/
def State.readVector (s : State) (d : List Byte) (c : Nat) : List FV × Option (Nat × Nat) × State :=
  let g := fblockAt d 112
  let w := elemBytes g.elem
  (List.range (fdDim d)).foldl (fun (acc : List FV × Option (Nat × Nat) × State) i =>
    let (r, l) := if fdKind d = 2 then (i, c) else (c, i)
    let v := acc.2.2.read (fdG d + r * fdGpitch d + l * w) w
    let cell := g.cell .out r l
    let z := if g.scale = 0 then ⟨[], none, v.st⟩ else v.st.read (g.base + cell.1 * g.pitch + cell.2) 1
    (acc.1 ++ [decodeScaled g (leNat v.bytes) (leNat z.bytes)], firstBad acc.2.1 (firstBad v.bad z.bad), z.st)) ([], none, s)

/-- R186: samples vectors in ascending order while the row window has room. -/
def State.fillRows (s : State) (q f : Nat) : Nat → State
  | 0 => s
  | n + 1 =>
    let x := s.fact q f
    let d := x.desc
    let sI := fdSm1 d + 1
    let j := x.vec / sI
    if !x.reading ∨ x.jo + fdRwin d ≤ j then s
    else if fdGlen d ≤ x.vec ∨ fdRows d ≤ j then s.modFact q f fun x => { x with reading := false }
    else
      let s1 := s.modFact q f fun x => { x with vec := x.vec + 1 }
      if x.vec % sI ≠ fdPhase d then s1.fillRows q f n
      else
        let (vs, bad, s2) := s1.readVector d x.vec
        let s3 := s2.blwNote q bad
        let s4 := s3.each (List.range (fdChunks d)) fun t c =>
          (t.putChunk q (rowChunk d j c) ((vs.drop (256 * c)).take 256)).gotChunk q f j c
        s4.fillRows q f n

/-- R186: a factor of KIND 2 or 3 starts reading G once its start barrier is satisfied. -/
def State.matrixStart (s : State) (q f : Nat) : State :=
  let x := s.fact q f
  if !s.blwOn q ∨ x.desc.isEmpty ∨ s.get (F.BLW_NFACT_COUNT q) ≤ f ∨ fdKind x.desc < 2 ∨ x.reading ∨ x.vec ≠ 0 then s
  else
    let b := fdBar x.desc
    let go (t : State) : State := (t.modFact q f fun x => { x with reading := true }).fillRows q f (fdGlen x.desc + 1)
    if b.testBit 15 then
      if !s.ctrValid (b % 4096) then s.misuse (b % 4096) (s.badCause (b % 4096) 1) (qidBellows q)
      else if s.on F.SYN_CTRL_EN && s.satisfied (b % 4096) then go s
      else s
    else go s

/-- A mask of `n` chunks. -/
def fullMask (n : Nat) : Nat := 2 ^ n - 1

/-- R187: adds row v into the step sum of block b. The first row accumulates onto zeros. -/
def State.addRow (s : State) (q : Nat) (d : List Byte) (base b : Nat) (first : Bool) (v : List FV) : State :=
  let n := fdSize d b
  let o := b * fdBs d
  let a := base + fdBlkOff d b
  let m := if first then (⟨matOf n n fun _ _ => 0, none, s⟩ : MRd) else s.readMat a (fdPitch d) n n 4
  let s1 := m.st.blwNote q m.bad
  let sum := matOf n n fun i l =>
    let (i, l) := if i ≤ l then (i, l) else (l, i)
    bits32 (fmt32.fma (v.getD (o + i) FV.zero) (v.getD (o + l) FV.zero) (val32 (matAt m.rows 0 i l)))
  let t := ceilDiv n 32
  (s1.writeMat .bellows q a (fdPitch d) 4 sum).setPair (R.BLW_FMA_LO q) (s1.pair (R.BLW_FMA_LO q) + t * (t + 1) / 2 * 1024)

/-- R185, R187: the lowest row of a factor, once it is complete, is accumulated. -/
def State.rowAccumulate (s : State) (q f : Nat) : State :=
  let x := s.fact q f
  let d := x.desc
  if !s.blwOn q ∨ d.isEmpty ∨ s.get (F.BLW_NFACT_COUNT q) ≤ f ∨ fdRows d ≤ x.jo ∨ x.got.look 0 x.jo ≠ fullMask (fdChunks d) then s
  else
    let r := s.read (rowChunk d x.jo 0) (fdChunks d * 1024)
    let v := (codesOf 4 r.bytes (fdDim d)).map val32
    let next (t : State) (acc : Bool) : State :=
      (t.modFact q f fun x => { x with jo := x.jo + 1, acc := x.acc || acc, got := x.got.drop x.jo }).fillRows q f (fdGlen d + 1)
    match r.bad with
    | some b => next (r.st.blwFault q b) false
    | none =>
      if v.any fun e => !e.isFin then
        next ((r.st.count (F.BLW_NONFIN_VALUE q) 1).raise (F.BLW_EVENT_ROW_NONFIN q)) false
      else
        let base := fdCopy d (1 - s.factCur q f)
        next ((r.st.factCheck q f).each (List.range (fdBlocks d)) fun t b => t.addRow q d base b (!x.acc) v) true

/-- R188: the fold of one block. -/
def State.foldBlock (s : State) (q : Nat) (d : List Byte) (cur b : Nat) (some1 : Bool) : State :=
  let n := fdSize d b
  let inc := fdCopy d (1 - cur) + fdBlkOff d b
  let m := if some1 then s.readMat inc (fdPitch d) n n 4 else (⟨matOf n n fun _ _ => 0, none, s⟩ : MRd)
  let f := m.st.readMat (fdCopy d cur + fdBlkOff d b) (fdPitch d) n n 4
  let s1 := f.st.blwNote q (firstBad m.bad f.bad)
  let res := matOf n n fun i l =>
    fmt32.fma (fdBeta d) (val32 (matAt f.rows 0 i l)) (fmt32.mul (fdWeight d) (val32 (matAt m.rows 0 i l)))
  let s2 := s1.writeMat .bellows q inc (fdPitch d) 4 (res.map fun r => r.map bits32)
  if res.any fun r => r.any fun v => !v.isFin then s2.raise (F.BLW_EVENT_FOLD_NONFIN q) else s2

/-- R188: the fold of a factor whose rows have all been processed. -/
def State.factorFold (s : State) (q f : Nat) : State :=
  let x := s.fact q f
  if !s.blwOn q ∨ x.desc.isEmpty ∨ s.get (F.BLW_NFACT_COUNT q) ≤ f ∨ x.jo < fdRows x.desc ∨ x.folded then s
  else
    let cur := s.factCur q f
    ((s.factCheck q f).each (List.range (fdBlocks x.desc)) fun t b => t.foldBlock q x.desc cur b x.acc).modFact q f fun x => { x with folded := true }

/-- R192, R193: a job of block b starts at the start of step n: the snapshot into buffer M0, its checks and its request. -/
def State.jobStart (s : State) (q f b n : Nat) : State :=
  let d := (s.fact q f).desc
  let s1 := s.modJob q f fun _ => { RootJob.none with block := b, st := 1, deliver := n + fdLag d - 1 }
  let c := (s1.factCheck q f).read (fdCert d) (16 * (fdNit d + 1))
  let m := c.st.readMat (fdCopy d (s.factCur q f) + fdBlkOff d b) (fdPitch d) (fdSize d b) (fdSize d b) 4
  let s2 := m.st.writeMat .bellows q (fdBuf d 0) (fdPitch d) 4 m.rows
  let s3 := s2.blwNote q (firstBad c.bad m.bad)
  if !certHeaderOk d c.bytes || !certEntriesOk d c.bytes then s3.breach q f 3
  else if m.rows.any fun r => r.any fun v => !(val32 v).isFin then s3.breach q f 2
  else s3.modBlw q fun x => { x with order := x.order.filter (· != f) ++ [f] }

/-- R192: the jobs that start with step n on bellows q. -/
def State.jobsStart (s : State) (q n : Nat) : State :=
  if !s.rootOn q then s
  else
    s.each (List.range (s.get (F.BLW_NFACT_COUNT q))) fun t f =>
      let x := t.fact q f
      let d := x.desc
      if d.isEmpty ∨ !fdRoot d ∨ x.job.st ≠ 0 then t
      else
        match (List.range (fdBlocks d)).find? fun b => (((n : Nat) : Int) - (fdRphase d + b * fdRstag d : Nat)) % ((fdRcad d : Nat) : Int) == 0 with
        | some b => t.jobStart q f b n
        | none => t

/-- R244: bellows q submits the request of the next job, when its previous one has completed. -/
def State.lambdaSubmit (s : State) (q : Nat) : State :=
  let b := s.bellows q
  match b.asked, b.order with
  | none, f :: rest =>
    if !s.rootOn q ∨ !s.on (F.BLW_LAMSPK_VALID q) then s
    else
      let x := s.fact q f
      let d := x.desc
      let rec0 := leBytes 4 1 ++ leBytes 4 (f + x.job.block * 2 ^ 10) ++ leBytes 8 (fdBuf d 0) ++ leBytes 4 (fdPitch d) ++
        leBytes 2 (fdSize d x.job.block) ++ leBytes 2 ((s.reg (R.BLW_LAMSPK q)).toNat) ++ leBytes 8 0
      let s1 := s.unitWrite .bellows q (fdReq d) rec0
      let s2 := s1.modBlw q fun b => { b with order := rest, asked := some f }
      let s3 := s2.modJob q f fun j => { j with req := 1 }
      { s3 with kln := s3.kln.write Kln.reset q { (s3.kln.look Kln.reset q) with req := some (fdReq d) } }
  | _, _ => s

/-- The least integer e with 2^e at least a positive finite value. -/
def leastPow2 (v : FV) : Int :=
  match v with
  | .fin _ m e => if m = 2 ^ m.log2 then (m.log2 : Int) + e else (m.log2 : Int) + e + 1
  | _ => 0
/-- R197, R206: 2^(-e/p) rounded once to a format of `fb` fraction bits. -/
def rootScale (fb : Nat) (e : Int) (p : Nat) : FV :=
  let n := (-e) / (p : Int)
  let j := ((-e) % (p : Int)).toNat
  .fin false (pow2Frac j p fb) (n - (fb : Int))
/-- A binary64 sum in ascending order. -/
def sum64 (l : List FV) : FV := l.foldl fmt64.add FV.zero

/-- R193: the preparation of a job on the kiln's result or its fallback. -/
def State.rootPreparation (s : State) (q f : Nat) : State :=
  let x := s.fact q f
  let d := x.desc
  let j := x.job
  let fall := !s.on (F.BLW_LAMSPK_VALID q)
  if !s.rootOn q ∨ j.st ≠ 1 ∨ (j.req ≠ 2 ∧ !(fall ∧ j.req = 0)) then s
  else
    let n := fdSize d j.block
    let m := s.readMat (fdBuf d 0) (fdPitch d) n n 4
    let c := m.st.read (fdCert d) 16
    let r := if j.req = 2 then c.st.read (fdReq d + 32) 16 else ⟨[], none, c.st⟩
    let s0 := r.st.blwNote q (firstBad m.bad (firstBad c.bad r.bad))
    let s1 := s0.modBlw q fun b => { b with order := b.order.filter (· != f) }
    let valid := j.req == 2 && r.bad.isNone && leAt r.bytes 8 1 == 0
    let lam := if valid then val64 (leAt r.bytes 0 8) else sum64 ((List.range n).map fun i => val32 (matAt m.rows 0 i i))
    let s2 := if valid then s1 else s1.raise (F.BLW_EVENT_KILN_FALLBACK q)
    let delta := fmt64.add (fmt64.mul (fdDampRel d) lam) (fdDampAbs d)
    let g := fmt64.mul (fdGuard d) (fmt64.add lam delta)
    if !g.isFin || !FV.zero.lt g then s2.breach q f 1
    else
      let e := leastPow2 g
      if !((val32 (leAt c.bytes 4 4)).le (delta.scale2 (-e))) then s2.breach q f 1
      else
        let m0 := matOf n n fun i l =>
          let v := val32 (matAt m.rows 0 i l)
          bits32 ((if i = l then fmt64.add v delta else v).scale2 (-e))
        (s2.writeMat .bellows q (fdBuf d 0) (fdPitch d) 4 m0).modJob q f fun j => { j with st := 2, exp := e, iter := 0, ran := false }

/-- A format word: element code and tensor exponent. -/
def fmtWord (elem : Nat) (texp : Int) : Nat := elem + ofSigned 8 texp * 2 ^ 16

/-- R194: the products of iteration k (which makes M_(k+1)) of a job. -/
def rootProds (d : List Byte) (c : List Byte) (retry : Bool) (k : Nat) : List Prod :=
  let tx (i : Nat) : Int := toSigned 8 (leAt c (16 * i) 1)
  let t1 : Int := toSigned 8 (leAt c (16 * (k + 1) + 1) 1)
  let t2 : Int := toSigned 8 (leAt c (16 * (k + 1) + 2) 1)
  let w (elem : Nat) (t : Int) : Nat := if retry then fmtWord 1 0 else fmtWord elem t
  let mOld := fdBuf d (1 + k % 2)
  let mNew := fdBuf d (1 + (k + 1) % 2)
  let xOld := fdBuf d (3 + k % 2)
  let xNew := fdBuf d (3 + (k + 1) % 2)
  let t := fdBuf d 5
  let p := fdP d
  (if k = 0 then [] else [Prod.mk xOld (w 8 (tx k)) t (w 9 0) xNew (w 8 (tx (k + 1)))]) ++
  (if p = 1 then [] else [Prod.mk t (w 9 0) t (w 9 0) (fdBuf d 6) (w 9 t1)]) ++
  (if p = 4 then [Prod.mk (fdBuf d 6) (w 9 t1) (fdBuf d 6) (w 9 t1) (fdBuf d 7) (w 9 t2)] else []) ++
  [if p = 1 then Prod.mk t (w 9 0) mOld (w 9 0) mNew (w 9 0)
   else if p = 2 then Prod.mk (fdBuf d 6) (w 9 t1) mOld (w 9 0) mNew (w 9 0)
   else Prod.mk (fdBuf d 7) (w 9 t2) mOld (w 9 0) mNew (w 9 0)]

/-- R197: writes the root of a job and ends it. -/
def State.rootWrite (s : State) (q f : Nat) (c : List Byte) : State :=
  let x := s.fact q f
  let d := x.desc
  let j := x.job
  let n := fdSize d j.block
  let k := fdNit d
  let m := s.readMat (fdBuf d (3 + k % 2)) (fdPitch d) n n 4
  let s1 := m.st.blwNote q m.bad
  let sc := rootScale 52 j.exp (fdP d)
  let tx : Int := toSigned 8 (leAt c (16 * k) 1)
  let out := m.rows.map fun r => r.map fun v =>
    bits32 (fmt64.mul (if j.retry then val32 v else (elemValue 8 v).scale2 tx) sc)
  let cur := (s.factWord q f 12).testBit j.block
  let s2 := (s1.factCheck q f).writeMat .bellows q (fdRootCopy d (if cur then 0 else 1) + fdBlkOff d j.block) (fdPitch d) 4 out
  (s2.modJob q f fun j => { j with st := 3 }).endHold q

/-- R194: forms T for iteration k, and X[1] for iteration 0, and starts the products. -/
def State.rootLaunch (s : State) (q f k : Nat) (c : List Byte) (m : List (List Nat)) : State :=
  let x := s.fact q f
  let d := x.desc
  let j := x.job
  let n := fdSize d j.block
  let p := fdP d
  let el := if j.retry then 1 else 9
  let tv (i l : Nat) : FV :=
    let v := elemValue el (matAt m 0 i l)
    (if i = l then FV.ofInt (p + 1) else FV.zero).sub v
  let t := matOf n n fun i l =>
    if j.retry then (⟨bits32 (fmt32.div (tv i l) (FV.ofInt p)), false, false⟩ : Conv)
    else convFast 9 (match tv i l with
      | .fin sg mm ee => let (a, b, _) := roundQ 200 (-30) mm p ee; FV.fin sg a b
      | v => v)
  let tx : Int := toSigned 8 (leAt c 16 1)
  let x1 := t.map fun r => r.map fun v =>
    if j.retry then v else convFast 8 ((elemValue 9 v.bits).scale2 (-tx))
  let s1 := s.writeMat .bellows q (fdBuf d 5) (fdPitch d) 4 (t.map fun r => r.map (·.bits))
  let s2 := if k = 0 then s1.writeMat .bellows q (fdBuf d 4) (fdPitch d) 4 (x1.map fun r => r.map (·.bits)) else s1
  let tooBig (y : List (List Conv)) : Bool := y.any fun r => r.any (·.ovf)
  let nonfin : Bool := j.retry && t.any fun r => r.any fun v => !(val32 v.bits).isFin
  if nonfin then s2.breach q f 2
  else if tooBig t || (k == 0 && tooBig x1) then s2.breach q f 4
  else s2.modJob q f fun j => { j with iter := k, ran := true, prods := rootProds d c j.retry k, next := 0, flight := 0 }

/-- R194, R201: M is read for iteration k: its checks, then the root or the next products. -/
def State.rootStep (s : State) (q f k : Nat) (c : List Byte) : State :=
  let x := s.fact q f
  let d := x.desc
  let j := x.job
  let n := fdSize d j.block
  let m := s.readMat (fdBuf d (1 + k % 2)) (fdPitch d) n n 4
  let s1 := m.st.blwNote q m.bad
  let s2 := s1.modJob q f fun j => { j with iter := k }
  let diag := (List.range n).map fun i => matAt m.rows 0 i i
  let tr := if j.retry then fmt64.div (sum64 (diag.map val32)) (FV.ofInt n)
    else fmt64.div ((FV.ofInt ((diag.map fun v => toSigned 32 v).sum)).scale2 (-30)) (FV.ofInt n)
  let ok := k == 0 || ((val32 (leAt c (16 * k + 4) 4)).le tr && tr.le (val32 (leAt c (16 * k + 8) 4)))
  if !ok then s2.breach q f 5
  else if k = fdNit d then s2.rootWrite q f c
  else s2.rootLaunch q f k c m.rows

/-- Tiles of a product of a job. -/
def rootTiles (d : List Byte) (b : Nat) : Nat := ceilDiv (fdSize d b) 256 * ceilDiv (fdSize d b) 256
/-- Drops products whose tiles have all been handed out and have ended. -/
def RootJob.settled (j : RootJob) (tiles : Nat) : RootJob :=
  if j.prods ≠ [] ∧ tiles ≤ j.next ∧ j.flight = 0 then { j with prods := j.prods.drop 1, next := 0 } else j

/-- R194: a job runs its next step once the tiles of the previous products have finished. -/
def State.rootIteration (s : State) (q f : Nat) : State :=
  let x := s.fact q f
  let d := x.desc
  let j := x.job.settled (rootTiles d x.job.block)
  if !s.rootOn q ∨ j.st ≠ 2 ∨ j.prods ≠ [] then s
  else
    let s0 := s.modJob q f fun _ => j
    let c := s0.read (fdCert d) (16 * (fdNit d + 1))
    let s1 := c.st.blwNote q c.bad
    if j.ran then s1.rootStep q f (j.iter + 1) c.bytes
    else
      let n := fdSize d j.block
      let m := s1.readMat (fdBuf d 0) (fdPitch d) n n 4
      let s2 := m.st.blwNote q m.bad
      let m1 := m.rows.map fun r => r.map fun v => if j.retry then (⟨v, false, false⟩ : Conv) else convFast 9 (val32 v)
      let s3 := s2.writeMat .bellows q (fdBuf d 1) (fdPitch d) 4 (m1.map fun r => r.map (·.bits))
      if m1.any fun r => r.any (·.ovf) then s3.breach q f 4 else s3.rootStep q f 0 c.bytes

/-- R196: the MATMUL command of one output tile of a product. -/
def tileBytes (d : List Byte) (tag b : Nat) (p : Prod) (t : Nat) : List Byte :=
  let n := fdSize d b
  let nt := ceilDiv n 256
  let i := t / nt
  let l := t % nt
  let pit := fdPitch d
  leBytes 4 1 ++ leBytes 4 tag ++ leBytes 4 (min 256 (n - 256 * i)) ++ leBytes 4 (min 256 (n - 256 * l)) ++ leBytes 4 n ++ leBytes 4 0 ++
  leBytes 8 (p.a + 256 * i * pit) ++ leBytes 8 (p.b + 1024 * l) ++ leBytes 8 0 ++ leBytes 8 (p.d + 256 * i * pit + 1024 * l) ++ leBytes 8 0 ++ leBytes 8 0 ++
  leBytes 4 pit ++ leBytes 4 pit ++ leBytes 4 0 ++ leBytes 4 pit ++ leBytes 4 0 ++ leBytes 4 0x3F800000 ++
  (leBytes 4 p.aw ++ leBytes 12 0) ++ (leBytes 4 p.bw ++ leBytes 12 0) ++ leBytes 16 0 ++ (leBytes 4 p.dw ++ leBytes 12 0) ++ leBytes 32 0

/-- R196: whether factor f of bellows q has a tile to hand out. -/
def State.tileReady (s : State) (q f : Nat) : Bool :=
  let x := s.fact q f
  let j := x.job.settled (rootTiles x.desc x.job.block)
  j.st == 2 && j.prods != [] && decide (j.next < rootTiles x.desc j.block)
/-- R196: the hearths of the borrow set whose borrow slot is free, by ascending logical number. -/
def State.freeBorrow (s : State) (q : Nat) : List Nat :=
  ((List.range 32).filter fun i => (s.get (F.BLW_BORROW_MASK q)).testBit i).filterMap fun i =>
    match s.physOf (32 * q + i) with
    | some p => if (s.hearth p).borrow.isNone then some p else none
    | none => none
/-- R196: bellows q hands out its next tile to the lowest borrow-set hearth whose borrow slot is free. -/
def State.borrowSubmit (s : State) (q : Nat) : State :=
  if !s.rootOn q then s
  else
    match (List.range 1024).find? (s.tileReady q), s.freeBorrow q with
    | some f, p :: _ =>
      let x := s.fact q f
      let j := x.job.settled (rootTiles x.desc x.job.block)
      match j.prods with
      | pr :: _ =>
        let c : QCmd := { slot := 0, addr := 0, bytes := tileBytes x.desc (tileTag q f) j.block pr j.next, side := [], policy := s.policyCopy 0, sideBad := false, aborted := false }
        (s.modJob q f fun _ => { j with next := j.next + 1, flight := j.flight + 1 }).modHearth p fun h => { h with borrow := some c }
      | [] => s
    | _, _ => s

/-- R198: a step's backward phase ends: the step holds when a job still owes it a root, else the release barrier is
signalled. -/
def State.rootHold (s : State) (q : Nat) : State :=
  if !s.jobEn ∨ (s.bellows q).hold.isSome then s
  else if (s.bellows q).facts.any fun x => x.2.job.deliver == s.job.step && (x.2.job.st == 1 || x.2.job.st == 2) then
    (s.modBlw q fun b => { b with hold := some s.cycle }).raise (F.BLW_EVENT_ROOT_HOLD q)
  else if s.on (F.BLW_RELSPK_VALID q) then s.signal (s.get (F.BLW_RELSPK_COUNTER q)) none
  else s

/-- R204: word 32 of a factor state record for a job. -/
def RootJob.word (j : RootJob) : Nat := j.block % 32 + j.st % 8 * 2 ^ 5 + (if j.retry then 2 ^ 8 else 0)

/-- R198, R199: whether a job of bellows q keeps the step from its commit: one that owes it a root, and one whose
preparation, which alone writes buffer M0, has not ended (log 112). -/
def State.rootsOwed (s : State) (q : Nat) : Bool :=
  (s.bellows q).facts.any fun x => x.2.job.st == 1 || (x.2.job.st == 2 && x.2.job.deliver == s.job.step)

/-- R189, R198, R204: the changes that factor f enters in the journal of step n. -/
def State.factEnter (s : State) (q f n : Nat) : State :=
  let s0 := (s.factorFold q f).factCheck q f
  let x := s0.fact q f
  let a := s0.factRec q f
  let w (o : Nat) : Nat := s0.factWord q f o
  let j := x.job
  let due := decide (3 ≤ j.st) && j.deliver == n
  let bit := 2 ^ j.block
  let flags := if x.folded then (1 - w 8 % 2) + 2 else w 8
  let rc := if due && j.st == 3 then w 12 ^^^ bit else w 12
  let rv := if due && j.st == 3 then w 16 ||| bit else w 16
  let br := if due then (if j.st = 3 then (w 20) - (w 20 &&& bit) else w 20 ||| bit) else w 20
  let sh := w 24 + 2 ^ 32 * w 28 + (if x.folded then 0 else 1)
  let jw := if due then 0 else j.word
  let news := [(8, flags), (12, rc), (16, rv), (20, br), (24, sh % 2 ^ 32), (28, sh / 2 ^ 32 % 2 ^ 32), (32, jw)]
  if news.all fun p => w p.1 == p.2 then s0
  else s0.each ([(0, n % 2 ^ 32), (4, n / 2 ^ 32 % 2 ^ 32)] ++ news) fun t p => t.journalWord (a + p.1) p.2

/-- The valid factors of bellows q. -/
def State.facts (s : State) (q : Nat) : List Nat :=
  (List.range (s.get (F.BLW_NFACT_COUNT q))).filter fun f => !(s.fact q f).desc.isEmpty

/-- R189: bellows q enters its journal changes for step n. -/
def State.blwEnter (s : State) (q n : Nat) : State := s.each (s.facts q) fun t f => t.factEnter q f n

/-- R189: a short factor. -/
def State.factShort (s : State) (q f : Nat) : State :=
  ((s.count (F.BLW_SHORT_VALUE q) 1).raise (F.BLW_EVENT_FACTOR_SHORT q)).errRecord .curvature 0 .bellows q f 0

/-- The rows and jobs of a factor at the end of step n; jobs delivered at n end. -/
def Fact.close (x : Fact) (n : Nat) : Fact :=
  { Fact.none with desc := x.desc, job := if 3 ≤ x.job.st ∧ x.job.deliver = n then RootJob.none else x.job }

/-- R189, R198: bellows q at the commit phase of step n: short factors are counted; sums and delivered jobs end. `ok`: the
step commits. -/
def State.blwClose (s : State) (q n : Nat) (ok : Bool) : State :=
  s.each (s.facts q) fun t f =>
    let x := t.fact q f
    let t1 := if ok && !x.folded then t.factShort q f else t
    t1.modFact q f fun x => x.close n
/-- R199: the states of the jobs as the commit leaves them are saved. -/
def State.blwSave (s : State) (q : Nat) : State := s.each (s.facts q) fun t f => t.modFact q f fun x => { x with saved := x.job }
/-- R192, R199: the start of step n, behind its commit. -/
def State.blwStepStart (s : State) (q n : Nat) : State := (s.blwSave q).jobsStart q n
/-- R199: a job as it was saved: RUN restarts at iteration 0 from buffer M0, PREP is prepared again. -/
def RootJob.again (j : RootJob) : RootJob := { j with req := 0, iter := 0, ran := false, prods := [], next := 0, flight := 0 }
/-- R199: factor f goes on with job j, its rows gathered again; a job in PREP submits its request again. -/
def State.factResume (s : State) (q f : Nat) (j : RootJob) : State :=
  let t := (s.abandonTiles q f).modFact q f fun x => { Fact.none with desc := x.desc, saved := j, job := j.again }
  if j.st = 1 then t.modBlw q fun b => { b with order := b.order ++ [f] } else t
/-- R192, R199: the start of a replay of step n: the jobs as the last commit saved them, then those that start with n. -/
def State.blwReplay (s : State) (q n : Nat) : State :=
  let s1 := s.modBlw q fun b => { b with order := [], asked := none, hold := none }
  (s1.each (s1.facts q) fun t f => t.factResume q f (t.fact q f).saved).jobsStart q n
/-- R204, R533: the job that the restored state record of factor f names behind step n: its delivery step follows from its
cadence. The scaling of a job that this bellows does not hold is open (log 113). -/
def State.jobRestored (s : State) (q f n : Nat) : RootJob × State :=
  let d := (s.fact q f).desc
  let w := s.factWord q f 32
  let b := w % 32
  let st := w / 2 ^ 5 % 8
  if st = 0 ∨ 4 < st ∨ !fdRoot d then (RootJob.none, s)
  else
    let m : Int := (n : Int) - ((n : Int) - ((fdRphase d + b * fdRstag d : Nat) : Int)) % ((fdRcad d : Nat) : Int)
    let j : RootJob := { RootJob.none with block := b, st := st, retry := w.testBit 8, deliver := (m + ((fdLag d : Nat) : Int) - 1).toNat }
    match [(s.fact q f).job, (s.fact q f).saved].find? fun o => 2 ≤ o.st && o.block == b && o.deliver == j.deliver with
    | some o => ({ j with exp := o.exp }, s)
    | none =>
      let (e, s1) := s.fresh 11
      ({ j with exp := (e : Int) - 1024 }, s1)
/-- R199, R533: the jobs after memory has been restored behind step n. -/
def State.blwRestore (s : State) (q n : Nat) : State :=
  let s1 := s.modBlw q fun b => { b with order := [], asked := none, hold := none }
  (s1.each (s1.facts q) fun t f =>
    let (j, u) := (t.factCheck q f).jobRestored q f n
    u.factResume q f j).jobsStart q (n + 1)

/-- R207: the record of a service request, then its spark. -/
def State.svcEnd (s : State) (q : Nat) (c : QCmd) (st tr : Nat) : State :=
  let (cyc, s1) := s.fresh 64
  let s2 := s1.writeRecord .bellows q (leAt c.bytes 48 8)
    (leBytes 4 c.tag ++ leBytes 1 st ++ leBytes 3 0 ++ leBytes 4 tr ++ leBytes 4 0 ++ leBytes 8 cyc ++ leBytes 8 0)
  let s3 := if st = 2 ∨ st = 0x10 then s2.raise (F.BLW_EVENT_SVC_ERROR q) else s2
  s3.spark (leAt c.bytes 44 2) (some (qidBellows q))

/-- R207: a rejected request. -/
def State.svcReject (s : State) (q : Nat) (c : QCmd) : State := (s.descRecord .bellows q c.addr c.tag).svcEnd q c 0x10 0

/-- The service queue of bellows q (R205). It has no abort register. -/
def svcQ (q : Nat) : QI where
  kind := .bellows
  unit := q
  qid := none
  slotBytes := 64
  depth := 1
  base := R.BLW_SQBASE_LO q
  size := F.BLW_SQSIZE_ENTRIES q
  head := F.BLW_SQHEAD_HEAD q
  tail := F.BLW_SQTAIL_TAIL q
  res := F.BLW_SQHEAD_HEAD q
  evAborted := F.BLW_EVENT_SVC_ERROR q
  evReject := none
  cap := 256
  en := fun t => t.on (F.BLW_CTRL_SVC_EN q)
  empties := true
  bar := fun _ => 0
  known := fun o => o == 1
  grab := plainGrab
  finish := fun t c st => t.svcEnd q c st 0
  reject := fun t c => t.svcReject q c
  void := fun t _ => t

/-- R205, R207: whether a request breaks its field rules. -/
def orthoBad (s : State) (d : List Byte) : Bool :=
  let r := leAt d 48 8
  leAt d 0 4 / 2 ^ 8 != 0 || leAt d 8 4 == 0 || decide (8192 < leAt d 8 4) || leAt d 12 2 == 0 || decide (256 < leAt d 12 2) ||
  leAt d 14 1 == 0 || decide (16 < leAt d 14 1) || leAt d 15 1 != 0 || leAt d 32 4 % 64 != 0 || leAt d 36 4 % 64 != 0 ||
  !paramOk (val32 (leAt d 40 4)) || bitsOf (leAt d 44 2) 14 12 != 0 || leAt d 46 2 != 0 || leAt d 56 8 != 0 ||
  (r != 0 && !s.recAddrOk r)

/-- A product of binary32 matrices, each element an fma chain in ascending order (R206). -/
def mul32 (a b : List (List FV)) (n k m : Nat) : List (List FV) :=
  matOf n m fun i l => (List.range k).foldl (fun acc t => fmt32.fma (matAt a FV.zero i t) (matAt b FV.zero t l) acc) FV.zero

/-- R206: the iteration of the service: x and m after `n` rounds. -/
def orthoIter (r : Nat) : Nat → List (List FV) → List (List FV) → List (List FV) × List (List FV)
  | 0, x, m => (x, m)
  | n + 1, x, m =>
    let t := matOf r r fun i l => fmt32.round (((if i = l then FV.ofInt 3 else FV.zero).sub (matAt m FV.zero i l)).scale2 (-1))
    orthoIter r n (mul32 x t r r r) (mul32 (mul32 t t r r r) m r r r)

/-- Whether a matrix holds a non-finite value. -/
def anyNonfin (m : List (List FV)) : Bool := m.any fun r => r.any fun v => !v.isFin

/-- R206: the result of an ORTHO: status, Q, and the matrix m after the last iteration. -/
def orthoOf (mm r nit : Nat) (delta : FV) (p : List (List FV)) : Nat × List (List FV) × List (List FV) :=
  if anyNonfin p then (2, [], [])
  else
    let g := matOf r r fun i l => (List.range mm).foldl (fun acc t => fmt32.fma (matAt p FV.zero t i) (matAt p FV.zero t l) acc) FV.zero
    let sT := sum64 ((List.range r).map fun i => matAt g FV.zero i i)
    if anyNonfin g || !sT.isFin then (2, [], [])
    else if sT.isZero then (1, matOf mm r fun _ _ => FV.zero, [])
    else
      let v := fmt64.mul sT (fmt64.add FV.one delta)
      if !v.isFin then (2, [], [])
      else
        let e := leastPow2 v
        let c0 := fmt64.div (fmt64.mul delta sT) (FV.ofInt r)
        let m := matOf r r fun i l =>
          fmt32.round (((matAt g FV.zero i l).add (if i = l then c0 else FV.zero)).scale2 (-e))
        let x := matOf r r fun i l => if i = l then FV.one else FV.zero
        let (x1, m1) := orthoIter r nit x m
        let c := rootScale 23 e 2
        let q := (mul32 p x1 mm r r).map fun row => row.map fun y => fmt32.mul y c
        if anyNonfin x1 || anyNonfin m1 || anyNonfin q then (2, [], []) else (0, q, m1)

/-- R206, R207: the ORTHO at the head of the service queue of bellows q. -/
def State.ortho (s : State) (q : Nat) : State :=
  let Q := svcQ q
  if !s.qOn Q then s
  else
    match s.readyHead Q with
    | none => s
    | some c =>
      let d := c.bytes
      let s1 := s.startHead Q
      if orthoBad s1 d then (s1.svcReject q c).endHead Q
      else
        let mm := leAt d 8 4
        let r := leAt d 12 2
        let p := s1.readMat (leAt d 16 8) (leAt d 32 4) mm r 4
        let s2 := p.st.blwNote q p.bad
        let (st, res, m) := orthoOf mm r (leAt d 14 1) (val32 (leAt d 40 4)) (p.rows.map fun l => l.map val32)
        let s3 := if st = 2 then s2 else s2.writeMat .bellows q (leAt d 24 8) (leAt d 36 4) 4 (res.map fun l => l.map bits32)
        let (tr, s4) := if st = 0 then (fmt32.encode (fmt32.round (fmt64.div (sum64 ((List.range r).map fun i => matAt m FV.zero i i)) (FV.ofInt r))), s3)
          else s3.fresh 32
        (s4.svcEnd q c st tr).endHead Q

end Sys2Proof.Machine
end

