-- ==== Sys2Proof/Machine/Borrow.lean ====
section
/-! DEFINITION. What hearths do at their queue, in bubbles and with borrowed work, aborts, resets and table loads
(03 R95 to R101, R117, R121, R122; 04 R132, R139). -/

namespace Sys2Proof.Machine

/-- Bytes of `n` bytes at device address `a` that lie in the slice of logical hearth `l` (R326). -/
def ownBytes (l a n : Nat) : Nat := min (a + n) ((l + 1) * 2 ^ 28) - max a (l * 2 ^ 28)
/-- R117, R133: what tile t of a command moves: address and length of each stored row of the operand panels, C, bias,
auxiliary output, side operand and output; scale bytes are not counted, as in the example there (log 109). -/
def MM.moves (x : MM) (e : List Byte) (t : Nat) : List (Nat × Nat) :=
  let r0 := x.row0 t
  let c0 := x.col0 t
  let m := x.rows t
  let n := x.cols t
  let panel (o : Operand) (r c : Nat) : List (Nat × Nat) :=
    if o.rowIsK then (List.range x.k).map fun k => (o.addr r k, c * o.w) else (List.range c).map fun i => (o.addr (r + i) 0, x.k * o.w)
  let block (base pitch w : Nat) : List (Nat × Nat) := (List.range m).map fun i => (base + (r0 + i) * pitch + c0 * w, n * w)
  let bw := if x.cls == .fp64 then 8 else 4
  panel x.a r0 m ++ panel x.b c0 n ++ (if x.cin then block x.cBase x.cPitch (elemBytes x.c.elem) else []) ++
    (if x.bias = 0 then [] else if x.bias = 1 then [(x.biasBase + c0 * bw, n * bw)] else [(x.biasBase + r0 * bw, m * bw)]) ++
    (if x.aux then block x.auxBase x.auxPitch (elemBytes x.auxElem) else []) ++
    (if isDeriv x.func then block (sideBase e) (sidePitch e) (elemBytes (sideFb e).elem) else []) ++
    block x.dBase x.dPitch (elemBytes x.d.elem)
/-- R117: the tile time of tile t of a command on hearth p. -/
def State.tileTime (s : State) (p : Nat) (c : QCmd) (t : Nat) : Nat :=
  let x := mmOf c.bytes
  let l := x.moves c.side t
  let all := (l.map (·.2)).sum
  let own := match s.logicalOf p with
    | some h => (l.map fun (a, n) => ownBytes h a n).sum
    | none => 0
  max (max x.waves 256) (max (ceilDiv own 1280) (ceilDiv (all - own) 512))
/-- R99: engine cycles that are left of the BUBBLE of hearth p: its length and the pace misses inside it. -/
def State.bubbleLeft (s : State) (p : Nat) : Nat :=
  match (s.queue (hearthQ s p 1)).cmds with
  | c :: _ => leAt c.bytes 8 4 + (s.hearth p).bubbleMiss - (s.cycle - (s.hearth p).bubbleAt)
  | [] => 0

/-- R99 to R101: in a bubble, a free hearth resumes its suspended borrowed command or starts the one in its borrow slot.
In a timed bubble a tile starts only when its time is left. -/
def State.startBorrowed (s : State) (p : Nat) : State :=
  let h := s.hearth p
  if h.run.isSome || h.bubble == 0 || !s.on (F.HRT_CTRL_BORROW_EN p) || !s.clocked then s
  else
    let fits (c : QCmd) (t : Nat) : Bool := h.bubble == 2 || decide (s.tileTime p c t ≤ s.bubbleLeft p)
    match h.susp, h.borrow with
    | some r, _ => if fits r.cmd r.tile then s.modHearth p fun h => { h with run := some r, susp := none } else s
    | none, some c => if fits c 0 then s.modHearth p fun h => { h with run := some (HRun.new c true) } else s
    | none, none => s

/-- Finishes the tile in progress of a borrowed command; slacks are free values (log 6). -/
def State.finishTile (s : State) (p done : Nat) : Nat → State
  | 0 => s
  | n + 1 =>
    match (s.hearth p).run with
    | none => s
    | some r =>
      if !r.borrowed ∨ done < r.tilesDone ∨ (r.wave = 0 ∧ r.fin.isNone ∧ r.watch.isNone) then s
      else
        let (sl, s1) := s.fresh 8
        (s1.hearthTick p sl).finishTile p done n
/-- R100, R101: borrowed work ends at the tile boundary; an unfinished command is suspended there. -/
def State.suspendBorrowed (s : State) (p : Nat) : State :=
  match (s.hearth p).run with
  | some r =>
    if r.borrowed then
      let s1 := s.finishTile p r.tilesDone (r.fuel + 1)
      s1.modHearth p fun h => { h with susp := h.run, run := none }
    else s
  | none => s

/-- R99: the BUBBLE at the head of hearth p starts, or is rejected. -/
def State.bubbleStart (s : State) (p : Nat) : State :=
  let Q := hearthQ s p 1
  if (s.hearth p).run.isSome || (s.hearth p).bubble != 0 || !s.qOn Q then s
  else
    match s.readyHead Q with
    | none => s
    | some c =>
      if c.op ≠ 2 then s.headMoves Q
      else
        let d := c.bytes
        let r := leAt d 176 8
        if bitsOf (leAt d 0 4) 31 9 != 0 || leAt d 8 4 == 0 || !zeroAt d 12 164 || !zeroAt d 184 8 || (r != 0 && !s.recAddrOk r) then
          ((s.startHead Q).hearthReject p c).endHead Q
        else ((s.startHead Q).modHearth p fun h => { h with bubble := 1, bubbleAt := s.cycle, bubbleMiss := 0 }).startBorrowed p

/-- R99, R100: the bubble of hearth p ends once its cycles have passed: record, and the next command. -/
def State.bubbleEnd (s : State) (p : Nat) : State :=
  if (s.hearth p).bubble ≠ 1 || s.bubbleLeft p != 0 then s
  else
    let s1 := s.suspendBorrowed p
    let Q := hearthQ s1 p 1
    match s1.startedHead Q with
    | some c => ((s1.hearthFinish p c 0).modHearth p fun h => { h with bubble := 0 }).endHead Q
    | none => s1.modHearth p fun h => { h with bubble := 0 }

/-- R101: whether the bellows of the home quadrant holds and names hearth p. -/
def State.heldHearth (s : State) (p : Nat) : Bool :=
  match s.logicalOf p with
  | some l => (s.bellows (l / 32)).hold.isSome && (s.get (F.BLW_BORROW_MASK (l / 32))).testBit (l % 32)
  | none => false
/-- Whether the main queue of hearth p is empty. -/
def State.mainEmpty (s : State) (p : Nat) : Bool :=
  let Q := hearthQ s p 1
  (s.queue Q).cmds.isEmpty && (!s.qsizeOk Q || s.get Q.head == s.qtail Q)
/-- R101: a hold bubble starts. -/
def State.holdStart (s : State) (p : Nat) : State :=
  let h := s.hearth p
  if h.run.isSome || h.bubble != 0 || !s.heldHearth p || !s.mainEmpty p then s
  else (s.modHearth p fun h => { h with bubble := 2, bubbleAt := s.cycle }).startBorrowed p
/-- R101: the hold bubble ends at a tile boundary, once the hold has ended or a command has been written. -/
def State.holdEnd (s : State) (p : Nat) : State :=
  if (s.hearth p).bubble ≠ 2 || (s.heldHearth p && s.mainEmpty p) then s
  else
    let s1 := (s.suspendBorrowed p).modHearth p fun h => { h with bubble := 0 }
    s1.advance (hearthQ s1 p 1)

/-- R81: one wave: of the command in progress, of borrowed work in a bubble, or of the MATMUL at the head. -/
def State.waveOf (s : State) (p slack : Nat) : State :=
  let s1 := if (s.hearth p).run.isNone ∧ (s.hearth p).bubble ≠ 0 then s.startBorrowed p else s.startMatmul p
  s1.issueWave p slack

/-- R102, R105 to R107: the MATMUL at the head of hearth p, started if need be, runs to its end, or until the tap buffer
withholds its waves (R146). -/
def State.matmulRun (s : State) (p : Nat) : State :=
  let s1 := s.startMatmul p
  match (s1.hearth p).run with
  | some r => if r.borrowed then s1 else s1.hearthRunOut p r.fuel
  | none => s1

/-- R98: the NOP at the head of hearth p. -/
def State.hearthNop (s : State) (p : Nat) : State :=
  let Q := hearthQ s p 1
  if (s.hearth p).run.isSome || (s.hearth p).bubble != 0 || !s.qOn Q then s
  else
    match s.readyHead Q with
    | none => s
    | some c =>
      if c.op ≠ 3 then s.headMoves Q
      else
        let d := c.bytes
        let r := leAt d 176 8
        let s1 := s.startHead Q
        if bitsOf (leAt d 0 4) 31 9 != 0 || !zeroAt d 8 160 || bitsOf (leAt d 168 2) 14 12 != 0 || !zeroAt d 170 6 ||
            !zeroAt d 184 8 || (r != 0 && !s.recAddrOk r) then (s1.hearthReject p c).endHead Q
        else (s1.hearthFinish p c 0).endHead Q

/-- R121: a command in progress of hearth p is aborted: its accumulators are discarded and its regions are undefined. One
that follows another whose last tile drains leaves that one as it is. -/
def State.hearthStop (s : State) (p : Nat) (c : QCmd) : State :=
  let Q := hearthQ s p 1
  if (s.hearth p).bubble = 1 then
    let s1 := s.suspendBorrowed p
    ((s1.hearthFinish p c 0x11).modHearth p fun h => { h with bubble := 0 }).endHead Q
  else if (s.hearth p).prev.isSome && s.startedHead Q != some c then
    let s1 := ((s.undefOutputs (mmOf c.bytes)).hearthRecord p c 0x11 (s.hearth p).run).spark (leAt c.bytes 168 2) (s.hearthQid p)
    let s2 := s1.modHearth p fun h => { h with run := h.prev, prev := none }
    (s2.modQueue Q fun q => { q with cmds := q.cmds.take 1 ++ q.cmds.drop 2, ahead := false }).advance Q
  else (s.undefOutputs (mmOf c.bytes)).endRun p 0x11
/-- R121, R455 to R458: an abort by tag. -/
def State.hearthAbort (s : State) (p tag : Nat) : State :=
  s.abortTag (hearthQ s p 1) tag fun t c => t.hearthStop p c
/-- R95: the tail of hearth p is written. -/
def State.hearthTail (s : State) (p v : Nat) : State :=
  let s1 := s.set (F.HRT_QTAIL_TAIL p) v
  s1.advance (hearthQ s1 p 1)
/-- R95: hearth p prefetches up to four descriptors ahead of the command in progress. -/
def State.hearthPrefetch (s : State) (p : Nat) : State := s.advance (hearthQ s p 5)
/-- Whether hearth p has no command in progress (HRT_STATUS.IDLE). -/
def State.hearthIdle (s : State) (p : Nat) : Bool :=
  let h := s.hearth p
  h.run.isNone && h.bubble != 1 && !(s.queue (hearthQ s p 1)).started
/-- R122: QRESET. -/
def State.hearthQreset (s : State) (p : Nat) : State := s.queueReset (hearthQ s p 1) (s.hearthIdle p)
/-- R132: SRESET. -/
def State.sideReset (s : State) (p : Nat) : State :=
  if s.on (F.HRT_CTRL_EN p) || !s.hearthIdle p then s else s.set (F.DMP_SHEAD_HEAD p) 0
/-- R122, R123: a write of HRT_CTRL: EN and BORROW_EN take their values, then QRESET acts under them (log 105). -/
def State.hearthCtrl (s : State) (p v : Nat) : State :=
  let s1 := (s.set (F.HRT_CTRL_EN p) v).set (F.HRT_CTRL_BORROW_EN p) (v / 2)
  let s2 := if v.testBit 2 then s1.hearthQreset p else s1
  s2.advance (hearthQ s2 p 1)

/-- R139: the load of polynomial table DMP_PTSEL from an image address begins. The entries of a valid table are replaced as
they arrive; which have arrived is open until the load ends (log 110). -/
def State.ptabStart (s : State) (p a : Nat) : State :=
  let n := s.get (F.DMP_PTSEL_TABLE p)
  let r := s.read a 1040
  let (ws, s1) := r.st.freshBytes 9
  s1.modHearth p fun h =>
    let old := h.ptabs.look [] n
    let mix := (List.range 65).flatMap fun i => ((if (leNat ws).testBit i then r.bytes else old).drop (16 * i)).take 16
    { h with ptLoad := some (n, r.bytes, r.bad), ptabs := if old.isEmpty then h.ptabs else h.ptabs.write [] n mix }
/-- R139: the load ends: the table is in place, or invalid. -/
def State.ptabLoaded (s : State) (p : Nat) : State :=
  match (s.hearth p).ptLoad with
  | none => s
  | some (n, bs, f) =>
    let s1 := s.set (F.DMP_STATUS_BUSY p) 0
    let bad := f.isSome || leAt bs 5 1 / 4 != 0 || !zeroAt bs 6 10
    let s2 := match f with
      | some (a, d) => s1.memFault .damper p a d
      | none => s1
    let s3 := s2.modHearth p fun h => { h with ptLoad := none, ptabs := h.ptabs.write [] n (if bad then [] else bs) }
    if bad then s3.raise (F.DMP_EVENT_PTAB_FAULT p) else s3

end Sys2Proof.Machine
end

