-- ==== Sys2Proof/Machine/Firebox.lean ====
section
/-! DEFINITION. The firebox: groups, shards, update programs and its commands (08_firebox_parameter_update.md R251 to
R281; 05 R169 to R173). -/

namespace Sys2Proof.Machine

/-- Fields of a command (R253). -/
def fcFirst (d : List Byte) : Nat := leAt d 8 2
def fcCount (d : List Byte) : Nat := leAt d 10 2
def fcSpark (d : List Byte) : Nat := leAt d 12 2
def fcRec (d : List Byte) : Nat := leAt d 16 8
def fcVec (d : List Byte) : Nat := leAt d 24 8
def fcMaxNorm (d : List Byte) : FV := val32 (leAt d 32 4)

/-- Fields of a shard descriptor (R260). -/
def sdGroup (d : List Byte) : Nat := leAt d 0 2
def sdLayer (d : List Byte) : Nat := leAt d 2 2
def sdCtl (d : List Byte) : Nat := leAt d 4 4
def sdValid (d : List Byte) : Bool := (sdCtl d).testBit 0
def sdNstate (d : List Byte) : Nat := bitsOf (sdCtl d) 3 1
def sdPin (d : List Byte) : Bool := (sdCtl d).testBit 4
def sdPub (d : List Byte) : Bool := (sdCtl d).testBit 5
def sdR (d : List Byte) : Nat := leAt d 8 4
def sdC (d : List Byte) : Nat := leAt d 12 4
def sdN (d : List Byte) : Nat := sdR d * sdC d
def sdGradFb (d : List Byte) : FBlock := fblockAt d 16
def sdGrad (d : List Byte) : Nat := leAt d 32 8
def sdP (d : List Byte) : Nat := leAt d 40 8
def sdOff (d : List Byte) : Nat := leAt d 48 8
def sdHigh (d : List Byte) : Nat := leAt d 56 8
def sdLow (d : List Byte) : Nat := leAt d 64 8
def sdAsh (d : List Byte) : Nat := leAt d 72 8
def sdState (d : List Byte) (k : Nat) : Nat := leAt d (80 + 8 * k) 8
def sdStateElem (d : List Byte) (k : Nat) : Nat := leAt d (112 + k) 1
def sdRef (d : List Byte) : Nat := leAt d 116 4
def sdPubFb (d : List Byte) : FBlock := fblockAt d 128
def sdPubBase (d : List Byte) : Nat := leAt d 144 8

/-- Fields of a group entry (R257). -/
def geCtl (e : List Byte) : Nat := leAt e 0 4
def geValid (e : List Byte) : Bool := (geCtl e).testBit 0
def geFrozen (e : List Byte) : Bool := (geCtl e).testBit 1
def geRound (e : List Byte) : Nat := bitsOf (geCtl e) 3 2
def geClip (e : List Byte) : Bool := (geCtl e).testBit 4
def geTrust (e : List Byte) : Bool := (geCtl e).testBit 5
def geLen (e : List Byte) : Nat := bitsOf (geCtl e) 10 6 + 1
def geProg (e : List Byte) : Nat := leAt e 8 8
/-- A binary32 constant of an entry; negative zero reads as zero (R66). -/
def geConst (e : List Byte) (o : Nat) : FV := let v := val32 (leAt e o 4); if v.isZero then FV.zero else v

/-- Addresses of the tables. -/
def State.groupAddr (s : State) (q g : Nat) : Nat := s.pair (R.FBX_GTBASE_LO q) + 128 * g
def State.gstateAddr (s : State) (q g half : Nat) : Nat := s.pair (R.FBX_GSBASE_LO q) + 64 * g + 32 * half
def State.shardAddr (s : State) (q i : Nat) : Nat := s.pair (R.FBX_SHBASE_LO q) + 192 * i
def State.shardRec (s : State) (q i : Nat) : Nat := s.pair (R.FBX_SSBASE_LO q) + 64 * i
/-- R522: reads the selector bits of the group states in the commit area. -/
def State.groupSels (s : State) : Rd := s.read (s.pair R.ERR_CBASE_LO + 96) 32
/-- The selector bit of group g's state. -/
def groupSel (sels : List Byte) (g : Nat) : Nat := ((leAt sels (4 * (g / 32)) 4).testBit (g % 32)).toNat

/-- R279: an uncorrectable read by firebox q. -/
def State.fbxFault (s : State) (q : Nat) (b : Nat × Nat) : State := (s.raise (F.FBX_EVENT_MEMERR q)).memFault .firebox q b.1 b.2

/-- What the record of a command counts (R256). -/
structure FCount where
  skipped : Nat
  elems : Nat
  kept : Nat
/-- Nothing counted. -/
def FCount.none : FCount := ⟨0, 0, 0⟩

/-- R256: record, then spark. -/
def State.fbxFinish (s : State) (q : Nat) (c : QCmd) (st : Nat) (n : FCount) : State :=
  let (cyc, s1) := s.fresh 64
  (s1.writeRecord .firebox q (fcRec c.bytes)
    (leBytes 4 c.tag ++ leBytes 1 st ++ leBytes 1 0 ++ leBytes 2 n.skipped ++ leBytes 8 n.elems ++ leBytes 4 n.kept ++ leBytes 4 0 ++ leBytes 8 cyc)).spark
    (fcSpark c.bytes) (some (qidFirebox q))
/-- R255: a rejected command. -/
def State.fbxReject (s : State) (q : Nat) (c : QCmd) : State :=
  ((s.raise (F.FBX_EVENT_REJECT q)).descRecord .firebox q c.addr c.tag).fbxFinish q c 0x10 FCount.none

/-- R253, R255: the checks that every command shares. -/
def fbxCommonBad (s : State) (d : List Byte) : Bool :=
  let r := fcRec d
  leAt d 0 4 / 2 ^ 8 != 0 || bitsOf (fcSpark d) 14 12 != 0 || bitsOf (leAt d 14 2) 14 12 != 0 || !zeroAt d 44 20 ||
  (r != 0 && !s.recAddrOk r)

/-- R257: a group entry that UPDATE rejects. -/
def groupBadEntry (e : List Byte) : Bool :=
  !geValid e || geRound e == 3 || geCtl e / 2 ^ 11 != 0 || leAt e 4 4 != 0 || !zeroAt e 72 56 || addrBad (geProg e) ||
  !((geConst e 64).le (geConst e 68))

/-- R255, R259, R260: a shard descriptor that breaks its rules; `e`: its group's entry. -/
def shardBad (d e : List Byte) : Bool :=
  let g := sdGradFb d
  let p := sdPubFb d
  let ns := sdNstate d
  !sdValid d || decide (255 < sdGroup d) || !geValid e || sdCtl d / 2 ^ 6 != 0 || decide (4 < ns) || sdR d == 0 || sdC d == 0 ||
  decide (2 ^ 31 < sdN d) || decide (5 < g.elem) || g.bad (g.grid .out (sdR d) (sdC d)).2 || inFar g.base ||
  addrBad (sdGrad d) || addrBad (sdP d) || (!sdPin d && (sdP d != 0 || sdRef d != 0)) || sdRef d / 2 ^ 22 != 0 || sdOff d % 64 != 0 ||
  addrBad (sdHigh d) || addrBad (sdLow d) || addrBad (sdAsh d) || (geRound e != 0 && sdAsh d != 0) ||
  ((List.range 4).any fun k => addrBad (sdState d k) ||
    (if k < ns then !(sdStateElem d k == 1 || sdStateElem d k == 2 || sdStateElem d k == 3) else sdState d k != 0 || sdStateElem d k != 0)) ||
  (if sdPub d then !(p.elem == 2 || p.elem == 3 || p.elem == 4 || p.elem == 5) || decide (1 < p.scale) || p.sdir != 0 ||
      p.bad (p.grid .out (sdR d) (sdC d)).2 || addrBad (sdPubBase d) || inFar p.base
    else !p.isZero) ||
  !zeroAt d 152 40

/-- Fields of an instruction (R269). -/
def insOp (w : Nat) : Nat := bitsOf w 4 0
def insD (w : Nat) : Nat := bitsOf w 8 5
def insA (w : Nat) : Nat := bitsOf w 13 9
def insB (w : Nat) : Nat := bitsOf w 18 14
def insC (w : Nat) : Nat := bitsOf w 23 19
/-- R269, R270: whether an instruction keeps its rules. -/
def insOk (ns w : Nat) : Bool :=
  let noB := insB w == 0 && !w.testBit 25
  let noC := insC w == 0 && !w.testBit 26
  w / 2 ^ 27 == 0 &&
  (match insOp w with
   | 1 => noC | 2 => noC | 3 => true | 4 => noC
   | 5 => noB && noC | 6 => noB && noC
   | 7 => noC | 8 => noC
   | 9 => noB && noC
   | 10 => true
   | 11 => decide (insA w < ns) && !w.testBit 24 && noB && noC
   | 12 => decide (insB w < ns) && !w.testBit 25 && insD w == 0 && noC
   | 13 => (insB w == 2 || insB w == 3) && !w.testBit 25 && noC
   | _ => false)

/-- 1 / √a rounded once to binary32 (R251, R270). -/
def rsqrt32 (a : FV) : FV :=
  match a with
  | .nan => .nan
  | .inf s => if s then .nan else FV.zero
  | .fin s m e =>
    if m = 0 then .inf s
    else if s then .nan
    else
      let m1 := if e % 2 = 0 then m else 2 * m
      let e1 := if e % 2 = 0 then e else e - 1
      let k := 64 + m1.log2
      let t := isqrt (2 ^ (2 * k) / m1)
      let st := if t * t * m1 = 2 ^ (2 * k) then 2 * t else 2 * t + 1
      (fmt32.roundQuot false st 1 (-(e1 / 2) - (k : Int) - 1)).1

/-- One element's run of the program: registers, staged slots, generator. -/
structure FRun where
  x : List FV
  staged : List (Option FV)
  gen : Nat

/-- R270: one instruction; `k` constants, `st` state values. -/
def FRun.step (r : FRun) (k st : List FV) (w : Nat) : FRun :=
  let opnd (c : Nat) (neg : Bool) : FV :=
    let v := if c < 16 then r.x.getD c FV.zero else k.getD (c - 16) FV.zero
    if neg then v.negate else v
  let a := opnd (insA w) (w.testBit 24)
  let b := opnd (insB w) (w.testBit 25)
  let c := opnd (insC w) (w.testBit 26)
  let put (v : FV) : FRun := { r with x := r.x.set (insD w) v }
  match insOp w with
  | 1 => put (fmt32.add a b)
  | 2 => put (fmt32.mul a b)
  | 3 => put (fmt32.fma a b c)
  | 4 => put (fmt32.div a b)
  | 5 => put (fmt32.sqrt a)
  | 6 => put (rsqrt32 a)
  | 7 => put (plusZero (a.max b))
  | 8 => put (plusZero (a.min b))
  | 9 => put (if a.isNan then .nan else if FV.zero.lt a then FV.one else if a.lt FV.zero then FV.one.negate else FV.zero)
  | 10 => put (if FV.zero.lt a then b else c)
  | 11 => put (st.getD (insA w) FV.zero)
  | 12 => { r with staged := r.staged.set (insB w) (some a) }
  | _ =>
    let (d, g) := genDraw r.gen
    { put (stochRound (if insB w = 2 then fmt16 else fmtBf16) a d).1 with gen := g }

/-- R170: the unit u(x) of a binary32 magnitude, as an exponent. -/
def ulpExp (x : FV) : Int :=
  match x with
  | .fin _ m e => if m = 0 then -149 else max ((m.log2 : Int) + e - 23) (-149)
  | _ => -149

/-- R170, R171: the new master, its ash code, and whether it is out of range. -/
def newMaster (round : Nat) (w d : FV) (ash draw : Nat) : FV × Nat × Bool :=
  match round with
  | 0 =>
    let y := (w.add d).add ((FV.ofInt (toSigned 8 ash)).scale2 (ulpExp w - 8))
    let w1 := fmt32.round y
    if !w1.isFin then (w1, 0, true)
    else
      let q1 := roundInt ((y.sub w1).scale2 (8 - ulpExp w1))
      if q1 = 128 then
        let w2 := w1.add (.fin false 1 (ulpExp w1))
        (w2, ofSigned 8 (roundInt ((y.sub w2).scale2 (8 - ulpExp w2))), !(fmt32.round w2).isFin)
      else (w1, ofSigned 8 q1, false)
  | 1 =>
    let (v, o) := stochRound fmt32 (w.add d) draw
    (v, 0, o)
  | _ =>
    let v := fmt32.round (w.add d)
    (v, 0, !v.isFin)

/-- Reads n codes of width w; n may be zero. -/
def State.readCodes (s : State) (a n w : Nat) : List Nat × Option (Nat × Nat) × State :=
  let r := s.read a (n * w)
  (codesOf w r.bytes n, r.bad, r.st)

/-- R260, R263: the gradient of a shard, widened exactly. -/
def State.readGrad (s : State) (d : List Byte) : List FV × Option (Nat × Nat) × State :=
  let f := sdGradFb d
  let w := elemBytes f.elem
  let (cs, b, s1) := s.readCodes (sdGrad d) (sdN d) w
  let g := f.grid .out (sdR d) (sdC d)
  let z := if f.scale = 0 then (⟨[], none, s1⟩ : MRd) else s1.readMat f.base f.pitch g.1 g.2 1
  (cs.zipIdx.map fun (c, i) =>
    let cell := f.cell .out (i / sdC d) (i % sdC d)
    plusZero (decodeScaled f c (matAt z.rows 0 cell.1 cell.2)), firstBad b z.bad, z.st)

/-- R262: whether the roots of element i of a PIN shard are valid; `wr` and `wc`: ROOTVALID of its row-side and column-side
factors. -/
def State.rootsValid (s : State) (d : List Byte) (wr wc i : Nat) : Bool :=
  let ref := sdRef d
  let side (f w idx : Nat) : Bool :=
    let fd := (s.fact (ref % 4) f).desc
    !fd.isEmpty && w.testBit (idx / fdBs fd)
  side (bitsOf ref 11 2) wr (leAt d 120 4 + i / sdC d) && side (bitsOf ref 21 12) wc (leAt d 124 4 + i % sdC d)

/-- R262: the preconditioned input of a shard, element by element, from its gradient. -/
def State.readY (s : State) (d : List Byte) (g : List FV) : List FV × Option (Nat × Nat) × State :=
  if !sdPin d then (g, none, s)
  else
    let ref := sdRef d
    let wr := s.read (s.factRec (ref % 4) (bitsOf ref 11 2) + 16) 4
    let wc := wr.st.read (s.factRec (ref % 4) (bitsOf ref 21 12) + 16) 4
    let (cs, b, s1) := wc.st.readCodes (sdP d) (sdN d) 4
    ((g.zip cs).zipIdx.map fun ((gv, p), i) => if s.rootsValid d (leNat wr.bytes) (leNat wc.bytes) i then plusZero (val32 p) else gv,
      firstBad wr.bad (firstBad wc.bad b), s1)

/-- R169: the present masters of a shard. `cur`: the current copy. -/
def State.readMaster (s : State) (d : List Byte) (copy : Nat) : List Nat × Option (Nat × Nat) × State :=
  let (hs, b1, s1) := s.readCodes (sdHigh d + copy * sdOff d) (sdN d) 2
  let (ls, b2, s2) := s1.readCodes (sdLow d + copy * sdOff d) (sdN d) 2
  ((hs.zip ls).map fun (h, l) => h * 2 ^ 16 + l, firstBad b1 b2, s2)

/-- R261: the first touch of a step clears the scratch of a shard state record. Answers the record. -/
def State.touchShard (s : State) (q i : Nat) : List Byte × Option (Nat × Nat) × State :=
  let a := s.shardRec q i
  let rd := s.read a 64
  let r := rd.bytes
  if rd.bad.isSome ∨ leAt r 48 8 = s.job.step then (r, rd.bad, rd.st)
  else
    let r1 := r.take 16 ++ leBytes 24 0 ++ leBytes 4 0 ++ (r.drop 44).take 4 ++ leBytes 8 s.job.step ++ r.drop 56
    (r1, none, rd.st.unitWrite .firebox q a r1)

/-- The descriptors and group entries of a range of shards, with the first uncorrectable granule. -/
def State.loadShards (s : State) (q first n : Nat) : List (Nat × List Byte × List Byte) × Option (Nat × Nat) × State :=
  (List.range n).foldl (fun (acc : List (Nat × List Byte × List Byte) × Option (Nat × Nat) × State) k =>
    let i := first + k
    let d := acc.2.2.read (s.shardAddr q i) 192
    let e := d.st.read (s.groupAddr q (sdGroup d.bytes % 256)) 128
    (acc.1 ++ [(i, d.bytes, e.bytes)], firstBad acc.2.1 (firstBad d.bad e.bad), e.st)) ([], none, s)

/-- R253: whether a shard range is wrong. -/
def fcRangeBad (s : State) (q : Nat) (d : List Byte) : Bool :=
  fcCount d == 0 || decide (4096 < fcCount d) || decide (4095 < fcFirst d) ||
  decide (min 4096 (s.get (F.FBX_NSHARD_COUNT q)) < fcFirst d + fcCount d)

/-- R279: the non-current copy of a shard is undefined and its WRITTEN flag clear. -/
def State.shardVoid (s : State) (q i : Nat) (d e : List Byte) : State :=
  let n := sdN d
  let r := s.read (s.shardRec q i) 64
  let off := (1 - leAt r.bytes 8 4 % 2) * sdOff d
  let s1 := (r.st.undefRows (sdHigh d + off) 0 1 (2 * n)).undefRows (sdLow d + off) 0 1 (2 * n)
  let s2 := if geRound e = 0 then s1.undefRows (sdAsh d + off) 0 1 n else s1
  let s3 := s2.each (List.range (sdNstate d)) fun t j => t.undefRows (sdState d j + off) 0 1 (n * elemBytes (sdStateElem d j))
  let f := sdPubFb d
  let s4 := if sdPub d then s3.undefRows (sdPubBase d + off) 0 1 (n * elemBytes f.elem) else s3
  let g := f.grid .out (sdR d) (sdC d)
  let s5 := if sdPub d ∧ f.scale ≠ 0 then s4.undefRows (f.base + off) f.pitch g.1 g.2 else s4
  s5.unitWrite .firebox q (s5.shardRec q i + 40) (leBytes 4 (leAt r.bytes 40 4 &&& 0xFFFFFFFB))
/-- R279: what an aborted UPDATE or DWRITE leaves of its shards; a command that would be rejected writes nothing. -/
def State.fbxVoid (s : State) (q : Nat) (c : QCmd) : State :=
  let d := c.bytes
  if !(c.op == 3 || c.op == 4) || fbxCommonBad s d || fcRangeBad s q d then s
  else
    let (l, b, s1) := s.loadShards q (fcFirst d) (fcCount d)
    if b.isSome || l.any fun p => shardBad p.2.1 p.2.2 then s
    else s1.each (l.filter fun p => !geFrozen p.2.2) fun t p => t.shardVoid q p.1 p.2.1 p.2.2

/-- The command queue of firebox q (R252). -/
def fireboxQ (q : Nat) : QI where
  kind := .firebox
  unit := q
  qid := some (qidFirebox q)
  slotBytes := 64
  depth := 1
  base := R.FBX_QBASE_LO q
  size := F.FBX_QSIZE_ENTRIES q
  head := F.FBX_QHEAD_HEAD q
  tail := F.FBX_QTAIL_TAIL q
  res := F.FBX_ABORT_RES_RESULT q
  evAborted := F.FBX_EVENT_ABORTED q
  evReject := some (F.FBX_EVENT_REJECT q)
  cap := 4096
  en := fun t => t.on (F.FBX_CTRL_EN q)
  empties := true
  bar := fun b => leAt b 14 2
  known := fun o => decide (1 ≤ o) && decide (o ≤ 5)
  grab := plainGrab
  finish := fun t c st => t.fbxFinish q c st FCount.none
  reject := fun t c => t.fbxReject q c
  void := fun t c => t.fbxVoid q c

/-- The end of the command in progress; a write that was not made ends it MEMORY_ERROR (R328). -/
def State.fbxEnd (s : State) (q : Nat) (c : QCmd) (st : Nat) (n : FCount) : State :=
  let st1 := s.endStatus .firebox q st
  ((if st1 = st then s else s.raise (F.FBX_EVENT_MEMERR q)).fbxFinish q c st1 n).endHead (fireboxQ q)

/-- Starts the head when it carries an opcode. -/
def State.fbxHead (s : State) (q op : Nat) : Option QCmd :=
  let Q := fireboxQ q
  if !s.qOn Q then none else (s.readyHead Q).filter fun c => c.op == op

/-- R252, R588: the head is not of the opcode asked for: an unknown one whose wait is over is rejected. -/
def State.fbxMoves (s : State) (q : Nat) : State := if s.qOn (fireboxQ q) then s.headMoves (fireboxQ q) else s

/-- R263, R264: pass 1 over one shard. Answers the elements, frozen shards and the first uncorrectable granule. -/
def State.normShard (s : State) (q i : Nat) (d e : List Byte) : FCount × Option (Nat × Nat) × State :=
  let (r, b0, s0) := s.touchShard q i
  let a := s0.shardRec q i
  let put (t : State) (g2 w2 y2 flags : Nat) : State :=
    t.unitWrite .firebox q (a + 16) (leBytes 8 g2 ++ leBytes 8 w2 ++ leBytes 8 y2 ++ leBytes 4 flags)
  let keep := leAt r 40 4 &&& 6
  if b0.isSome then (⟨0, 0, 0⟩, b0, s0)
  else if geFrozen e then (⟨1, 0, 0⟩, none, (put s0 0 0 0 (keep + 1)).count (F.FBX_SKIPS_VALUE q) 1)
  else
    let (g, b1, s1) := s0.readGrad d
    let (y, b2, s2) := s1.readY d g
    let (m, b3, s3) := if geTrust e then s2.readMaster d (leAt r 8 4 % 2) else ([], none, s2)
    match firstBad b1 (firstBad b2 b3) with
    | some b => (⟨0, 0, 0⟩, some b, s3)
    | none =>
      let sq (v : List FV) : Nat := (kdot (v.map dOf) (v.map dOf) FFlags.none).1
      let g2 := sq g
      let w2 := if geTrust e then sq (m.map fun b => plusZero (val32 b)) else 0
      let y2 := if sdPin d then sq y else g2
      let nf := g.any (fun v => !v.isFin) || y.any fun v => !v.isFin
      (⟨0, sdN d, 0⟩, none, put s3 g2 w2 y2 ((keep ||| 1) ||| (if nf then 2 else 0)))

/-- Sums two counts. -/
def FCount.add (a b : FCount) : FCount := ⟨a.skipped + b.skipped, a.elems + b.elems, a.kept + b.kept⟩

/-- Runs a pass over shards in ascending order until an uncorrectable read. -/
def overShards (f : State → Nat → List Byte → List Byte → FCount × Option (Nat × Nat) × State) :
    List (Nat × List Byte × List Byte) → FCount → State → FCount × Option (Nat × Nat) × State
  | [], n, s => (n, none, s)
  | (i, d, e) :: t, n, s =>
    let (m, b, s1) := f s i d e
    match b with
    | some x => (n.add m, some x, s1)
    | none => overShards f t (n.add m) s1

/-- R263: the NORM at the head of firebox q. -/
def State.fbxNorm (s : State) (q : Nat) : State :=
  match s.fbxHead q 1 with
  | none => s.fbxMoves q
  | some c =>
    let d := c.bytes
    let s1 := s.startHead (fireboxQ q)
    if fbxCommonBad s1 d || fcRangeBad s1 q d || !zeroAt d 24 20 then (s1.fbxReject q c).endHead (fireboxQ q)
    else
      let (l, b, s2) := s1.loadShards q (fcFirst d) (fcCount d)
      match b with
      | some x => (s2.fbxFault q x).fbxEnd q c 0x12 FCount.none
      | none =>
        if l.any fun p => shardBad p.2.1 p.2.2 then (s2.fbxReject q c).endHead (fireboxQ q)
        else
          match overShards (fun t i d e => t.normShard q i d e) l FCount.none s2 with
          | (n, some x, s3) => (s3.fbxFault q x).fbxEnd q c 0x12 n
          | (n, none, s3) => s3.fbxEnd q c 0 n

/-- R259, R65, R66: the incoming state of a group from its current one. -/
def groupNext (e st : List Byte) : List Byte :=
  let mul (o c : Nat) : List Byte := leBytes 8 (convFast 0 ((plusZero (val64 (leAt st o 8))).mul (geConst e c))).bits
  if geFrozen e then st.take 24 ++ leBytes 8 (leAt st 24 8 + 1)
  else leBytes 8 (leAt st 0 8 + 1) ++ mul 8 48 ++ mul 16 52 ++ (st.drop 24).take 8

/-- Reads pairs of things in ascending order, with the first uncorrectable granule. -/
def State.readPairs (s : State) (n a b : Nat) (f g : Nat → Nat) : List (List Byte × List Byte) × Option (Nat × Nat) × State :=
  (List.range n).foldl (fun (acc : List (List Byte × List Byte) × Option (Nat × Nat) × State) i =>
    let r := acc.2.2.read (f i) a
    let t := r.st.read (g i) b
    (acc.1 ++ [(r.bytes, t.bytes)], firstBad acc.2.1 (firstBad r.bad t.bad), t.st)) ([], none, s)

/-- R265: the vector that a FOLD writes from the descriptors and records of the shards: those that pass 1 has handled in this step. -/
def foldVec (step : Nat) (recs : List (List Byte × List Byte)) : List Byte :=
  let counts := recs.filter fun p => sdValid p.1 && leAt p.2 48 8 == step && (leAt p.2 40 4).testBit 0
  let nonfin := counts.filter fun p => (leAt p.2 40 4).testBit 1
  let low := nonfin.foldl (fun m p => min m (sdLayer p.1)) 0xFFFF
  let total (g o : Nat) : Nat :=
    match (counts.filter fun p => sdGroup p.1 == g).map fun p => val64 (leAt p.2 o 8) with
    | [] => 0
    | v :: t => fmt64.encode (t.foldl fmt64.add v)
  leBytes 4 ((if nonfin.isEmpty then 0 else 1) + low * 2 ^ 16) ++ leBytes 12 0 ++
    (List.range 256).flatMap fun g => leBytes 8 (total g 16) ++ leBytes 8 (total g 24) ++ leBytes 8 (total g 32)

/-- R259, R265: writes the incoming state of every valid group. -/
def State.foldGroups (s : State) (q : Nat) (sels : List Byte) (groups : List (List Byte × List Byte)) : State :=
  groups.zipIdx.foldl (fun t (p, g) =>
    if geValid p.1 then
      let t1 := t.unitWrite .firebox q (t.gstateAddr q g (1 - groupSel sels g)) (groupNext p.1 p.2)
      { t1 with folded := t1.folded.filter (· != g) ++ [g] }
    else t) s

/-- R265: the FOLD at the head of firebox q. -/
def State.fbxFold (s : State) (q : Nat) : State :=
  match s.fbxHead q 2 with
  | none => s.fbxMoves q
  | some c =>
    let d := c.bytes
    let s1 := s.startHead (fireboxQ q)
    if fbxCommonBad s1 d || leAt d 8 4 != 0 || addrBad (fcVec d) || !zeroAt d 32 12 then (s1.fbxReject q c).endHead (fireboxQ q)
    else
      let (recs, b1, s2) := s1.readPairs (s1.get (F.FBX_NSHARD_COUNT q)) 192 64 (fun i => s1.shardAddr q i) (fun i => s1.shardRec q i)
      let sels := s2.groupSels
      let (groups, b2, s3) := sels.st.readPairs 256 128 32 (fun g => s1.groupAddr q g) (fun g => s1.gstateAddr q g (groupSel sels.bytes g))
      match firstBad b1 (firstBad sels.bad b2) with
      | some x => (s3.fbxFault q x).fbxEnd q c 0x12 FCount.none
      | none => ((s3.unitWrite .firebox q (fcVec d) (foldVec s.job.step recs)).foldGroups q sels.bytes groups).fbxEnd q c 0 FCount.none

/-- R267: the constants c, t, a, b0, b1 of a group in binary64; `v` reduced vector, `ng` the global norm. -/
def groupConsts (e st v : List Byte) (g : Nat) (maxNorm ng : FV) : FV × FV × FV × FV × FV :=
  let g2 := val64 (leAt v (16 + 24 * g) 8)
  let w2 := val64 (leAt v (24 + 24 * g) 8)
  let y2 := val64 (leAt v (32 + 24 * g) 8)
  let c := if !geClip e || maxNorm.isZero || ng.isZero then FV.one else FV.one.min (fmt64.div maxNorm ng)
  let dv := fmt64.add (fmt64.mul c (fmt64.sqrt g2)) (fmt64.mul (geConst e 60) (fmt64.sqrt w2))
  let t0 := fmt64.div (fmt64.mul (geConst e 56) (fmt64.sqrt w2)) dv
  let t := if !geTrust e || w2.isZero || dv.isZero || !dv.isFin then FV.one else (t0.max (geConst e 64)).min (geConst e 68)
  let a := if FV.zero.lt y2 then fmt64.sqrt (fmt64.div g2 y2) else FV.one
  (c, t, a, fmt64.sub FV.one (val64 (leAt st 8 8)), fmt64.sub FV.one (val64 (leAt st 16 8)))

/-- R268: the constant registers of a group. -/
def constRegs (e st v : List Byte) (g : Nat) (maxNorm ng : FV) : List FV :=
  let (c, t, a, b0, b1) := groupConsts e st v g maxNorm ng
  ((List.range 8).map fun i => geConst e (16 + 4 * i)) ++ [c, t, a, b0, b1].map fmt32.round ++ [FV.zero, FV.one, FV.one.negate]

/-- What pass 2 gives for one element. -/
structure FElem where
  master : Nat
  ash : Nat
  states : List Nat
  /-- 0 not kept, else a cause of R536; which of several is open (log 27) -/
  cause : Nat
  sat : Nat
  gen : Nat

/-- R268 to R273: one element: gradient, y, master bits, ash, state codes and their formats, and the lane's generator. -/
def updateElem (e : List Byte) (prog : List Nat) (k : List FV) (elems : List Nat) (g y : FV) (m ash : Nat) (sts : List Nat) (gen : Nat) : FElem :=
  let w := plusZero (val32 m)
  let c := k.getD 8 FV.zero
  let x := [fmt32.round (c.mul g), w, fmt32.round (c.mul y)] ++ List.replicate 13 FV.zero
  let cur := (sts.zip elems).map fun (b, el) => plusZero (elemValue el b)
  let r := prog.foldl (fun r i => r.step k cur i) (⟨x, List.replicate 4 none, gen⟩ : FRun)
  let dl := r.x.getD 15 FV.zero
  let (dr, gen1) := if geRound e = 1 then genDraw r.gen else (0, r.gen)
  let stagedBad := r.staged.any fun o => match o with
    | some v => !v.isFin
    | none => false
  let (nw, na, big) := if w.isFin && dl.isFin then newMaster (geRound e) w dl ash dr else (w, ash, false)
  let cause := pickOne ((if dl.isFin then [] else [1]) ++ (if stagedBad then [2] else []) ++ (if big then [3] else []) ++ if w.isFin then [] else [4])
  if cause ≠ 0 then ⟨m, ash, sts, cause, 0, gen1⟩
  else
    let cv := ((sts.zip elems).zipIdx).map fun ((b, el), i) =>
      match r.staged.getD i none with
      | some v => convFast el v
      | none => (⟨b, false, false⟩ : Conv)
    ⟨bits32 nw, na, cv.map (·.bits), 0, (cv.filter (·.ovf)).length, gen1⟩

/-- R274: the publish codes and scale bytes of high halves. Answers them and whether one overflowed. -/
def publishOf (d : List Byte) (hs : List Nat) : List Nat × List (List Nat) × Bool :=
  let f := sdPubFb d
  if f.elem = 3 ∧ f.scale = 0 then (hs, [], false)
  else
    let vs := hs.map fun h => val32 (h * 2 ^ 16)
    let c := sdC d
    let g := f.grid .out (sdR d) c
    let scs := if f.scale = 0 then [] else matOf g.1 g.2 fun i b =>
      freeRowScale f (((vs.drop (i * c + b * f.blockLen)).take (min f.blockLen (c - b * f.blockLen))).foldl maxMag none)
    let cs := vs.zipIdx.map fun (v, i) =>
      let sb := if f.scale = 0 then 0 else matAt scs 0 (i / c) (i % c / f.blockLen)
      convFast f.elem (quotScale fmt32 v (scaleValue f.scale sb) f.texp)
    (cs.map (·.bits), scs, cs.any (·.ovf))

/-- R274: writes the publish copy from the high halves of the same copy. -/
def State.publish (s : State) (q : Nat) (d : List Byte) (copy : Nat) (hs : List Nat) : State :=
  if !sdPub d then s
  else
    let f := sdPubFb d
    let (cs, scs, o) := publishOf d hs
    let s1 := s.unitWrite .firebox q (sdPubBase d + copy * sdOff d) (cs.flatMap fun v => leBytes (elemBytes f.elem) v)
    let s2 := if f.scale = 0 then s1 else s1.writeMat .firebox q (f.base + copy * sdOff d) f.pitch 1 scs
    if o then s2.raise (F.FBX_EVENT_PUBSAT q) else s2

/-- R267 to R276: pass 2 over one shard. `progs`, `consts` by group; `first`: no element of the command has been kept yet. -/
def State.updateShard (s : State) (q i : Nat) (d e : List Byte) (prog : List Nat) (k : List FV) (first : Bool) :
    FCount × Option (Nat × Nat) × State :=
  if geFrozen e then (⟨1, 0, 0⟩, none, s.count (F.FBX_SKIPS_VALUE q) 1)
  else
    let (r, b0, s0) := s.touchShard q i
    let cur := leAt r 8 4 % 2
    let ns := sdNstate d
    let elems := (List.range ns).map (sdStateElem d)
    let (g, b1, s1) := s0.readGrad d
    let (y, b2, s2) := s1.readY d g
    let (m, b3, s3) := s2.readMaster d cur
    let (ash, b4, s4) := if geRound e = 0 then s3.readCodes (sdAsh d + cur * sdOff d) (sdN d) 1 else ([], none, s3)
    let (sts, b5, s5) := (List.range ns).foldl (fun (acc : List (List Nat) × Option (Nat × Nat) × State) j =>
      let (l, b, t) := acc.2.2.readCodes (sdState d j + cur * sdOff d) (sdN d) (elemBytes (sdStateElem d j))
      (acc.1 ++ [l], firstBad acc.2.1 b, t)) ([], none, s4)
    match firstBad b0 (firstBad b1 (firstBad b2 (firstBad b3 (firstBad b4 b5)))) with
    | some b => (⟨0, 0, 0⟩, some b, s5)
    | none =>
      let (outs, s6) := (List.range (sdN d)).foldl (fun (acc : List FElem × State) x =>
        let gi := genFirebox q (x % 256)
        let o := updateElem e prog k elems (g.getD x FV.zero) (y.getD x FV.zero) (m.getD x 0) (ash.getD x 0) (sts.map fun l => l.getD x 0) (acc.2.gen gi)
        (acc.1 ++ [o], acc.2.setGen gi o.gen)) ([], s5)
      let kept := outs.filter (·.cause != 0)
      let s7 :=
        if kept.isEmpty then s6
        else
          let t := (s6.count (F.FBX_NFELEM_VALUE q) kept.length).raise (F.FBX_EVENT_NFELEM q)
          match first, outs.findIdx? (·.cause != 0) with
          | true, some x => t.errRecord .numerics 0 .firebox q (x + i * 2 ^ 32) ((outs.map (·.cause)).getD x 0)
          | _, _ => t
      let nsat := (outs.map (·.sat)).sum
      let s8 := if nsat = 0 then s7 else (s7.count (F.FBX_STSAT_VALUE q) nsat).raise (F.FBX_EVENT_STSAT q)
      let inc := 1 - cur
      let hs := outs.map fun o => o.master / 2 ^ 16
      let s9 := (s8.unitWrite .firebox q (sdHigh d + inc * sdOff d) (hs.flatMap fun h => leBytes 2 h)).unitWrite .firebox q
        (sdLow d + inc * sdOff d) (outs.flatMap fun o => leBytes 2 o.master)
      let s10 := if geRound e = 0 then s9.unitWrite .firebox q (sdAsh d + inc * sdOff d) (outs.flatMap fun o => leBytes 1 o.ash) else s9
      let s11 := s10.each (List.range ns) fun t j =>
        t.unitWrite .firebox q (sdState d j + inc * sdOff d) (outs.flatMap fun o => leBytes (elemBytes (sdStateElem d j)) (o.states.getD j 0))
      let s12 := s11.publish q d inc hs
      let flags := leNat (s12.read (s12.shardRec q i + 40) 4).bytes
      let s13 := s12.unitWrite .firebox q (s12.shardRec q i + 40) (leBytes 4 (flags ||| 4))
      let s14 := s13.setPair (R.FBX_ELEMS_LO q) ((s13.pair (R.FBX_ELEMS_LO q) + (outs.length - kept.length)) % 2 ^ 64)
      (⟨0, sdN d, kept.length⟩, none, s14)

/-- R267, R268: the constant registers of every group, from its entry, its incoming state and the reduced vector; the global norm is that of the
groups that are valid and not frozen. -/
def updateConsts (ents : List (List Byte × List Byte)) (v : List Byte) (maxNorm : FV) (g : Nat) : List FV :=
  let live := ents.zipIdx.filter fun p => geValid p.1.1 && !geFrozen p.1.1
  let ng := fmt64.sqrt (sum64 (live.map fun p => val64 (leAt v (16 + 24 * p.2) 8)))
  let p := ents.getD g ([], [])
  constRegs p.1 p.2 v g maxNorm ng
/-- R255: reads the programs of the groups that shards name, by the entries read with the shards. -/
def State.loadProgs (s : State) (l : List (Nat × List Byte × List Byte)) : List (Nat × List Nat) × Option (Nat × Nat) × State :=
  l.foldl (fun (acc : List (Nat × List Nat) × Option (Nat × Nat) × State) p =>
    let g := sdGroup p.2.1
    if (acc.1.lookup g).isSome then acc
    else
      let (ws, b, t) := acc.2.2.readCodes (geProg p.2.2) (geLen p.2.2) 4
      (acc.1 ++ [(g, ws)], firstBad acc.2.1 b, t)) ([], none, s)
/-- R267: pass 2 over shards in order, until an uncorrectable read. -/
def State.updateShards (s : State) (q : Nat) (prog : Nat → List Nat) (consts : Nat → List FV) (l : List (Nat × List Byte × List Byte)) :
    FCount × Option (Nat × Nat) × State :=
  l.foldl (fun (acc : FCount × Option (Nat × Nat) × State) p =>
    match acc.2.1 with
    | some _ => acc
    | none =>
      let g := sdGroup p.2.1
      let (m, b, t) := acc.2.2.updateShard q p.1 p.2.1 p.2.2 (prog g) (consts g) (acc.1.kept == 0)
      (acc.1.add m, b, t)) (FCount.none, none, s)

/-- R267: a valid UPDATE: the reduced vector, then, unless VETO is set in it, the constants and the shards. -/
def State.fbxPass2 (s : State) (q : Nat) (c : QCmd) (l : List (Nat × List Byte × List Byte)) (prog : Nat → List Nat) : State :=
  let d := c.bytes
  let v := s.read (fcVec d) 6160
  match v.bad with
  | some x => (v.st.fbxFault q x).fbxEnd q c 0x12 FCount.none
  | none =>
    if v.bytes.head?.any fun x => x.getLsbD 0 then ((v.st.raise (F.FBX_EVENT_VETOED q)).vetoNf).fbxEnd q c 1 FCount.none
    else
      let sels := v.st.groupSels
      let (ents, b3, s4) := sels.st.readPairs 256 128 32 (fun g => s.groupAddr q g) (fun g => s.gstateAddr q g (1 - groupSel sels.bytes g))
      match firstBad sels.bad b3 with
      | some x => (s4.fbxFault q x).fbxEnd q c 0x12 FCount.none
      | none =>
        match s4.updateShards q prog (updateConsts ents v.bytes (fcMaxNorm d)) l with
        | (n, some x, s5) => (s5.fbxFault q x).fbxEnd q c 0x12 n
        | (n, none, s5) => s5.fbxEnd q c 0 n

/-- R267: the UPDATE at the head of firebox q. -/
def State.fbxUpdate (s : State) (q : Nat) : State :=
  match s.fbxHead q 3 with
  | none => s.fbxMoves q
  | some c =>
    let d := c.bytes
    let s1 := s.startHead (fireboxQ q)
    if fbxCommonBad s1 d || fcRangeBad s1 q d || addrBad (fcVec d) || !paramOk (fcMaxNorm d) || !zeroAt d 36 8 then (s1.fbxReject q c).endHead (fireboxQ q)
    else
      let (l, b1, s2) := s1.loadShards q (fcFirst d) (fcCount d)
      match b1 with
      | some x => (s2.fbxFault q x).fbxEnd q c 0x12 FCount.none
      | none =>
        if l.any fun p => shardBad p.2.1 p.2.2 || groupBadEntry p.2.2 then (s2.fbxReject q c).endHead (fireboxQ q)
        else
          let (progs, b2, s3) := s2.loadProgs l
          let prog (g : Nat) : List Nat := (progs.lookup g).getD []
          match b2 with
          | some x => (s3.fbxFault q x).fbxEnd q c 0x12 FCount.none
          | none =>
            if l.any fun p => !((prog (sdGroup p.2.1)).all (insOk (sdNstate p.2.1))) then (s3.fbxReject q c).endHead (fireboxQ q)
            else s3.fbxPass2 q c l prog

/-- R277: a discarded DWRITE. -/
def State.dwDiscard (s : State) (q : Nat) (c : QCmd) (cause : Nat) : State :=
  (((s.count (F.FBX_DWDISC_VALUE q) 1).raise (F.FBX_EVENT_DW_DISCARD q)).errRecord .firebox 0 .firebox q (fcFirst c.bytes) cause).fbxEnd q c 2 FCount.none

/-- R277, R536: the causes that discard a DWRITE: group entry, shard record, step, elements of the shard, end of the range. -/
def dwCauses (e r : List Byte) (step n top : Nat) : List Nat :=
  (if geFrozen e then [1] else []) ++ (if (leAt r 40 4).testBit 2 && leAt r 48 8 == step then [] else [2]) ++ if n < top then [3] else []
/-- R277: writes elements from element e0 of a shard's incoming copy: high and low halves, a zero ash, and with `clear` zero states. -/
def State.dwElems (s : State) (q : Nat) (sd e : List Byte) (inc e0 : Nat) (clear : Bool) (ok : List (Nat × Nat)) : State :=
  ok.foldl (fun t p =>
    let v := if (val32 p.1).isZero then 0 else p.1
    let x := e0 + p.2
    let t1 := (t.unitWrite .firebox q (sdHigh sd + inc * sdOff sd + 2 * x) (leBytes 2 (v / 2 ^ 16))).unitWrite .firebox q
      (sdLow sd + inc * sdOff sd + 2 * x) (leBytes 2 v)
    let t2 := if geRound e = 0 then t1.unitWrite .firebox q (sdAsh sd + inc * sdOff sd + x) [0] else t1
    if clear then
      t2.each (List.range (sdNstate sd)) fun t j =>
        let w := elemBytes (sdStateElem sd j)
        t.unitWrite .firebox q (sdState sd j + inc * sdOff sd + w * x) (leBytes w 0)
    else t2) s
/-- R277: the high halves of a shard after such a write. -/
def dwHighs (e0 : Nat) (ok : List (Nat × Nat)) (hs : List Nat) : List Nat :=
  ok.foldl (fun l p => l.set (e0 + p.2) ((if (val32 p.1).isZero then 0 else p.1) / 2 ^ 16)) hs

/-- R277: the DWRITE at the head of firebox q. -/
def State.fbxDwrite (s : State) (q : Nat) : State :=
  match s.fbxHead q 4 with
  | none => s.fbxMoves q
  | some c =>
    let d := c.bytes
    let s1 := s.startHead (fireboxQ q)
    let i := fcFirst d
    let e0 := leAt d 32 4
    let n := leAt d 36 4
    if fbxCommonBad s1 d || fcRangeBad s1 q d || fcCount d != 1 || addrBad (fcVec d) || n == 0 || leAt d 40 4 / 2 != 0 then
      (s1.fbxReject q c).endHead (fireboxQ q)
    else
      let (l, b1, s2) := s1.loadShards q i 1
      match b1, l with
      | some x, _ => (s2.fbxFault q x).fbxEnd q c 0x12 FCount.none
      | none, (_, sd, e) :: _ =>
        if shardBad sd e then (s2.fbxReject q c).endHead (fireboxQ q)
        else
          let rd := s2.read (s2.shardRec q i) 64
          let s2 := rd.st
          let r := rd.bytes
          let why := dwCauses e r s.job.step (sdN sd) (e0 + n)
          match rd.bad with
          | some x => (s2.fbxFault q x).fbxEnd q c 0x12 FCount.none
          | none =>
          if why ≠ [] then s2.dwDiscard q c (pickOne why)
          else
            let inc := 1 - leAt r 8 4 % 2
            let (vs, b2, s3) := s2.readCodes (fcVec d) n 4
            let (hs, b3, s4) := s3.readCodes (sdHigh sd + inc * sdOff sd) (sdN sd) 2
            match firstBad b2 b3 with
            | some x => (s4.fbxFault q x).fbxEnd q c 0x12 FCount.none
            | none =>
              let ok := vs.zipIdx.filter fun p => (val32 p.1).isFin
              let kept := n - ok.length
              let s5 := s4.dwElems q sd e inc e0 ((leAt d 40 4).testBit 0) ok
              let s6 := s5.publish q sd inc (dwHighs e0 ok hs)
              let s7 := if kept = 0 then s6 else
                let t := (s6.count (F.FBX_NFELEM_VALUE q) kept).raise (F.FBX_EVENT_NFELEM q)
                match vs.findIdx? fun v => !(val32 v).isFin with
                | some x => t.errRecord .numerics 0 .firebox q (e0 + x + i * 2 ^ 32) Config.dwriteCause.toNat
                | none => t
              s7.fbxEnd q c 0 ⟨0, n, kept⟩
      | none, [] => s2

/-- R254: the NOP at the head of firebox q. -/
def State.fbxNop (s : State) (q : Nat) : State :=
  match s.fbxHead q 5 with
  | none => s.fbxMoves q
  | some c =>
    let s1 := s.startHead (fireboxQ q)
    if fbxCommonBad s1 c.bytes || leAt c.bytes 8 4 != 0 || !zeroAt c.bytes 24 20 then (s1.fbxReject q c).endHead (fireboxQ q)
    else s1.fbxEnd q c 0 FCount.none

/-- R279: an abort by tag. -/
def State.fbxAbort (s : State) (q tag : Nat) : State :=
  s.abortTag (fireboxQ q) tag fun t c => (t.fbxVoid q c).fbxEnd q c 0x11 FCount.none
/-- R252: the tail is written. -/
def State.fbxTail (s : State) (q v : Nat) : State := (s.set (F.FBX_QTAIL_TAIL q) v).advance (fireboxQ q)
/-- R280: QRESET. -/
def State.fbxQreset (s : State) (q : Nat) : State := s.queueReset (fireboxQ q) (s.inHand (fireboxQ q)).isNone
/-- R280: a write of FBX_CTRL. -/
def State.fbxCtrl (s : State) (q v : Nat) : State :=
  let s1 := s.set (F.FBX_CTRL_EN q) v
  (if v.testBit 1 then s1.fbxQreset q else s1).advance (fireboxQ q)

/-- R275: the journal changes of the parameter tables at the end of step n. The tables are device-wide: window 0 names
them. -/
def State.fbxEnter (s : State) (n : Nat) : State :=
  let s1 := s.each (List.range (min 4096 (s.get (F.FBX_NSHARD_COUNT 0)))) fun t i =>
    let a := t.shardRec 0 i
    let rd := t.read a 64
    let r := rd.bytes
    match rd.bad with
    | some x => rd.st.fbxFault 0 x
    | none =>
      if leAt r 48 8 = n ∧ (leAt r 40 4).testBit 2 then
        let t1 := rd.st.journal (a + 8) (1 - leAt r 8 4 % 2) 1
        (t1.journalWord a (n % 2 ^ 32)).journalWord (a + 4) (n / 2 ^ 32 % 2 ^ 32)
      else rd.st
  let sels := s1.groupSels
  match sels.bad with
  | some x => sels.st.fbxFault 0 x
  | none => sels.st.each s1.folded fun t g =>
    t.journal (t.pair R.ERR_CBASE_LO + 96 + 4 * (g / 32)) ((1 - groupSel sels.bytes g) * 2 ^ (g % 32)) (2 ^ (g % 32))

end Sys2Proof.Machine
end

