-- ==== Sys2Proof/Machine/Collective.lean ====
section
/-! DEFINITION. The collective engines: commands, contributions, combining in tree order, results, acknowledgements,
restart (12_collectives_and_job_mapping.md R405 to R424, R436). The root multicasts its combined partial-sum blocks and
every member converts them (log 16). -/

namespace Sys2Proof.Machine

/-- Fields of a command (R406). -/
def ccSum (d : List Byte) : Nat := bitsOf (leAt d 0 4) 9 8
def ccCheck (d : List Byte) : Bool := (leAt d 0 4).testBit 10
def ccTree (d : List Byte) : Nat := leAt d 8 2
def ccRank (d : List Byte) : Nat := leAt d 10 2
def ccCount (d : List Byte) : Nat := leAt d 12 4
def ccSrc (d : List Byte) : Nat := leAt d 16 8
def ccDst (d : List Byte) : Nat := leAt d 24 8
def ccIn (d : List Byte) : FBlock := fblockAt d 32
def ccOut (d : List Byte) : FBlock := fblockAt d 48
def ccLayer (d : List Byte) : Nat := leAt d 64 2
def ccSpark (d : List Byte) : Nat := leAt d 68 2
def ccRec (d : List Byte) : Nat := leAt d 72 8
def ccScale (d : List Byte) : FV := val32 (leAt d 96 4)
def ccWork (d : List Byte) : Nat := leAt d 104 8

/-- Engine q and its update. -/
def State.colOf (s : State) (q : Nat) : Col := s.col.look Col.reset q
def State.modCol (s : State) (q : Nat) (f : Col → Col) : State := { s with col := s.col.write Col.reset q (f (s.colOf q)) }
/-- The key of a tree in an epoch. -/
def treeKey (epoch tree : Nat) : Nat := epoch * 4096 + tree
/-- A tree node of engine q. -/
def State.node (s : State) (q k : Nat) : TNode := (s.colOf q).nodes.look TNode.empty k
def State.modNode (s : State) (q k : Nat) (f : TNode → TNode) : State :=
  s.modCol q fun c => { c with nodes := c.nodes.write TNode.empty k (f (c.nodes.look TNode.empty k)) }
/-- The operation of engine q that runs on a tree key, and whether it is the verdict. -/
def State.runOn (s : State) (q k : Nat) : Option (ColRun × Bool) :=
  match (s.colOf q).run, (s.colOf q).verdict with
  | some r, _ => if treeKey r.epoch r.tree = k then some (r, false) else (match (s.colOf q).verdict with
    | some v => if treeKey v.epoch v.tree = k then some (v, true) else none
    | none => none)
  | none, some v => if treeKey v.epoch v.tree = k then some (v, true) else none
  | none, none => none
/-- Updates the operation on a tree key. -/
def State.modOp (s : State) (q : Nat) (verdict : Bool) (f : ColRun → ColRun) : State :=
  s.modCol q fun c => if verdict then { c with verdict := c.verdict.map f } else { c with run := c.run.map f }

/-- What the record of a command reports beside its status (R424). -/
structure ColRec where
  flags : Nat
  vrank : Nat
  vlayer : Nat
  ranks : Nat
  raises : Nat
  nonfin : Nat
/-- The record fields of a command that combined nothing: no rank vetoed. -/
def ColRec.none : ColRec := ⟨0, 0x3FFF, 0, 0, 0, 0⟩

/-- R424: record, then spark; the engine cycles are a free value (log 6). -/
def State.colFinish (s : State) (q : Nat) (c : QCmd) (st : Nat) (r : ColRec) : State :=
  let (cyc, s1) := s.fresh 64
  (s1.writeRecord .collective q (ccRec c.bytes)
    (leBytes 4 c.tag ++ leBytes 1 st ++ leBytes 1 r.flags ++ leBytes 2 r.vrank ++ leBytes 2 r.vlayer ++ leBytes 2 0 ++
      leBytes 4 r.ranks ++ leBytes 4 r.raises ++ leBytes 4 r.nonfin ++ leBytes 8 cyc)).spark (ccSpark c.bytes) (some (qidCollective q))
/-- R408: a rejected command. -/
def State.colReject (s : State) (q : Nat) (c : QCmd) : State :=
  ((s.raise (F.COL_EVENT_REJECT q)).descRecord .collective q c.addr c.tag).colFinish q c 0x10 ColRec.none

/-- R418: a status payload. -/
def statusPack (veto part : Bool) (vrank vlayer ranks nonfin : Nat) : List Byte :=
  leBytes 2 ((if veto then 1 else 0) + (if part then 2 else 0)) ++ leBytes 2 vrank ++ leBytes 2 vlayer ++ leBytes 2 0 ++ leBytes 4 ranks ++
    leBytes 4 (min nonfin 0xFFFFFFFF) ++ leBytes 32 0
def stVeto (p : List Byte) : Bool := (leAt p 0 1).testBit 0
def stPartial (p : List Byte) : Bool := (leAt p 0 1).testBit 1
def stVrank (p : List Byte) : Nat := leAt p 2 2
def stVlayer (p : List Byte) : Nat := leAt p 4 2
def stRanks (p : List Byte) : Nat := leAt p 8 4
def stNonfin (p : List Byte) : Nat := leAt p 12 4
/-- R418: two statuses combine. -/
def statusAdd (a b : List Byte) : List Byte :=
  let fst := decide (stVrank a ≤ stVrank b)
  statusPack (stVeto a || stVeto b) (stPartial a || stPartial b) (min (stVrank a) (stVrank b)) (if fst then stVlayer a else stVlayer b)
    (stRanks a + stRanks b) (stNonfin a + stNonfin b)

/-- A BFP22 block (R411): exponent, NaN mask, mantissas. -/
structure Bfp where
  x : Int
  nan : Nat
  m : List Int
/-- R411: the layout. -/
def Bfp.pack (b : Bfp) : List Byte :=
  leBytes 2 (ofSigned 16 b.x) ++ leBytes 2 b.nan ++ leBytes 44 (b.m.zipIdx.foldl (fun n (v, i) => n + ofSigned 22 v * 2 ^ (22 * i)) 0)
def Bfp.unpack (p : List Byte) : Bfp :=
  let n := leAt p 4 44
  ⟨toSigned 16 (leAt p 0 2), leAt p 2 2, (List.range 16).map fun i => toSigned 22 (n / 2 ^ (22 * i))⟩
/-- Division by a power of two, to nearest even. -/
def divPow2 (m : Int) (k : Int) : Int := roundInt ((FV.ofInt m).scale2 (-k))
/-- R412: the encoding of a block of decoded elements. -/
def Bfp.encode (vs : List FV) : Bfp :=
  let nan := vs.zipIdx.foldl (fun n (v, i) => if v.isFin then n else n + 2 ^ i) 0
  match vs.foldl maxMag none with
  | none => ⟨-32768, nan, List.replicate 16 0⟩
  | some b =>
    if b.isZero then ⟨-32768, nan, List.replicate 16 0⟩
    else
      let x := b.log2Floor - 17
      ⟨x, nan, (List.range 16).map fun i =>
        let v := vs.getD i FV.zero
        if v.isFin then roundInt (v.scale2 (-x)) else 0⟩
/-- R413: two blocks combine; whether the exponent was raised. -/
def Bfp.add (a b : Bfp) : Bfp × Bool :=
  let x := max a.x b.x
  let nan := a.nan ||| b.nan
  let m := (List.range 16).map fun i => divPow2 (a.m.getD i 0) (x - a.x) + divPow2 (b.m.getD i 0) (x - b.x)
  -- an element flagged in NANMASK holds zero (R411)
  let clean (l : List Int) := l.zipIdx.map fun (v, i) => if nan.testBit i then 0 else v
  if m.any fun v => decide (2 ^ 21 - 1 < v.natAbs) then (⟨x + 1, nan, clean (m.map fun v => divPow2 v 1)⟩, true) else (⟨x, nan, clean m⟩, false)

/-- R417: block i of the norm vector combines. -/
def normAdd (i : Nat) (a b : List Byte) : List Byte :=
  let w (j : Nat) : List Byte := leBytes 8 (bits64 (fmt64.add (val64 (leAt a (8 * j) 8)) (val64 (leAt b (8 * j) 8))))
  if i = 0 then
    leBytes 2 ((leAt a 0 1 ||| leAt b 0 1) % 2) ++ leBytes 2 (min (leAt a 2 2) (leAt b 2 2)) ++ leBytes 12 0 ++ (List.range 4).flatMap fun j => w (j + 2)
  else if i = 128 then (List.range 2).flatMap w ++ leBytes 32 0
  else (List.range 6).flatMap w

/-- What combining two data blocks gives: the block, raises, additions that overflowed. -/
structure Comb where
  p : List Byte
  raises : Nat
  nonfin : Nat
/-- R413, R416, R417: data block i of an operation: running result and next contribution. -/
def combine2 (d : List Byte) (i : Nat) (a b : List Byte) : Comb :=
  if leAt d 0 1 = 3 then ⟨normAdd i a b, 0, 0⟩
  else if ccSum d = 0 then
    let (r, up) := (Bfp.unpack a).add (Bfp.unpack b)
    ⟨r.pack, if up then 1 else 0, 0⟩
  else
    let vs := (List.range 12).map fun j =>
      let x := val32 (leAt a (4 * j) 4)
      let y := val32 (leAt b (4 * j) 4)
      (fmt32.add x y, x.isFin && y.isFin)
    ⟨vs.flatMap fun v => leBytes 4 (bits32 v.1), 0, (vs.filter fun v => v.2 && !v.1.isFin).length⟩

/-- Elements in one block (R411, R416). -/
def blockElems (d : List Byte) : Nat := if ccSum d = 0 then 16 else 12
/-- Data blocks of a command. -/
def ccBlocks (d : List Byte) : Nat := if leAt d 0 1 = 3 then 129 else ceilDiv (ccCount d) (blockElems d)

/-- R408: the rules that every opcode shares. -/
def colCommonBad (s : State) (d : List Byte) : Bool :=
  let r := ccRec d
  leAt d 0 4 / 2 ^ 11 != 0 || bitsOf (ccSpark d) 14 12 != 0 || bitsOf (leAt d 70 2) 14 12 != 0 || !zeroAt d 93 3 || !zeroAt d 100 4 ||
  !zeroAt d 112 16 || (r != 0 && !s.recAddrOk r)

/-- R408: whether an ALLREDUCE, REDUCE or NORM is rejected. -/
def colBad (s : State) (q : Nat) (d : List Byte) : Bool :=
  let op := leAt d 0 1
  let e := s.treeEntry s.epoch (ccTree d)
  let f := ccIn d
  let g := ccOut d
  let n := ccCount d
  let chk := leAt d 88 1
  colCommonBad s d || decide (4095 < ccTree d) || decide (16383 < ccRank d) || !zeroAt d 66 2 || decide (16 < chk) ||
  leAt d 90 2 == 0 || decide (256 < leAt d 90 2) || leAt d 92 1 == 0 || decide (10 < leAt d 92 1) ||
  addrBad (ccSrc d) || addrBad (ccDst d) || (op == 2 && treeParent e != 12 && ccDst d != 0) ||
  ccWork d % 64 != 0 || !s.correctedComb (ccWork d) 196608 ||
  (ccCheck d && chk == 0) || (!ccCheck d && (chk != 0 || leAt d 80 8 != 0)) || leAt d 80 8 % 8 != 0 || inFar (leAt d 80 8) ||
  (if op = 3 then n != 0 || !f.isZero || !g.isZero || ccSum d != 0 || leAt d 96 4 != 0
   else n == 0 || decide (2 ^ 31 ≤ n) || decide (2 ≤ ccSum d) || decide (f.elem = 0) || decide (5 < f.elem) || f.bad (f.grid .out 1 n).2 || inFar f.base ||
     !(g.elem == 1 || g.elem == 2 || g.elem == 3) || decide (1 < g.scale) || (g.scale == 1 && g.sdir != 0) || g.bad (g.grid .out 1 n).2 || inFar g.base ||
     !(ccScale d).isFin) ||
  !s.treeOk s.epoch (ccTree d) || treeEngine e != q

/-- R424: an aborted command leaves its result region undefined; the REDUCE of a node that is not the root has none. -/
def State.colRegion (s : State) (q : Nat) (d : List Byte) : State :=
  let (bs, t) := s.freshBytes (if leAt d 0 1 = 3 then 6160 else ccCount d * elemBytes (ccOut d).elem)
  t.unitWrite .collective q (ccDst d) bs
/-- R424, R456: a queued command ends ABORTED: its result region is undefined. -/
def State.colVoid (s : State) (q : Nat) (c : QCmd) : State :=
  let root := treeParent (s.treeEntry s.epoch (ccTree c.bytes)) == 12
  if c.op = 1 ∨ c.op = 3 ∨ (c.op = 2 ∧ root) then (if colBad s q c.bytes then s else s.colRegion q c.bytes) else s

/-- The command queue of engine q (R405). -/
def colQ (q : Nat) : QI where
  kind := .collective
  unit := q
  qid := some (qidCollective q)
  slotBytes := 128
  depth := 1
  base := R.COL_QBASE_LO q
  size := F.COL_QSIZE_ENTRIES q
  head := F.COL_QHEAD_HEAD q
  tail := F.COL_QTAIL_TAIL q
  res := F.COL_ABORT_RES_RESULT q
  evAborted := F.COL_EVENT_ABORTED q
  evReject := some (F.COL_EVENT_REJECT q)
  cap := 4096
  en := fun t => t.on (F.COL_CTRL_EN q)
  empties := true
  bar := fun b => leAt b 70 2
  known := fun o => decide (1 ≤ o) && decide (o ≤ 4)
  grab := plainGrab
  finish := fun t c st => t.colFinish q c st ColRec.none
  reject := fun t c => t.colReject q c
  void := fun t c => t.colVoid q c

/-- What reading a contribution gives: its blocks, non-finite elements, whether it vetoes, the error. -/
structure Contrib where
  blocks : List (List Byte)
  nonfin : Nat
  veto : Bool
  bad : Option (Nat × Nat)
  st : State

/-- R412, R416: the local contribution of an ALLREDUCE or REDUCE. A decoded value that binary32 does not hold is free
under SUM 1 (log 13). -/
def State.contribution (s : State) (d : List Byte) : Contrib :=
  let f := ccIn d
  let n := ccCount d
  let w := elemBytes f.elem
  let r := s.read (ccSrc d) (n * w)
  let g := f.grid .out 1 n
  let z := if f.scale = 0 then (⟨[], none, r.st⟩ : MRd) else r.st.readMat f.base f.pitch g.1 g.2 1
  let vs := (codesOf w r.bytes n).zipIdx.map fun (c, i) =>
    let cell := f.cell .out 0 i
    plusZero (decodeScaled f c (matAt z.rows 0 cell.1 cell.2))
  let nf := (vs.filter fun v => !v.isFin).length
  let be := blockElems d
  let (bs, s1) := (List.range (ccBlocks d)).foldl (fun (acc : List (List Byte) × State) b =>
    let xs := (vs.drop (b * be)).take be
    if ccSum d = 0 then (acc.1 ++ [(Bfp.encode xs).pack], acc.2)
    else
      let (ws, t) := xs.foldl (fun (a : List Nat × State) v =>
        let (c, u) := a.2.widen32 v
        (a.1 ++ [c], u)) ([], acc.2)
      (acc.1 ++ [(ws.flatMap fun c => leBytes 4 c) ++ List.replicate (48 - 4 * ws.length) 0], t)) ([], z.st)
  ⟨bs, nf, nf != 0, firstBad r.bad z.bad, s1⟩

/-- R417, R419: the local contribution of a NORM. -/
def State.normContribution (s : State) (d : List Byte) : Contrib :=
  let r := s.read (ccSrc d) 6160
  let nf := ((List.range 768).filter fun i => !(val64 (leAt r.bytes (16 + 8 * i) 8)).isFin).length
  ⟨(List.range 129).map fun b => let p := (r.bytes.drop (48 * b)).take 48; p ++ List.replicate (48 - p.length) 0, nf,
   nf != 0 || (leAt r.bytes 0 1).testBit 0, r.bad, r.st⟩

/-- R419: whether a record of the check list reports non-finite elements. -/
def State.checkList (s : State) (d : List Byte) : Bool × Option (Nat × Nat) × State :=
  if !ccCheck d then (false, none, s)
  else
    let r := s.read (leAt d 80 8) (8 * leAt d 88 1)
    (codesOf 8 r.bytes (leAt d 88 1)).foldl (fun (acc : Bool × Option (Nat × Nat) × State) a =>
      let t := acc.2.2.read (a + 12) 4
      (acc.1 || leNat t.bytes != 0, firstBad acc.2.1 t.bad, t.st)) (false, r.bad, r.st)

/-- A packet of a tree: REDUCE or MCAST, index i (R378, R421). It starts at its tree leg. -/
def treePacket (type epoch tree i : Nat) (payload : List Byte) : List Byte :=
  mkPacket [13] type epoch 0 1 0 (i % 256) (tree + i / 256 % 16 * 4096) payload
/-- R421, R589: an acknowledgement of a chunk to the child behind a port. -/
def State.treeAckTo (s : State) (epoch tree chunk port : Nat) : State :=
  s.sendOn port (mkPacket [BitVec.ofNat 8 port, 12] 4 epoch (Config.jobNeighbour s.job.jrec port).toNat 2 (0xF000 + tree) 0 (chunk % 2 ^ 16) [])

/-- The sources that a node combines, in order (R409): the local one, then the children that are not fenced. -/
def State.sources (s : State) (e : Nat) : List Nat := (if treeLocal e then [12] else []) ++ s.awaited e
/-- The engine, key and entry of a tree in an epoch. -/
def State.treeAt (s : State) (k : Nat) : Nat := s.treeEntry (k / 4096) (k % 4096)

/-- R420, R415: what a member writes at its result base. -/
def resultBytes (d : List Byte) (n : Nat) (blk : Nat → List Byte) : List Nat × List (List Nat) × Bool :=
  let f := ccOut d
  let be := blockElems d
  let vs : List FV := (List.range n).map fun i =>
    let p := blk (i / be)
    if ccSum d = 0 then
      let b := Bfp.unpack p
      if b.nan.testBit (i % 16) then .nan else ((FV.ofInt (b.m.getD (i % 16) 0)).scale2 b.x).mul (ccScale d)
    else fmt32.mul (val32 (leAt p (4 * (i % 12)) 4)) (ccScale d)
  let scs := if f.scale = 0 then [] else
    [(List.range (f.grid .out 1 n).2).map fun b => freeRowScale f (((vs.drop (b * f.blockLen)).take f.blockLen).foldl maxMag none)]
  let cs := vs.zipIdx.map fun (v, i) =>
    -- an E8M0 scale and TEXP are powers of two, so the quotient is exact and one rounding is made
    let e : Int := if f.scale = 0 then 0 else (matAt scs 0 0 (i / f.blockLen) : Nat) - (127 : Int)
    convFast f.elem (v.scale2 (-(e + f.texp)))
  (cs.map (·.bits), scs, cs.any (·.ovf))

/-- R407, R415, R420: a member writes the result, or under a veto the canonical NaN and an undefined rest. Answers
whether a conversion saturated. -/
def State.writeResult (s : State) (q : Nat) (r : ColRun) (veto : Bool) : Bool × State :=
  let d := r.cmd.bytes
  if !r.writes then (false, s)
  else if leAt d 0 1 = 3 then
    (false, s.unitWrite .collective q (ccDst d) (((List.range 129).flatMap fun i => r.res.look [] i).take 6160))
  else
    let f := ccOut d
    let w := elemBytes f.elem
    let n := ccCount d
    let g := f.grid .out 1 n
    if veto then
      let (bs, s1) := s.freshBytes ((n - 1) * w)
      let (zs, s2) := s1.freshBytes (if f.scale = 0 then 0 else g.2)
      let s3 := s2.unitWrite .collective q (ccDst d) (leBytes w (convFast f.elem .nan).bits ++ bs)
      (false, if f.scale = 0 then s3 else s3.unitWrite .collective q f.base zs)
    else
      let (cs, scs, o) := resultBytes d n fun b => r.res.look [] b
      let s1 := s.unitWrite .collective q (ccDst d) (cs.flatMap fun v => leBytes w v)
      (o, if f.scale = 0 then s1 else s1.writeMat .collective q f.base f.pitch 1 scs)

/-- The verdict's result (R520): whether it ended DONE, and the sums. -/
def State.verdictEnds (s : State) (st : Nat) (r : ColRun) : State :=
  let p := r.res.look [] 0
  { s with job := { s.job with result := some (st, (List.range 12).map fun j => (roundInt (val32 (leAt p (4 * j) 4))).toNat) } }

/-- R423, R424: an operation ends with its combined status. -/
def State.colEnd (s : State) (q : Nat) (verdict : Bool) (r : ColRun) (p : List Byte) : State :=
  let k := treeKey r.epoch r.tree
  let veto := stVeto p
  let st := if veto then 2 else if stPartial p then 1 else 0
  let s1 := if stPartial p then (s.raise (F.COL_EVENT_INCOMPLETE q)).count (F.COL_INCOMPL_VALUE q) 1 else s
  let s2 := if veto then
      (((s1.raise (F.COL_EVENT_VETO q)).set (F.COL_VETO_RANK q) (stVrank p)).raise (F.COL_VETO_VALID q)).set (F.COL_VETOLAYER_LAYER q) (stVlayer p)
    else s1
  if verdict then
    let s3 := s2.verdictEnds st r
    (s3.modCol q fun c => { c with verdict := none }).modNode q k fun n => { TNode.empty with kept := n.kept, acked := n.acked, early := n.early }
  else
    let (o, s3) := s2.writeResult q r veto
    let s4 := if o then s3.raise (F.COL_EVENT_OUT_SAT q) else s3
    let nd := s4.node q k
    let fin := s4.endStatus .collective q st
    let s5 := ((if fin = 0x12 then s4.raise (F.COL_EVENT_MEMERR q) else s4).modCol q fun c => { c with run := none }).modNode q k fun n => { TNode.empty with kept := n.kept, acked := n.acked, early := n.early }
    (s5.colFinish q r.cmd fin ⟨(if o then 1 else 0) + (if r.restarted then 2 else 0), if veto then stVrank p else 0x3FFF, stVlayer p, stRanks p, nd.raises, stNonfin p⟩).endHead (colQ q)

/-- Index of a packet from the next index that is expected (R421): `nb` names the status, none for a node that runs no
operation. A first packet of a chunk that is not expected is a restart (R422). -/
def packetIndex (e : Nat) (nb : Option Nat) (w : Nat) : Option Nat :=
  match nb with
  | none => some (e + (w + 4096 - e % 4096) % 4096)
  | some n =>
    if e % 4096 = w then some e
    else if n % 4096 = w then some n
    else if w % 256 = 0 ∧ (e % 4096 + 4096 - w) % 4096 ≤ e then some (e - (e % 4096 + 4096 - w) % 4096)
    else none
/-- The wire index of a tree packet, modulo 4,096. -/
def pktWire (pkt : List Byte) : Nat := pktAux pkt / 4096 * 256 + pktSeq pkt

/-- R410, R420: a REDUCE packet reaches the engine that its tree entry names. -/
def State.reduceIn (s : State) (q k port : Nat) (pkt : List Byte) : State :=
  let e := s.treeAt k
  let run := s.runOn q k
  if run.isNone ∧ (treeLocal e ∨ treeParent e = 12) then s.modNode q k fun n => { n with early := n.early ++ [(port, pkt)] }
  else
    let n := s.node q k
    match packetIndex (n.expect.look 0 port) (run.map (·.1.nb)) (pktWire pkt) with
    | none => s
    | some i =>
      let s1 := s.modNode q k fun n => { n with expect := n.expect.write 0 port (i + 1) }
      let p := pktPayload pkt
      match run with
      | some (r, _) =>
        if i < n.next then s1
        else if i = r.nb ∧ stVeto p ∧ leAt r.cmd.bytes 0 1 ≠ 3 then
          s1.modNode q k fun n => { n with stopped := true, next := max n.next r.nb, contrib := n.contrib.write [] (port * 2 ^ 32 + i) p }
        else if n.stopped ∧ i < r.nb then (if i % 256 = 255 then s1.treeAckTo r.epoch r.tree (i / 256) port else s1)
        else s1.modNode q k fun n => { n with contrib := n.contrib.write [] (port * 2 ^ 32 + i) p }
      | none => s1.modNode q k fun n => { n with contrib := n.contrib.write [] (port * 2 ^ 32 + i) p }

/-- R405, R407, R419, R420: a command starts on its tree: the local contribution enters the node, and packets that came
early are taken. -/
def State.colLaunch (s : State) (q : Nat) (verdict : Bool) (r : ColRun) (dataToo : Bool) : State :=
  let k := treeKey r.epoch r.tree
  let s1 := s.modCol q fun c => if verdict then { c with verdict := some r } else { c with run := some r }
  let early := (s1.node q k).early
  let blocks := r.own.zipIdx.filter fun p => dataToo || p.2 == r.nb
  let s2 := s1.modNode q k fun _ =>
    { TNode.empty with stopped := !dataToo, next := if dataToo then 0 else r.nb, contrib := blocks.foldl (fun m p => m.write [] (12 * 2 ^ 32 + p.2) p.1) [] }
  s2.each early fun t p => t.reduceIn q k p.1 p.2

/-- R407, R408: the head command of opcode `op` starts, or is rejected, or ends on an uncorrectable read. An operation
whose tree still waits for acknowledgements of the one before does not start (R421). -/
def State.colStart (s : State) (q op : Nat) : State :=
  let Q := colQ q
  if !s.qOn Q then s
  else
    match s.readyHead Q with
    | none => s
    | some c =>
      let d := c.bytes
      if c.op ≠ op then s.headMoves Q
      else if colBad s q d then ((s.startHead Q).colReject q c).endHead Q
      else
        let k := treeKey s.epoch (ccTree d)
        if !(s.node q k).kept.isEmpty ∨ (s.runOn q k).isSome ∨ s.switchHold then s
        else
          let s1 := (s.startHead Q).noteInjection
          let e := s1.treeEntry s1.epoch (ccTree d)
          let nb := ccBlocks d
          let ct : Contrib := if !treeLocal e then ⟨[], 0, false, none, s1⟩ else if op = 3 then s1.normContribution d else s1.contribution d
          let (chk, cb, s2) := ct.st.checkList d
          match firstBad ct.bad cb with
          | some (a, dec) => (((s2.raise (F.COL_EVENT_MEMERR q)).memFault .collective q a dec).colFinish q c 0x12 ColRec.none).endHead Q
          | none =>
            let veto := ct.veto || chk
            let own := if treeLocal e then ct.blocks ++ [statusPack veto false (if veto then ccRank d else 0x3FFF) (if veto then ccLayer d else 0) 1 ct.nonfin] else []
            let root := treeParent e == 12
            let r : ColRun := { cmd := c, tree := ccTree d, epoch := s2.epoch, nb := nb, writes := op != 2 || root, root := root, own := own, res := [], rnext := 0, sent := none, restarted := false }
            s2.colLaunch q false r (op == 3 || !(ccCheck d && veto && treeLocal e))

/-- R407: the NOP at the head of engine q. -/
def State.colNop (s : State) (q : Nat) : State :=
  let Q := colQ q
  if !s.qOn Q then s
  else
    match s.readyHead Q with
    | none => s
    | some c =>
      let d := c.bytes
      if c.op ≠ 4 then s.headMoves Q
      else
        let s1 := s.startHead Q
        if colCommonBad s1 d || leAt d 0 4 / 2 ^ 8 != 0 || !zeroAt d 8 60 || !zeroAt d 80 32 then (s1.colReject q c).endHead Q
        else (s1.colFinish q c 0 ColRec.none).endHead Q

/-- Whether the node of key k of engine q can combine, and its next index (R410, R421). -/
def State.combinable (s : State) (q k : Nat) : Option (Nat × List Nat) :=
  let e := s.treeAt k
  let n := s.node q k
  let src := s.sources e
  let root := treeParent e == 12
  if !treeValid e || src.isEmpty || (!root && decide (n.acked + 16 ≤ n.next / 256)) then none
  else
    match s.runOn q k with
    | some (r, _) =>
      if r.nb < n.next ∨ r.sent.isSome then none
      else if src.all fun p => n.contrib.any fun c => c.1 == p * 2 ^ 32 + n.next then some (n.next, src) else none
    | none =>
      if treeLocal e || root then none
      else
        -- a relay: the lowest index that every child has given
        match src with
        | [] => none
        | p :: _ =>
          match (n.contrib.filter fun c => c.1 / 2 ^ 32 == p).find? fun c => src.all fun o => n.contrib.any fun x => x.1 == o * 2 ^ 32 + c.1 % 2 ^ 32 with
          | some c => some (c.1 % 2 ^ 32, src)
          | none => none

/-- R418, R423: the status that the node sends on: PARTIAL where a child is fenced, and its own overflowed additions. -/
def State.nodeStatus (s : State) (e : Nat) (n : TNode) (p : List Byte) : List Byte :=
  statusPack (stVeto p) (stPartial p || decide ((s.awaited e).length < (treePorts e).length)) (stVrank p) (stVlayer p) (stRanks p) (stNonfin p + n.nonfin)

/-- R410, R413, R416 to R421: a node of engine q combines its next block, sends it on, and acknowledges a chunk that is
complete. -/
def State.combineAt (s : State) (q k i : Nat) (src : List Nat) : State :=
  let e := s.treeAt k
  let epoch := k / 4096
  let tree := k % 4096
  let n := s.node q k
  let got (p : Nat) : List Byte := n.contrib.look [] (p * 2 ^ 32 + i)
  let first := got (src.headD 12)
  let rest := src.drop 1
  let clear (s : State) : State := s.modNode q k fun n => { n with contrib := n.contrib.filter fun c => c.1 % 2 ^ 32 != i, next := i + 1 }
  match s.runOn q k with
  | none =>
    let (p, s1) := if rest.isEmpty then (first, s) else s.freshBytes 48
    ((clear s1).modNode q k fun n => { n with kept := n.kept ++ [(i, p)] }).sendOn (treeParent e) (treePacket 2 epoch tree i p)
  | some (r, v) =>
    let d := r.cmd.bytes
    let isSt := i == r.nb
    let c : Comb := if isSt then ⟨s.nodeStatus e n (rest.foldl (fun a p => statusAdd a (got p)) first), 0, 0⟩
      else rest.foldl (fun (a : Comb) p => let b := combine2 d i a.p (got p); ⟨b.p, a.raises + b.raises, a.nonfin + b.nonfin⟩) ⟨first, 0, 0⟩
    let s1 := (clear s).modNode q k fun n => { n with raises := n.raises + c.raises, nonfin := n.nonfin + c.nonfin }
    let s2 := if c.raises = 0 then s1 else (s1.count (F.COL_RAISES_VALUE q) c.raises).raise (F.COL_EVENT_RAISE q)
    let s3 := if isSt && stVeto c.p then s2.raise (F.COL_EVENT_VETO q) else s2
    let done := isSt || i % 256 == 255
    let ack (t : State) : State := if done then t.each (s.awaited e) fun u p => u.treeAckTo epoch tree (i / 256) p else t
    if r.root then
      let s4 := if leAt d 0 1 = 2 then s3 else s3.each (treePorts e) fun t p => t.sendOn p (treePacket 1 epoch tree i c.p)
      let s5 := ack (s4.modOp q v fun r => { r with res := r.res.write [] i c.p })
      if isSt then s5.colEnd q v { r with res := r.res.write [] i c.p } c.p else s5
    else
      -- the chunk is kept in the work region until its parent acknowledges it; the layout there is free (log 6)
      let (bs, s4) := s3.freshBytes 48
      let s5 := if v then s4 else s4.unitWrite .collective q (ccWork d + i / 256 % 16 * 12288 + i % 256 * 48) bs
      let s6 := (s5.modNode q k fun n => { n with kept := n.kept ++ [(i, c.p)] }).sendOn (treeParent e) (treePacket 2 epoch tree i c.p)
      ack (if isSt then s6.modOp q v fun r => { r with sent := some c.p } else s6)

/-- R410: engine q combines the next complete block of a tree. -/
def State.blockCombine (s : State) (q : Nat) : State :=
  if !s.clocked then s
  else
    match ((s.colOf q).nodes.map (·.1)).findSome? fun k => (s.combinable q k).map fun x => (k, x.1, x.2) with
    | some (k, i, src) => s.combineAt q k i src
    | none => s

/-- R419, R420: a multicast block of a running ALLREDUCE or NORM arrives at a member. -/
def State.resultIn (s : State) (q : Nat) (v : Bool) (r : ColRun) (pkt : List Byte) : State :=
  match packetIndex r.rnext (some r.nb) (pktWire pkt) with
  | none => s
  | some i =>
    let r1 := { r with res := r.res.write [] i (pktPayload pkt), rnext := i + 1 }
    let s1 := s.modOp q v fun _ => r1
    if i = r.nb then s1.colEnd q v r1 (pktPayload pkt) else s1

/-- R421, R422: an acknowledgement of a chunk from the parent of a tree node. A relay passes it on to its children. -/
def State.treeAckIn (s : State) (q k chunk : Nat) : State :=
  let e := s.treeAt k
  let n := s.node q k
  let relay := (s.runOn q k).isNone && !treeLocal e
  if relay then
    match (n.kept.reverse.find? fun b => b.1 / 256 % 16 == chunk % 16) with
    | some b =>
      (s.modNode q k fun n => { n with kept := n.kept.filter fun x => decide (b.1 < x.1), acked := b.1 / 256 + 1 }).each (s.awaited e) fun t p =>
        t.treeAckTo (k / 4096) (k % 4096) chunk p
    | none => s
  else
    match n.kept.find? fun b => b.1 / 256 % 2 ^ 16 == chunk with
    | none => s
    | some b =>
      let c := b.1 / 256
      let s1 := s.modNode q k fun n => { n with kept := n.kept.filter fun x => decide (c < x.1 / 256), acked := c + 1 }
      match s1.runOn q k with
      | some (r, v) =>
        -- a REDUCE ends at a device that is not the root once all it sent is acknowledged
        match r.sent with
        | some p => if leAt r.cmd.bytes 0 1 = 2 ∧ (s1.node q k).kept.isEmpty then s1.colEnd q v r p else s1
        | none => s1
      | none => if (s1.node q k).kept.isEmpty then s1.modNode q k fun n => { TNode.empty with early := n.early } else s1

/-- R422: after an emergency switch every node of engine q restarts from its lowest chunk that is not acknowledged, in the
new epoch. -/
def State.colRestart (s : State) (q : Nat) : State :=
  let old := (s.colOf q).nodes
  let epoch := s.epoch
  let s0 := s.modCol q fun c => { c with nodes := [], run := c.run.map fun r => { r with epoch := epoch, restarted := true }, verdict := c.verdict.map fun r => { r with epoch := epoch, restarted := true } }
  let s1 := if (s.colOf q).run.isSome || (s.colOf q).verdict.isSome then s0.raise (F.COL_EVENT_RESTART q) else s0
  s1.each old fun t kn =>
    let tree := kn.1 % 4096
    let n := kn.2
    let k := treeKey epoch tree
    let e := t.treeAt k
    match t.runOn q k with
    | none => (t.modNode q k fun _ => { n with contrib := [], early := [] }).each n.kept fun u b => u.sendOn (treeParent e) (treePacket 2 epoch tree b.1 b.2)
    | some (r, _) =>
      let at0 := if r.nb < n.next then n.next else if n.stopped then r.nb else n.next / 256 * 256
      let kept := n.kept.filter fun b => decide (b.1 < at0)
      let own := r.own.zipIdx.filter fun p => decide (at0 ≤ p.2)
      let n1 : TNode := { n with next := at0, contrib := own.foldl (fun m p => m.write [] (12 * 2 ^ 32 + p.2) p.1) [], expect := (treePorts e).foldl (fun m p => m.write 0 p at0) [], kept := kept, early := [] }
      let t1 := (t.modNode q k fun _ => n1).each kept fun u b => u.sendOn (treeParent e) (treePacket 2 epoch tree b.1 b.2)
      if r.root ∧ leAt r.cmd.bytes 0 1 ≠ 2 then
        t1.each (r.res.filter fun b => decide (b.1 < at0)) fun u b => u.each (treePorts e) fun w p => w.sendOn p (treePacket 1 epoch tree b.1 b.2)
      else t1

/-- R424: the command in progress is aborted; its result region is undefined. -/
def State.colStop (s : State) (q : Nat) (c : QCmd) : State :=
  match (s.colOf q).run with
  | none => s
  | some r =>
    let s1 := s.modCol q fun c => { c with run := none, nodes := c.nodes.drop (treeKey r.epoch r.tree) }
    let s2 := if r.writes then s1.colRegion q c.bytes else s1
    (s2.colFinish q c 0x11 ColRec.none).endHead (colQ q)
/-- R424, R455 to R458: an abort by tag. -/
def State.colAbort (s : State) (q tag : Nat) : State := s.abortTag (colQ q) tag fun t c => t.colStop q c
/-- R405: the tail is written. -/
def State.colTail (s : State) (q v : Nat) : State := (s.set (F.COL_QTAIL_TAIL q) v).advance (colQ q)
/-- COL_STATUS.IDLE (R436); a head command that nothing holds counts as in progress (log 115). -/
def State.colIdle (s : State) (q : Nat) : Bool :=
  let c := s.colOf q
  c.run.isNone && c.verdict.isNone && (s.inHand (colQ q)).isNone && c.nodes.all fun k => k.2.kept.isEmpty
/-- R436: QRESET. -/
def State.colQreset (s : State) (q : Nat) : State := s.queueReset (colQ q) (s.colIdle q)
/-- R436: a write of COL_CTRL. -/
def State.colCtrl (s : State) (q v : Nat) : State :=
  let s1 := s.set (F.COL_CTRL_EN q) v
  (if v.testBit 1 then s1.colQreset q else s1).advance (colQ q)

end Sys2Proof.Machine
end

