-- ==== Sys2Proof/Machine/Flue.lean ====
section
/-! DEFINITION. The flue fabric: ports and lanes, the link layer, routing and delivery, streams, table commits and epoch
switches, frame marks, fences, notices, cartridges (11_flue_fabric.md R368 to R404, R586, R589, R592; 13 R451, R452;
16 R539). -/

namespace Sys2Proof.Machine

/-- The frame number (R393). -/
def State.frame (s : State) : Nat := s.pair R.FLU_FRAME_LO % 2 ^ 48
/-- The inactive table version. -/
def State.inactive (s : State) : Nat := 1 - s.epoch
/-- Sets the validity of a version, shown in FLU_STATUS. -/
def State.setValid (s : State) (v : Nat) (b : Bool) : State :=
  let s1 := { s with flue := { s.flue with valid0 := if v = 0 then b else s.flue.valid0, valid1 := if v = 1 then b else s.flue.valid1 } }
  s1.put F.FLU_STATUS_INACT_VALID (s1.verValid s1.inactive)
/-- R389: the image at an address is taken into the inactive version. -/
def State.commitFrom (s : State) (a : Nat) : State :=
  ({ s with flue := { s.flue with commit := some a } }.setValid s.inactive false).set F.FLU_STATUS_BUSY 1
/-- R389: a commit of the image at an address begins; one that runs goes on. -/
def State.commitStart (s : State) (a : Nat) : State := if s.on F.FLU_STATUS_BUSY then s else s.commitFrom a

/-- R389: whether a route entry breaks the rules of a commit: a reserved field, or code 14 or 15 in a leg before the leg
that ends the route. -/
def routeBad (e : Nat) : Bool :=
  let codes := (List.range 8).map fun i => e / 2 ^ (8 * i) % 16
  e / 2 ^ 80 != 0 || e.testBit 78 ||
  (codes.takeWhile fun c => !(c == 12 || c == 13)).any fun c => decide (14 ≤ c)
/-- R389: whether a tree entry has a reserved field set. -/
def treeBad (e : Nat) : Bool := bitsOf e 15 14 != 0 || bitsOf e 63 50 != 0 || e / 2 ^ 64 != 0

/-- R389: the commit ends. -/
def State.commitDone (s : State) : State :=
  match s.flue.commit with
  | none => s
  | some a =>
    let v := s.inactive
    let r := s.read a 131072
    let s1 := { r.st with flue := { r.st.flue with commit := none } }.set F.FLU_STATUS_BUSY 0
    match r.bad with
    | some (b, dec) => ((s1.setValid v false).raise F.FLU_EVENT_TBL_BAD).memFault .hob s.master b dec
    | none =>
      let es := codesOf 16 r.bytes 8192
      let keep := s1.flue.tables.filter fun e => e.1 / 8192 != v
      let new := es.zipIdx.foldl (fun t (e, i) => t.write 0 (v * 8192 + i) e) keep
      let bad := ((es.take 4096).any routeBad) || ((es.drop 4096).any treeBad)
      let s2 := { s1 with flue := { s1.flue with tables := new } }.setValid v (!bad)
      if bad then s2.raise F.FLU_EVENT_TBL_BAD else s2

/-- R390: whether step n is step `sw` or a later one, as 24-bit step numbers. -/
def stepFrom (sw n : Nat) : Bool := decide ((n % 2 ^ 24 + 2 ^ 24 - sw % 2 ^ 24) % 2 ^ 24 < 2 ^ 23)
/-- The epoch changes and the versions change roles. -/
def State.flip (s : State) : State :=
  let s1 := (s.set F.FLU_EPOCH_CUR (1 - s.epoch)).raise F.FLU_EVENT_SWITCHED
  s1.put F.FLU_STATUS_INACT_VALID (s1.verValid s1.inactive)
/-- R463, R393: the marks of the mark port are lost. -/
def State.marksLost (s : State) : State :=
  if s.on F.FLU_STATUS_MARKLOCK then
    let s1 := (s.set F.FLU_STATUS_MARKLOCK 0).raise F.CLK_EVENT_MARK_LOST
    if s1.get F.CLK_STATUS_SRC = 2 then s1.set F.CLK_STATUS_SRC 3 else s1
  else s

/-- R379: whether a packet's type exists and its class allows it. -/
def typeOk (pkt : List Byte) : Bool :=
  let c := pktClass pkt
  match pktType pkt with
  | 0 => c == 0 || c == 1
  | 1 => c == 1
  | 2 => c == 1
  | 3 => c == 2
  | 4 => c == 2
  | 5 => c == 2
  | _ => false
/-- A packet joins those that are delivered here. -/
def State.deliver (s : State) (port : Nat) (pkt : List Byte) : State :=
  { s with flue := { s.flue with deliver := s.flue.deliver ++ [(port, pkt)] } }
/-- Fabric version that a packet's epoch names; a packet of an Asivo port has none, the present one is used (R397). -/
def State.pktVersion (s : State) (port : Nat) (pkt : List Byte) : Nat :=
  if port < 12 ∧ s.get (F.FLU_P_CTRL_MODE port) = 2 then s.epoch else pktEpoch pkt

/-- R388, R589: a packet acts on the tree entry that its auxiliary field names. -/
def State.atTree (s : State) (port : Nat) (pkt : List Byte) : State :=
  let v := s.pktVersion port pkt
  let id := pktAux pkt % 4096
  let e := s.treeEntry v id
  let t := pktType pkt
  let k := treeKey v id
  let asivo (p : Nat) : Bool := s.get (F.FLU_P_CTRL_MODE p) == 2
  if !(t == 1 || t == 2) ∨ !s.treeOk v id then s.misroute port pkt
  else if t = 2 then
    if (port < 12 ∧ !(treePorts e).contains port) ∨ (treeParent e < 12 ∧ asivo (treeParent e)) then s.misroute port pkt
    else s.reduceIn (treeEngine e) k port pkt
  else
    let red : Bool := match s.runOn (treeEngine e) k with
      | some (r, _) => leAt r.cmd.bytes 0 1 == 2
      | none => false
    if (port < 12 ∧ treeParent e ≠ port) ∨ red ∨ (treePorts e).any asivo then s.misroute port pkt
    else s.deliver port pkt

/-- R382, R589: local delivery. -/
def State.deliverHere (s : State) (port : Nat) (pkt : List Byte) : State :=
  if pktDest pkt ≠ s.fnum then s.misroute port pkt
  else
    let t := pktType pkt
    let tag := pktTag pkt
    if t = 1 ∨ t = 2 then s.atTree port pkt
    else if t = 4 ∧ ¬ (tag < 4096 ∨ (0xF000 ≤ tag ∧ tag < 0x10000)) then s.misroute port pkt
    else s.deliver port pkt

/-- R381, R397: routing of one packet at this device; `port` 12: it originated here. -/
def State.route (s : State) (port : Nat) (pkt : List Byte) : State :=
  if port < 12 ∧ s.get (F.FLU_P_CTRL_MODE port) = 2 ∧ !asivoCarries pkt then s.misroute port pkt
  else
    let i := pktIdx pkt
    let (i1, pkt1) :=
      if port < 12 ∧ legCode pkt i ≠ 13 then
        (if legRun pkt i = 0 then (i + 1, pktSetIdx pkt (i + 1)) else (i, pktSetRun pkt i (legRun pkt i - 1)))
      else (i, pkt)
    if 8 ≤ i1 then s.misroute port pkt
    else
      let c := legCode pkt1 i1
      if c ≤ 11 then
        (if s.get (F.FLU_P_CTRL_MODE c) = 2 && !asivoCarries pkt1 then s.misroute port pkt else s.sendOn c pkt1)
      else if c = 12 then s.deliverHere port pkt1
      else if c = 13 then s.atTree port pkt1
      else s.misroute port pkt
/-- A packet that this device injects. -/
def State.inject (s : State) (pkt : List Byte) : State := s.noteInjection.route 12 pkt
/-- A packet on route `rid` of the present epoch: its legs, its destination and its epoch bit. -/
def State.onRoute (s : State) (rid : Nat) (pkt : List Byte) : List Byte :=
  let e := s.routeEntry s.epoch rid
  mkPacket (routeLegs e) (pktType pkt) s.epoch (routeDest e) (pktClass pkt) (pktTag pkt) (pktSeq pkt) (pktAux pkt) (pktPayload pkt)
/-- R390: what the hold kept back is injected in the present epoch. -/
def State.releaseInjections (s : State) : State :=
  if s.switchHold ∨ s.flue.waiting.isEmpty then s
  else
    let l := s.flue.waiting
    { s with flue := { s.flue with waiting := [] } }.each l fun t (w : Option Nat × List Byte) =>
      match w.1 with
      | some rid => t.inject (t.onRoute rid w.2)
      | none => t.inject (w.2.set 8 (BitVec.ofNat 8 ((w.2.getD 8 0).toNat % 128 + 128 * t.epoch)))
/-- R390: a write of FLU_EPOCH. A request that names a step whose first injection has been made is not taken. -/
def State.epochWrite (s : State) (v : Nat) : State :=
  let s1 := s.set F.FLU_EPOCH_SWSTEP (v / 2 ^ 8)
  let made : Bool := match s.flue.injected with
    | some n => s.jobEn && stepFrom (s1.get F.FLU_EPOCH_SWSTEP) n
    | none => false
  if !v.testBit 1 ∨ made then (s1.set F.FLU_EPOCH_PEND 0).releaseInjections else s1.set F.FLU_EPOCH_PEND 1
/-- R390, R391: the frame boundary at which a planned switch can happen. -/
def State.epochSwitch (s : State) : State :=
  let due := !s.jobEn || stepFrom (s.get F.FLU_EPOCH_SWSTEP) s.job.step
  if s.clocked && s.on F.FLU_EPOCH_PEND && s.verValid s.inactive && due then
    let s1 := ((s.set F.FLU_EPOCH_PEND 0).set F.FLU_EPOCH_OLDFREE 0).flip
    { s1 with flue := { s1.flue with dropOld := false, switchStep := s.get F.FLU_EPOCH_SWSTEP } }.releaseInjections
  else s

/-- R396: the switch cannot happen here: the step is vetoed and the job stops with LINK_LOST. -/
def State.linkLost (s : State) : State := (s.stopRecord .fabric .hob s.master 0 (fabD1 12 0xFF) .linkLost).veto
/-- R395 steps 1 and 3: a notice for a link is taken: the switch frame stands, and the fallback set is loaded, in place of
a planned commit that runs (log 122). -/
def State.takeNotice (s : State) (link fs : Nat) : State :=
  let s1 := ((s.raise F.FLU_EVENT_EMERG).set F.FLU_EPOCH_PEND 0).releaseInjections
  let s2 := { s1 with flue := { s1.flue with emergAt := some fs, notices := s1.flue.notices ++ [(link, fs)] } }
  match s2.flue.fallbacks.find? fun f => f.1 == link with
  | some f => s2.commitFrom f.2
  | none => s2.linkLost
/-- The live ports. -/
def State.livePorts (s : State) : List Nat := (List.range 12).filter s.portLive
/-- R395, R397: a NOTICE leaves on live native ports. -/
def State.flood (s : State) (ps : List Nat) (pkt : List Byte) : State :=
  s.each (ps.filter fun p => s.portLive p && s.get (F.FLU_P_CTRL_MODE p) != 2) fun t p => t.transmit p pkt
/-- R395: this device gives notice of the link behind port p. A link is named by fabric number and port. -/
def State.giveNotice (s : State) (p : Nat) : State :=
  let link := s.fnum * 16 + p
  let fs := (s.frame + s.get F.FLU_EMERG_LEAD) % 2 ^ 48
  let pkt := mkPacket [] 5 s.epoch 0 2 0 0 0 ((Config.noticePayload link fs).take 48)
  (s.flood (List.range 12) pkt).takeNotice link fs

/-- R373, R395: a port becomes DEAD. During a job an emergency switch starts. -/
def State.portDead (s : State) (p : Nat) : State :=
  let n := (s.port p).held.length
  let s1 := (((s.set (F.FLU_P_STATUS_STATE p) 4).raise (F.FLU_P_EVENT_DEAD p)).count (F.FLU_P_FENCEDROP_VALUE p) n).modPort p fun q =>
    { q with held := [], used := [], missing := [], reorder := [], replay := [] }
  let s2 := if s1.get F.FLU_STATUS_MARKPORT = p then s1.marksLost else s1
  if s2.jobEn then s2.giveNotice p else s2

/-- The CART payload in force (R495). -/
def State.cartRec (s : State) : List Byte := ((s.hob.recs.find? fun r => r.1 == 0x103).map (·.2.2)).getD []
/-- R399: minutes of a cartridge in the ember store. -/
def State.cartMinutes (s : State) (key : Nat) : Nat := ((s.ember.minutes.find? fun e => e.1 == key).map (·.2)).getD 0
/-- R399: the rated life of a cartridge in hours. -/
def State.ratedLife (s : State) (record : List Byte) : Nat := ((Config.cartLife s.cartRec record).map (·.toNat)).getD (s.get F.FLU_DEFLIFE_HOURS)
/-- R399, R400: life used of a cartridge, in whole percentages. -/
def State.lifeFloor (s : State) (record : List Byte) : Nat :=
  let m := s.cartMinutes (Config.cartKey record).toNat
  let r := s.ratedLife record
  if r = 0 then (Config.lifeUnrated m).toNat else m * 100 / (60 * r)
/-- R400, R403: life used as FLU_P_CART shows it; how it is rounded is open (log 30). -/
def State.lifePct (s : State) (record : List Byte) : Nat :=
  let m := s.cartMinutes (Config.cartKey record).toNat
  let r := s.ratedLife record
  min 127 (s.lifeFloor record + if r ≠ 0 ∧ m * 100 % (60 * r) ≠ 0 ∧ Config.lifeUp m r then 1 else 0)
/-- R400: whether the cartridge of port p has passed its rated life. -/
def State.worn (s : State) (p : Nat) : Bool :=
  match (s.port p).cart with
  | some record => (Config.cartKind record).toNat == 2 && decide (100 ≤ s.lifeFloor record)
  | none => false
/-- R592, R394, R400: the state of a trained port by its lanes, its fence and its cartridge's life. -/
def State.portUp (s : State) (p : Nat) : State :=
  let lanes := s.get (F.FLU_P_STATUS_LANES p)
  let asivo := s.get (F.FLU_P_CTRL_MODE p) == 2
  let full := if asivo then lanes % 256 == 255 else lanes == 511
  if (s.get F.FLU_FENCE_PORTS).testBit p then s.set (F.FLU_P_STATUS_STATE p) 5
  else (s.set (F.FLU_P_STATUS_STATE p) (if full && !s.worn p then 2 else 3)).flushPort p
/-- R592: training of a port starts: it carries no packet. -/
def State.trainPort (s : State) (p : Nat) : State :=
  let s1 := ((s.set (F.FLU_P_STATUS_STATE p) 1).set (F.FLU_P_STATUS_LANES p) 0).set (F.FLU_P_CTRL_RETRAIN p) 0
  let s2 := s1.modPort p fun q => { q with replay := [], nextSeq := 0, missing := [], reorder := [], used := [], retrain := false }
  if s2.get F.FLU_STATUS_MARKPORT = p then s2.marksLost else s2
/-- R592, R403, R404: a write of FLU_P_CTRL. A write that keeps MODE and sets RETRAIN asks for a retrain only. -/
def State.portCtrl (s : State) (p v : Nat) : State :=
  let m := v % 4
  let rt := v.testBit 2
  let s1 := if rt then (s.set (F.FLU_P_CTRL_RETRAIN p) 1).modPort p fun q => { q with retrain := true } else s
  if m = 3 ∨ (rt ∧ m = s.get (F.FLU_P_CTRL_MODE p)) then s1
  else
    let s2 := s1.set (F.FLU_P_CTRL_MODE p) m
    if m = 0 then
      let s3 := (((s2.set (F.FLU_P_STATUS_STATE p) 0).set (F.FLU_P_STATUS_LANES p) 0).set (F.FLU_P_CTRL_RETRAIN p) 0).modPort p fun q =>
        { q with retrain := false }
      if s3.get F.FLU_STATUS_MARKPORT = p then s3.marksLost else s3
    else s2.trainPort p
/-- R592, R371, R368: training ends with the lanes in service; an Asivo port has no ninth lane. Fewer than eight lanes do not
make a port. -/
def State.trainingDone (s : State) (p lanes0 rtt hop : Nat) : State :=
  let lanes := if s.get (F.FLU_P_CTRL_MODE p) = 2 then lanes0 % 256 else lanes0
  if s.portState p ≠ 1 then s
  else
    let s1 := ((s.set (F.FLU_P_STATUS_LANES p) lanes).set (F.FLU_P_RTT_RTT p) rtt).set (F.FLU_P_RTT_HOPSLOTS p) hop
    let n := ((List.range 9).filter fun l => lanes.testBit l).length
    let ok := if s.get (F.FLU_P_CTRL_MODE p) = 2 then lanes % 256 == 255 else decide (8 ≤ n)
    if ok then s1.portUp p else s1.portDead p
/-- R592: training times out. -/
def State.trainingTimeout (s : State) (p : Nat) : State := if s.portState p ≠ 1 then s else s.portDead p
/-- R371: a lane is lost or retired. The ninth lane rebuilds one lane of a native port; an Asivo port has none. -/
def State.laneLost (s : State) (p l : Nat) : State :=
  let lanes := s.get (F.FLU_P_STATUS_LANES p)
  if !lanes.testBit l ∨ !(s.portLive p || s.portState p == 5) then s
  else
    let s1 := (s.set (F.FLU_P_STATUS_LANES p) (lanes - 2 ^ l)).raise (F.FLU_P_EVENT_LANE_LOST p)
    if s.get (F.FLU_P_CTRL_MODE p) = 2 then (if l = 8 then s1 else s1.portDead p)
    else if lanes ≠ 511 then s1.portDead p
    else if s.portState p = 5 then s1
    else s1.set (F.FLU_P_STATUS_STATE p) 3
/-- R371: symbols that the decoder of port p corrected are counted: `least` of them, and a free number more (log 121). -/
def State.noteSymbols (s : State) (p least : Nat) : State :=
  let (n, s1) := s.fresh 4
  s1.count (F.FLU_P_FECCORR_VALUE p) (least + n)
/-- R371: the corrected symbols of a lane exceed FLU_P_LANETHR: they count, and the lane is retired as if lost. -/
def State.laneRetire (s : State) (p l : Nat) : State :=
  if (s.get (F.FLU_P_STATUS_LANES p)).testBit l && (s.portLive p || s.portState p == 5) then
    (s.noteSymbols p (s.get (F.FLU_P_LANETHR_COUNT p) + 1)).laneLost p l
  else s
/-- R373: uncorrectable codewords have lasted. -/
def State.deadTimeout (s : State) (p : Nat) : State := if s.portLive p then s.portDead p else s

/-- R374: packets of a codeword that cannot be decoded are asked for again, by a NAK for each. -/
def State.codewordBad (s : State) (p : Nat) (seqs : List Nat) : State :=
  if !s.portLive p then s
  else
    ((s.count (F.FLU_P_FECUNC_VALUE p) 1).modPort p fun q => { q with missing := q.missing ++ seqs.filter fun n => !q.missing.contains n }).each
      seqs fun t n => t.linkCtl p (.nak n)
/-- R374, R375: a NAK arrives at the sender. -/
def State.nakIn (s : State) (p seq : Nat) : State :=
  if !s.portLive p then s
  else
    match (s.port p).replay.find? fun e => e.1 == seq with
    | some e =>
      let s1 := s.count (F.FLU_P_REPLAY_VALUE p) 1
      { s1 with flue := { s1.flue with out := s1.flue.out ++ [(p, e.2)] } }
    | none => (s.raise F.FLU_EVENT_LINK_LOSS).vetoRecord .fabric .port p 0 (fabD1 p 0xFF)
/-- R377: a held packet has waited too long. -/
def State.holdExpired (s : State) (p : Nat) : State :=
  match (s.port p).held with
  | [] => s
  | pkt :: _ => (s.stopRecord .fabric .port p (leNat (pkt.take 8)) (fabD1 12 (pktType pkt)) .scheduleBroken).veto

/-- R395, R397: a NOTICE arrives: the first copy is forwarded and taken, later copies are discarded; on an Asivo port it is
a misroute. -/
def State.noticeIn (s : State) (p : Nat) (pkt : List Byte) : State :=
  if !s.portLive p then s
  else if s.get (F.FLU_P_CTRL_MODE p) = 2 then s.misroute p pkt
  else
    let link := (Config.noticeLink (pktPayload pkt)).toNat
    let fs := (Config.noticeFrame (pktPayload pkt)).toNat
    if s.flue.notices.contains (link, fs) then s
    else (s.flood ((List.range 12).filter (· != p)) pkt).takeNotice link fs

/-- R379, R382, R390, R395: a packet has passed the link layer of port p. -/
def State.accept (s : State) (p : Nat) (pkt : List Byte) : State :=
  if !typeOk pkt then s.vetoRecord .fabric .port p (leNat (pkt.take 8)) (fabD1 p (pktType pkt))
  else if pktType pkt = 5 then s.noticeIn p pkt
  else if s.flue.dropOld ∧ s.get (F.FLU_P_CTRL_MODE p) ≠ 2 ∧ pktEpoch pkt ≠ s.epoch then s.count F.FLU_OLDDROP_VALUE 1
  else s.route p pkt

/-- R374: link numbers from `base`, modulo 64. -/
def seqDist (base n : Nat) : Nat := (n + 64 - base) % 64
/-- R374: packets of the reorder buffer that no missing packet precedes are delivered. -/
def State.drainReorder (s : State) (p : Nat) : Nat → State
  | 0 => s
  | n + 1 =>
    let q := s.port p
    match q.reorder with
    | [] => s
    | e :: t =>
      match q.missing with
      | [] => ((s.modPort p fun q => { q with reorder := t }).accept p e.2).drainReorder p n
      | m :: _ => if seqDist e.1 m < 32 then ((s.modPort p fun q => { q with reorder := t }).accept p e.2).drainReorder p n else s
/-- R374: a decoded packet with its link number. -/
def State.linkIn (s : State) (p seq : Nat) (pkt : List Byte) : State :=
  match (s.port p).missing with
  | [] => s.accept p pkt
  | m :: rest =>
    if m = seq then ((s.modPort p fun q => { q with missing := rest }).accept p pkt).drainReorder p 65
    else
      let ins (l : List (Nat × List Byte)) : List (Nat × List Byte) :=
        (l.filter fun e => decide (seqDist m e.1 < seqDist m seq)) ++ [(seq, pkt)] ++ l.filter fun e => decide (seqDist m seq < seqDist m e.1)
      s.modPort p fun q => { q with missing := q.missing.filter (· != seq), reorder := (ins q.reorder).take 64 }
/-- R380: the header granule after the correcting decoder, the payload granules after the detect-only one; none when one
fails. -/
def checkCodewords (pkt : List Byte) (errs : List (BitVec 144)) : Option (List Byte) :=
  (List.range 4).foldl (fun (o : Option (List Byte)) i =>
    match o with
    | none => none
    | some out =>
      let g := leNat ((pkt.drop (16 * i)).take 16)
      let e := (errs.getD i 0).toNat
      match decodeErr (i != 0) e with
      | .clean => some (out ++ leBytes 16 (g ^^^ (e / 2 ^ 16)))
      | .fixed f => some (out ++ leBytes 16 (g ^^^ ((e ^^^ f) / 2 ^ 16)))
      | .bad => none) (some [])
/-- R371, R380, R381: a packet arrives on a port. -/
def State.packetIn (s : State) (p seq : Nat) (pkt : List Byte) (errs : List (BitVec 144)) : State :=
  if !s.clocked ∨ !s.portLive p then s
  else
    match checkCodewords pkt errs with
    | none => (s.noteSymbols p 0).codewordBad p [seq]
    | some q => (s.noteSymbols p 0).linkIn p seq q

/-- The receive descriptor of a stream tag (R385). -/
def State.rdAddr (s : State) (tag : Nat) : Nat := s.pair R.FLU_RDBASE_LO + 32 * tag
def rdBase (d : List Byte) : Nat := leAt d 0 8
def rdLen (d : List Byte) : Nat := leAt d 8 4
def rdValid (d : List Byte) : Bool := (leAt d 18 2).testBit 0
def rdAck (d : List Byte) : Bool := (leAt d 18 2).testBit 1
def rdNext (d : List Byte) : Nat := leAt d 24 4
/-- R15, R385: what makes a receive descriptor rejected. -/
def rdBad (d : List Byte) : Bool :=
  addrBad (rdBase d) || rdLen d % 16 != 0 || bitsOf (leAt d 16 2) 14 12 != 0 || leAt d 18 2 / 4 != 0 || decide (4095 < leAt d 20 2) ||
  leAt d 22 2 != 0 || leAt d 28 4 != 0
/-- R539: the contribution of packet i's bytes to the stream sum. -/
def sumPart (i : Nat) (bs : List Byte) : Nat :=
  ((codesOf 8 bs (bs.length / 8)).zipIdx.foldl (fun n (w, j) => n + w * (2 * (6 * i + j) + 1)) 0) % 2 ^ 64

/-- R386: a sequence fault. -/
def State.seqFault (s : State) (port : Nat) (pkt : List Byte) : State :=
  (s.raise F.FLU_EVENT_SEQ_FAULT).vetoRecord .fabric (if port < 12 then .port else .hob) (if port < 12 then port else s.master) (leNat (pkt.take 8)) (fabD1 port (pktType pkt))
/-- R451: held sparks of a stream tag whose expected count is reached are counted. -/
def State.releaseHeld (s : State) (tag next : Nat) : State :=
  let go := s.syn.hold.filter fun h => h.2.1 == tag && decide (h.2.2 ≤ next)
  let s1 := { s with syn := { s.syn with hold := s.syn.hold.filter fun h => !(h.2.1 == tag && decide (h.2.2 ≤ next)) } }
  (s1.set F.SYN_STATUS_HOLDS s1.syn.hold.length).each go fun t h => t.signal h.1 none
/-- R384, R388: an acknowledgement leaves on a route of the present epoch. -/
def State.ackOn (s : State) (rid tag chunk : Nat) : State :=
  let pkt := mkPacket [] 4 s.epoch 0 2 tag 0 chunk []
  if s.switchHold then s.deferInjection (some rid) pkt else s.inject (s.onRoute rid pkt)

/-- The unit that reads a receive descriptor for a packet of a port, or of this device. -/
def rxKind (port : Nat) : UKind := if port < 12 then .port else .hob
def State.rxUnit (s : State) (port : Nat) : Nat := if port < 12 then port else s.master
/-- R385: the receive descriptor of a tag, unless its read is uncorrectable. A VALID one that breaks its rules is rejected:
a descriptor-format record names it, and its stream tag in place of a sequence tag (R15). -/
def State.rdRead (s : State) (port tag : Nat) : Option (List Byte) × State :=
  let a := s.rdAddr tag
  let r := s.read a 32
  match r.bad with
  | some (b, dec) => (none, r.st.memFault (rxKind port) (s.rxUnit port) b dec)
  | none => if rdValid r.bytes && rdBad r.bytes then (none, r.st.descRecord (rxKind port) (s.rxUnit port) a tag) else (some r.bytes, r.st)
/-- R386, R539: packet i of the stream with a tag is received. The parts of its sum stay, since a chunk may be received
again. -/
def State.streamIn (s : State) (port tag i : Nat) (pkt : List Byte) : State :=
  let a := s.rdAddr tag
  match s.rdRead port tag with
  | (none, s1) => s1
  | (some d, s1) =>
    let len := rdLen d
    let np := ceilDiv len 48
    if !rdValid d ∨ np < i ∨ ¬ (i = rdNext d ∨ (i % 256 = 0 ∧ i < rdNext d)) then s1.seqFault port pkt
    else
      let kind := rxKind port
      let unit := s.rxUnit port
      let s2 := s1.unitWrite kind unit (a + 24) (leBytes 4 (i + 1))
      let bs := (pktPayload pkt).take (min 48 (len - 48 * i))
      let s3 :=
        if i < np then
          let t := s2.unitWrite kind unit (rdBase d + 48 * i) bs
          { t with flue := { t.flue with rxSum := t.flue.rxSum.write 0 (tag * 2 ^ 25 + i) (sumPart i bs) } }
        else
          let mine := ((s2.flue.rxSum.filter fun e => e.1 / 2 ^ 25 == tag && decide (e.1 % 2 ^ 25 < np)).map (·.2)).sum % 2 ^ 64
          let pl := pktPayload pkt
          if leAt pl 0 8 = mine ∧ leAt pl 8 8 = 2 ^ 64 - 1 - mine then s2.spark (leAt d 16 2) none
          else (s2.raise F.ERR_EVENT_SUM_MISMATCH).vetoRecord .fabric kind unit (leNat (pkt.take 8)) (fabD1 port (pktType pkt))
      let s4 := s3.releaseHeld tag (i + 1)
      if rdAck d ∧ (i % 256 = 255 ∨ i = np) then s4.ackOn (leAt d 20 2 % 4096) tag (i / 256) else s4

/-- Takes the oldest delivered packet that a test picks. -/
def State.takeDelivered (s : State) (f : List Byte → Bool) : Option ((Nat × List Byte) × State) :=
  match s.flue.deliver.findIdx? fun e => f e.2 with
  | none => none
  | some i => (s.flue.deliver[i]?).map fun e => (e, { s with flue := { s.flue with deliver := s.flue.deliver.eraseIdx i } })
/-- R386: the oldest delivered DATA packet. -/
def State.dataReceive (s : State) : State :=
  if !s.clocked then s
  else
    match s.takeDelivered fun p => pktType p == 0 with
    | none => s
    | some ((port, pkt), s1) =>
      if 4096 ≤ pktTag pkt then s1.seqFault port pkt
      else s1.streamIn port (pktTag pkt) (256 * pktAux pkt + pktSeq pkt) pkt
/-- R450 to R452: the oldest delivered SPARK packet. A spark with a count that finds the hold store full waits. -/
def State.sparkReceive (s : State) : State :=
  if !s.clocked then s
  else
    match s.takeDelivered fun p => pktType p == 3 with
    | none => s
    | some ((port, pkt), s1) =>
      let b := pktAux pkt % 4096
      let k := leAt (pktPayload pkt) 0 4
      let tag := pktTag pkt
      if k = 0 then
        if s1.ctrValid b && s1.isGroup b && s1.on (F.SYN_GRP_CTRL_TREE (s1.gslot b)) then (if s1.on F.SYN_CTRL_EN then s1.treeSparkIn b port else s1)
        else s1.signal b none
      else
        if 4096 ≤ tag then s1.misuse b 6 0
        else
          match s1.rdRead port tag with
          | (none, s2) => s2
          | (some d, s2) =>
            if !rdValid d then s2.misuse b 6 0
            else if k ≤ rdNext d then s2.signal b none
            else if 256 ≤ s1.syn.hold.length then s.raise F.SYN_EVENT_HOLD_FULL
            else
              let s3 := { s2 with syn := { s2.syn with hold := s2.syn.hold ++ [(b, tag, k)] } }
              s3.set F.SYN_STATUS_HOLDS s3.syn.hold.length

/-- Injector q and its update. -/
def State.inj (s : State) (q : Nat) : Injector := s.flue.injs.look { opened := [] } q
def State.modInj (s : State) (q : Nat) (f : Injector → Injector) : State :=
  { s with flue := { s.flue with injs := s.flue.injs.write { opened := [] } q (f (s.inj q)) } }
def sdSrc (d : List Byte) : Nat := leAt d 8 8
def sdLen (d : List Byte) : Nat := leAt d 16 4
def sdTag (d : List Byte) : Nat := leAt d 20 2
def sdChunks (d : List Byte) : Nat := ceilDiv (sdLen d) 48 / 256 + 1
/-- R384: a send ends: its record, of which R384 gives no layout, holds free bytes (log 22), then its spark. -/
def State.sendEnd (s : State) (q : Nat) (c : QCmd) : State :=
  let (bs, s1) := s.freshBytes 32
  (s1.writeRecord .injector q (leAt c.bytes 40 8) bs).spark (leAt c.bytes 32 2) (some (qidInjector q))
/-- R15, R384: a rejected send. -/
def State.sendReject (s : State) (q : Nat) (c : QCmd) : State := (s.descRecord .injector q c.addr c.tag).sendEnd q c
/-- The send queue of quadrant q (R384). An injector has no abort register. -/
def injQ (q : Nat) : QI where
  kind := .injector
  unit := q
  qid := some (qidInjector q)
  slotBytes := 64
  depth := 1
  base := R.FLU_SQBASE_LO q
  size := F.FLU_SQSIZE_VALUE q
  head := F.FLU_SQHEAD_VALUE q
  tail := F.FLU_SQTAIL_VALUE q
  res := F.FLU_SQHEAD_VALUE q
  evAborted := F.FLU_EVENT_SEQ_FAULT
  evReject := none
  cap := 4096
  en := fun t => (t.get F.FLU_CTRL_INJ_EN).testBit q
  empties := false
  bar := fun b => leAt b 34 2
  known := fun o => o == 1
  grab := plainGrab
  finish := fun t c _ => t.sendEnd q c
  reject := fun t c => t.sendReject q c
  void := fun t _ => t

/-- R384: the rules of a send descriptor; its route must be VALID. -/
def sendBad (s : State) (d : List Byte) : Bool :=
  let r := leAt d 40 8
  leAt d 0 4 / 2 ^ 9 != 0 || addrBad (sdSrc d) || sdLen d % 16 != 0 || sdLen d == 0 || decide (805306368 < sdLen d) || decide (4095 < sdTag d) ||
  decide (4095 < leAt d 22 2) || decide (1 < leAt d 24 1) || leAt d 26 2 == 0 || decide (256 < leAt d 26 2) || leAt d 28 1 == 0 || decide (10 < leAt d 28 1) ||
  leAt d 29 1 != 0 || bitsOf (leAt d 30 2) 14 12 != 0 || bitsOf (leAt d 32 2) 14 12 != 0 || bitsOf (leAt d 34 2) 14 12 != 0 || leAt d 36 4 != 0 ||
  !zeroAt d 48 16 || (r != 0 && !s.recAddrOk r) || !(s.verValid s.epoch && routeValid (s.routeEntry s.epoch (leAt d 22 2 % 4096)))

/-- R384, R539: the packets of a send from packet `from0` on: data, sum, spark. -/
def State.stream (s : State) (d : List Byte) (from0 : Nat) (data : List Byte) : State :=
  let e := s.routeEntry s.epoch (leAt d 22 2 % 4096)
  let np := ceilDiv (sdLen d) 48
  let pkt (i : Nat) (pl : List Byte) : List Byte := mkPacket (routeLegs e) 0 s.epoch (routeDest e) (leAt d 24 1 % 4) (sdTag d) (i % 256) (i / 256) pl
  let part (i : Nat) : List Byte := (data.drop (48 * i)).take 48
  let sum := (List.range np).foldl (fun n i => n + sumPart i (part i)) 0 % 2 ^ 64
  let s1 := s.each (List.range (np - from0)) fun t j => t.inject (pkt (from0 + j) (part (from0 + j)))
  let s2 := s1.inject (pkt np (leBytes 8 sum ++ leBytes 8 (2 ^ 64 - 1 - sum)))
  if (leAt d 0 4).testBit 8 ∧ (leAt d 30 2).testBit 15 then
    s2.inject (mkPacket (routeLegs e) 3 s.epoch (routeDest e) 2 (sdTag d) 0 (leAt d 30 2 % 4096) (leBytes 4 (np + 1)))
  else s2

/-- R384: injector q runs the SEND it holds. -/
def State.send (s : State) (q : Nat) : State :=
  let Q := injQ q
  if !s.qOn Q ∨ s.switchHold then s
  else
    match s.readyHead Q with
    | none => s
    | some c =>
      let d := c.bytes
      let s1 := s.startHead Q
      if c.op ≠ 1 then s.headMoves Q
      else if sendBad s1 d then (s1.sendReject q c).endHead Q
      else
        let r := s1.read (sdSrc d) (sdLen d)
        match r.bad with
        | some (a, dec) => ((r.st.memFault .injector q a dec).sendEnd q c).endHead Q
        | none =>
          let s2 := r.st.stream d 0 r.bytes
          if Config.sendAcked d then (s2.modInj q fun j => { opened := j.opened ++ [⟨c, []⟩] }).endHead Q
          else (s2.sendEnd q c).endHead Q
/-- R384: the tail of a send queue is written. -/
def State.sendTail (s : State) (q v : Nat) : State := (s.set (F.FLU_SQTAIL_VALUE q) v).advance (injQ q)

/-- R384, R589: the oldest delivered stream acknowledgement. -/
def State.streamAck (s : State) : State :=
  if !s.clocked then s
  else
    match s.takeDelivered fun p => pktType p == 4 && decide (pktTag p < 4096) with
    | none => s
    | some ((_, pkt), s1) =>
      let hit (q : Nat) : Bool := (s1.inj q).opened.any fun o => sdTag o.cmd.bytes == pktTag pkt
      match (List.range 4).find? hit with
      | none => s1
      | some q =>
        match (s1.inj q).opened.find? fun o => sdTag o.cmd.bytes == pktTag pkt with
        | none => s1
        | some o =>
          let acked := if o.acked.contains (pktAux pkt) then o.acked else o.acked ++ [pktAux pkt]
          if (List.range (sdChunks o.cmd.bytes)).all fun c => acked.contains c then
            (s1.modInj q fun j => { opened := j.opened.filter (· != o) }).sendEnd q o.cmd
          else s1.modInj q fun j => { opened := j.opened.map fun x => if x = o then { o with acked := acked } else x }
/-- R421, R589: the oldest delivered tree acknowledgement. -/
def State.treeAck (s : State) : State :=
  if !s.clocked then s
  else
    match s.takeDelivered fun p => pktType p == 4 && decide (0xF000 ≤ pktTag p) with
    | none => s
    | some ((port, pkt), s1) =>
      let k := treeKey (s1.pktVersion port pkt) (pktTag pkt - 0xF000)
      s1.treeAckIn (treeEngine (s1.treeAt k)) k (pktAux pkt)
/-- R388, R407: the oldest MCAST at a tree leg: copies to the children, and the local copy to the engine that runs the
tree's operation (log 120), or else to the local stream tag when LOCAL is set. -/
def State.mcastReceive (s : State) : State :=
  if !s.clocked then s
  else
    match s.takeDelivered fun p => pktType p == 1 with
    | none => s
    | some ((port, pkt), s1) =>
      let v := s1.pktVersion port pkt
      let k := treeKey v (pktAux pkt % 4096)
      let e := s1.treeAt k
      let s2 := s1.each (treePorts e) fun t p => t.sendOn p pkt
      if treeParent e = 12 then s2
      else
        match s2.runOn (treeEngine e) k with
        | some (r, vd) => s2.resultIn (treeEngine e) vd r pkt
        | none =>
          if !treeLocal e then s2
          else
            let tag := treeTag e % 4096
            let next := rdNext (s2.read (s2.rdAddr tag) 32).bytes  -- the wire carries the chunk modulo 16: the nearest chunk at or below the next expected one
            let c := next / 256 - (next / 256 + 16 - pktAux pkt / 4096) % 16
            s2.streamIn port tag (256 * c + pktSeq pkt) pkt

/-- R395, R396, R422: frame FS of an emergency switch. -/
def State.emergencySwitch (s : State) : State :=
  match s.flue.emergAt with
  | none => s
  | some fs =>
    if !s.clocked ∨ s.frame < fs then s
    else
      let s1 := { s with flue := { s.flue with emergAt := none } }
      if s1.flue.commit.isSome ∨ !s1.verValid s1.inactive then s1.linkLost
      else
        let s2 := s1.flip.set F.FLU_EPOCH_OLDFREE 1
        let s3 := { s2 with flue := { s2.flue with dropOld := true } }
        let s4 := s3.each (List.range 4) State.colRestart
        s4.each (List.range 4) fun t q => t.each (t.inj q).opened fun u o =>
          let c := ((List.range (sdChunks o.cmd.bytes)).find? fun c => !o.acked.contains c).getD 0
          let r := u.read (sdSrc o.cmd.bytes) (sdLen o.cmd.bytes)
          match r.bad with
          | some (a, dec) => r.st.memFault .injector q a dec
          | none => r.st.stream o.cmd.bytes (256 * c) r.bytes
/-- R395: a write of FLU_EMERG. -/
def State.emergWrite (s : State) (v : Nat) : State :=
  let s1 := ((s.set F.FLU_EMERG_LEAD (v % 256)).set F.FLU_EMERG_GO (v / 2 ^ 8)).set F.FLU_EMERG_PORT (v / 2 ^ 12)
  if v.testBit 8 ∧ s1.get F.FLU_EMERG_PORT < 12 then s1.giveNotice (s1.get F.FLU_EMERG_PORT) else s1

/-- R394, R592: a write of FLU_FENCE. Tree barriers that waited for a fenced child may move on (R450). -/
def State.fenceWrite (s : State) (v : Nat) : State :=
  let s1 := s.set F.FLU_FENCE_PORTS v
  let s2 := s1.each (List.range 12) fun t p =>
    if v.testBit p then
      (if t.portLive p then ((t.set (F.FLU_P_STATUS_STATE p) 5).count (F.FLU_P_FENCEDROP_VALUE p) (t.port p).held.length).modPort p fun q => { q with held := [] } else t)
    else if t.portState p = 5 then t.portUp p
    else t
  s2.each (List.range 256) fun t g =>
    let b := t.get (F.SYN_GRP_CTRL_COUNTER g)
    if t.on (F.SYN_GRP_CTRL_VALID g) && t.on (F.SYN_GRP_CTRL_TREE g) && t.ctrValid b && t.gslot b == g then t.treeAdvance g b else t

/-- Sets the frame number. -/
def State.setFrame (s : State) (n : Nat) : State := s.setPair R.FLU_FRAME_LO (n % 2 ^ 48)
/-- The ports that carry frame marks: the live native ones (R393, R397). -/
def State.markPorts (s : State) : List Nat := (List.range 12).filter fun p => s.portLive p && s.get (F.FLU_P_CTRL_MODE p) == 1
/-- R393: a mark with the present frame number leaves on every port that carries marks. -/
def State.sendMarks (s : State) : State := s.each s.markPorts fun t p => t.linkCtl p (.mark t.frame)
/-- R393, R464: a frame boundary by the device's own pilot: that of the fabric master, which sends marks, or of a device in
holdover, whose frame number runs on. -/
def State.frameMark (s : State) : State :=
  if !s.clocked then s
  else if s.aon.fabMaster then (s.setFrame (s.frame + 1)).sendMarks
  else if s.on F.FLU_STATUS_MARKLOCK then s
  else s.setFrame (s.frame + 1)
/-- R393: the mark port: the live native port with the fewest hops to the master, the lowest among equals. -/
def State.markPort (s : State) : Option Nat :=
  let ps := s.markPorts
  ps.find? fun p => ps.all fun q => decide (Config.markHops p ≤ Config.markHops q)
/-- R393, R486: a frame mark arrives: it is taken and re-emitted. A fabric master that receives one writes a clock record. -/
def State.frameMarkIn (s : State) (p frame : Nat) : State :=
  if !s.clocked ∨ !s.portLive p ∨ s.get (F.FLU_P_CTRL_MODE p) ≠ 1 then s
  else if s.aon.fabMaster then
    ({ s with hob := { s.hob with dual := true } }.raise F.SEC_EVENT_DUAL_MASTER).vetoRecord .clock .clock 0 (s.reg R.CLK_STATUS).toNat (s.reg R.CLK_EVENT).toNat
  else if s.markPort ≠ some p then s
  else
    let s1 := if s.get F.FLU_STATUS_MARKPORT ≠ p then s.marksLost else s
    (((s1.set F.FLU_STATUS_MARKPORT p).set F.FLU_STATUS_MARKLOCK 1).setFrame frame).sendMarks

/-- R399: sets the minutes of a cartridge: it becomes the most recently seen, and a 65th drops the least recent. -/
def State.setMinutes (s : State) (key n : Nat) : State :=
  let l := s.ember.minutes.filter (·.1 != key) ++ [(key, n)]
  { s with ember := { s.ember with minutes := l.drop (l.length - 64) } }
/-- R400: thresholds that the life of port p's cartridge has passed and that have not been reported yet. -/
def State.noteLife (s : State) (p : Nat) (record : List Byte) : State :=
  let now := s.lifeFloor record
  let seen := (s.port p).lifeSeen
  let s1 := (s.set (F.FLU_P_CART_LIFEPCT p) (s.lifePct record)).modPort p fun q =>
    { q with lifeSeen := max seen (if 100 ≤ now then 2 else if 90 ≤ now then 1 else 0) }
  let s2 := if 90 ≤ now ∧ seen < 1 then s1.raise (F.FLU_P_EVENT_LIFE_WARN p) else s1
  if 100 ≤ now ∧ seen < 2 then
    let s3 := s2.raise (F.FLU_P_EVENT_LIFE_OUT p)
    if s3.portState p = 2 then s3.set (F.FLU_P_STATUS_STATE p) 3 else s3
  else s2
/-- R398, R399, R401: a cartridge is read: kind, signature, hours. -/
def State.readCart (s : State) (p : Nat) (record : List Byte) : State :=
  let kind := (Config.cartKind record).toNat
  let ok := Config.cartVerified s.cartRec record
  let s1 := ((s.set (F.FLU_P_CART_KIND p) kind).put (F.FLU_P_CART_UNVERIFIED p) (!ok)).modPort p fun q => { q with cart := some record, laser := true, lifeSeen := 0 }
  let s2 := if ok then s1 else s1.errRecord .fabric 0 .port p 0 (fabD1 12 0xFF)
  if kind = 2 then (s2.setMinutes (Config.cartKey record).toNat (s2.cartMinutes (Config.cartKey record).toNat)).noteLife p record
  else s2.set (F.FLU_P_CART_LIFEPCT p) 0
/-- R585: the supplies of the cages are on: from stage CALIB while PG is high. -/
def State.cagesOn (s : State) : Bool := s.aon.pg && decide (6 ≤ s.get F.SEC_BOOT_STAGE) && decide (s.get F.SEC_BOOT_STAGE ≤ 8)
/-- R586: a cartridge is inserted. Before stage CALIB its cage has no supply, and it is read there. -/
def State.cartInsert (s : State) (p : Nat) (record : List Byte) : State :=
  if !s.aon.pg then s
  else if !s.cagesOn then (s.raise (F.FLU_P_EVENT_CART_CHANGE p)).modPort p fun q => { q with cart := some record, laser := false, lifeSeen := 0 }
  else
    let s1 := (s.raise (F.FLU_P_EVENT_CART_CHANGE p)).readCart p record
    if s1.get (F.FLU_P_CTRL_MODE p) = 0 then s1
    else if s1.on F.CFG_STATE_IMAGE then s1.modPort p fun q => { q with retrain := true }
    else s1.trainPort p
/-- R586: the cartridge of a port is removed. -/
def State.cartRemove (s : State) (p : Nat) : State :=
  if !s.aon.pg ∨ (s.port p).cart.isNone then s
  else
    let s1 := (((s.raise (F.FLU_P_EVENT_CART_CHANGE p)).set (F.FLU_P_CART_KIND p) 0).set (F.FLU_P_CART_UNVERIFIED p) 0).set (F.FLU_P_CART_LIFEPCT p) 0
    let s2 := s1.modPort p fun q => { q with cart := none, laser := false, lifeSeen := 0 }
    if s2.portLive p ∨ s2.portState p = 5 then s2.portDead p else s2
/-- R585, R586: a cartridge draws more than 30 W. -/
def State.cartOverpower (s : State) (p : Nat) : State :=
  if !s.aon.pg ∨ (s.port p).cart.isNone then s else (s.modPort p fun q => { q with laser := false }).portDead p
/-- R398: the hob reads every cartridge's monitors. -/
def State.cartMonitor (s : State) (rd : List (List Nat)) : State :=
  if s.clocked then { s with flue := { s.flue with monitors := rd } } else s
/-- R399, R400: a minute passes. -/
def State.cartHours (s : State) : State :=
  if !s.clocked then s
  else
    s.each (List.range 12) fun t p =>
      match (t.port p).cart with
      | some record =>
        if (t.port p).laser && (Config.cartKind record).toNat == 2 then
          (t.setMinutes (Config.cartKey record).toNat (t.cartMinutes (Config.cartKey record).toNat + 1)).noteLife p record
        else t
      | none => t

end Sys2Proof.Machine
end

