-- ==== Sys2Proof/Machine/MemUnits.lean ====
section
/-! DEFINITION. The memory system's own work: weevil walkers, pair retirement, parity retries, retrains, channel loss, the
interleave, soft repair, margining (10_comb_hbm_and_far_memory.md R18, R340 to R349, R352 to R357, R362, R363). -/

namespace Sys2Proof.Machine

/-- R351: the device address of an offset of a channel; none: the channel is outside the interleave. -/
def State.chanAddr (s : State) (c o : Nat) : Option Nat :=
  let r := o / 256
  if s.chOut c then none
  else if s.nch = 256 then some (hbmBase + (r * 256 + (c ^^^ r ^^^ (r / 2 ^ 8) ^^^ (r / 2 ^ 16)) % 256) * 256 + o % 256)
  else some (hbmBase + (r * s.nch + (s.live.findIdx (· == c))) * 256 + o % 256)

/-- R341, R342: the walker's check of the granule at an address and place, with the attribute of its address. -/
def State.walkPlace (s : State) (det : Bool) (kind : UKind) (unit a k : Nat) : State :=
  let e := (s.errAt (k / 16)).toNat
  match decodeErr det e with
  | .clean => s
  | .fixed p =>
    let d := leNat ((List.range 16).map fun i => s.byteAt (k + i)) ^^^ ((e ^^^ p) / 2 ^ 16)
    ((s.noteErr a k 1).putBytes k (leBytes 16 d)).putErr (k / 16) 0
  | .bad => if det then (s.noteErr a k 3).errRecord .latent 0 kind unit a 0 else (s.noteErr a k 2).memFault kind unit a 1

/-- R341, R342: the walker's check of the granule at an address and place. -/
def State.walkGranule (s : State) (kind : UKind) (unit a k : Nat) : State := s.walkPlace (s.detected a) kind unit a k

/-- R340: the walker of a comb slice. -/
def State.weevilComb (s : State) (p : Nat) : State :=
  let st := s.get (F.CMB_S_STATE_STATE p)
  if !s.clocked ∨ !s.on F.CMB_CTRL_WV_EN ∨ 136 ≤ p ∨ 2 ≤ st then s
  else
    let l := s.get (F.CMB_S_WVPOS_LINE p)
    let a := physBase + p * 2 ^ 28 + l * 64
    let s1 := s.each (List.range 4) fun t g => t.walkGranule .slice p (a + 16 * g) (a + 16 * g)
    if l + 1 < 4194304 then s1.set (F.CMB_S_WVPOS_LINE p) (l + 1)
    else { s1.set (F.CMB_S_WVPOS_LINE p) 0 with ram := { s1.ram with trackers := s1.ram.trackers.write [] p [] } }
/-- R340: the walker of an HBM channel in service. A line of a channel outside the interleave has no device address: no region
contains it, and the address that a record of it gives is free (log 73). -/
def State.weevilHbm (s : State) (c : Nat) : State :=
  if !s.clocked ∨ !s.on F.HBM_CTRL_WV_EN ∨ s.get (F.HBM_C_STATE_STATE c) = 3 then s
  else
    let l := s.ram.hbmPos.look 0 c
    let s1 := s.each (List.range 4) fun t g =>
      let k := hbmBase + c * 2 ^ 31 + l * 64 + 16 * g
      match t.chanAddr c (l * 64 + 16 * g) with
      | some a => t.walkGranule .channel c a k
      | none => if t.errAt (k / 16) = 0 then t else (let (a, u) := t.fresh 48; u.walkPlace false .channel c a k)
    if (l + 1) * 64 < s.chCap then { s1 with ram := { s1.ram with hbmPos := s1.ram.hbmPos.write 0 c (l + 1) } }
    else { s1 with ram := { s1.ram with hbmPos := s1.ram.hbmPos.write 0 c 0, trackers := s1.ram.trackers.write [] (256 + c) [] } }

/-- R18: distance of two quadrants on the ring. -/
def ringDist (a b : Nat) : Nat := let d := (a + 4 - b) % 4; min d (4 - d)
/-- R18, R348: the spare pair for a logical hearth: of its home quadrant if it has one, else of the nearest, the lowest
physical number among equals. -/
def State.chooseSpare (s : State) (l : Nat) : Option Nat :=
  let ps := (List.range 136).filter fun p => s.get (F.CMB_S_STATE_STATE p) == 1
  ps.find? fun p => ps.all fun q => decide (ringDist (pairQuad p) (l / 32) ≤ ringDist (pairQuad q) (l / 32))
/-- R552: the counts of mapped, spare and moved pairs. -/
def State.countPairs (s : State) : State :=
  let n := ((List.range 128).filter fun l => (s.physOf l).isSome).length
  let sp := ((List.range 136).filter fun p => s.get (F.CMB_S_STATE_STATE p) == 1).length
  let aw := ((List.range 128).filter fun l => match s.physOf l with
    | some p => pairQuad p != l / 32
    | none => false).length
  (((s.set F.CMB_NPAIR_COUNT n).set F.GEN_UNITS_HEARTHS n).set F.GEN_UNITS_SPAREPAIRS sp).set F.GEN_UNITS_AWAY aw
/-- R122: HRT_LOGICAL of every pair from the sparing map. -/
def State.noteLogical (s : State) (p : Nat) : State :=
  match s.logicalOf p with
  | some l => ((s.set (F.HRT_LOGICAL_LNUM p) l).set (F.HRT_LOGICAL_ACTIVE p) 1).put (F.HRT_LOGICAL_AWAY p) (pairQuad p != l / 32)
  | none => s.setReg (R.HRT_LOGICAL p) 0
/-- A logical hearth is mapped to a pair, or to none. -/
def State.mapPair (s : State) (l : Nat) (p : Option Nat) : State :=
  let old := s.physOf l
  let s1 := match p with
    | some p => (s.set (F.CMB_PAIRMAP_PHYS l) p).set (F.CMB_PAIRMAP_VALID l) 1
    | none => s.set (F.CMB_PAIRMAP_VALID l) 0
  let s2 := match old with
    | some o => s1.noteLogical o
    | none => s1
  (match p with
   | some p => s2.noteLogical p
   | none => s2).countPairs

/-- R347, R348: the contents of one slice are copied into another: correctable granules corrected, uncorrectable ones raw. -/
def State.copySlice (s : State) (src dst : Nat) : State :=
  let lo (p : Nat) : Nat := physBase + p * 2 ^ 28
  let inS (p k : Nat) : Bool := decide (lo p ≤ k) && decide (k < lo p + 2 ^ 28)
  let mem := (s.mem.filter fun e => inS src e.1).foldl (fun (m : Sparse Byte) e => m.write 0 (e.1 - lo src + lo dst) e.2) (s.mem.filter fun e => !inS dst e.1)
  let errs := (s.errs.filter fun e => inS src (e.1 * 16)).foldl (fun (m : Sparse (BitVec 144)) e => m.write 0 (e.1 - lo src / 16 + lo dst / 16) e.2)
    (s.errs.filter fun e => !inS dst (e.1 * 16))
  let s1 := { s with mem := mem, errs := errs }
  s1.each ((errs.filter fun e => inS dst (e.1 * 16)).map (·.1)) State.cleanGranule
/-- R348: a write of CMB_RETIRE. -/
def State.retireWrite (s : State) (v : Nat) : State :=
  let src := v % 256
  let dst := v / 2 ^ 8 % 256
  let s1 := if s.on F.CMB_STATUS_RETIRING then s else (s.set F.CMB_RETIRE_FROM src).set F.CMB_RETIRE_TO dst
  if v.testBit 31 ∧ !s.on F.CMB_STATUS_RETIRING ∧ src < 136 ∧ dst < 136 ∧ s.get (F.CMB_S_STATE_STATE dst) = 1 then
    { s1.set F.CMB_STATUS_RETIRING 1 with ram := { s1.ram with retiring := some (src, dst) } }
  else s1
/-- R348: the copy ends; the hob maps the logical hearth to the new pair and marks the old one RETIRED. -/
def State.retireDone (s : State) : State :=
  match s.ram.retiring with
  | none => s
  | some (src, dst) =>
    let l := s.logicalOf src
    let s1 := { (s.copySlice src dst).set F.CMB_STATUS_RETIRING 0 with ram := { (s.copySlice src dst).ram with retiring := none } }
    let s2 := s1.set (F.CMB_S_STATE_STATE src) 2
    let s3 := match l with
      | some l => (s2.set (F.CMB_S_STATE_STATE dst) 0).mapPair l (some dst)
      | none => s2
    s3.countPairs.raise F.CMB_EVENT_PAIR_RETIRED
/-- R348, R349: the pair of logical hearth l is retired: a spare pair takes its contents, or its capacity is lost. -/
def State.retireLogical (s : State) (l : Nat) : State :=
  match s.physOf l with
  | none => s
  | some p =>
    match s.chooseSpare l with
    | some d => ({ s with ram := { s.ram with retiring := some (p, d) } }).retireDone
    | none => (((s.set (F.CMB_S_STATE_STATE p) 2).mapPair l none).raise F.CMB_EVENT_CAPACITY_LOST).vetoStop Stop.capacityLost.code

/-- The channel's hold ends; the cycles held are free, 80 µs at most (log 6). -/
def State.holdEnds (s : State) (c : Nat) : State :=
  let (n, s1) := s.fresh 32
  (s1.set (F.HBM_C_STATE_STATE c) 0).count (F.HBM_C_HOLD_VALUE c) (n % 88001)
/-- R354: an emergency retrain of a channel of the interleave starts. -/
def State.retrainEmergency (s : State) (c : Nat) : State :=
  if !s.clocked ∨ s.get (F.HBM_C_STATE_STATE c) ≠ 0 ∨ s.chOut c then s
  else ((s.set (F.HBM_C_STATE_STATE c) 1).raise F.HBM_EVENT_RT_EMERG).count (F.HBM_C_RETRAIN_EMERG c) 1
/-- R354: the temperature of the stack of channel c is `deg` °C: a move of more than TDELTA since the channel was last trained
starts an emergency retrain. -/
def State.stackTemperature (s : State) (c deg : Nat) : State :=
  if !s.clocked then s
  else
    let s1 := { s with ram := { s.ram with stackTemp := s.ram.stackTemp.write 0 (c % 8) deg } }
    let was := s1.ram.trainedTemp.look 0 c
    if s1.get F.HBM_RTCTRL_TDELTA < max deg was - min deg was then s1.retrainEmergency c else s1
/-- Channel c has been trained now, at its stack's temperature. -/
def State.noteTrained (s : State) (c : Nat) : State :=
  { s with ram := { s.ram with trainedAt := s.ram.trainedAt.write 0 c s.cycle, trainedTemp := s.ram.trainedTemp.write 0 c (s.ram.stackTemp.look 0 (c % 8)) } }
/-- R354: the retrain completes. -/
def State.retrainDone (s : State) (c : Nat) : State :=
  if s.get (F.HBM_C_STATE_STATE c) ≠ 1 then s else (s.holdEnds c).noteTrained c
/-- R355: planned retrains at a step boundary: at most PERSTEP channels whose interval HBM_RTPER has passed, the
longest-waiting first. A millisecond is 1,100,000 engine cycles. -/
def State.retrainPlanned (s : State) : State :=
  if !s.on F.HBM_CTRL_RT_EN then s
  else
    let at0 (c : Nat) : Nat := s.ram.trainedAt.look 0 c
    let due := s.live.filter fun c => s.get (F.HBM_C_STATE_STATE c) == 0 && decide (s.get F.HBM_RTPER_MS * 1100000 ≤ s.cycle - at0 c)
    let sorted := due.insertionSort fun a b => at0 a ≤ at0 b
    s.each (sorted.take (s.get F.HBM_RTCTRL_PERSTEP)) fun t c =>
      ((t.set (F.HBM_C_STATE_STATE c) 1).raise F.HBM_EVENT_RT_PLANNED).count (F.HBM_C_RETRAIN_PLANNED c) 1

/-- R330: a valid region entry that covers an address outside its windows is shown. -/
def State.noteRegion (s : State) (i : Nat) : State :=
  if s.on (F.CMB_RGN_BASE_LO_VALID i) && s.rgnOutside i then s.raise F.CMB_EVENT_RGN_BAD else s
/-- Channels in service: those that are not LOST (R352). -/
def State.inService (s : State) : List Nat := (List.range 256).filter fun c => s.get (F.HBM_C_STATE_STATE c) != 3
/-- R352: the interleave is formed of the n lowest-numbered channels in service, 248 at least; with fewer in service it is
empty. A region entry that no longer lies in a window is shown (R330). -/
def State.setInterleave (s : State) (n : Nat) : State :=
  let ins := s.inService
  let n := if ins.length < 248 then 0 else max 248 (min n ins.length)
  let mem := ins.take n
  let s1 := s.each (List.range 256) fun t c =>
    let st := t.get (F.HBM_C_STATE_STATE c)
    if st = 3 then t
    else if mem.contains c then (if st = 4 then t.set (F.HBM_C_STATE_STATE c) 0 else t)
    else t.set (F.HBM_C_STATE_STATE c) 4
  let s2 := s1.each (List.range 8) fun t i =>
    t.setReg (R.HBM_LOST i) (BitVec.ofNat 32 (((List.range 32).filter fun b => !mem.contains (32 * i + b)).foldl (fun v b => v + 2 ^ b) 0))
  ((s2.set F.HBM_STATUS_NCH n).set F.HBM_ILV_N n).each (List.range 64) State.noteRegion
/-- R357: members of the interleave that are lost: each takes one channel off its count. -/
def State.membersLost (s : State) : Nat :=
  ((List.range 256).filter fun c => s.get (F.HBM_C_STATE_STATE c) == 3 && !(s.reg (R.HBM_LOST (c / 32))).toNat.testBit (c % 32)).length
/-- R357: the interleave re-forms with the count that its losses leave. -/
def State.reduceInterleave (s : State) : State := if s.membersLost = 0 then s else s.setInterleave (s.nch - s.membersLost)
/-- R352: a write of HBM_ILV, while no image is loaded. -/
def State.ilvWrite (s : State) (v : Nat) : State :=
  let n := v % 512
  if n < 248 ∨ 256 < n ∨ s.inService.length < n ∨ s.on F.CFG_STATE_IMAGE ∨ s.on F.HBM_STATUS_BUSY then s
  else { s.set F.HBM_STATUS_BUSY 1 with ram := { s.ram with reform := some n } }
/-- R352: the interleave has been re-formed. -/
def State.ilvDone (s : State) : State :=
  match s.ram.reform with
  | none => s
  | some n =>
    let s1 := { s with ram := { s.ram with reform := none } }
    (s1.setInterleave n).set F.HBM_STATUS_BUSY 0

/-- R3, R357: whether the job's HBM need fits n channels. -/
def State.fitsHbm (s : State) (n : Nat) : Bool :=
  decide (248 ≤ n) && decide ((Config.jobField s.job.jrec 5).toNat ≤ n * s.chCap) && decide ((Config.jobField s.job.jrec 9).toNat ≤ n)
/-- R357: channel c is lost. During a job the step is vetoed, and the job rewinds or stops. -/
def State.channelLost (s : State) (c : Nat) : State :=
  if !s.clocked ∨ s.get (F.HBM_C_STATE_STATE c) = 3 then s
  else
    let s1 := (s.set (F.HBM_C_STATE_STATE c) 3).raise F.HBM_EVENT_CH_LOST
    if s1.on F.CFG_STATE_IMAGE then
      let (d, s2) := s1.fresh 64
      let s3 := s2.vetoRecord .hardware .channel c d c
      if s3.fitsHbm (s3.nch - s3.membersLost) then s3.vetoRewind else s3.vetoStop Stop.capacityLost.code
    else s1.reduceInterleave

/-- Retries of channel c: those of its transaction, whether it has retrained for it, and those of the present millisecond (R353, R354). -/
def State.setRetries (s : State) (c w n : Nat) (x : Bool) : State :=
  { s with ram := { s.ram with retriesMs := s.ram.retriesMs.write 0 c w, retries := s.ram.retries.write 0 c n, exhausted := s.ram.exhausted.write false c x } }

/-- R353, R354: channel c retries a transaction. -/
def State.parityRetry (s : State) (c : Nat) (ok : Bool) : State :=
  if !s.clocked ∨ s.get (F.HBM_C_STATE_STATE c) ≠ 0 ∨ s.chOut c then s
  else
    let ms := s.cycle / 1100000
    let w := s.ram.retriesMs.look 0 c
    let nms := (if w / 2 ^ 20 = ms then w % 2 ^ 20 else 0) + 1
    let w' := ms * 2 ^ 20 + nms
    let n := s.ram.retries.look 0 c + 1
    let many := decide (s.get F.HBM_RTCTRL_PARTHR ≤ nms)
    if ok then
      let s2 := ((s.setRetries c w' 0 false).count (F.HBM_C_PAR_VALUE c) 1).raise F.HBM_EVENT_PAR_RETRY
      if many then s2.retrainEmergency c else s2
    else if s.ram.exhausted.look false c then (s.setRetries c w' 0 false).channelLost c
    else if max 1 (s.get F.HBM_RETRY_COUNT) ≤ n then (s.setRetries c w' 0 true).retrainEmergency c
    else
      let s2 := s.setRetries c w' n false
      if many then s2.retrainEmergency c else s2

/-- R356: soft repairs start at a step boundary: rows of one channel one after the other, those of a channel that retrains at
the next boundary. Whether a stack has a repair resource left is a free value (log 6). -/
def State.softRepairs (s : State) : State :=
  if !s.on F.HBM_CTRL_PPR_EN then s
  else
    let rows := s.ram.pprRows
    let s1 := { s with ram := { s.ram with pprRows := [] } }
    s1.each rows fun t r =>
      let st := t.get (F.HBM_C_STATE_STATE r.1)
      if t.on (F.HBM_C_STATE_PPR_EXH r.1) ∨ st = 3 then t
      else if st = 1 ∨ st = 4 then { t with ram := { t.ram with pprRows := t.ram.pprRows ++ [r] } }
      else
        let (x, u) := t.fresh 1
        if x = 1 then (u.set (F.HBM_C_STATE_PPR_EXH r.1) 1).raise F.HBM_EVENT_PPR_EXH
        else { u.set (F.HBM_C_STATE_STATE r.1) 2 with ram := { u.ram with repairing := u.ram.repairing ++ [r] } }
/-- R356: row r of channel c is repaired: its lines are good, it leaves the tracker and stands in the repair list. -/
def State.repairRow (s : State) (c : Nat) (r : Nat × Nat) : State :=
  let row (g : Nat) : Bool := !keyComb (g * 16) && !keyFar (g * 16) && keyChan (g * 16) == c && (Config.hbmRow (g * 16 % 2 ^ 31)).toNat == r.2
  let s1 := s.each ((s.errs.map (·.1)).filter row) State.cleanGranule
  let rt := (s1.ram.trackers.look [] (256 + c)).filter (·.1 != r.2)
  { s1 with ram := { s1.ram with repairing := s1.ram.repairing.filter (· != r), trackers := s1.ram.trackers.write [] (256 + c) rt }, ember := { s1.ember with repair := (s1.ember.repair ++ [r]).take 512 } }
/-- R356: the oldest soft repair of channel c ends; the channel is held for the next one of its rows. -/
def State.softRepairDone (s : State) (c : Nat) : State :=
  match s.ram.repairing.find? fun r => r.1 == c with
  | none => s
  | some r =>
    let s2 := s.repairRow c r
    let s3 := s2.holdEnds c
    let s4 := if s2.ram.repairing.any fun x => x.1 == c then s3.set (F.HBM_C_STATE_STATE c) 2 else s3
    ((s4.count (F.HBM_C_PPR_SOFT c) 1).count (F.HBM_C_PPR_PENDING c) 1).raise F.HBM_EVENT_PPR_DONE

/-- R363: the places of the test lines of the margining target. -/
def State.marginPlaces (s : State) : Nat × Nat :=
  let i := s.get F.MGN_TARGET_INDEX
  let o := s.pair R.MGN_ADDR_LO / 64 * 64
  let cap := if s.on F.MGN_TARGET_KIND then 2 ^ 28 else s.chCap
  let base := if s.on F.MGN_TARGET_KIND then physBase + i * 2 ^ 28 else hbmBase + i * 2 ^ 31
  let n := min (64 * s.get F.MGN_LEN_LINES) (cap - o)
  (base + o, if s.on F.MGN_TARGET_KIND ∧ 136 ≤ i then 0 else n)
/-- R363, R367: the run writes the test lines that the registers name now. -/
def State.marginTouch (s : State) : State :=
  if s.on F.MGN_STATUS_BUSY then { s with ram := { s.ram with margin := s.ram.margin ++ [s.marginPlaces] } } else s
/-- R363: the former contents of the test lines are lost: what they hold is free (log 6). -/
def State.marginLoss (s : State) : State :=
  { s with ram := { s.ram with margin := [] } }.each s.ram.margin fun t (r : Nat × Nat) =>
    let (bs, t1) := t.freshBytes r.2
    let t2 := t1.putBytes r.1 bs
    { t2 with errs := t2.errs.filter fun e => !(decide (r.1 ≤ e.1 * 16) && decide (e.1 * 16 < r.1 + r.2)) }
/-- R362, R363: a start. -/
def State.marginStart (s : State) : State :=
  if s.on F.CFG_STATE_IMAGE then s.set F.MGN_STATUS_REFUSED 1
  else if s.on F.MGN_STATUS_BUSY then s
  else
    let ax := s.get F.MGN_AXIS_AXIS
    let suits := if s.on F.MGN_TARGET_KIND then ax == 4 || ax == 5 else decide (ax < 4)
    let n := s.get F.MGN_LEN_LINES
    if !suits ∨ n = 0 ∨ 1048576 < n then s.set F.MGN_STATUS_REFUSED 1
    else (((s.set F.MGN_STATUS_DONE 0).set F.MGN_STATUS_REFUSED 0).set F.MGN_STATUS_BUSY 1).marginTouch
/-- R367: an abort ends the run and restores the trained setting; what the run had counted by then is free (log 6). -/
def State.marginAbort (s : State) : State :=
  if s.on F.MGN_STATUS_BUSY then
    let (a, s1) := s.marginLoss.fresh 32
    let (b, s2) := s1.fresh 32
    ((s2.set F.MGN_STATUS_BUSY 0).set F.MGN_CE_COUNT a).set F.MGN_UE_COUNT b
  else s
/-- R367, R546: a write of MGN_CTRL: its bits hold what was written, and those that are 1 act. -/
def State.marginCtrl (s : State) (v : Nat) : State :=
  let s0 := (s.set F.MGN_CTRL_START v).set F.MGN_CTRL_ABORT (v / 2)
  let s1 := if v.testBit 1 then s0.marginAbort else s0
  if v.testBit 0 then s1.marginStart else s1
/-- R363: the run ends with what it counted. -/
def State.marginDone (s : State) (ce ue : Nat) : State :=
  if s.on F.MGN_STATUS_BUSY then
    (((s.marginLoss.set F.MGN_STATUS_BUSY 0).set F.MGN_STATUS_DONE 1).set F.MGN_CE_COUNT ce).set F.MGN_UE_COUNT ue
  else s

end Sys2Proof.Machine
end

