-- ==== Sys2Proof/Machine/CrkBase.lean ====
section
/-! DEFINITION. Cricket cores as the rest of the device sees them: run, halt, reset, mailbox, traps, machine checks, the
cricket sparing map (09_cricket_cores_and_vector_extensions.md R282 to R284, R318 to R324). -/

namespace Sys2Proof.Machine

/-- R286: base of the local store. -/
def storeBase : Nat := 0xFFFFFFFFFFFC0000
/-- Cricket c: 0 to 67 workers, 68 to 71 hob crickets. -/
def State.cricket (s : State) (c : Nat) : Crk := s.crk.look (Crk.reset c) c
/-- Updates cricket c. -/
def State.modCrk (s : State) (c : Nat) (f : Crk → Crk) : State :=
  { s with crk := s.crk.write (Crk.reset c) c (f (s.cricket c)) }

/-- R323: the worker that carries logical cricket L. -/
def State.crkPhys (s : State) (l : Nat) : Option Nat :=
  if l < 64 ∧ s.on (F.CRK_MAP_VALID l) then some (s.get (F.CRK_MAP_PHYS l)) else none
/-- The logical number that worker c carries. -/
def State.crkLogical (s : State) (c : Nat) : Option Nat := (List.range 64).find? fun l => s.crkPhys l == some c
/-- R439: the queue identifier of cricket c; a worker without a logical number has none of the spec's (512 + c). -/
def State.crkQid (s : State) (c : Nat) : Nat :=
  if 68 ≤ c then qidHob (c - 68)
  else match s.crkLogical c with
    | some l => qidWorker l
    | none => 512 + c
/-- The cricket of a queue identifier. -/
def State.crkOfQid (s : State) (k : Nat) : Option Nat :=
  if 128 ≤ k ∧ k < 192 then s.crkPhys (k - 128)
  else if 192 ≤ k ∧ k < 196 then some (68 + (k - 192))
  else if 512 ≤ k then some (k - 512) else none
/-- R323: whether worker c is good. -/
def State.crkGood (s : State) (c : Nat) : Bool :=
  ((s.reg (if c < 32 then R.CRK_GOOD_LO else if c < 64 then R.CRK_GOOD_HI else R.CRK_GOOD_EXT)).toNat).testBit (c % 32)

/-- The source of a cricket's records. -/
def crkKind (c : Nat) : UKind := if c < 68 then .worker else .hob
def crkUnit (c : Nat) : Nat := if c < 68 then c else c - 68

/-- R324, R322: a cricket stops; a stalled wait is withdrawn and the barrier is unchanged. -/
def State.crkRest (s : State) (c : Nat) : State :=
  let s1 := if (s.cricket c).waiting then s.withdraw (s.crkQid c) else s
  s1.modCrk c fun k => { k with halted := true, waiting := false, syncing := false }
/-- R322: a cricket halts by HALT, RUN = 0 or R319: the event is set; RUN keeps what was written (R546). -/
def State.crkHalt (s : State) (c : Nat) : State :=
  if (s.cricket c).halted then s else (s.crkRest c).raise (F.CRK_EVENT_HALTED c)
/-- R322: RUN = 0 is written. -/
def State.crkOff (s : State) (c : Nat) : State := (s.crkHalt c).set (F.CRK_CTRL_RUN c) 0
/-- R515: whether a debug session with the scope for cricket c is open. -/
def State.debugs (s : State) (c : Nat) : Bool :=
  s.on F.SEC_SESSION_OPEN && (s.get F.SEC_SESSION_SCOPE).testBit (if c < 68 then 1 else 2)
/-- R322: a halted cricket starts at CRK_ENTRY at supervisor level. -/
def State.crkRun (s : State) (c : Nat) : State :=
  let s1 := s.set (F.CRK_CTRL_RUN c) 1
  if (s1.cricket c).halted then
    s1.modCrk c fun k => { k with halted := false, rom := false, level := 1, pc := BitVec.ofNat 64 (s1.pair (R.CRK_ENTRY_LO c)) }
  else s1
/-- R322: CRESET: registers, masks, VSTATE, FPSTAT and IN_TRAP clear; ignored while HALTED is 0. -/
def State.crkReset (s : State) (c : Nat) : State :=
  if (s.cricket c).halted then
    s.modCrk c fun k => { k with g := [], v := [], w := [], msk := [], vl := 0, wl := 0, tz := false, mz := false, fpstat := 0, inTrap := false }
  else s
/-- R322: a write of CRK_MAILBOX. -/
def State.mailbox (s : State) (c v : Nat) : State := (s.set (F.CRK_MAILBOX_MSG c) v).raise (F.CRK_EVENT_MAIL c)

/-- R536 class 0x07: a record of a cricket with its address and TCAUSE. -/
def State.crkRecord (s : State) (c : Nat) (addr cause : Nat) : State :=
  s.hwFault .cricket (crkKind c) (crkUnit c) addr cause

/-- R318, R319: a trap of cricket c with a cause and TVAL; with IN_TRAP set it halts the cricket. -/
def State.crkTrap (s : State) (c cause : Nat) (tval : DWord) : State :=
  let k := s.cricket c
  let s1 := (s.raise (F.CRK_EVENT_TRAP c)).setReg (R.CRK_TRAP c) (BitVec.ofNat 32 (cause + k.level * 2 ^ 8 + 2 ^ 31))
  if k.inTrap then
    ((s1.raise (F.CRK_EVENT_DOUBLE c)).crkRecord c k.pc.toNat cause).crkHalt c
  else
    s1.modCrk c fun k => { k with tcause := BitVec.ofNat 64 cause, tval := tval, tpc := k.pc, tlevel := k.level, inTrap := true, level := max 1 k.level, pc := k.tvec }
/-- R320, R360: a machine check: a record with the address, MCHECK and a veto. The record of a read that the far tier failed
names its port. -/
def State.crkMcheck (s : State) (c addr : Nat) : State :=
  let s1 := s.raise (F.CRK_EVENT_MCHECK c)
  let cause := (s.cricket c).tcause.toNat
  if (s.farRange addr).isSome then s1.hwFault .cricket .cxl (s.farPort addr) addr cause else s1.crkRecord c addr cause

/-- R323, R552: the number of logical crickets with a valid map entry. -/
def State.countCrickets (s : State) : State :=
  s.set F.GEN_UNITS_CRICKETS ((List.range 64).filter fun l => (s.crkPhys l).isSome).length
/-- R13, R323, R503: whether the Loaded map entry of logical cricket l stays in force: a good worker of its quadrant that no
lower entry names. -/
def State.crkMapHolds (s : State) (l : Nat) : Bool :=
  match s.crkPhys l with
  | some c => c / 17 == l / 16 && decide (c < 68) && s.crkGood c && !((List.range l).any fun m => s.crkPhys m == some c)
  | none => false
/-- R20, R283: the sparing map at start-up: Loaded entries that hold stay; each other logical cricket takes the lowest good
worker of its quadrant that carries none (log 116). -/
def State.mapCrickets (s : State) : State :=
  let s0 := s.each (List.range 64) fun t l => t.put (F.CRK_MAP_VALID l) (s.crkMapHolds l)
  (s0.each ((List.range 64).filter fun l => !s.crkMapHolds l) fun t l =>
    match ((List.range 17).map fun i => 17 * (l / 16) + i).find? fun c => t.crkGood c && (t.crkLogical c).isNone with
    | some c => (t.set (F.CRK_MAP_PHYS l) c).set (F.CRK_MAP_VALID l) 1
    | none => t).countCrickets

/-- R444: cricket c stalls in a wait that has been released: it goes on behind the instruction when it executes next. -/
def State.crkReleased (s : State) (c : Nat) : Bool := (s.cricket c).waiting && s.wasReleased (s.crkQid c)

/-- R528: a failed worker is replaced by a good worker of its quadrant that carries no logical cricket; none is left: the
logical cricket is lost and the job stops with UNIT_LOST (R529). The spare takes the CODE record that starts this logical
cricket and runs from its entry. -/
def State.spareCricket (s : State) (c : Nat) : State :=
  match s.crkLogical c with
  | none => s
  | some l =>
    let free := ((List.range 17).map fun i => 17 * (l / 16) + i).filter fun d => d != c && s.crkGood d && (s.crkLogical d).isNone
    match free with
    | [] => ((s.set (F.CRK_MAP_VALID l) 0).countCrickets).vetoStop Stop.unitLost.code
    | d :: _ =>
      let s1 := ((s.crkOff c).set (F.CRK_MAP_PHYS l) d).raise F.ERR_EVENT_SPARE_IN
      match s1.hob.code.find? fun r => (Config.codeStarts r.2).getLsbD l with
      | none => s1
      | some (a, p) =>
        let s2 := s1.unitWrite .hob s1.master a (Config.codeBytes p)
        ((s2.setPair (R.CRK_ENTRY_LO d) ((Config.codeEntry p).toNat / 4 * 4)).crkReset d).crkRun d

end Sys2Proof.Machine
end

