-- ==== Sys2Proof/Machine/Kiln.lean ====
section
/-! DEFINITION. The kiln: matrices, contexts, solves, factors and eigenvalue requests
(07_kiln_solver.md R211 to R250). -/

namespace Sys2Proof.Machine

/-- Kiln q. -/
def State.kiln (s : State) (q : Nat) : Kln := s.kln.look Kln.reset q
/-- Updates kiln q. -/
def State.modKln (s : State) (q : Nat) (f : Kln → Kln) : State := { s with kln := s.kln.write Kln.reset q (f (s.kiln q)) }
/-- Gathers the sticky flags of a strict computation into KLN_FPFLAGS (R211). -/
def State.kflags (s : State) (q : Nat) (f : FFlags) : State :=
  s.setReg (R.KLN_FPFLAGS q) (s.reg (R.KLN_FPFLAGS q) ||| BitVec.ofNat 32 ((if f.invalid then 1 else 0) + (if f.divZero then 2 else 0) +
    (if f.overflow then 4 else 0) + (if f.underflow then 8 else 0) + (if f.inexact then 16 else 0)))
/-- Runs a strict computation on kiln q. -/
def State.strictly {α : Type} (s : State) (q : Nat) (m : KM α) : α × State :=
  let (x, f) := m FFlags.none
  (x, s.kflags q f)

/-- A square block. -/
abbrev Blk := List (List Dbl)
/-- A matrix in BCSR: block size, values in fixed point with their TEXP, signature, and the stored blocks of each block row
(R214). -/
structure KMat where
  bs : Nat
  fixed : Bool
  texp : Int
  psig : Nat
  nb : Nat
  nnzb : Nat
  rows : List (List (Nat × Blk))
/-- The dimension of the system. -/
def KMat.n (a : KMat) : Nat := a.nb * a.bs
/-- Signature, block rows, stored blocks, block size, value format of a header. -/
def hdrBs (h : List Byte) : Nat := if (leAt h 0 4).testBit 0 then 8 else 4
def hdrFixed (h : List Byte) : Bool := (leAt h 0 4).testBit 1
def hdrNb (h : List Byte) : Nat := leAt h 4 4
def hdrNnzb (h : List Byte) : Nat := leAt h 8 4
def hdrPsig (h : List Byte) : Nat := leAt h 16 8
/-- R214: a header that breaks its ranges. -/
def hdrBad (s : State) (h : List Byte) : Bool :=
  leAt h 0 4 / 4 != 0 || hdrNb h == 0 || decide (1048576 < hdrNb h) || hdrNnzb h == 0 || decide (2 ^ 27 < hdrNnzb h) ||
  (!hdrFixed h && leAt h 12 1 != 0) || leAt h 13 3 != 0 || !zeroAt h 48 16 ||
  leAt h 24 8 % 64 != 0 || leAt h 32 8 % 64 != 0 || leAt h 40 8 % 64 != 0 || !([leAt h 24 8, leAt h 32 8, leAt h 40 8].all s.inCombHbm)

/-- What reading a matrix gives: the matrix when its arrays keep R215. -/
structure KRd where
  mat : Option KMat
  bad : Option (Nat × Nat)
  st : State

/-- R215: the rules of the arrays. -/
def arraysOk (nb nnzb : Nat) (rp ci : List Nat) : Bool :=
  rp.getD 0 1 == 0 && rp.getD nb 0 == nnzb &&
  (List.range nb).all fun i =>
    let a := rp.getD i 0
    let b := rp.getD (i + 1) 0
    let cs := (ci.drop a).take (b - a)
    decide (a ≤ b) && decide (b ≤ nnzb) && cs.all (fun c => decide (c < nb)) && cs.contains i &&
      (cs.zip (cs.drop 1)).all fun p => decide (p.1 < p.2)

/-- Reads a matrix by its header. -/
def State.readBcsr (s : State) (h : List Byte) : KRd :=
  let nb := hdrNb h
  let nz := hdrNnzb h
  let bs := hdrBs h
  let w := if hdrFixed h then 4 else 8
  let a := s.readMat (leAt h 24 8) 0 1 (nb + 1) 4
  let b := a.st.readMat (leAt h 32 8) 0 1 nz 4
  let v := b.st.readMat (leAt h 40 8) (bs * bs * w) nz (bs * bs) w
  let rp := a.rows.getD 0 []
  let ci := b.rows.getD 0 []
  let tx : Int := toSigned 8 (leAt h 12 1)
  let val (c : Nat) : Dbl := if hdrFixed h then dOf ((elemValue 9 c).scale2 tx) else c
  let blk (k : Nat) : Blk := matOf bs bs fun i j => val (matAt v.rows 0 k (i * bs + j))
  let bad := firstBad a.bad (firstBad b.bad v.bad)
  if !arraysOk nb nz rp ci then ⟨none, bad, v.st⟩
  else
    let rows := (List.range nb).map fun i =>
      (List.range (rp.getD (i + 1) 0 - rp.getD i 0)).map fun j => (ci.getD (rp.getD i 0 + j) 0, blk (rp.getD i 0 + j))
    ⟨some { bs := bs, fixed := hdrFixed h, texp := tx, psig := hdrPsig h, nb := nb, nnzb := nz, rows := rows }, bad, v.st⟩

/-- A vector of 8n bytes of binary64. -/
def State.readVec64 (s : State) (a n : Nat) : List Dbl × Option (Nat × Nat) × State :=
  let r := s.read a (8 * n)
  (codesOf 8 r.bytes n, r.bad, r.st)
/-- Writes a vector in binary64. -/
def State.writeVec64 (s : State) (q a : Nat) (v : List Dbl) : State :=
  s.unitWrite .kiln q a (v.flatMap fun x => leBytes 8 x)

/-- R229: A v, each row a chain over the stored blocks in column order. -/
def KMat.mulVec (a : KMat) (v : List Dbl) : KM (List Dbl) :=
  kmap (fun (p : List (Nat × Blk) × Nat) => kchain (p.1.flatMap fun c => (List.range a.bs).map fun e => (matAt c.2 0 p.2 e, v.getD (c.1 * a.bs + e) 0)))
    (a.rows.flatMap fun r => (List.range a.bs).map fun i => (r, i))
/-- The blocks of a block column, in ascending block row. -/
def KMat.col (a : KMat) (j : Nat) : List (Nat × Blk) :=
  a.rows.zipIdx.filterMap fun (r, i) => (r.find? fun c => c.1 == j).map fun c => (i, c.2)
/-- R229: the transpose of A times v. -/
def KMat.mulVecT (a : KMat) (v : List Dbl) : KM (List Dbl) :=
  kmap (fun (p : Nat × Nat) => kchain ((a.col p.1).flatMap fun c => (List.range a.bs).map fun e => (matAt c.2 0 e p.2, v.getD (c.1 * a.bs + e) 0)))
    ((List.range a.nb).flatMap fun j => (List.range a.bs).map fun i => (j, i))
/-- The product with A or with its transpose (R239). -/
def KMat.apply (a : KMat) (adj : Bool) (v : List Dbl) : KM (List Dbl) := if adj then a.mulVecT v else a.mulVec v
/-- The blocks of row i of A. -/
def KMat.row (a : KMat) (i : Nat) : List (Nat × Blk) := a.rows.getD i []

/-- A block of a vector. -/
def segOf (bs i : Nat) (v : List Dbl) : List Dbl := (v.drop (i * bs)).take bs
/-- y - sum of B x over pairs of block and segment, each element an fma chain in order (log 14). -/
def subBlocks (bs : Nat) (tr : Bool) (y : List Dbl) (l : List (Blk × List Dbl)) : KM (List Dbl) :=
  kmap (fun (p : Dbl × Nat) => kfold (fun acc (t : Dbl × Dbl) => kfma (dNeg t.1) t.2 acc) p.1
    (l.flatMap fun b => (List.range bs).map fun e => (if tr then matAt b.1 0 e p.2 else matAt b.1 0 p.2 e, b.2.getD e 0))) (y.zipIdx)
/-- B x for one block. -/
def mulBlock (bs : Nat) (tr : Bool) (b : Blk) (x : List Dbl) : KM (List Dbl) :=
  kmap (fun i => kchain ((List.range bs).map fun e => (if tr then matAt b 0 e i else matAt b 0 i e, x.getD e 0))) (List.range bs)

/-- The strict part of a factor: L below, inverted diagonal, U above, in the pattern of A. -/
def KMat.diagBlock (a : KMat) (i : Nat) : Blk := match (a.row i).find? fun c => c.1 == i with | some c => c.2 | none => []

/-- Forward sweep over the block rows of a factor in ascending order: `pick` chooses the earlier blocks, `fin` ends a row. -/
def sweepUp (nb bs : Nat) (v : List Dbl) (pick : Nat → List (Nat × Blk)) (tr : Bool) (fin : Nat → List Dbl → KM (List Dbl)) : KM (List (List Dbl)) :=
  kfold (fun (acc : List (List Dbl)) i =>
    kbind (subBlocks bs tr (segOf bs i v) (((pick i).filter fun c => decide (c.1 < i)).map fun c => (c.2, acc.getD c.1 []))) fun y =>
      kbind (fin i y) fun z => kpure (acc ++ [z])) [] (List.range nb)
/-- Backward sweep in descending order over segments. -/
def sweepDown (nb bs : Nat) (v : List (List Dbl)) (pick : Nat → List (Nat × Blk)) (tr : Bool) (fin : Nat → List Dbl → KM (List Dbl)) : KM (List (List Dbl)) :=
  kfold (fun (acc : List (List Dbl)) k =>
    let i := nb - 1 - k
    kbind (subBlocks bs tr (v.getD i []) (((pick i).filter fun c => decide (i < c.1)).map fun c => (c.2, acc.getD (c.1 - i - 1) []))) fun y =>
      kbind (fin i y) fun z => kpure (z :: acc)) [] (List.range nb)

/-- R226, R239: the preconditioner applied to v: none, Jacobi with the diagonal inverses `dg`, or a factor in the pattern
of A. -/
def precApply (kind : Nat) (adj : Bool) (f : KMat) (dg v : List Dbl) : KM (List Dbl) :=
  let stay (_ : Nat) (y : List Dbl) : KM (List Dbl) := kpure y
  let inv (tr : Bool) (i : Nat) (y : List Dbl) : KM (List Dbl) := mulBlock f.bs tr (f.diagBlock i) y
  match kind with
  | 0 => kpure v
  | 1 => kmap (fun (p : Dbl × Dbl) => kmul p.1 p.2) (dg.zip v)
  | 2 => kbind (kmap (fun i => mulBlock f.bs adj (f.diagBlock i) (segOf f.bs i v)) (List.range f.nb)) fun l => kpure l.flatten
  | 3 =>
    -- L D L^T: forward, diagonal, backward
    kbind (sweepUp f.nb f.bs v f.row false stay) fun y =>
      kbind (kmap (fun (p : List Dbl × Nat) => inv false p.2 p.1) y.zipIdx) fun z =>
        kbind (sweepDown f.nb f.bs z f.row false stay) fun x => kpure x.flatten
  | _ =>
    if adj then
      kbind (sweepUp f.nb f.bs v f.col true (inv true)) fun y =>
        kbind (sweepDown f.nb f.bs y f.col true stay) fun x => kpure x.flatten
    else
      kbind (sweepUp f.nb f.bs v f.row false stay) fun y =>
        kbind (sweepDown f.nb f.bs y f.row false (inv false)) fun x => kpure x.flatten

/-! ## Commands and contexts -/

/-- Fields of a command (R219, R220). -/
def slDir (d : List Byte) : Bool := (leAt d 0 4).testBit 8
def slGrad (d : List Byte) : Bool := (leAt d 0 4).testBit 9
def slMethod (d : List Byte) : Nat := bitsOf (leAt d 8 4) 1 0
def slRestart (d : List Byte) : Nat := bitsOf (leAt d 8 4) 7 2 + 1
def slPrec (d : List Byte) : Nat := bitsOf (leAt d 8 4) 10 8
def slWarm (d : List Byte) : Nat := bitsOf (leAt d 8 4) 12 11
def slShift (d : List Byte) : Bool := (leAt d 8 4).testBit 13
def slClass (d : List Byte) : Bool := (leAt d 8 4).testBit 14
def slRetry (d : List Byte) : Bool := (leAt d 8 4).testBit 15
def slCtx (d : List Byte) : Nat := leAt d 12 2
def slCap (d : List Byte) : Nat := leAt d 14 2
def slTol (d : List Byte) : Dbl := leAt d 16 8
/-- R239: the solve runs with the transpose; CG requires a symmetric A and runs unchanged. -/
def slAdj (d : List Byte) : Bool := slDir d && slMethod d != 0
def slDeadline (d : List Byte) : Nat := leAt d 24 8 % 2 ^ 48
def slCycle (d : List Byte) : Nat := leAt d 32 8
def slMatrix (d : List Byte) : Nat := leAt d 40 8
def slB (d : List Byte) : Nat := leAt d 48 8
def slX0 (d : List Byte) : Nat := leAt d 56 8
def slWork (d : List Byte) : Nat := leAt d 64 8
def slOut (d : List Byte) : Nat := leAt d 72 8
def slGradBase (d : List Byte) : Nat := leAt d 80 8
def slSpark (d : List Byte) : Nat := leAt d 92 2
def slRec (d : List Byte) : Nat := leAt d 128 8
def slCert (d : List Byte) : Nat := leAt d 136 8

/-- Address of one of the two states of a context. -/
def ctxAddr (base c half : Nat) : Nat := base + 256 * c + 128 * half
/-- What reading a context gives: the incoming state with its address, the current state (R223, R224). -/
structure CtxRd where
  inc : List Byte
  addr : Nat
  cur : List Byte
  sel : Nat
  bad : Option (Nat × Nat)
  st : State
/-- R223, R224, R522: both states of context c of kiln q; its selector bit in the commit area tells which is current. -/
def State.ctxRead (s : State) (q base c : Nat) : CtxRd :=
  let i := 64 * q + c
  let w := s.read (s.pair R.ERR_CBASE_LO + 64 + 4 * (i / 32)) 4
  let sel := ((leNat w.bytes).testBit (i % 32)).toNat
  let m := w.st.read (ctxAddr base c (1 - sel)) 128
  let u := m.st.read (ctxAddr base c sel) 128
  ⟨m.bytes, ctxAddr base c (1 - sel), u.bytes, sel, firstBad w.bad (firstBad m.bad u.bad), u.st⟩
/-- Roles of a context state by number: FWARM 0, FH0 1, FH1 2, FOUT 3, AWARM 4, AH0 5, AH1 6, AOUT 7 (R223). -/
def ctxRole (st : List Byte) (i : Nat) : Nat :=
  if i < 6 then bitsOf (leAt st 12 4) (5 * i + 4) (5 * i) else bitsOf (leAt st 16 4) (5 * (i - 6) + 4) (5 * (i - 6))
/-- A context state with a role set. -/
def ctxSetRole (st : List Byte) (i v : Nat) : List Byte :=
  let (o, k) := if i < 6 then (12, i) else (16, i - 6)
  let w := setBits (BitVec.ofNat 32 (leAt st o 4)) (5 * k) 5 v
  st.take o ++ leBytes 4 w.toNat ++ st.drop (o + 4)
/-- A context state with bytes replaced. -/
def ctxSet (st : List Byte) (o n v : Nat) : List Byte := st.take o ++ leBytes n v ++ st.drop (o + n)
/-- No slot. -/
def noSlot : Nat := 0x1F
/-- The roles of a direction: WARM, H0, H1, OUT, and the offsets of the cycles of H0 and H1. -/
def dirRole (adj : Bool) (i : Nat) : Nat := if adj then 4 + i else i
def dirCycle (adj : Bool) (i : Nat) : Nat := (if adj then 40 else 24) + 8 * i
/-- Address of vector slot i (R223). -/
def ctxSlot (st : List Byte) (i n : Nat) : Nat := leAt st 56 8 + i * 8 * n
/-- R225: the lowest slots that neither state names. -/
def ctxFree (a b : List Byte) : List Nat :=
  (List.range 18).filter fun i => !((List.range 8).any fun r => ctxRole a r == i || ctxRole b r == i)

/-- R246: the completion record of a command that ends without a solve behind it. -/
def State.klnRecord (s : State) (q : Nat) (c : QCmd) (status flags iters : Nat) (res r0 : Nat) (charged restarts : Nat) : State :=
  let (cyc, s1) := s.fresh 64
  let a := slRec c.bytes
  if a = 0 ∨ a % 64 ≠ 0 then s1
  else s1.writeRecord .kiln q a
    (leBytes 4 c.tag ++ leBytes 1 status ++ leBytes 1 flags ++ leBytes 2 iters ++ leBytes 8 res ++ leBytes 8 r0 ++ leBytes 8 charged ++
      leBytes 8 cyc ++ leBytes 4 restarts ++ leBytes 20 0)
/-- R246: record, spark, and the flags of an unconverged status. A wait for the spark of a SOLVE counts under imbalance
(R233). -/
def State.klnFinish (s : State) (q : Nat) (c : QCmd) (status flags iters res r0 charged restarts : Nat) : State :=
  let s0 := s.klnRecord q c status flags iters res r0 charged restarts
  let s1 := (if c.op = 1 then s0.noteDelay (qidKiln q) 5 else s0).spark (slSpark c.bytes) (some (qidKiln q))
  if 2 ≤ status ∧ status ≤ 5 then (s1.raise (F.KLN_EVENT_NONCONV q)).count (F.KLN_NONCONV_VALUE q) 1 else s1
/-- R222: a rejected command. -/
def State.klnReject (s : State) (q : Nat) (c : QCmd) : State :=
  ((s.raise (F.KLN_EVENT_REJECT q)).descRecord .kiln q c.addr c.tag).klnFinish q c 0x10 0 0 0 0 0 0

/-- R247: an uncorrectable read by kiln q. -/
def State.klnFault (s : State) (q : Nat) (b : Nat × Nat) : State := (s.raise (F.KLN_EVENT_MEMERR q)).memFault .kiln q b.1 b.2

/-- R219, R222: the parts of a command's checks that SOLVE and FACTOR share. -/
def klnCommonBad (s : State) (q : Nat) (d : List Byte) : Bool :=
  let r := slRec d
  bitsOf (slSpark d) 14 12 != 0 || bitsOf (leAt d 94 2) 14 12 != 0 || (r != 0 && (r % 64 != 0 || !s.recAddrOk r)) ||
  slDeadline d == 0 || leAt d 24 8 / 2 ^ 48 != 0 || decide (s.get (F.KLN_NCTX_COUNT q) ≤ slCtx d) || addrBad (slMatrix d) ||
  bitsOf (leAt d 8 4) 31 16 != 0

/-- R221, R222: whether a SOLVE is rejected; `h` is the matrix header, `st` the context's incoming state. -/
def solveBad (s : State) (q : Nat) (d h st : List Byte) : Bool :=
  let fb := fblockAt d 96
  let fo := fblockAt d 112
  let n := hdrNb h * hdrBs h
  let cls := slClass d
  let fl (c : Nat) : Bool := decide (c ≤ 5)
  let tol := val64 (slTol d)
  let h0 := ctxRole st (dirRole (slDir d) 1)
  klnCommonBad s q d || hdrBad s h || leAt d 0 4 / 2 ^ 10 != 0 || slMethod d == 3 || (slMethod d != 2 && slRestart d != 1) || decide (5 ≤ slPrec d) ||
  slWarm d == 3 || slCap d == 0 || !paramOk tol || addrBad (slB d) || addrBad (slX0 d) || addrBad (slWork d) || addrBad (slOut d) ||
  addrBad (slGradBase d) || addrBad (slCert d) || (slWarm d != 2 && slX0 d != 0) || (!slGrad d && (slGradBase d != 0 || leAt d 88 4 != 0)) ||
  decide (2 ≤ leAt d 88 4) || (!cls && slCert d != 0) || !zeroAt d 144 48 || (slOut d == 0 && !fo.isZero) ||
  (slMethod d == 0 && slPrec d == 4) || fb.bad (fb.grid .a 1 n).2 || inFar fb.base ||
  (if cls then !(fb.elem == 8 || fb.elem == 9) else !fl fb.elem) ||
  (slOut d != 0 && (fo.bad (fo.grid .out 1 n).2 || inFar fo.base ||
    (if cls then !(fo.elem == 0 || fo.elem == 1 || fo.elem == 8 || fo.elem == 9) || fo.scale != 0
     else !fl fo.elem || fo.scale == 2 || (fo.scale == 1 && fo.sdir != 0)))) ||
  (cls && (slDir d || slMethod d != 0 || slPrec d != 0 || slCert d == 0 || !hdrFixed h)) || (!cls && (hdrFixed h || slRetry d)) ||
  (slGrad d && !slDir d) || (slGrad d && (leAt st 0 8 != hdrPsig h || leAt st 8 4 != n || ctxRole st 3 == noSlot)) ||
  (h0 != noSlot && decide (slCycle d < leAt st (dirCycle (slDir d) 0) 8))

/-- R248: the output, its scale tensor and the gradient of an aborted SOLVE are undefined: free bytes. -/
def State.solveVoid (s : State) (d h : List Byte) : State :=
  let n := hdrNb h * hdrBs h
  let fo := fblockAt d 112
  let s1 := if slOut d = 0 then s else s.undefRows (slOut d) 0 1 (n * elemBytes fo.elem)
  let s2 := if slOut d = 0 ∨ fo.scale = 0 then s1 else s1.undefRows fo.base 0 1 (fo.grid .out 1 n).2
  if slGrad d then s2.undefRows (slGradBase d) 0 1 (hdrNnzb h * hdrBs h * hdrBs h * elemBytes (leAt d 88 4)) else s2
/-- R248: what the abort of a command of kiln q leaves undefined; a command that would be rejected has no outputs. -/
def State.kilnVoid (s : State) (q : Nat) (c : QCmd) : State :=
  let d := c.bytes
  if c.op ≠ 1 ∨ klnCommonBad s q d then s
  else
    let h := (s.read (slMatrix d) 64).bytes
    if solveBad s q d h (s.ctxRead q (s.pair (R.KLN_CTXBASE_LO q)) (slCtx d)).inc then s else s.solveVoid d h

/-- The command queue of kiln q (R217). -/
def kilnQ (q : Nat) : QI where
  kind := .kiln
  unit := q
  qid := some (qidKiln q)
  slotBytes := 192
  depth := 1
  base := R.KLN_QBASE_LO q
  size := F.KLN_QSIZE_ENTRIES q
  head := F.KLN_QHEAD_HEAD q
  tail := F.KLN_QTAIL_TAIL q
  res := F.KLN_ABORT_RES_RESULT q
  evAborted := F.KLN_EVENT_ABORTED q
  evReject := some (F.KLN_EVENT_REJECT q)
  cap := 4096
  en := fun t => t.on (F.KLN_CTRL_EN q)
  empties := true
  bar := fun b => leAt b 94 2
  known := fun o => o == 1 || o == 2 || o == 3
  grab := plainGrab
  finish := fun t c st => t.klnFinish q c st 0 0 0 0 0 0
  reject := fun t c => t.klnReject q c
  void := fun t c => t.kilnVoid q c

/-! ## Costs (R231) -/

/-- Vector passes. -/
def costV (fixed : Bool) (n : Nat) : Nat := ceilDiv ((if fixed then 4 else 8) * n) 1024
def KMat.costX (a : KMat) : Nat := 4 * (a.nnzb + a.nb + 1)
def KMat.costS (a : KMat) (fixed : Bool) : Nat :=
  ceilDiv (a.nnzb * a.bs * a.bs * (if fixed then 4 else 8) + a.costX) 1024 + 2 * costV fixed a.n
def KMat.costP (a : KMat) (kind : Nat) : Nat :=
  match kind with
  | 0 => 0
  | 1 => 3 * costV false a.n
  | 2 => ceilDiv (a.nb * a.bs * a.bs * 8) 1024 + 2 * costV false a.n
  | _ => ceilDiv (a.nnzb * a.bs * a.bs * 8 + 2 * a.costX) 1024 + 4 * costV false a.n + 8 * a.nb
/-- Setup. -/
def KMat.costSetup (a : KMat) (fixed : Bool) (kind : Nat) : Nat :=
  a.costS fixed + 4 * costV fixed a.n + 48 + (if kind = 1 then 2 * costV fixed a.n + ceilDiv a.n 16 else 0)
/-- One iteration of a method; GMRES inner iteration j, with a restart of length m when `re`. -/
def KMat.costIter (a : KMat) (fixed : Bool) (method kind j : Nat) : Nat :=
  let v := costV fixed a.n
  match method with
  | 0 => a.costS fixed + a.costP kind + 13 * v + 96
  | 1 => 2 * a.costS fixed + 2 * a.costP kind + 22 * v + 192
  | _ => a.costS fixed + a.costP kind + (5 * j + 7) * v + (j + 2) * 48
def KMat.costRestart (a : KMat) (m : Nat) : Nat := a.costS false + (m + 3) * costV false a.n + 48

/-! ## Vectors of a solve -/

/-- R221: reads b, widened to binary64. -/
def State.readB (s : State) (d : List Byte) (n : Nat) : List Dbl × Option (Nat × Nat) × State :=
  let f := fblockAt d 96
  let w := elemBytes f.elem
  let r := s.read (slB d) (n * w)
  let g := (f.grid .a 1 n).2
  let z := if f.scale = 0 then ⟨[], none, r.st⟩ else r.st.read f.base g
  let cs := codesOf w r.bytes n
  (cs.zipIdx.map fun (c, i) => dOf (decodeScaled f c (if f.scale = 0 then 0 else leAt z.bytes (f.cell .a 0 i).2 1)), firstBad r.bad z.bad, z.st)

/-- R68: a binary64 datum divided by 2^k, strict. -/
def kscale (x : Dbl) (k : Int) : KM Dbl :=
  if k = 0 ∨ fmt64.isNanBits x then kpure x else kround (fmt64.roundF ((val64 x).scale2 (-k)))
/-- R221: one element of the converted output, with its overflow (R63); binary64 is strict (R65, R68). -/
def outCode (f : FBlock) (v : Dbl) (sc : FV) : KM (Nat × Bool) :=
  if f.elem = 0 then kbind (kscale v f.texp) fun c => kpure (c, false)
  else
    let c := convFast f.elem (quotScale fmt64 (val64 v) sc f.texp)
    kpure (c.bits, c.ovf)
/-- R221, R234: the converted copy of a solution at the output base. Answers whether an element saturated. -/
def State.writeOut (s : State) (q : Nat) (d : List Byte) (x : List Dbl) : Bool × State :=
  let f := fblockAt d 112
  let w := elemBytes f.elem
  let n := x.length
  if slOut d = 0 then (false, s)
  else
    let g := (f.grid .out 1 n).2
    let scs := (List.range g).map fun c =>
      if f.scale = 0 then 0
      else freeRowScale f ((((x.drop (c * f.blockLen)).take f.blockLen).map val64).foldl maxMag none)
    let (cs, s0) := s.strictly q (kmap (fun (p : Dbl × Nat) =>
      outCode f p.1 (scaleValue f.scale (if f.scale = 0 then 0 else scs.getD (f.cell .out 0 p.2).2 0))) x.zipIdx)
    let s1 := s0.unitWrite .kiln q (slOut d) (cs.flatMap fun c => leBytes w c.1)
    let s2 := if f.scale = 0 then s1 else s1.unitWrite .kiln q f.base (scs.flatMap fun c => leBytes 1 c)
    (cs.any (·.2), s2)

/-- R220: the work region holds the method's vectors; what it holds is not laid out: free bytes. -/
def State.scribble (s : State) (d : List Byte) (n : Nat) (fixed : Bool) : State :=
  let v := if fixed then 4 * n else ceilDiv (8 * n) 64 * 64
  let k := match slMethod d with
    | 0 => 5
    | 1 => 8
    | _ => slRestart d + 4
  s.undefRows (slWork d) v k v

/-- R223: address of the diagonal-inverse slot of a context state. -/
def ctxDiag (st : List Byte) (n : Nat) : Nat := ctxSlot st 18 n

/-- The factor of a context read in the pattern of A: block-Jacobi holds diagonal blocks only (R223). -/
def State.readFactor (s : State) (a : KMat) (st : List Byte) : KMat × Option (Nat × Nat) × State :=
  let kind := leAt st 72 4 % 8
  let base := leAt st (80 + 8 * (leAt st 72 4 / 8 % 2)) 8
  let m := a.bs * a.bs
  let cnt := if kind = 2 then a.nb else a.nnzb
  let r := s.readMat base (m * 8) cnt m 8
  let blk (k : Nat) : Blk := matOf a.bs a.bs fun i j => matAt r.rows 0 k (i * a.bs + j)
  let rows :=
    if kind = 2 then (List.range a.nb).map fun i => [(i, blk i)]
    else (a.rows.foldl (fun (acc : List (List (Nat × Blk)) × Nat) row =>
      (acc.1 ++ [row.zipIdx.map fun (c, j) => (c.1, blk (acc.2 + j))], acc.2 + row.length)) ([], 0)).1
  ({ a with rows := rows }, r.bad, r.st)

/-- What the preconditioner of a solve reads: the factor, or the diagonal inverses. -/
structure KPrec where
  f : KMat
  dg : List Dbl
  bad : Option (Nat × Nat)
  st : State
/-- Reads what the preconditioner in use needs. -/
def State.readPrec (s : State) (a : KMat) (kind : Nat) (st : List Byte) : KPrec :=
  match kind with
  | 0 => ⟨a, [], none, s⟩
  | 1 => let (v, b, s1) := s.readVec64 (ctxDiag st a.n) a.n; ⟨a, v, b, s1⟩
  | _ => let (f, b, s1) := s.readFactor a st; ⟨f, [], b, s1⟩

/-! ## The methods (R228, R242) -/

/-- What one iteration leads to: 0 goes on, 1 converged, 2 breakdown, 3 breach. -/
structure KStep where
  sol : Solve
  stop : Nat

/-- Whether a scalar is unusable: not finite. -/
def badScalar (v : Dbl) : Bool := !dIsFin v
/-- R228: a non-finite scalar is a breakdown of the solve as it stands. -/
def kscalar (v : Dbl) (z : Solve) (go : KM KStep) : KM KStep := if badScalar v then kpure ⟨z, 2⟩ else go
/-- The residual test: norm ≤ tol × norm(b), rounded once (R229). -/
def resTest (v : Dbl) (z : Solve) : KM Bool := kbind (kmul (slTol z.cmd.bytes) z.bnorm) fun t => kpure (dLe v t)

/-- One iteration of CG. -/
def cgStep (a : KMat) (pc : List Dbl → KM (List Dbl)) (z : Solve) : KM KStep :=
  kbind (a.mulVec z.p) fun q => kbind (kdot z.p q) fun pq =>
  if dLe pq 0 then kpure ⟨z, 2⟩
  else kscalar pq z <|
    kbind (kdiv z.rho pq) fun al => kscalar al z <|
    kbind (kaxpy al z.p z.x) fun x => kbind (kaxpy (dNeg al) q z.r) fun r => kbind (knorm r) fun nr =>
    let z1 := { z with x := x, r := r, res := nr, xres := nr }
    kscalar nr z1 <| kbind (resTest nr z) fun ok =>
    if ok then kpure ⟨z1, 1⟩
    else
      kbind (pc r) fun zz => kbind (kdot r zz) fun rz1 => kscalar rz1 z1 <|
      kbind (kdiv rz1 z.rho) fun be => kscalar be z1 <|
      kbind (kaxpy be z.p zz) fun p => kpure ⟨{ z1 with z := zz, p := p, rho := rz1 }, 0⟩

/-- One iteration of BiCGSTAB; `z.z` holds the shadow residual. -/
def biStep (a : KMat) (pc : List Dbl → KM (List Dbl)) (adj : Bool) (z : Solve) : KM KStep :=
  kbind (pc z.p) fun ph => kbind (a.apply adj ph) fun v => kbind (kdot z.z v) fun rv =>
  if dIsZero rv then kpure ⟨z, 2⟩
  else kscalar rv z <|
    kbind (kdiv z.rho rv) fun al => kscalar al z <| kbind (kaxpy (dNeg al) v z.r) fun s => kbind (knorm s) fun ns =>
    kscalar ns z <| kbind (resTest ns z) fun ok1 =>
    if ok1 then kbind (kaxpy al ph z.x) fun x => kpure ⟨{ z with x := x, r := s, res := ns, xres := ns }, 1⟩
    else
      kbind (pc s) fun sh => kbind (a.apply adj sh) fun t => kbind (kdot t t) fun tt =>
      if dIsZero tt then kpure ⟨z, 2⟩
      else kscalar tt z <|
        kbind (kdot t s) fun ts => kscalar ts z <| kbind (kdiv ts tt) fun om => kscalar om z <|
        kbind (kaxpy al ph z.x) fun x1 => kbind (kaxpy om sh x1) fun x => kbind (kaxpy (dNeg om) t s) fun r => kbind (knorm r) fun nr =>
        let z1 := { z with x := x, r := r, res := nr, xres := nr }
        kscalar nr z1 <| kbind (resTest nr z) fun ok2 =>
        if ok2 then kpure ⟨z1, 1⟩
        else
          kbind (kdot z.z r) fun rho1 =>
          if dIsZero om || dIsZero rho1 then kpure ⟨z1, 2⟩
          else kscalar rho1 z1 <|
            kbind (kdiv rho1 z.rho) fun b1 => kscalar b1 z1 <| kbind (kdiv al om) fun b2 => kscalar b2 z1 <|
            kbind (kmul b1 b2) fun be => kscalar be z1 <|
            kbind (kaxpy (dNeg om) v z.p) fun p1 => kbind (kaxpy be p1 r) fun p => kpure ⟨{ z1 with p := p, rho := rho1 }, 0⟩

/-- Applies the rotations so far to a column. -/
def rotate (rot : List (Dbl × Dbl)) (h : List Dbl) : KM (List Dbl) :=
  kfold (fun (h : List Dbl) (p : (Dbl × Dbl) × Nat) =>
    let a := h.getD p.2 0
    let b := h.getD (p.2 + 1) 0
    kbind (kmul p.1.2 b) fun sb => kbind (kfma p.1.1 a sb) fun a1 => kbind (kmul p.1.1 b) fun cb => kbind (kfma (dNeg p.1.2) a cb) fun b1 =>
    kpure ((h.set p.2 a1).set (p.2 + 1) b1)) h rot.zipIdx

/-- b - A x. -/
def residual (a : KMat) (adj : Bool) (b x : List Dbl) : KM (List Dbl) :=
  kbind (a.apply adj x) fun ax => kmap (fun (p : Dbl × Dbl) => ksub p.1 p.2) (b.zip ax)
/-- GMRES: starts a cycle from r and its norm: v[0], g. -/
def gmFirst (r : List Dbl) (g0 : Dbl) (z : Solve) : KM Solve :=
  kbind (kmap (fun e => kdiv e g0) r) fun v0 => kpure { z with r := r, xres := g0, vs := [v0], hs := [], rot := [], g := [g0] }
/-- GMRES: a restart: r, g0, v[0] from the x formed. -/
def gmRestart (a : KMat) (adj : Bool) (b : List Dbl) (z : Solve) : KM KStep :=
  kbind (residual a adj b z.x) fun r => kbind (knorm r) fun g0 =>
  if dIsZero g0 then kpure ⟨z, 2⟩ else kscalar g0 z <| kbind (gmFirst r g0 z) fun z1 => kpure ⟨z1, 0⟩

/-- GMRES: y by back substitution, highest index first; none at a non-finite y[i]. -/
def gmBack (z : Solve) : KM (Option (List Dbl)) :=
  let m := z.hs.length
  kfold (fun (y : Option (List Dbl)) k =>
    match y with
    | none => kpure none
    | some y =>
      let i := m - 1 - k
      -- y holds y[i+1] onwards
      kbind (kfold (fun acc (p : Dbl × Nat) => kfma (dNeg (matAt z.hs 0 (i + 1 + p.2) i)) p.1 acc) (z.g.getD i 0) y.zipIdx) fun t =>
        kbind (kdiv t (matAt z.hs 0 i i)) fun yi => kpure (if badScalar yi then none else some (yi :: y))) (some []) (List.range m)
/-- GMRES: x from the inner iterations made so far; none: a breakdown. -/
def gmForm (pc : List Dbl → KM (List Dbl)) (z : Solve) : KM (Option (List Dbl)) :=
  let m := z.hs.length
  kbind (gmBack z) fun o =>
  match o with
  | none => kpure none
  | some y =>
    kbind (kmap (fun e => kchain ((List.range m).map fun i => (y.getD i 0, matAt z.vs 0 i e))) (List.range z.x.length)) fun u =>
    kbind (pc u) fun pu => kbind (kmap (fun (p : Dbl × Dbl) => kadd p.1 p.2) (z.x.zip pu)) fun x => kpure (some x)

/-- GMRES: the modified Gram-Schmidt sweep: w and the column of h; none at a non-finite h[i][j]. -/
def gmOrtho (vs : List (List Dbl)) (w : List Dbl) : KM (Option (List Dbl × List Dbl)) :=
  kfold (fun (acc : Option (List Dbl × List Dbl)) v =>
    match acc with
    | none => kpure none
    | some (w, hs) => kbind (kdot w v) fun h =>
        if badScalar h then kpure none else kbind (kaxpy (dNeg h) v w) fun w1 => kpure (some (w1, hs ++ [h]))) (some (w, [])) vs

/-- One inner iteration of GMRES. Converged also when h[j+1][j] = 0; at the end of a cycle that goes on, the restart. -/
def gmStep (a : KMat) (pc : List Dbl → KM (List Dbl)) (adj : Bool) (b : List Dbl) (m cap : Nat) (z : Solve) : KM KStep :=
  let j := z.hs.length
  kbind (pc (z.vs.getD j [])) fun pv => kbind (a.apply adj pv) fun w0 => kbind (gmOrtho z.vs w0) fun o =>
  match o with
  | none => kpure ⟨z, 2⟩
  | some (w, hs) =>
    kbind (knorm w) fun hn => kscalar hn z <| kbind (rotate z.rot (hs ++ [hn])) fun hc =>
    if hc.any badScalar then kpure ⟨z, 2⟩
    else
      let hj := hc.getD j 0
      kbind (kmul hn hn) fun h2 => kbind (kfma hj hj h2) fun ss => kbind (ksqrt ss) fun rho =>
      if dIsZero rho then kpure ⟨z, 2⟩
      else kscalar rho z <|
        kbind (kdiv hj rho) fun c => kbind (kdiv hn rho) fun sn => kbind (rotate (List.replicate j (dOne, 0) ++ [(c, sn)]) hc) fun hc1 =>
        let gj := z.g.getD j 0
        kbind (kmul c gj) fun g0 => kbind (kmul (dNeg sn) gj) fun g1 =>
        if hc1.any badScalar || badScalar g0 || badScalar g1 then kpure ⟨z, 2⟩
        else
          kbind (resTest (dAbs g1) z) fun ok =>
          let z1 := { z with hs := z.hs ++ [hc1.take (j + 1)], rot := z.rot ++ [(c, sn)], g := z.g.take j ++ [g0, g1], res := dAbs g1 }
          let done := ok || dIsZero hn
          if done || z.iters + 1 == cap || j + 1 == m then
            kbind (gmForm pc z1) fun o =>
            match o with
            | none => kpure ⟨z1, 2⟩
            | some x =>
              let z2 := { z1 with x := x, xres := dAbs g1, vs := [], hs := [], rot := [], g := [] }
              if done then kpure ⟨z2, 1⟩
              else if z.iters + 1 == cap then kpure ⟨z2, 0⟩
              else gmRestart a adj b { z2 with restarts := z2.restarts + 1 }
          else kbind (kmap (fun e => kdiv e hn) w) fun v => kpure ⟨{ z1 with vs := z1.vs ++ [v] }, 0⟩

/-- R228: what a method does between the test of r0 and its first iteration. -/
def methodStart (pc : List Dbl → KM (List Dbl)) (z : Solve) : KM KStep :=
  if z.fixed then kpure ⟨z, 0⟩
  else match slMethod z.cmd.bytes with
    | 0 => kbind (pc z.r) fun zz => kbind (kdot z.r zz) fun rz =>
        kscalar rz z <| kpure ⟨{ z with z := zz, p := zz, rho := rz }, 0⟩
    | 1 => kbind (kdot z.r z.r) fun rho => kscalar rho z <| kpure ⟨{ z with z := z.r, p := z.r, rho := rho }, 0⟩
    | _ => kbind (gmFirst z.r z.res z) fun z1 => kpure ⟨z1, 0⟩

/-- Converts a value to Q2.30 at a tensor exponent: the value held, and whether it saturated (R242). -/
def toFix (tx : Int) (v : Dbl) : Dbl × Bool :=
  let c := convFast 9 ((val64 v).scale2 (-tx))
  (dOf ((elemValue 9 c.bits).scale2 tx), c.ovf || c.inv)
/-- Converts a vector. -/
def vecFix (tx : Int) (v : List Dbl) : List Dbl × Bool := (v.map fun x => (toFix tx x).1, v.any fun x => (toFix tx x).2)
/-- An exact sum of products, rounded once to binary64 (R213, R242). -/
def exactDot (l : List (Dbl × Dbl)) : KM Dbl :=
  kround (fmt64.roundF (l.foldl (fun acc p => acc.add ((val64 p.1).mul (val64 p.2))) FV.zero))
/-- An exact dot product. -/
def fixDot (a b : List Dbl) : KM Dbl := exactDot (a.zip b)
/-- A v, each element an exact sum rounded once to binary64. -/
def KMat.fixMul (a : KMat) (v : List Dbl) : KM (List Dbl) :=
  kmap (fun (p : List (Nat × Blk) × Nat) =>
    exactDot (p.1.flatMap fun c => (List.range a.bs).map fun e => (matAt c.2 0 p.2 e, v.getD (c.1 * a.bs + e) 0)))
    (a.rows.flatMap fun r => (List.range a.bs).map fun i => (r, i))
/-- TEXP of x, r, p, q (0 to 3) in entry k of a certificate (R241). -/
def kcTexp (c : List Byte) (k i : Nat) : Int := toSigned 8 (leAt c (16 + 8 * k + i) 1)
/-- R241, R242: the residual bound of entry k holds. -/
def kcHolds (c : List Byte) (k : Nat) (nr bn : Dbl) : KM Bool :=
  kbind (kdiv nr bn) fun r => kpure ((val64 r).le (val32 (leAt c (20 + 8 * k) 4)))
/-- R241: the header of a certificate. -/
def kcOk (d c : List Byte) : Bool := leAt c 0 2 == 2 && zeroAt c 4 12 && decide (slCap d ≤ leAt c 2 2)

/-- R242: one iteration of the fixed-point CG. -/
def fixStep (a : KMat) (c : List Byte) (z : Solve) : KM KStep :=
  let k := z.iters + 1
  kbind (a.fixMul z.p) fun q0 =>
  let (q, o1) := vecFix (kcTexp c k 3) q0
  if o1 then kpure ⟨z, 3⟩
  else kbind (fixDot z.p q) fun pq =>
  if dLe pq 0 then kpure ⟨z, 2⟩
  else
    kbind (kdiv z.rho pq) fun al => kscalar al z <|
    kbind (kaxpy al z.p z.x) fun x0 => kbind (kaxpy (dNeg al) q z.r) fun r0 =>
    let (x, o2) := vecFix (kcTexp c k 0) x0
    let (r, o3) := vecFix (kcTexp c k 1) r0
    if o2 || o3 then kpure ⟨z, 3⟩
    else
      kbind (fixDot r r) fun rr => kbind (ksqrt rr) fun nr =>
      let z1 := { z with x := x, r := r, res := nr, xres := nr }
      kbind (kcHolds c k nr z.bnorm) fun held =>
      if !held then kpure ⟨z1, 3⟩
      else kbind (resTest nr z) fun ok =>
        if ok then kpure ⟨z1, 1⟩
        else kbind (kdiv rr z.rho) fun be => kscalar be z1 <| kbind (kaxpy be z.p r) fun p0 =>
          let (p, o4) := vecFix (kcTexp c k 2) p0
          kpure ⟨{ z1 with p := p, rho := rr }, if o4 then 3 else 0⟩

/-! ## The course of a SOLVE -/

/-- Bits of the record's flags (R246). -/
def kfWarmDisc : Nat := 1
def kfPrecFall : Nat := 2
def kfShifted : Nat := 4
def kfWarmKept : Nat := 8
def kfNoPrior : Nat := 16
def kfOutSat : Nat := 32
def kfRetried : Nat := 64

/-- R246: the ratios of a record, ‖r‖ / ‖b‖ and ‖r0‖ / ‖b‖. With a ‖b‖ that is zero, or that the command has not formed, they
have no value: both are free (log 6). -/
def State.solveRatios (s : State) (q : Nat) (z : Solve) : (Dbl × Dbl) × State :=
  if dIsZero z.bnorm then
    let (a, s1) := s.fresh 64
    let (b, s2) := s1.fresh 64
    ((a, b), s2)
  else s.strictly q (kbind (kdiv z.res z.bnorm) fun a => kbind (kdiv z.r0 z.bnorm) fun b => kpure (a, b))
/-- The end of the command in progress of kiln q. -/
def State.solveEnd (s : State) (q : Nat) (z : Solve) (status : Nat) : State :=
  let st := s.endStatus .kiln q status
  let s := if st = status then s else s.raise (F.KLN_EVENT_MEMERR q)
  let ((a, b), s1) := (s.modKln q fun k => { k with run := none }).solveRatios q z
  (s1.klnFinish q z.cmd st z.flags z.iters a b z.charged z.restarts).endHead (kilnQ q)
/-- Ends a command whose reads met an uncorrectable granule. -/
def State.kilnMemEnd (s : State) (q : Nat) (z : Solve) (b : Nat × Nat) : State := (s.klnFault q b).solveEnd q z 0x12

/-- R235: the time-shifted solution of a direction at cycle c. Answers it and the flags. -/
def State.shifted (s : State) (q : Nat) (st : List Byte) (d : List Byte) (n : Nat) : List Dbl × Nat × Option (Nat × Nat) × State :=
  let adj := slDir d
  let a0 := ctxRole st (dirRole adj 1)
  let a1 := ctxRole st (dirRole adj 2)
  if a0 = noSlot then (zeros n, kfShifted + kfNoPrior, none, s)
  else
    let (h0, b0, s1) := s.readVec64 (ctxSlot st a0 n) n
    if !slShift d || a1 == noSlot then (h0, kfShifted, b0, s1)
    else
      let (h1, b1, s2) := s1.readVec64 (ctxSlot st a1 n) n
      let c0 := leAt st (dirCycle adj 0) 8
      let c1 := leAt st (dirCycle adj 1) 8
      let (x, s3) := s2.strictly q (kbind (kround (fmt64.divF (FV.ofInt ((slCycle d : Nat) - (c0 : Int))) (FV.ofInt ((c0 : Nat) - (c1 : Int))))) fun h =>
        kmap (fun (p : Dbl × Dbl) => kbind (ksub p.1 p.2) fun dd => kfma h dd p.1) (h0.zip h1))
      (x, kfShifted, firstBad b0 b1, s3)

/-- R240: one element -λ x of a gradient, with its overflow (R63); a binary64 one is strict (R65, R68). -/
def gradCode (el : Nat) (lam x : Dbl) : KM (Nat × Bool) :=
  if el = 0 then kbind (kmul (dNeg lam) x) fun c => kpure (c, false)
  else
    let c := convFast el ((val64 (dNeg lam)).mul (val64 x))
    kpure (c.bits, c.ovf)
/-- R240: the matrix gradient on the pattern of A. Answers whether an element saturated. -/
def State.writeGrad (s : State) (q : Nat) (d : List Byte) (a : KMat) (lam x : List Dbl) : Bool × State :=
  let el := leAt d 88 4 % 16
  let w := elemBytes el
  let (cs, s1) := s.strictly q (kmap (fun (p : Nat × Nat) => gradCode el (lam.getD p.1 0) (x.getD p.2 0))
    (a.rows.zipIdx.flatMap fun (r, i) => r.flatMap fun c =>
      (List.range a.bs).flatMap fun u => (List.range a.bs).map fun e => (a.bs * i + u, a.bs * c.1 + e)))
  (cs.any (·.2), s1.unitWrite .kiln q (slGradBase d) (cs.flatMap fun c => leBytes w c.1))

/-- R226 step 1: the incoming state for a matrix of another pattern or size loses its roles. -/
def ctxDiscard (st : List Byte) (psig n : Nat) : List Byte :=
  ctxSet (ctxSet (ctxSet (ctxSet st 12 4 0x3FFFFFFF) 16 4 0x3FF) 0 8 psig) 8 4 n
/-- Whether the incoming state is of another pattern or size. -/
def ctxForeign (st : List Byte) (psig n : Nat) : Bool := leAt st 0 8 != psig || leAt st 8 4 != n
/-- The incoming state as the solve sees it. It is written with the solution only, so that a command that ends MEMORY_ERROR,
MATRIX_FAULT or ABORTED changes none of it (R247, R248). -/
def Solve.ctx (z : Solve) (a : KMat) (st : List Byte) : List Byte :=
  if z.flags &&& kfWarmDisc ≠ 0 then ctxDiscard st a.psig a.n else st

/-- R236: the roles and cycles after a stop; `f0` is the slot of the solution, `f1` that of a kept partial iterate. -/
def ctxAfter (st d : List Byte) (conv keep : Bool) (f0 f1 : Nat) : List Byte :=
  let adj := slDir d
  let r0 := dirRole adj 1
  let h0 := ctxRole st r0
  let c0 := leAt st (dirCycle adj 0) 8
  let stA := ctxSetRole st (dirRole adj 3) f0
  if conv then
    let t := if h0 = noSlot ∨ c0 = slCycle d then stA
      else ctxSet (ctxSetRole stA (dirRole adj 2) h0) (dirCycle adj 1) 8 c0
    ctxSetRole (ctxSet (ctxSetRole t r0 f0) (dirCycle adj 0) 8 (slCycle d)) (dirRole adj 0) f0
  else if keep then ctxSetRole stA (dirRole adj 0) f1
  else stA

/-- R234, R235: the solution of a stop, with its flags. -/
def State.solution (s : State) (q : Nat) (st : List Byte) (a : KMat) (z : Solve) (status : Nat) : List Dbl × Nat × Option (Nat × Nat) × State :=
  if status = 6 then (List.replicate a.n fmt64.nanBits, 0, none, s)
  else if status = 1 then (zeros a.n, 0, none, s)
  else if status = 0 then (z.x, 0, none, s)
  else s.shifted q st z.cmd.bytes a.n

/-- R234 to R236, R240: what follows the stop of a solve: the solution, the history, the warm start, the gradient. Every
read comes before the first write, and the incoming state is written last: a write that was not made ends the command
MEMORY_ERROR and leaves it (R247, R328). -/
def State.solveStop (s : State) (q : Nat) (a : KMat) (z : Solve) (status : Nat) : State :=
  let d := z.cmd.bytes
  let n := a.n
  let c := s.ctxRead q z.ctxBase (slCtx d)
  let st := z.ctx a c.inc
  let nan := status == 6
  let (x, fl, bx, s1) := c.st.solution q st a z status
  let (xf, bf, s2) := if slGrad d then s1.readVec64 (ctxSlot st (ctxRole st 3) n) n else ([], none, s1)
  match firstBad c.bad (firstBad bx bf) with
  | some b => s2.kilnMemEnd q z b
  | none =>
    let conv := status == 0 || status == 1
    let keep := !conv && !nan && z.iters != 0 && dLt z.xres z.r0 && z.x.all dIsFin
    let free := ctxFree st c.cur
    let f0 := free.getD 0 0
    let f1 := free.getD 1 0
    -- on NAN_INPUT no role changes
    let s3 := if nan then s2 else s2.writeVec64 q (ctxSlot st f0 n) x
    let s4 := if keep then s3.writeVec64 q (ctxSlot st f1 n) z.x else s3
    let (sat1, s5) := s4.writeOut q d x
    let (sat2, s6) := if slGrad d then s5.writeGrad q d a x xf else (false, s5)
    let s7 := if s6.writeFaulted .kiln q then s6 else s6.unitWrite .kiln q c.addr (if nan then st else ctxAfter st d conv keep f0 f1)
    let sat := sat1 || sat2
    let s8 := if sat then s7.raise (F.KLN_EVENT_OUT_SAT q) else s7
    let z1 := { z with flags := z.flags ||| fl ||| (if keep then kfWarmKept else 0) ||| (if sat then kfOutSat else 0) }
    (if nan then s8.raise (F.KLN_EVENT_NAN_INPUT q) else s8).solveEnd q z1 status

/-- R215, R247: the matrix of a command breaks its rules. -/
def State.matrixFault (s : State) (q : Nat) (c : QCmd) : State :=
  ((s.raise (F.KLN_EVENT_MATRIX_FAULT q)).vetoRecord .memory .kiln q (slMatrix c.bytes) 0).modKln q fun k => { k with run := none }

/-- A solve before its setup. -/
def Solve.new (c : QCmd) (ctxBase : Nat) (fixed : Bool) : Solve where
  cmd := c
  ctxBase := ctxBase
  fixed := fixed
  prec := 0
  x := []
  r := []
  p := []
  z := []
  rho := 0
  vs := []
  hs := []
  rot := []
  g := []
  bnorm := 0
  r0 := 0
  res := 0
  xres := 0
  iters := 0
  restarts := 0
  charged := 0
  flags := 0

/-- R226 step 4, R242: x, r and their norms from b and x0. Answers the solve and whether it breaches. -/
def setupVecs (a : KMat) (cert : List Byte) (b x0 : List Dbl) (z : Solve) : KM (Solve × Bool) :=
  let d := z.cmd.bytes
  if z.fixed then
    let (x, o1) := vecFix (kcTexp cert 0 0) x0
    kbind (kbind (fixDot b b) ksqrt) fun bn => kbind (a.fixMul x) fun ax => kbind (kmap (fun (p : Dbl × Dbl) => ksub p.1 p.2) (b.zip ax)) fun r1 =>
    let (r, o2) := vecFix (kcTexp cert 0 1) r1
    let (p, o3) := vecFix (kcTexp cert 0 2) r
    kbind (fixDot r r) fun rr => kbind (ksqrt rr) fun nr =>
    let z1 := { z with x := x, r := r, p := p, rho := rr, bnorm := bn, r0 := nr, res := nr, xres := nr }
    if dIsZero bn then kpure (z1, o1 || o2 || o3)
    else kbind (kcHolds cert 0 nr bn) fun held => kpure (z1, o1 || o2 || o3 || !held)
  else
    kbind (knorm b) fun bn => kbind (residual a (slAdj d) b x0) fun r => kbind (knorm r) fun nr =>
    kpure ({ z with x := x0, r := r, bnorm := bn, r0 := nr, res := nr, xres := nr }, false)

/-- The preconditioner of a solve as an operation (R226, R239). -/
def Solve.pc (z : Solve) (f : KMat) (dg : List Dbl) : List Dbl → KM (List Dbl) := precApply z.prec (slAdj z.cmd.bytes) f dg

/-- R228, R230: after setup: the residual test of r0, then the start of the method. A retry that fails ends BREACH (R242). -/
def State.solveBegin (s : State) (q : Nat) (a : KMat) (pc : List Dbl → KM (List Dbl)) (z : Solve) : State :=
  let broken := if z.flags &&& kfRetried ≠ 0 then 5 else 4
  if badScalar z.r0 || badScalar z.bnorm then s.solveStop q a z broken
  else
    let (ok, s1) := s.strictly q (resTest z.r0 z)
    if ok then s1.solveStop q a z 0
    else
      let (t, s2) := s1.strictly q (methodStart pc z)
      if t.stop = 0 then s2.modKln q fun k => { k with run := some t.sol } else s2.solveStop q a t.sol broken

/-- R242: a breach of the certificate: the retry in binary64 from x0, or the end. -/
def State.kilnBreach (s : State) (q : Nat) (a : KMat) (b x0 : List Dbl) (z : Solve) : State :=
  let s1 := s.raise (F.KLN_EVENT_CERT_BREACH q)
  if slRetry z.cmd.bytes && z.flags &&& kfRetried == 0 then
    let z1 : Solve := { Solve.new z.cmd z.ctxBase false with charged := z.charged + a.costSetup false 0, flags := z.flags ||| kfRetried, iters := z.iters }
    let ((z2, _), s2) := s1.strictly q (setupVecs a [] b x0 z1)
    s2.solveBegin q a (fun v => kpure v) z2
  else s1.solveStop q a z 5

/-- x0 of a solve, by WARM (R226 step 2). -/
def State.readX0 (s : State) (d st : List Byte) (n : Nat) : List Dbl × Option (Nat × Nat) × State :=
  match slWarm d with
  | 2 => s.readVec64 (slX0 d) n
  | 1 =>
    let w := ctxRole st (dirRole (slDir d) 0)
    if w = noSlot then (zeros n, none, s) else s.readVec64 (ctxSlot st w n) n
  | _ => (zeros n, none, s)

/-- The status of a solve whose residual test or cap decides (R230); none: it goes on, or its deadline has arrived (R232:
the test comes first, the deadline before the cap). -/
def solveVerdict (z : Solve) (ok : Bool) : Option Nat :=
  if ok then some 0
  else if slDeadline z.cmd.bytes ≤ z.charged then none
  else if slCap z.cmd.bytes ≤ z.iters then some 3 else none

/-- R226 step 3: the preconditioner of a new solve; Jacobi forms the inverses of the scalar diagonal into the diagonal slot.
Answers the solve with its kind and flags. -/
def State.pickPrec (s : State) (q : Nat) (a : KMat) (st : List Byte) (z : Solve) : Solve × KPrec :=
  let want := slPrec z.cmd.bytes
  let have2 := leAt st 72 4 % 8 == want && leAt st 64 8 == a.psig
  let kind := if want < 2 then want else if have2 then want else 1
  let fall := decide (2 ≤ want) && !have2
  let s1 := if fall then s.raise (F.KLN_EVENT_PREC_FALLBACK q) else s
  let diag := (List.range a.n).map fun i => matAt (a.diagBlock (i / a.bs)) 0 (i % a.bs) (i % a.bs)
  let s3 := if kind = 1 then (let (dg, s2) := s1.strictly q (kmap (fun v => kdiv dOne v) diag); s2.writeVec64 q (ctxDiag st a.n) dg) else s1
  ({ z with prec := kind, flags := z.flags ||| (if fall then kfPrecFall else 0) }, s3.readPrec a kind st)

/-- R226, R227: the setup of a validated SOLVE. -/
def State.solveSetup (s : State) (q : Nat) (c : QCmd) (h : List Byte) : State :=
  let d := c.bytes
  let z := Solve.new c (s.pair (R.KLN_CTXBASE_LO q)) (slClass d)
  let m := s.readBcsr h
  match m.bad with
  | some b => m.st.kilnMemEnd q z b
  | none =>
  match m.mat with
  | none => (m.st.matrixFault q c).solveEnd q z 0x13
  | some a =>
    let n := a.n
    let cx := m.st.ctxRead q z.ctxBase (slCtx d)
    let foreign := ctxForeign cx.inc a.psig n
    let s1 := if foreign then cx.st.raise (F.KLN_EVENT_WARM_DISCARDED q) else cx.st
    let z1 := if foreign then { z with flags := kfWarmDisc } else z
    let st := z1.ctx a cx.inc
    let (b, bb, s2) := s1.readB d n
    let (x0, bx, s3) := s2.readX0 d st n
    let cert := if slClass d then s3.read (slCert d) (16 + 8 * (slCap d + 1)) else ⟨[], none, s3⟩
    match firstBad cx.bad (firstBad bb (firstBad bx cert.bad)) with
    | some e => cert.st.kilnMemEnd q z1 e
    | none =>
      let (z2, pr) := cert.st.pickPrec q a st z1
      match pr.bad with
      | some e => pr.st.kilnMemEnd q z2 e
      | none =>
        let nanIn := b.any badScalar || x0.any badScalar || a.rows.any fun r => r.any fun cb => cb.2.any fun l => l.any badScalar
        let z3 := { z2 with charged := a.costSetup z2.fixed z2.prec }
        if nanIn then pr.st.solveStop q a z3 6
        else
          let ((z4, br), s7) := pr.st.strictly q (setupVecs a cert.bytes b x0 z3)
          let s8 := s7.scribble d n z4.fixed
          if dIsZero z4.bnorm then s8.solveStop q a z4 1
          else if z4.fixed && (br || !kcOk d cert.bytes) then s8.kilnBreach q a b x0 z4
          else s8.solveBegin q a (z4.pc pr.f pr.dg) z4

/-- R222, R226, R588: the SOLVE at the head of kiln q is validated and set up. -/
def State.solve (s : State) (q : Nat) : State :=
  let Q := kilnQ q
  if !s.qOn Q || (s.kiln q).run.isSome then s
  else
    match s.readyHead Q with
    | none => s
    | some c =>
      if c.op ≠ 1 then s.headMoves Q
      else
        let d := c.bytes
        let s1 := s.startHead Q
        if klnCommonBad s1 q d then (s1.klnReject q c).endHead Q
        else
          let base := s1.pair (R.KLN_CTXBASE_LO q)
          let h := s1.read (slMatrix d) 64
          let cx := h.st.ctxRead q base (slCtx d)
          match firstBad h.bad cx.bad with
          | some b => cx.st.kilnMemEnd q (Solve.new c base false) b
          | none => if solveBad cx.st q d h.bytes cx.inc then (cx.st.klnReject q c).endHead Q else cx.st.solveSetup q c h.bytes

/-- R228, R230, R242: the arithmetic of one iteration, by method; a fixed-point solve has its own. -/
def Solve.iterate (z : Solve) (a : KMat) (pc : List Dbl → KM (List Dbl)) (cert : List Byte) (b : List Dbl) : KM KStep :=
  let d := z.cmd.bytes
  if z.fixed then fixStep a cert z
  else match slMethod d with
    | 0 => cgStep a pc z
    | 1 => biStep a pc (slAdj d) z
    | _ => gmStep a pc (slAdj d) b (slRestart d) (slCap d) z
/-- R230, R231: the solve after an iteration: it is counted and charged, and the GMRES restart that it made with it. -/
def Solve.after (z : Solve) (a : KMat) (t : KStep) : Solve :=
  let d := z.cmd.bytes
  { t.sol with
    cmd := z.cmd
    iters := z.iters + 1
    charged := z.charged + a.costIter z.fixed (slMethod d) z.prec z.hs.length + (t.sol.restarts - z.restarts) * a.costRestart (slRestart d) }

/-- What an iteration reads again: the matrix, the context, the preconditioner, b and the certificate. -/
structure KSet where
  a : KMat
  st : List Byte
  f : KMat
  dg : List Dbl
  b : List Dbl
  cert : List Byte
/-- Reads what the solve in progress of kiln q works on; the solve ends where that fails (R247). -/
def State.withSet (s : State) (q : Nat) (z : Solve) (go : State → KSet → State) : State :=
  let d := z.cmd.bytes
  let h := s.read (slMatrix d) 64
  let m := h.st.readBcsr h.bytes
  match firstBad h.bad m.bad, m.mat with
  | some b, _ => m.st.kilnMemEnd q z b
  | none, none => (m.st.matrixFault q z.cmd).solveEnd q z 0x13
  | none, some a =>
    let cx := m.st.ctxRead q z.ctxBase (slCtx d)
    let st := z.ctx a cx.inc
    let pr := cx.st.readPrec a z.prec st
    let (b, bb, s1) := pr.st.readB d a.n
    let cert := if z.fixed then s1.read (slCert d) (16 + 8 * (slCap d + 1)) else ⟨[], none, s1⟩
    match firstBad cx.bad (firstBad pr.bad (firstBad bb cert.bad)) with
    | some e => cert.st.kilnMemEnd q z e
    | none => go cert.st ⟨a, st, pr.f, pr.dg, b, cert.bytes⟩

/-- R228, R230, R242: kiln q runs one iteration of its solve, unless its deadline has arrived (R232). -/
def State.solveIteration (s : State) (q : Nat) : State :=
  match (s.kiln q).run with
  | none => s
  | some z =>
    let d := z.cmd.bytes
    if !s.clocked ∨ slDeadline d ≤ z.charged then s
    else s.withSet q z fun s1 k =>
      let a := k.a
      let (t, s2) := s1.strictly q (z.iterate a (z.pc k.f k.dg) k.cert k.b)
      let z1 := z.after a t
      let s3 := (s2.setPair (R.KLN_ITERS_LO q) ((s2.pair (R.KLN_ITERS_LO q) + 1) % 2 ^ 64)).scribble d a.n z.fixed
      if t.stop = 3 then
        let (x0, bx, s4) := s3.readX0 d k.st a.n
        match bx with
        | some e => s4.kilnMemEnd q z1 e
        | none => s4.kilnBreach q a k.b x0 z1
      else if t.stop = 2 then s3.solveStop q a z1 (if z.flags &&& kfRetried != 0 then 5 else 4)
      else
        match solveVerdict z1 (t.stop == 1) with
        | some v => s3.solveStop q a z1 (if v ≠ 0 ∧ z.flags &&& kfRetried ≠ 0 then 5 else v)
        | none => s3.modKln q fun k => { k with run := some z1 }

/-- R232: the charged total of the solve has reached its deadline: it stops. GMRES still forms x (R230), where a non-finite
y[i] is a breakdown. -/
def State.kilnDeadline (s : State) (q : Nat) : State :=
  match (s.kiln q).run with
  | none => s
  | some z =>
    let d := z.cmd.bytes
    if !s.clocked ∨ z.charged < slDeadline d then s
    else s.withSet q z fun s1 k =>
      let (o, s2) := if z.hs.isEmpty then (some z.x, s1) else s1.strictly q (gmForm (z.pc k.f k.dg) z)
      match o with
      | none => s2.solveStop q k.a z 4
      | some x =>
        let z1 := if z.hs.isEmpty then z else { z with x := x, xres := z.res }
        s2.solveStop q k.a z1 (if z.flags &&& kfRetried ≠ 0 then 5 else 2)

/-! ## Factors -/

/-- Whether a block holds a non-finite value. -/
def badBlk (b : Blk) : Bool := b.any fun l => l.any badScalar
/-- Gaussian elimination without pivoting of [B | I]; none: a zero, non-finite, or (`pos`) non-positive pivot (R237). -/
def invBlock (bs : Nat) (pos : Bool) (b : Blk) : KM (Option Blk) :=
  let aug : Blk := b.zipIdx.map fun (r, i) => r ++ (List.range bs).map fun j => if i = j then dOne else 0
  kbind (kfold (fun (m : Option Blk) c =>
    match m with
    | none => kpure none
    | some m =>
      let pv := matAt m 0 c c
      if dIsZero pv || badScalar pv || (pos && dLe pv 0) then kpure none
      else
        kbind (kmap (fun v => kdiv v pv) (m.getD c [])) fun prow =>
        kbind (kmap (fun (p : List Dbl × Nat) =>
          if p.2 = c then kpure prow
          else kmap (fun (t : Dbl × Dbl) => kfma (dNeg (p.1.getD c 0)) t.2 t.1) (p.1.zip prow)) m.zipIdx) fun m1 => kpure (some m1))
    (some aug) (List.range bs)) fun r =>
  kpure (match r with
    | some m => if badBlk m then none else some (m.map fun l => l.drop bs)
    | none => none)

/-- The transpose of a block. -/
def trBlk (bs : Nat) (b : Blk) : Blk := matOf bs bs fun i j => matAt b 0 j i
/-- A - X Y, each element a chain in ascending order. -/
def subMul (bs : Nat) (a x y : Blk) : KM Blk :=
  kmap (fun i => kmap (fun j => kfold (fun acc e => kfma (dNeg (matAt x 0 i e)) (matAt y 0 e j) acc) (matAt a 0 i j) (List.range bs)) (List.range bs)) (List.range bs)
/-- X Y. -/
def mulBlk (bs : Nat) (x y : Blk) : KM Blk :=
  kmap (fun i => kmap (fun j => kchain ((List.range bs).map fun e => (matAt x 0 i e, matAt y 0 e j))) (List.range bs)) (List.range bs)

/-- A block of a row in progress. -/
def blkIn (l : List (Nat × Blk)) (c : Nat) : Option Blk := (l.find? fun p => p.1 == c).map (·.2)

/-- R237: block row i of a factor from the rows before it (log 14). ILU(0): L, inverse of the diagonal block, U. IC(0):
rows of L D L^T with L^T above. None: a bad pivot, or a non-finite value anywhere in the row. -/
def factorRow (kind bs i : Nat) (done : List (List (Nat × Blk))) (row : List (Nat × Blk)) : KM (Option (List (Nat × Blk))) :=
  let lower := (row.filter fun p => decide (p.1 < i)).map (·.1)
  let inverse (k : Nat) : Blk := (blkIn (done.getD k []) k).getD []
  if kind = 2 then
    kbind (invBlock bs false ((blkIn row i).getD [])) fun r => kpure (r.map fun b => [(i, b)])
  else if kind = 4 then
    kbind (kfold (fun (w : List (Nat × Blk)) k =>
      kbind (mulBlk bs ((blkIn w k).getD []) (inverse k)) fun l =>
      kmap (fun (p : Nat × Blk) =>
        if p.1 = k then kpure (k, l)
        else if p.1 < k then kpure p
        else match blkIn (done.getD k []) p.1 with
          | some u => kbind (subMul bs p.2 l u) fun b => kpure (p.1, b)
          | none => kpure p) w) row lower) fun w =>
    kbind (invBlock bs false ((blkIn w i).getD [])) fun r => kpure (if w.any fun p => badBlk p.2 then none else r.map fun b => w.map fun p => if p.1 = i then (i, b) else p)
  else
    -- s_ij = a_ij - sum over k < j of s_ik l_jk^T; l_ij = s_ij d_j^-1; d_i = a_ii - sum of s_ik l_ik^T
    kbind (kfold (fun (w : List (Nat × Blk × Blk)) j =>
      kbind (kfold (fun (a : Blk) (p : Nat × Blk × Blk) =>
        match blkIn (done.getD j []) p.1 with
        | some l => subMul bs a p.2.1 (trBlk bs l)
        | none => kpure a) ((blkIn row j).getD []) w) fun sj =>
      kbind (mulBlk bs sj (inverse j)) fun lj => kpure (w ++ [(j, sj, lj)])) [] lower) fun w =>
    kbind (kfold (fun (a : Blk) (p : Nat × Blk × Blk) => subMul bs a p.2.1 (trBlk bs p.2.2)) ((blkIn row i).getD []) w) fun di =>
    kbind (invBlock bs true di) fun r =>
    kpure (if w.any fun p => badBlk p.2.2 then none else r.map fun b => w.map (fun p => (p.1, p.2.2)) ++ [(i, b)])

/-- R231, R237, R238: the factorisation row by row: none with true: abandoned at the deadline; none with false: failed. -/
def factorRows (kind bs deadline : Nat) : List (List (Nat × Blk)) → Nat → List (List (Nat × Blk)) → Nat → KM (Option (List (List (Nat × Blk))) × Bool × Nat)
  | [], _, done, ch => kpure (some done, false, ch)
  | row :: rest, i, done, ch =>
    kbind (factorRow kind bs i done row) fun r =>
    match r with
    | none => kpure (none, false, ch)
    | some w =>
      let c1 := ch + (if kind = 2 then bs ^ 3 + 1 else ceilDiv (row.length * bs * bs * 24) 1024 + bs ^ 3)
      if !rest.isEmpty && decide (deadline ≤ c1) then kpure (none, true, c1)
      else factorRows kind bs deadline rest (i + 1) (done ++ [w]) c1

/-- The factor as stored: IC(0) gets its upper blocks, the transposes of L. -/
def factorStore (kind bs : Nat) (a : KMat) (f : List (List (Nat × Blk))) : List Blk :=
  if kind = 2 then f.map fun r => ((r.head?).map (·.2)).getD []
  else a.rows.zipIdx.flatMap fun (row, i) => row.map fun c =>
    if kind = 3 ∧ i < c.1 then trBlk bs ((blkIn (f.getD c.1 []) i).getD []) else (blkIn (f.getD i []) c.1).getD []

/-- R218, R222: whether a FACTOR is rejected. -/
def factorBad (s : State) (q : Nat) (d h : List Byte) : Bool :=
  klnCommonBad s q d || hdrBad s h || hdrFixed h || leAt d 0 4 / 2 ^ 8 != 0 || leAt d 8 4 - leAt d 8 4 % 2 ^ 8 != slPrec d * 2 ^ 8 || leAt d 8 4 % 2 ^ 8 != 0 ||
  !(slPrec d == 2 || slPrec d == 3 || slPrec d == 4) || !zeroAt d 14 10 || !zeroAt d 32 8 || !zeroAt d 48 44 || !zeroAt d 96 32 || !zeroAt d 136 56

/-- R237, R238: the FACTOR at the head of kiln q. -/
def State.factor (s : State) (q : Nat) : State :=
  let Q := kilnQ q
  if !s.qOn Q || (s.kiln q).run.isSome then s
  else
    match s.readyHead Q with
    | none => s
    | some c =>
      if c.op ≠ 2 then s.headMoves Q
      else
        let d := c.bytes
        let s1 := s.startHead Q
        let finish (t : State) (st ch : Nat) : State := (t.klnFinish q c st 0 0 0 0 ch 0).endHead Q
        if klnCommonBad s1 q d then (s1.klnReject q c).endHead Q
        else
          let h := s1.read (slMatrix d) 64
          match h.bad with
          | some b => finish (h.st.klnFault q b) 0x12 0
          | none =>
            if factorBad h.st q d h.bytes then (h.st.klnReject q c).endHead Q
            else
              let m := h.st.readBcsr h.bytes
              match m.bad, m.mat with
              | some b, _ => finish (m.st.klnFault q b) 0x12 0
              | none, none => finish (m.st.matrixFault q c) 0x13 0
              | none, some a =>
                let kind := slPrec d
                let ((r, ab, ch), s2) := m.st.strictly q (factorRows kind a.bs (slDeadline d) a.rows 0 [] 0)
                match r with
                | none =>
                  if ab then finish (s2.raise (F.KLN_EVENT_FACTOR_ABANDONED q)) 9 ch else finish (s2.raise (F.KLN_EVENT_FACTOR_FAILED q)) 0xA ch
                | some f =>
                  let cx := s2.ctxRead q (s2.pair (R.KLN_CTXBASE_LO q)) (slCtx d)
                  match cx.bad with
                  | some b => finish (cx.st.klnFault q b) 0x12 ch
                  | none =>
                    let copy := 1 - leAt cx.cur 72 4 / 8 % 2
                    let bytes := (factorStore kind a.bs a f).flatMap fun b => b.flatMap fun l => l.flatMap fun v => leBytes 8 v
                    let s3 := cx.st.unitWrite .kiln q (leAt cx.inc (80 + 8 * copy) 8) bytes
                    let st1 := ctxSet (ctxSet cx.inc 64 8 a.psig) 72 4 (kind + 8 * copy)
                    if s3.writeFaulted .kiln q then finish (s3.raise (F.KLN_EVENT_MEMERR q)) 0x12 ch
                    else finish (s3.unitWrite .kiln q cx.addr st1) 8 ch

/-- R218: the NOP at the head of kiln q. -/
def State.kilnNop (s : State) (q : Nat) : State :=
  let Q := kilnQ q
  if !s.qOn Q || (s.kiln q).run.isSome then s
  else
    match s.readyHead Q with
    | none => s
    | some c =>
      if c.op ≠ 3 then s.headMoves Q
      else
        let d := c.bytes
        let r := slRec d
        let s1 := s.startHead Q
        if leAt d 0 4 / 2 ^ 8 != 0 || !zeroAt d 8 84 || !zeroAt d 96 32 || !zeroAt d 136 56 || bitsOf (slSpark d) 14 12 != 0 ||
            bitsOf (leAt d 94 2) 14 12 != 0 || (r != 0 && (r % 64 != 0 || !s.recAddrOk r)) then (s1.klnReject q c).endHead Q
        else (s1.klnFinish q c 0xB 0 0 0 0 0 0).endHead Q

/-- R248: the command in progress is aborted: its output and gradient are undefined. -/
def State.kilnStop (s : State) (q : Nat) (c : QCmd) : State :=
  match (s.kiln q).run with
  | some z => (s.solveVoid c.bytes (s.read (slMatrix c.bytes) 64).bytes).solveEnd q z 0x11
  | none => ((s.kilnVoid q c).klnFinish q c 0x11 0 0 0 0 0 0).endHead (kilnQ q)
/-- R248: an abort by tag. -/
def State.kilnAbort (s : State) (q tag : Nat) : State := s.abortTag (kilnQ q) tag fun t c => t.kilnStop q c
/-- R217: the tail is written. -/
def State.kilnTail (s : State) (q v : Nat) : State := (s.set (F.KLN_QTAIL_TAIL q) v).advance (kilnQ q)
/-- The command that kiln q executes: the one in progress, or the one at the head that nothing holds (log 115). -/
def State.kilnBusy (s : State) (q : Nat) : Option QCmd := s.inHand (kilnQ q)
/-- R244, R249: whether kiln q runs a request: one waits in the slot and LAM_EN is 1. -/
def State.kilnLam (s : State) (q : Nat) : Bool := (s.kiln q).req.isSome && s.on (F.KLN_CTRL_LAM_EN q)
/-- Whether kiln q is idle. -/
def State.kilnIdle (s : State) (q : Nat) : Bool := (s.kiln q).run.isNone && (s.kilnBusy q).isNone && !s.kilnLam q
/-- R249: QRESET. -/
def State.kilnQreset (s : State) (q : Nat) : State := s.queueReset (kilnQ q) (s.kilnIdle q)
/-- R249: a write of KLN_CTRL. -/
def State.kilnCtrl (s : State) (q v : Nat) : State :=
  let s1 := (s.set (F.KLN_CTRL_EN q) v).set (F.KLN_CTRL_LAM_EN q) (v / 2)
  (if v.testBit 2 then s1.kilnQreset q else s1).advance (kilnQ q)

/-! ## Eigenvalue requests (R243 to R245) -/

/-- Power iterations of KLN_LAMCFG; 0 acts as 1. -/
def State.npi (s : State) (q : Nat) : Nat := max 1 (s.get (F.KLN_LAMCFG_NPI q))
/-- R245: the power iteration: the estimate or none, and the iterations made. -/
def powerIter (m : List (List Dbl)) : Nat → List Dbl → Dbl → Nat → KM (Option Dbl × Nat)
  | 0, _, mu, k => kpure (some mu, k)
  | n + 1, v, _, k =>
    kbind (kmap (fun r => kchain (r.zip v)) m) fun w => kbind (knorm w) fun mu =>
    if dIsZero mu || badScalar mu then kpure (none, k + 1)
    else kbind (kmap (fun e => kdiv e mu) w) fun v1 => powerIter m n v1 mu (k + 1)
/-- R245: nominal cycles of one iteration. -/
def lamCost (n : Nat) : Nat := ceilDiv (4 * n * n) 1024 + 3 * ceilDiv (8 * n) 1024 + 48
/-- R244, R245: answers the request: result bytes, spark, and the bellows may read. -/
def State.lambdaAnswer (s : State) (q a status iters charged : Nat) (mu : Dbl) (spark : Nat) : State :=
  let s1 := s.unitWrite .kiln q (a + 32)
    (leBytes 8 (if status = 0 then mu else 0) ++ leBytes 1 status ++ leBytes 1 iters ++ leBytes 6 0 ++ leBytes 8 charged ++ leBytes 8 0)
  let s2 := if status = 1 ∨ status = 2 then s1.raise (F.KLN_EVENT_LAM_INVALID q) else s1
  let s3 := (s2.modKln q fun k => { k with req := none }).spark spark (some (qidKiln q))
  match (s3.bellows q).asked with
  | some f =>
    let s4 := s3.modBlw q fun b => { b with asked := none }
    -- 1024: the request of a job that was given up
    if f < 1024 then s4.modJob q f fun j => { j with req := 2 } else s4
  | none => s3

/-- R245: a binary32 element widened exactly; a signalling NaN stays one. -/
def widen32to64 (b : Nat) : Dbl :=
  if fmt32.isNanBits b then b / 2 ^ 31 * 2 ^ 63 + 0x7FF * 2 ^ 52 + b % 2 ^ 23 * 2 ^ 29 else dOf (val32 b)
/-- R243 to R245: kiln q serves the request in its slot. `budget`: serve only one whose charge reaches KLN_LAMDL before its
last iteration; else only one whose charge does not. -/
def State.lambdaServe (s : State) (q : Nat) (budget : Bool) : State :=
  match (s.kiln q).req with
  | none => s
  | some a =>
    if !s.clocked || !s.on (F.KLN_CTRL_LAM_EN q) then s
    else
      let r := s.read a 32
      let h := r.bytes
      let sp := leAt h 22 2
      let n := leAt h 20 2
      let bad := leAt h 0 4 != 1 || leAt h 4 4 / 2 ^ 15 != 0 || leAt h 8 8 % 64 != 0 || leAt h 16 4 % 64 != 0 || n == 0 || decide (2048 < n) ||
        bitsOf sp 14 12 != 0 || leAt h 24 8 != 0
      -- iterations whose charge stays below the budget
      let dl := s.get (F.KLN_LAMDL_CYCLES q)
      let full := ceilDiv dl (lamCost n)
      let runs := s.npi q
      let short := !bad && r.bad.isNone && decide (full < runs)
      if short ≠ budget then s
      else
        match r.bad with
        | some b => (r.st.klnFault q b).lambdaAnswer q a 3 0 0 0 sp
        | none =>
          if bad then (r.st.descRecord .kiln q a (leAt h 4 4)).lambdaAnswer q a 0x10 0 0 0 sp
          else
            let m := r.st.readMat (leAt h 8 8) (leAt h 16 4) n n 4
            match m.bad with
            | some b => (m.st.klnFault q b).lambdaAnswer q a 3 0 0 0 sp
            | none =>
              let k := if budget then full else runs
              let ((mu, it), s1) := m.st.strictly q (powerIter (m.rows.map fun l => l.map widen32to64) k (List.replicate n dOne) 0 0)
              match mu with
              | none => s1.lambdaAnswer q a 1 it (it * lamCost n) 0 sp
              | some v => if budget then s1.lambdaAnswer q a 2 it (it * lamCost n) 0 sp else s1.lambdaAnswer q a 0 it (it * lamCost n) v sp

/-! ## Step boundaries -/

/-- R224: at a step start the incoming state of every context is a copy of the current state. -/
def State.klnStepStart (s : State) (q : Nat) : State :=
  s.each (List.range (s.get (F.KLN_NCTX_COUNT q))) fun t c =>
    let cx := t.ctxRead q (t.pair (R.KLN_CTXBASE_LO q)) c
    match cx.bad with
    | some b => cx.st.klnFault q b
    | none => cx.st.unitWrite .kiln q cx.addr cx.cur
/-- R223, R224: at the end of step n a context whose incoming state differs takes the step number and enters its selector bit. -/
def State.klnEnter (s : State) (q n : Nat) : State :=
  s.each (List.range (s.get (F.KLN_NCTX_COUNT q))) fun t c =>
    let cx := t.ctxRead q (t.pair (R.KLN_CTXBASE_LO q)) c
    match cx.bad with
    | some b => cx.st.klnFault q b
    | none =>
      if cx.cur = cx.inc then cx.st
      else
        let i := 64 * q + c
        let t1 := cx.st.unitWrite .kiln q (cx.addr + 96) (leBytes 8 n)
        t1.journal (t1.pair R.ERR_CBASE_LO + 64 + 4 * (i / 32)) ((1 - cx.sel) * 2 ^ (i % 32)) (2 ^ (i % 32))

end Sys2Proof.Machine
end

