-- ==== Sys2Proof/Machine/Stop.lean ====
section
/-! DEFINITION. Stopping a job, and clearing every unit's queue (16_step_commit_replay_and_errors.md R526, R536, R537). -/

namespace Sys2Proof.Machine

/-- R526: every unit queue is disabled. -/
def State.queuesOff (s : State) : State :=
  let s1 := s.each (List.range 136) fun t p => t.set (F.HRT_CTRL_EN p) 0
  (s1.each (List.range 4) fun t q =>
    (((t.set (F.BLW_CTRL_SVC_EN q) 0).set (F.KLN_CTRL_EN q) 0).set (F.FBX_CTRL_EN q) 0).set (F.COL_CTRL_EN q) 0).set F.FLU_CTRL_INJ_EN 0
/-- R537: EN becomes 0 in every unit. -/
def State.unitsOff (s : State) : State :=
  s.queuesOff.each (List.range 4) fun t q => (t.set (F.BLW_CTRL_EN q) 0).set (F.BLW_CTRL_ROOT_EN q) 0
/-- R537: every worker cricket halts. -/
def State.workersHalt (s : State) : State := s.each (List.range 68) State.crkOff

/-- R526, R534: every unit queue is reset and its commands are gone: what a unit had in progress ends without a record. -/
def State.unitsReset (s : State) : State :=
  let s1 := s.queuesOff
  let s2 := s1.each (List.range 136) fun t p =>
    ((t.set (F.HRT_QHEAD_HEAD p) 0).set (F.HRT_QTAIL_TAIL p) 0).set (F.DMP_SHEAD_HEAD p) 0
  let s3 := s2.each (List.range 4) fun t q =>
    ((((((((((t.set (F.KLN_QHEAD_HEAD q) 0).set (F.KLN_QTAIL_TAIL q) 0).set (F.FBX_QHEAD_HEAD q) 0).set (F.FBX_QTAIL_TAIL q) 0).set
      (F.COL_QHEAD_HEAD q) 0).set (F.COL_QTAIL_TAIL q) 0).set (F.BLW_SQHEAD_HEAD q) 0).set (F.BLW_SQTAIL_TAIL q) 0).set
      (F.FLU_SQHEAD_VALUE q) 0).set (F.FLU_SQTAIL_VALUE q) 0)
  let mine (k : Nat) : Bool := (s.crkOfQid k).isNone
  let sy := { s3.syn with waiters := s3.syn.waiters.filter (fun w => !mine w.qid), released := s3.syn.released.filter (fun k => !mine k) }
  let s4 := { s3 with queues := [], kln := [], col := [], folded := [], flue := { s3.flue with injs := [], waiting := [] }, syn := sy }
  let s5 := s4.each (List.range 136) fun t p =>
    t.modHearth p fun h => { h with run := none, prev := none, borrow := none, susp := none, bubble := 0, tapBuf := [] }
  s5.each ((s.syn.waiters.filter fun w => mine w.qid).map (·.ctr)) State.noteWaiters

/-- R537: the job stops with a code: the units and workers stop, memory and the image stay; ERR_STOP holds the code. -/
def State.stopNow (s : State) (code : Nat) : State :=
  if !s.jobEn then s
  else
    let s1 := s.errRecord .job 2 .hob s.master 4 code
    let s2 := (s1.unitsOff.workersHalt.set F.ERR_STOP_CODE code).raise F.ERR_EVENT_STOP
    let s3 := ((s2.set F.ERR_STATUS_JOB 4).set F.ERR_CTRL_JOB_EN 0).set F.CFG_STATE_IMAGE 3
    { s3 with aon := { s3.aon with lastStop := code }, job := { s3.job with outcome := 0, issued := false, result := none, ckDrain := none, ckEnded := false }, flue := { s3.flue with injected := none } }.set
      F.ERR_STATUS_DRAIN 0

end Sys2Proof.Machine
end

