-- ==== Sys2Proof/Machine/StepCtl.lean ====
section
/-! DEFINITION. The step verdict, the close, replay, rewind, checkpoints, the step watchdog and unit reset
(16_step_commit_replay_and_errors.md R518 to R534). -/

namespace Sys2Proof.Machine

/-- A numbered field of the JOB record in force (log 10). -/
def State.jobf (s : State) (i : Nat) : Nat := (Config.jobField s.job.jrec i).toNat

/-! ## The commit area -/

/-- R522: the commit area and its parts. -/
def State.cbase (s : State) : Nat := s.pair R.ERR_CBASE_LO
def State.halfAddr (s : State) (h : Nat) : Nat := s.cbase + 16512 + 524288 * h
/-- R522: the commit granule: step, kind (1 COMMIT, 2 SKIP), half, count. -/
def granule (n kind h count : Nat) : List Byte := leBytes 8 n ++ leBytes 1 kind ++ leBytes 1 h ++ leBytes 2 0 ++ leBytes 4 count
/-- R523: the header of a journal half. -/
def halfHeader (n kind count : Nat) : List Byte := leBytes 8 n ++ leBytes 1 kind ++ leBytes 3 0 ++ leBytes 4 count
/-- R523: one entry. -/
def entryBytes (e : Nat × Nat × Nat) : List Byte := leBytes 8 e.1 ++ leBytes 4 e.2.1 ++ leBytes 4 e.2.2
/-- A write by the hob. -/
def State.hobWrite (s : State) (a : Nat) (bs : List Byte) : State := s.unitWrite .hob s.master a bs
/-- A read by the hob; an uncorrectable error is its memory fault. -/
def State.hobRead (s : State) (a n : Nat) : List Byte × State :=
  let r := s.read a n
  match r.bad with
  | some (b, dec) => (r.bytes, r.st.memFault .hob r.st.master b dec)
  | none => (r.bytes, r.st)
/-- R523: applies one entry: (old and not mask) or (value and mask). -/
def State.applyEntry (s : State) (e : Nat × Nat × Nat) : State :=
  let r := s.read e.1 4
  match r.bad with
  | some (a, dec) => r.st.memFault .hob r.st.master a dec
  | none =>
    let old := leNat r.bytes
    r.st.hobWrite e.1 (leBytes 4 ((old - (old &&& e.2.2)) ||| (e.2.1 &&& e.2.2)))
/-- R523: the entries of a half as memory holds them. -/
def State.readHalf (s : State) (h count : Nat) : List (Nat × Nat × Nat) × State :=
  let (bs, t) := s.hobRead (s.halfAddr h + 16) (16 * count)
  ((List.range count).map fun i => (leAt bs (16 * i) 8, leAt bs (16 * i + 8) 4, leAt bs (16 * i + 12) 4), t)
/-- R522: the next expected packet index of every receive descriptor at offset 128. -/
def State.saveIndexes (s : State) : State :=
  s.each (List.range 4096) fun t i =>
    let r := t.read (t.rdAddr i + 24) 4
    match r.bad with
    | some (a, dec) => r.st.memFault .hob r.st.master a dec
    | none => r.st.hobWrite (t.cbase + 128 + 4 * i) r.bytes
/-- R526: the descriptor indexes from the commit area. -/
def State.restoreIndexes (s : State) : State :=
  s.each (List.range 4096) fun t i =>
    let r := t.read (t.cbase + 128 + 4 * i) 4
    match r.bad with
    | some (a, dec) => r.st.memFault .hob r.st.master a dec
    | none => r.st.hobWrite (t.rdAddr i + 24) r.bytes

/-! ## The verdict -/

/-- R519: the command of the verdict: SUM 1, CHECK 0, ROOTSCALE 1.0, 12 binary32 elements. -/
def State.verdictCmd (s : State) : QCmd :=
  let f32 : List Byte := leBytes 1 1 ++ leBytes 15 0
  let d := leBytes 4 (1 + 2 ^ 8) ++ leBytes 4 0 ++ leBytes 2 (s.jobf 14) ++ leBytes 2 (s.jobf 15) ++ leBytes 4 12 ++ leBytes 16 0 ++ f32 ++ f32 ++
    leBytes 32 0 ++ leBytes 4 (fmt32.encode FV.one) ++ leBytes 28 0
  { slot := 0, addr := 0, bytes := d, side := [], policy := [], sideBad := false, aborted := false }
/-- R519: this device's contribution: HW, STOP, NF, RWD, CKBUSY, seven zeros. -/
def State.verdictBits (s : State) : List Bool :=
  [s.job.hw, s.job.stop != 0, s.job.nf, s.job.rwd, s.job.ckDrain.isSome && !s.job.ckEnded] ++ List.replicate 7 false
/-- R529: a hardware fault of a unit without a spare recurs in the replay of the step. -/
def State.faultRecurs (s : State) : Bool := s.job.faulty.any fun u => noSpareKind u.1 && s.job.prevFaulty.contains u
/-- R189, R224, R275, R523: every unit enters its journal changes of the step. -/
def State.enterJournal (s : State) : State :=
  let n := s.job.step
  (s.each (List.range 4) fun t q => (t.blwEnter q n).klnEnter q n).fbxEnter n
/-- R519: the verdict is issued on the engine of the master quadrant. A verdict tree that has no VALID entry for that
engine ends it REJECTED. -/
def State.issueVerdict (s : State) : State :=
  let s1 := s.enterJournal
  let s2 := if s1.faultRecurs then s1.vetoStop Stop.unitLost.code else s1
  let s3 := if 32767 < s2.job.entries.length then s2.vetoStop Stop.journalFull.code else s2
  let c := s3.verdictCmd
  let own := [(s3.verdictBits).flatMap fun b => leBytes 4 (fmt32.encode (if b then FV.one else FV.zero)),
    statusPack false false 0x3FFF 0 1 0]
  let tree := s3.jobf 14 % 4096
  let e := s3.treeEntry s3.epoch tree
  let s4 := { s3 with job := { s3.job with issued := true } }
  if !s4.treeOk s4.epoch tree || treeEngine e != s4.master then { s4 with job := { s4.job with result := some (0x10, []) } }
  else
    let mine := if treeLocal e then own else []
    let root := treeParent e == 12
    let r : ColRun := ⟨c, tree, s4.epoch, 1, true, root, mine, [], 0, none, false⟩
    s4.noteInjection.colLaunch s4.master true r true
/-- R519: the update-end barrier of the JOB record is satisfied. -/
def State.updateEnded (s : State) : Bool := s.satisfied (s.jobf 19 % 4096)
/-- R519, R198, R390: the verdict of the step; a step that still waits for a root of a bellows holds, as do injections that
wait for a planned switch. -/
def State.verdictIssue (s : State) : State :=
  if !s.clocked ∨ !s.jobEn ∨ s.job.issued ∨ s.job.outcome ≠ 0 ∨ !s.updateEnded ∨ s.switchHold ∨ (List.range 4).any s.rootsOwed then s else s.issueVerdict

/-- The verdict has ended: it is forgotten, and the outcome is carried out by the command that follows. -/
def State.decide' (s : State) (outcome : Nat) : State := { s with job := { s.job with outcome := outcome } }
/-- R391: old-epoch packets are gone once the device holds the verdict of the step of the switch. -/
def State.oldFree (s : State) : State :=
  if !s.on F.FLU_EPOCH_OLDFREE && stepFrom s.flue.switchStep s.job.step then s.set F.FLU_EPOCH_OLDFREE 1 else s
/-- R527: the step has been replayed as often in a row as ERR_LIMITS.REPLAYMAX lets it. -/
def State.replaysSpent (s : State) : Bool := decide (max 1 (s.get F.ERR_LIMITS_REPLAYMAX) ≤ s.job.replays)
/-- R520: the first rule that matches the verdict result. -/
def State.verdictResult (s : State) : State :=
  match s.job.result with
  | none => s
  | some (st, sums) =>
    if !s.clocked ∨ !s.jobEn ∨ !s.job.issued ∨ s.job.outcome ≠ 0 then s
    else if st ≠ 0 then s.stopNow Stop.memberLost.code
    else
      let e (i : Nat) : Nat := sums.getD i 0
      let s1 := s.oldFree
      let s2 := { s1 with job := { s1.job with ckBusy := e 4 != 0 } }
      if 0 < e 1 then s2.stopNow (if s2.job.stop = 0 then Stop.peerStop.code else s2.job.stop)
      else if 0 < e 3 then (s2.set F.ERR_STATUS_JOB 3).decide' 4
      else if 0 < e 0 ∨ (0 < e 2 ∧ e 2 ≠ s.get (F.COL_NRANKS_COUNT s.master)) then
        if s2.replaysSpent then s2.stopNow Stop.replayExhausted.code
        else (s2.set F.ERR_STATUS_JOB 2).decide' 3
      else if 0 < e 2 then s2.decide' 2
      else s2.decide' 1
/-- R520: the verdict does not complete within ERR_VTIMEOUT. -/
def State.verdictTimeout (s : State) : State :=
  if s.clocked && s.jobEn && s.job.issued && s.job.result.isNone && s.job.outcome == 0 then s.stopNow Stop.memberLost.code else s

/-! ## The watchdog -/

/-- R521: every command of a queue is aborted; `stop` ends the command in progress. -/
def State.abortAll (s : State) (Q : QI) (stop : State → QCmd → State) : State :=
  let go := (s.queue Q).started
  let s1 := s.modQueue Q fun q => { q with cmds := q.cmds.mapIdx (fun i c => if i = 0 && go then c else { c with aborted := true }), abortedSlots := s.waitingSlots Q }
  let s2 := match Q.qid with
    | some k => s1.withdraw k
    | none => s1
  let s3 := match s2.startedHead Q with
    | some c => stop s2 c
    | none => s2
  s3.each (List.range (s.get Q.size + Q.depth + 1)) fun t _ => t.advance Q
/-- R521 step 1: every command in every unit queue. -/
def State.abortEverything (s : State) : State :=
  let s1 := s.each (List.range 136) fun t p => t.abortAll (hearthQ t p 1) fun u c => u.hearthStop p c
  s1.each (List.range 4) fun t q =>
    let t1 := t.abortAll (kilnQ q) fun u c => u.kilnStop q c
    let t2 := t1.abortAll (fireboxQ q) fun u c => u.fbxEnd q c 0x11 FCount.none
    let t3 := t2.abortAll (colQ q) fun u c => u.colStop q c
    let t4 := t3.abortAll (injQ q) fun u c => (((injQ q).finish u c 0x11).endHead (injQ q))
    t4.abortAll (svcQ q) fun u c => (((svcQ q).finish u c 0x11).endHead (svcQ q))
/-- R521: the step watchdog expires. -/
def State.stepWatchdog (s : State) : State :=
  if !s.clocked ∨ !s.jobEn ∨ !s.on F.ERR_CTRL_WD_EN ∨ s.job.issued ∨ s.job.outcome ≠ 0 then s
  else
    let s1 := (s.abortEverything.errRecord .job 1 .hob s.master 5 0).raise F.ERR_EVENT_WATCHDOG
    s1.veto.issueVerdict

/-! ## Checkpoints -/

/-- R530: the policy histories as bytes: per entry the count and 16 binary32 values, newest first (log 34). -/
def State.histBytes (s : State) : List Byte :=
  (List.range 256).flatMap fun i =>
    let h := s.num.hist.look [] i
    leBytes 4 h.length ++ ((List.range 16).flatMap fun j => leBytes 4 (h.getD j 0))
/-- The histories from those bytes. -/
def State.histRestore (s : State) (bs : List Byte) : State :=
  s.each (List.range 256) fun t i =>
    let n := min 16 (leAt bs (68 * i) 4)
    t.noteHistory i ((List.range n).map fun j => leAt bs (68 * i + 4 + 4 * j) 4)
/-- R530: the ranges of the valid region entries with DET = 0, in entry order: base and length. -/
def State.ckRanges (s : State) : List (Nat × Nat) :=
  ((List.range 64).filter fun i => s.on (F.CMB_RGN_BASE_LO_VALID i) && !s.on (F.CMB_RGN_BASE_LO_DET i) && !s.rgnOutside i).map fun i =>
    (s.rgnBase i, s.rgnLim i - s.rgnBase i)
/-- Bytes of the histories and length of a checkpoint's data after its ranges (R530, R176, R522). -/
def histLen : Nat := 17408
def ckTail : Nat := histLen + 540736 + 1065088
/-- R532: the slot that does not hold the confirmed checkpoint; the first is slot A. -/
def State.drainSlot (s : State) : Nat := if s.on F.ERR_STATUS_CONF_VALID then 1 - s.get F.ERR_STATUS_CONF_SLOT else 0
/-- R532: the drain has ended; R566: it is abandoned. -/
def State.endDrain (s : State) : State := { s with job := { s.job with ckEnded := true } }
def State.dropDrain (s : State) : State := { s with job := { s.job with ckDrain := none } }
/-- R530: bytes of the snapshot being drained. -/
def State.drainLen (s : State) : Nat := (s.job.ckRegs.map (·.2)).sum + ckTail
/-- R531: the snapshot: everything a checkpoint covers is copied to ERR_CKSTAGE. -/
def State.snapshot (s : State) : State :=
  let rs := s.ckRanges
  let (data, s1) := (rs ++ [(s.pair R.NUM_JBASE_LO, 540736), (s.cbase, 1065088)]).foldl (fun (acc : List (List Byte) × State) (r : Nat × Nat) =>
    let (b, t) := acc.2.hobRead r.1 r.2
    (acc.1 ++ [b], t)) ([], s)
  let body := (data.take rs.length).flatten ++ s1.histBytes ++ (data.drop rs.length).flatten
  let s2 := s1.hobWrite (s1.pair R.ERR_CKSTAGE_LO) body
  { s2 with job := { s2.job with ckDrain := some s2.job.step, ckEnded := false, ckRegs := rs } }.set F.ERR_STATUS_DRAIN 1
/-- R531, R532: the checkpoint work of the close of step n: a drained checkpoint is confirmed, a new snapshot is taken or
deferred. -/
def State.checkpointClose (s : State) : State :=
  let s1 :=
    match s.job.ckDrain with
    | some n =>
      if s.job.ckEnded && !s.job.ckBusy then
        let slot := s.drainSlot
        let t := (((s.set F.ERR_STATUS_CONF_SLOT slot).set F.ERR_STATUS_CONF_VALID 1).setPair R.ERR_CKSTEP_LO n).raise F.ERR_EVENT_CK_CONFIRMED
        { t with job := { t.job with ckDrain := none, ckEnded := false } }
      else s
    | none => s
  let per := s1.get F.ERR_CKCTRL_PERIOD
  let due := per != 0 && (s1.job.step % per == 0 || s1.job.ckDefer)
  if !due then s1
  else if s1.job.ckBusy then ({ s1 with job := { s1.job with ckDefer := true } }).raise F.ERR_EVENT_CK_DEFER
  else { s1 with job := { s1.job with ckDefer := false } }.snapshot
/-- R532: base of a slot. -/
def State.slotBase (s : State) (slot : Nat) : Nat := s.pair R.ERR_CKBASE_LO + (if slot = 1 then 2 ^ s.get F.ERR_CKCTRL_SIZE else 0)
/-- R539: the stream sum of bytes. -/
def dataSum (bs : List Byte) : Nat :=
  ((codesOf 8 bs (bs.length / 8)).zipIdx.foldl (fun n (w, i) => n + w * (2 * i + 1)) 0) % 2 ^ 64
/-- R501: the identity hash. -/
def State.idHash (s : State) : List Byte := (List.range 16).flatMap fun i => leBytes 4 (s.reg (R.SEC_IDHASH i)).toNat
/-- R532, R513: SHAKE256 of the loaded Cuham header. -/
def State.imgHash (s : State) : List Byte := if s.hob.imgHdr.isEmpty then List.replicate 64 0 else shake256 s.hob.imgHdr 64
/-- R532: the header of a slot. -/
def State.slotHeader (s : State) (n : Nat) (regs : List (Nat × Nat)) (body : List Byte) : List Byte :=
  leBytes 4 0x4B434247 ++ leBytes 4 1 ++ leBytes 8 n ++ leBytes 8 body.length ++ leBytes 8 (dataSum body) ++ s.imgHash ++ s.idHash ++
    leBytes 4 regs.length ++ leBytes 92 0 ++ regs.flatMap fun r => leBytes 8 r.1 ++ leBytes 8 r.2
/-- Whether every byte of a far-tier range can be written: it is mapped and its port is up (R360, R566). -/
def State.farOk (s : State) (a n : Nat) : Bool :=
  (List.range (n / 256 + 2)).all fun i =>
    match s.farRange (min (a + 256 * i) (a + n - 1)) with
    | some r => s.get (F.CXL_P_STATUS_STATE (r.portOf (min (a + 256 * i) (a + n - 1)))) == 2
    | none => false
/-- R532: the snapshot of step n is written to the free slot: data, then region list, then bytes 0 to 63; a far tier that cannot be written ends it (R566). -/
def State.drainAt (s : State) (n : Nat) : State :=
  let r := s.hobRead (s.pair R.ERR_CKSTAGE_LO) s.drainLen
  let b := r.2.slotBase s.drainSlot
  let s2 := r.2.set F.ERR_STATUS_DRAIN 0
  if s2.farOk b (4096 + s.drainLen) then
    let h := s2.slotHeader n s2.job.ckRegs r.1
    (((s2.hobWrite (b + 4096) r.1).hobWrite (b + 64) (h.drop 64)).hobWrite b (h.take 64)).endDrain
  else s2.dropDrain
/-- R532: the drain ends: data from slot offset 4,096, the region list, the header bytes 0 to 63 last. A drain that meets a
link failure is abandoned: the slot stays invalid (R566). -/
def State.drainDone (s : State) : State :=
  match s.job.ckDrain with
  | none => s
  | some n => if !s.clocked ∨ s.job.ckEnded then s else s.drainAt n
/-- R533: the checks of a slot: magic, image hash, identity hash, data sum. Answers the step, the ranges and the data. -/
def State.slotRead (s : State) (slot : Nat) : Option (Nat × List (Nat × Nat) × List Byte) × State :=
  let b := s.slotBase slot
  let r := s.read b 4096
  let h := r.bytes
  let n := leAt h 160 4
  let len := leAt h 16 8
  if r.bad.isSome || leAt h 0 4 != 0x4B434247 || leAt h 4 4 != 1 || h.extract 32 96 != s.imgHash || h.extract 96 160 != s.idHash || decide (64 < n) then (none, r.st)
  else
    let regs := (List.range n).map fun i => (leAt h (256 + 16 * i) 8, leAt h (264 + 16 * i) 8)
    if len ≠ (regs.map (·.2)).sum + ckTail then (none, r.st)
    else
      let d := r.st.read (b + 4096) len
      if d.bad.isSome || dataSum d.bytes != leAt h 24 8 then (none, d.st) else (some (leAt h 8 8, regs, d.bytes), d.st)
/-- R533: writes the contents of a slot back, and restores the generators from the saved journal. -/
def State.slotRestore (s : State) (regs : List (Nat × Nat)) (body : List Byte) : State :=
  let (rest, s1) := regs.foldl (fun (acc : List Byte × State) (r : Nat × Nat) => (acc.1.drop r.2, acc.2.hobWrite r.1 (acc.1.take r.2))) (body, s)
  let s2 := s1.histRestore (rest.take histLen)
  let s3 := s2.hobWrite (s2.pair R.NUM_JBASE_LO) ((rest.drop histLen).take 540736)
  (s3.hobWrite s3.cbase ((rest.drop (histLen + 540736)).take 1065088)).restoreGens

/-! ## Close, replay, rewind -/

/-- Vetoes of the run that ends are gone, and those held after the verdict count for the next run (R519). -/
def State.nextRun (s : State) (step replays : Nat) (prev : List (Nat × Nat)) : State :=
  { s with job := { s.job with step := step, issued := false, hw := s.job.heldHw, nf := s.job.heldNf, rwd := s.job.heldRwd, stop := s.job.heldStop, heldHw := false, heldNf := false, heldRwd := false, heldStop := 0, entries := [], replays := replays, faulty := [], prevFaulty := prev, result := none, outcome := 0 } }
/-- R443, R160, R192, R224: the step start of step n in the units. -/
def State.stepStart (s : State) (n : Nat) : State :=
  let s1 := s.synStepStart
  let s2 := { s1 with num := { s1.num with watchCtr := [] }, folded := [] }
  s2.each (List.range 4) fun t q => (t.klnStepStart q).blwStepStart q n
/-- R403, R586, R592: ports that wait for a step boundary are trained. -/
def State.portsAtBoundary (s : State) : State :=
  s.each (List.range 12) fun t p => if (t.port p).retrain && t.get (F.FLU_P_CTRL_MODE p) != 0 then t.trainPort p else t
/-- R524: signals the step-start barrier of the JOB record (log 10). -/
def State.signalStepStart (s : State) : State := s.signal (s.jobf 24 % 4096) (some (qidHob s.master))

/-- R513: the number of the last step that committed. -/
def State.noteCommit (s : State) (n : Nat) : State := { s with job := { s.job with lastCommit := n } }
/-- R524, R525: the close of a step that commits or is skipped. -/
def State.stepClose (s : State) : State :=
  if !s.clocked ∨ !s.jobEn ∨ (s.job.outcome ≠ 1 ∧ s.job.outcome ≠ 2) then s
  else
    let n := s.job.step
    let ok := s.job.outcome == 1
    let h := n % 2
    let kind := if ok then 1 else 2
    let es := if ok then s.job.entries else []
    let s1 := s.hobWrite (s.halfAddr h + 16) (es.flatMap entryBytes)
    let s2 := s1.hobWrite (s.halfAddr h) (halfHeader n kind es.length)
    let s3 := s2.saveGens.journalStep (n + 1)
    let s4 := s3.hobWrite s3.cbase (granule n kind h es.length)
    let s5 := s4.each es State.applyEntry
    let s6 := s5.each (List.range 4) fun t q => t.blwClose q n ok
    let s7 := s6.pushHistories
    let s8 := if ok then s7.noteCommit n
      else
        let m := s7.master
        ((s7.count F.ERR_SKIPS_VALUE 1).raise F.ERR_EVENT_SKIP).errRecord .job 1 .hob m 1
          (s7.get (F.COL_VETO_RANK m) + 2 ^ 16 * s7.get (F.COL_VETOLAYER_LAYER m))
    let s9 := s8.checkpointClose
    let s10 := ((s9.setPair R.ERR_STEP_LO n).set F.ERR_STATUS_JOB 1).nextRun (n + 1) 0 []
    ((s10.stepStart (n + 1)).saveIndexes.softRepairs.retrainPlanned.portsAtBoundary).signalStepStart

/-- R526 step 4: the step number goes to every active worker. -/
def State.mailStep (s : State) : State :=
  s.each (List.range 64) fun t l =>
    match t.crkPhys l with
    | some c => t.mailbox c (t.job.step % 2 ^ 32)
    | none => t
/-- R528: pairs and crickets that need a spare: a FAILING slice, a hearth or damper that faulted in both runs, a worker
that halted on its fault or faulted in both runs. -/
def State.bringSpares (s : State) : State :=
  let both (u : Nat × Nat) : Bool := s.job.faulty.contains u && s.job.prevFaulty.contains u
  let pairs := (List.range 136).filter fun p => s.get (F.CMB_S_STATE_STATE p) == 3 || both (0, p) || both (7, p)
  let ws := (List.range 68).filter fun c => (s.job.faulty.contains (5, c) && (s.cricket c).halted) || both (5, c)
  let s1 := s.each pairs fun t p =>
    match t.logicalOf p with
    | some l => (t.retireLogical l).raise F.ERR_EVENT_SPARE_IN
    | none => t
  s1.each ws State.spareCricket
/-- R566: the hob retrains the CXL ports that are down before the replay; whether a link comes up is free (log 6). One that
stays down stops the job. -/
def State.retrainCxl (s : State) : State :=
  s.each ((List.range 2).filter fun k => !(s.cxl.devs.look [] k).isEmpty && s.get (F.CXL_P_STATUS_STATE k) != 2) fun t k =>
    let (b, u) := t.fresh 1
    if b = 1 then u.set (F.CXL_P_STATUS_STATE k) 2 else u.vetoStop Stop.unitLost.code
/-- R526: the state of the step is restored as its table says. -/
def State.restoreStep (s : State) : State :=
  let s1 := s.restoreGens.synReplay.restoreIndexes.clearPending
  let s2 := { s1 with num := { s1.num with watchCtr := [] }, folded := [] }
  (s2.each (List.range 4) fun t q => (t.klnStepStart q).blwReplay q s.job.step).mailStep
/-- R526 steps 1 and 2: every unit queue is reset and the spares come in. A stop that they find ends the job at once; a veto that
they find is held for the run that follows (R519). -/
def State.replayUnits (s : State) : State :=
  let s1 := s.unitsReset
  let s2 := { s1 with job := { s1.job with issued := false, stop := 0, hw := s1.job.heldHw, rwd := s1.job.heldRwd } }
  let s3 := s2.bringSpares.retrainCxl
  { s3 with job := { s3.job with heldHw := s3.job.hw, heldRwd := s3.job.rwd } }
/-- R526, R536: a replay is counted, flagged and recorded. -/
def State.noteReplay (s : State) : State :=
  ((s.count F.ERR_REPLAYS_VALUE 1).raise F.ERR_EVENT_REPLAY).errRecord .job 1 .hob s.master 2 0
/-- R526: the step is replayed. -/
def State.replayStep (s : State) : State :=
  if s.clocked && s.jobEn && s.job.outcome == 3 then
    let s2 := s.noteReplay.replayUnits
    if s2.job.stop ≠ 0 then s2.stopNow s2.job.stop
    else (s2.nextRun s2.job.step (s2.job.replays + 1) s2.job.faulty).restoreStep
  else s

/-- R533: the job goes on behind a restored step. -/
def State.resumeAt (s : State) (n : Nat) : State :=
  let s1 := ((s.setPair R.ERR_STEP_LO n).nextRun (n + 1) 0 []).synReplay.saveIndexes.clearPending
  let s2 := ({ s1 with num := { s1.num with watchCtr := [] }, folded := [], flue := { s1.flue with injected := none } }).noteCommit n
  s2.each (List.range 4) fun t q => (t.klnStepStart q).blwRestore q n
/-- R533, R357: the device restores the confirmed checkpoint; after a lost channel the interleave is re-formed first. -/
def State.rewindStep (s : State) : State :=
  if !s.clocked ∨ !s.jobEn ∨ s.job.outcome ≠ 4 then s
  else
    let s1 := (s.raise F.ERR_EVENT_REWIND).errRecord .job 3 .hob s.master 3 0
    let s2 := s1.unitsReset
    let s3 := s2.reduceInterleave
    if !s3.on F.ERR_STATUS_CONF_VALID then s3.stopNow Stop.checkpointBad.code
    else
      match s3.slotRead (s3.get F.ERR_STATUS_CONF_SLOT) with
      | (none, s4) => s4.stopNow Stop.checkpointBad.code
      | (some (n, regs, body), s4) => (((s4.slotRestore regs body).resumeAt n).set F.ERR_STATUS_JOB 1).mailStep

/-! ## Unit reset -/

/-- R510 step 10, R284: the workers that the CODE records list start at their entries. -/
def State.startWorkers (s : State) : State :=
  s.each s.hob.code fun t r =>
    t.each ((List.range 64).filter fun l => (Config.codeStarts r.2).getLsbD l) fun u l =>
      match u.crkPhys l with
      | some c => (u.setPair (R.CRK_ENTRY_LO c) ((Config.codeEntry r.2).toNat / 4 * 4)).crkRun c
      | none => u
/-- R526, R527, R534: recovery replays step n: one replay more when that step ran already. -/
def State.recoverAt (s : State) (n : Nat) : State :=
  if n = s.job.step ∧ s.replaysSpent then s.stopNow Stop.replayExhausted.code
  else ((s.noteReplay.set F.ERR_STATUS_JOB 2).nextRun n (if n = s.job.step then s.job.replays + 1 else 1) []).restoreStep.startWorkers
/-- R534: recovery: a decided close is finished, the half that the granule names is applied again, and the step after it is
replayed. -/
def State.recover (s : State) : State :=
  let (g, t1) := s.hobRead s.cbase 16
  let st := leAt g 0 8
  let (jr, t2) := t1.hobRead (t1.pair R.NUM_JBASE_LO) 8
  let h1 := (st + 1) % 2
  let (hd, t3) := t2.hobRead (t2.halfAddr h1) 16
  let fin := leAt jr 0 8 = st + 2 ∧ leAt hd 0 8 = st + 1
  let s1 := if fin then t3.hobWrite t3.cbase (granule (st + 1) (leAt hd 8 1) h1 (leAt hd 12 4)) else t3
  let n := if fin then st + 1 else st
  let g1 := if fin then granule (st + 1) (leAt hd 8 1) h1 (leAt hd 12 4) else g
  let (es, s2) := s1.readHalf (leAt g1 9 1 % 2) (leAt g1 12 4)
  let s3 := if leAt g1 8 1 = 0 then s2 else (if leAt g1 8 1 = 1 then s2.noteCommit n else s2).each es State.applyEntry
  s3.recoverAt (if leAt g1 8 1 = 0 then s3.job.firstStep else n + 1)
/-- R534: a unit reset: every unit, queue and worker cricket is reset, and the hob runs recovery for a job that steps. A rewind
that was decided starts again from its beginning. -/
def State.unitReset (s : State) : State :=
  let s0 := s.unitsOff.unitsReset
  let rewinds := s0.job.outcome == 4
  let s1 := { s0 with job := { s0.job with ckDrain := none, ckEnded := false, outcome := if rewinds then 4 else 0 } }.set F.ERR_STATUS_DRAIN 0
  let s2 := s1.each (List.range 68) fun t c => (t.crkOff c).crkReset c
  if s2.jobEn && !rewinds then s2.recover else s2

end Sys2Proof.Machine
end

