-- ==== Sys2Proof/Machine/Power.lean ====
section
/-! DEFINITION. The power manager: rails, the pace-floor loop, budgets and lending, limits, throttling, thermal limits
(14_clocks_and_power.md R471 to R480, R484; 03 R88; 13 R454). Voltages count in 0.1 mV. -/

namespace Sys2Proof.Machine

/-- Updates the power manager. -/
def State.modPwr (s : State) (f : Pwr → Pwr) : State := { s with pwr := f s.pwr }

/-- R502: a record enters the ember ring of 512. -/
def State.emberRecord (s : State) (cls : ECls) (kind : UKind) (unit d0 d1 : Nat) : State :=
  let bs := recordBytes s.errSeq cls.code 2 kind.code unit s.job.step d0 d1 s.timebase
  { s with ember := { s.ember with ring := (s.ember.ring ++ [bs]).drop (s.ember.ring.length + 1 - 512) } }

/-- R556, R508: writes a word of the host control page, where logical hearth 3 is mapped. -/
def State.pageWrite (s : State) (o : Nat) (bs : List Byte) : State :=
  if (s.locate (0x3FFFF000 + o)).isSome then s.hobWrite (0x3FFFF000 + o) bs else s
/-- R488, R561: the stage code, in SEC_BOOT and in the page. -/
def State.setStage (s : State) (c : Nat) : State :=
  if s.get F.SEC_BOOT_STAGE = c then s
  else ((s.set F.SEC_BOOT_STAGE c).pageWrite 4 (leBytes 4 c)).raise F.CXL_IPEND_STAGE
/-- R489, R561: the ready flag, in SEC_BOOT and in the page, with the READY pin. -/
def State.setReady (s : State) (b : Bool) : State :=
  let s1 := { s with aon := { s.aon with ready := b } }
  if s.on F.SEC_BOOT_READY = b then s1
  else ((s1.put F.SEC_BOOT_READY b).pageWrite 0 (leBytes 4 (if b then 1 else 0))).raise F.CXL_IPEND_STAGE

/-- R472: the job stops with POWER_FAULT and READY drops. -/
def State.powerFault (s : State) : State := (s.vetoStop Stop.powerFault.code).setReady false
/-- R472: regulator r reports overvoltage, undervoltage or overcurrent; the reading is free (log 6). -/
def State.railFault (s : State) (r : Nat) (bad : Bool) : State :=
  if !s.clocked ∨ !bad ∨ r = 15 then s
  else
    let (v, s1) := s.fresh 32
    let s2 := (s1.raise F.PWR_EVENT_RAIL_FAULT).vetoRecord .power .clock 0 r v
    if r < 4 ∧ r ∉ s.pwr.restoring then s2.modPwr fun p => { p with restoring := p.restoring ++ [r] } else s2.powerFault
/-- R472: the oldest restoration attempt ends. -/
def State.railRestored (s : State) (ok : Bool) : State :=
  match s.pwr.restoring with
  | [] => s
  | _ :: t =>
    let s1 := s.modPwr fun p => { p with restoring := t }
    if !s.clocked ∨ ok then s1 else s1.powerFault

/-- R495: the pace-floor slope of the PART record in 0.01 mV per °C, signed 16-bit. -/
def State.slope (s : State) : Int :=
  match s.hob.recs.find? fun r => r.1 == 2 && !r.2.1 with
  | some r => (BitVec.ofNat 16 (leAt r.2.2 0 2)).toInt
  | none => 0
/-- R473: the pace floor of quadrant q at its hottest reading; how the product is rounded to 0.1 mV is free (log 6). -/
def State.paceFloor (s : State) (q : Nat) : Nat × State :=
  let x := s.slope * (s.pwr.hot.look 0 q - s.pwr.tcal.look 0 q)
  let (b, s1) := s.fresh 1
  let d := if x % 10 ≠ 0 ∧ b = 1 then x / 10 + 1 else x / 10
  ((((s.pwr.v0.look 0 q : Nat) : Int) + d + ((10 * max 10 (s.get F.PWR_FMARGIN_MV) : Nat) : Int)).toNat, s1)
/-- R471: a VARR set point is at most 0.80 V. -/
def State.setVarr (s : State) (q v : Nat) : State := s.set (F.PWR_Q_VARR_UV q) (min 8000 v)
/-- R474, R480: a raise by a field in 0.5 mV steps. -/
def State.raiseVarr (s : State) (q n : Nat) : State := s.setVarr q (s.get (F.PWR_Q_VARR_UV q) + 5 * n)

/-- R88, R89, R99, R474: a pace miss of hearth p: it is counted, the command in progress was delayed under power, a bubble
lasts longer, and the quadrant's array rail is raised at once, unless VLOOP_EN holds the rails (R483). -/
def State.paceMiss (s : State) (p : Nat) : State :=
  if !s.clocked then s
  else
    let q := pairQuad p
    let s1 := ((s.count (F.HRT_PACEMISS_VALUE p) 1).raise (F.HRT_EVENT_PACE_MISS p)).modHearth p fun h =>
      { h with run := h.run.map fun r => { r with misses := r.misses + 1 }, bubbleMiss := h.bubbleMiss + 1 }
    let s1 := match s.logicalOf p with
      | some k => s1.noteDelay k 3
      | none => s1
    let s2 := if s1.on F.PWR_CTRL_VLOOP_EN then (s1.raiseVarr q (s1.get F.PWR_VLOOP_MISS)).raise F.PWR_EVENT_PACE_RAISE else s1
    s2.modPwr fun w => { w with missed := w.missed.write false q true, block := w.block.write 0 q 8 }

/-- The active hearths of quadrant q, by physical number. -/
def State.activeOf (s : State) (q : Nat) : List Nat :=
  (List.range 34).filterMap fun i => if (s.logicalOf (34 * q + i)).isSome then some (34 * q + i) else none
/-- R473, R474: a loop period of quadrant q ends. Which hearth's guard holds among several that gave m is free (log 6). -/
def State.vloop (s : State) (q : Nat) : State :=
  if !s.clocked then s
  else
    let hs := s.activeOf q
    let least (p : Nat) : Nat := (s.hearth p).pmLeast
    let m := (hs.map least).foldl min 255
    let tied := hs.filter fun p => least p == m
    let (i, s1) := s.fresh 8
    let g := s1.get (F.HRT_PACE_GUARD_GUARD (tied.getD (i % max 1 tied.length) 0))
    let s2 := s1.each hs fun t p => t.modHearth p fun h => { h with pmLeast := 255, pmRan := false }
    let (fl, s3) := s2.paceFloor q
    let s4 := s3.set (F.PWR_Q_FLOOR_UV q) fl
    let v := s4.get (F.PWR_Q_VARR_UV q)
    let missed := s.pwr.missed.look false q
    let blk := s.pwr.block.look 0 q
    let v1 :=
      if !s4.on F.PWR_CTRL_VLOOP_EN || !hs.any (fun p => (s.hearth p).pmRan) || missed then v
      else if m < g then v + 5 * s4.get F.PWR_VLOOP_UP
      else if m ≤ g + 8 || blk != 0 then v
      else max fl (v - 5 * s4.get F.PWR_VLOOP_DOWN)
    (s4.setVarr q (max fl v1)).modPwr fun w =>
      { w with missed := w.missed.write false q false, block := w.block.write 0 q (if missed then 8 else blk - 1) }

/-! ## Budgets, limits, throttling -/

/-- The quadrant and FFY class of a queue identifier (R475, R476). -/
def State.lendOf (s : State) (k : Nat) : Option (Nat × Nat) :=
  if k < 128 then (s.physOf k).map fun p => (pairQuad p, 0)
  else if k < 192 then (s.crkPhys (k - 128)).map fun c => (c / 17, 5)
  else if k < 196 then none
  else if k < 200 then some (k - 196, 1)
  else if k < 204 then some (k - 200, 2)
  else if k < 208 then some (k - 204, 3)
  else if k < 212 then some (k - 208, 6)
  else if k < 216 then some (k - 212, 4)
  else none
/-- The sum of the reservations of some queues in quadrant q. -/
def State.reserved (s : State) (q : Nat) (ks : List Nat) : Nat :=
  (ks.map fun k => match s.lendOf k with
    | some (a, u) => if a = q then s.get (F.PWR_RES_W u) else 0
    | none => 0).sum
/-- R454: a unit whose head wait has lasted SYN_LENDTHR lends its budget. -/
def State.powerLend (s : State) (k : Nat) : State :=
  if s.clocked && s.on F.SYN_CTRL_LEND_EN && s.stalled k && !s.syn.lent.contains k then { s with syn := { s.syn with lent := s.syn.lent ++ [k] } } else s

/-- R477: PWR_LIMIT, which acts as 3,000 outside 500 to 3,000. -/
def State.powerLimit (s : State) : Nat :=
  let l := s.get F.PWR_LIMIT_W
  if 500 ≤ l ∧ l ≤ 3000 then l else 3000
/-- R477, R478: raises the throttle level to at least `l`. -/
def State.throttleTo (s : State) (l : Nat) : State :=
  if s.get F.PWR_STATUS_THROT < l then (s.set F.PWR_STATUS_THROT l).raise F.PWR_EVENT_THROTTLE else s
/-- R476: a recalled reservation stands until the quadrant is one reservation below its grant; recall counts first. -/
def State.keepRecalled (s : State) : State :=
  let back := s.syn.recalled.filter fun k => match s.lendOf k with
    | some (q, u) => decide (s.get (F.PWR_Q_GRANT_W q) < s.get (F.PWR_Q_POWER_W q) + s.get (F.PWR_RES_W u))
    | none => false
  { s with syn := { s.syn with recalled := back } }

/-- R475 to R477, R471: the comparison of every microsecond. Rail telemetry and the input voltage are free (log 6). -/
def State.budgetCompare (s : State) (quads : List Nat) (input : Nat) : State :=
  if !s.clocked then s
  else
    let s1 := s.each (List.range 4) fun t q => t.set (F.PWR_Q_POWER_W q) (min 4095 (quads.getD q 0))
    let s2 := s1.each (List.range 16) fun t r =>
      let (v, u) := t.fresh 32
      (u.set (F.PWR_RAIL_MV r) (v % 2 ^ 16)).set (F.PWR_RAIL_DA r) (v / 2 ^ 16)
    let (v, s3) := s2.fresh 16
    let s4 := (s3.set F.PWR_INPUT_P (min 65535 (4 * input))).set F.PWR_INPUT_V v
    let s5 := s4.keepRecalled
    let overs := if !s5.on F.PWR_CTRL_BUDGET_EN then []
      else (List.range 4).filter fun q => decide (s5.get (F.PWR_Q_GRANT_W q) + s5.reserved q s5.syn.lent < s5.get (F.PWR_Q_POWER_W q))
    let lim := s5.powerLimit
    let exc := if lim < input then s.pwr.exc + 1 else s.pwr.exc - 1
    let cap := min 10000 (s5.get F.PWR_EXCMAX_US)
    let uj := s.pwr.microJ + input
    let s6 := s5.setPair R.PWR_ENERGY_LO ((s5.pair R.PWR_ENERGY_LO + uj / 1000) % 2 ^ 64)
    let s7 := (s6.modPwr fun w => { w with exc := exc, overs := overs, input := input, microJ := uj % 1000 }).put F.PWR_STATUS_EXCURSION (exc != 0)
    let s8 := if lim < input ∧ cap ≤ exc then (if s.pwr.exc < cap ∨ !s.pwr.byExc then s7.raise F.PWR_EVENT_EXC_LIMIT else s7).modPwr fun w => { w with byExc := true } else s7
    if s8.get F.PWR_PEAK_W < input then
      ((s8.raise F.PWR_EVENT_PEAK).throttleTo 3).modPwr fun w => { w with byPeak := true }
    else s8

/-- R478: the throttle interval ends: the level rises while an excursion or the junction holds it, and falls by one while
every limit that raised it is met. -/
def State.throttleStep (s : State) : State :=
  if !s.clocked then s
  else
    let w := s.pwr
    let exc := w.byExc && decide (s.powerLimit < w.input)
    let l := s.get F.PWR_STATUS_THROT
    if exc || w.tooHot then
      (s.throttleTo (min 4 (l + 1))).modPwr fun x => { x with byHot := x.byHot || x.tooHot }
    else if w.byPeak && decide (s.get F.PWR_PEAK_W < w.input) then s
    else
      let s1 := s.set F.PWR_STATUS_THROT (l - 1)
      if l ≤ 1 then s1.modPwr fun x => { x with byExc := false, byPeak := false, byHot := false } else s1

/-- R479: a junction reading as a byte; one below 0 °C is open (log 32). -/
def tempByte (t : Int) : Nat := if t < 0 then (Config.coldByte t).toNat else min 255 t.toNat
/-- R479: the junction readings of 64 points, 16 per quadrant, against the thermal limits. -/
def State.thermalSample (s : State) (temps : List Int) : State :=
  if !s.clocked then s
  else
    let hot (q : Nat) : Int := ((List.range 16).filterMap fun i => temps[16 * q + i]?).foldl max (-273)
    let all := temps.foldl max (-273)
    let s1 := s.each (List.range 4) fun t q =>
      (t.setReg R.PWR_TJMAX (setBits (t.reg R.PWR_TJMAX) (8 * q) 8 (tempByte (hot q)))).modPwr fun w => { w with hot := w.hot.write 0 q (hot q) }
    let throt := min 105 (s1.get F.PWR_TJ_THROT)
    let s2 := if ((s1.get F.PWR_TJ_WARN : Nat) : Int) ≤ all then s1.raise F.PWR_EVENT_TJ_WARN else s1
    let high := decide ((throt : Int) ≤ all)
    let s3 := (s2.modPwr fun w => { w with tooHot := high }).put F.PWR_STATUS_THERMAL high
    let s4 := if high then s3.raise F.PWR_EVENT_TJ_THROT else s3
    if 110 ≤ all then
      let i := (temps.findIdx? fun t => decide (t = all)).getD 0
      let s5 := ((s4.emberRecord .power .clock 0 i all.toNat).stopNow Stop.thermalTrip.code).setReady false
      { s5 with aon := { s5.aon with tripped := true } }
    else s4

end Sys2Proof.Machine
end

