-- ==== Sys2Proof/Machine/Clock.lean ====
section
/-! DEFINITION. The pilot oscillator, its trim sources and holdover, the root PLL and the clock monitors
(14_clocks_and_power.md R461 to R470, R481, R482). -/

namespace Sys2Proof.Machine

/-- R461, R482: the trim source that CLK_CTRL.REFSEL selects: 1 REFCLK, 2 frame marks, 3 holdover. -/
def State.wantSrc (s : State) : Nat :=
  let r := s.get F.CLK_CTRL_REFSEL
  if r ≠ 0 then r else if s.aon.fabMaster then 1
  else if s.onMarks || (!s.on F.CLK_STATUS_REFPRES && s.on F.FLU_STATUS_MARKLOCK) then 2 else 1
/-- Whether a source is there. -/
def State.srcHere (s : State) (src : Nat) : Bool :=
  (src == 1 && s.on F.CLK_STATUS_REFPRES) || (src == 2 && s.on F.FLU_STATUS_MARKLOCK)
/-- R481: the time of a holdover that ends; its length is free (log 6). -/
def State.endHoldover (s : State) : State :=
  if s.get F.CLK_STATUS_SRC = 3 then
    let (n, s1) := s.fresh 32
    s1.count F.CLK_HOLDTIME_US n
  else s
/-- A signed number divided by a positive one, rounded to the nearest, ties away from zero. -/
def roundDiv (a : Int) (b : Nat) : Int := if 0 ≤ a then (2 * a + b) / (2 * b) else -((2 * -a + b) / (2 * b))
/-- R481: the offset in 0.01 ppm; how it is rounded is open (log 31). -/
def offsetErr (dif : Int) (e : Nat) : Int :=
  let x := dif * 100000000
  if x % (e : Int) ≠ 0 ∧ Config.offsetUp dif then x / e + 1 else x / e
/-- The trim as a signed number of 0.1 ppm. -/
def State.trim (s : State) : Int := (BitVec.ofNat 16 (s.get F.CLK_TRIM_TRIM)).toInt
def State.setTrim (s : State) (t : Int) : State := s.set F.CLK_TRIM_TRIM (BitVec.ofInt 16 t).toNat

/-- R461, R462: a measurement window ends with a count of root cycles. Its source is the one selected when it is there;
with none there no window runs. -/
def State.trimWindow (s : State) (count : Nat) : State :=
  let src := s.wantSrc
  if !s.aon.pg ∨ s.aon.tripped ∨ src = 3 ∨ !s.srcHere src then
    (if src = 3 ∧ s.get F.CLK_STATUS_SRC ≠ 0 then s.set F.CLK_STATUS_SRC 3 else s)
  else
    let s1 := s.endHoldover.set F.CLK_STATUS_SRC src
    let e := if src = 1 then 92274688 else 134217728
    let dif : Int := ((count : Nat) : Int) - ((e : Nat) : Int)
    -- the error in 0.01 ppm and in 0.1 ppm
    let s2 := s1.set F.CLK_OFFSET_ERR (BitVec.ofInt 32 (offsetErr dif e)).toNat
    let mv := max (-10) (min 10 (roundDiv (dif * 10000000) e))
    let t := s2.trim - mv
    let s3 := s2.setTrim (max (-2000) (min 2000 t))
    let s4 := if 2000 < t ∨ t < -2000 then s3.raise F.CLK_EVENT_TRIM_RANGE else s3
    let good : Bool := decide ((dif * 10000000).natAbs ≤ e)
    let s5 := { s4 with goodWins := if good then min 2 (s4.goodWins + 1) else 0 }
    let s6 := s5.put F.CLK_STATUS_TRIMLOCK (s5.goodWins == 2)
    { s6 with onMarks := s6.onMarks || (!s6.aon.fabMaster && s6.on F.FLU_STATUS_MARKLOCK) }
/-- R462: the hob saves the trim word in the ember store. -/
def State.trimSave (s : State) : State :=
  if s.clocked then { s with ember := { s.ember with trim := s.trim, tagOk := s.on F.SEC_BOOT_ID_OK } } else s
/-- R463: the reference is lost: the device enters holdover. -/
def State.refLost (s : State) : State :=
  if !s.aon.pg then s
  else if s.get F.CLK_STATUS_SRC = 2 then s.marksLost
  else
    let s1 := (s.set F.CLK_STATUS_REFPRES 0).raise F.CLK_EVENT_REF_LOST
    if s1.get F.CLK_STATUS_SRC = 1 then s1.set F.CLK_STATUS_SRC 3 else s1
/-- R463: REFCLK edges, or locked frame marks, are there again. -/
def State.refReturn (s : State) (mark : Bool) : State :=
  if !s.aon.pg then s else if mark then s.set F.FLU_STATUS_MARKLOCK 1 else s.set F.CLK_STATUS_REFPRES 1
/-- R536 class 0x0A: the details of a clock record. -/
def State.clkD0 (s : State) : Nat := (s.reg R.CLK_STATUS).toNat
def State.clkD1 (s : State) : Nat := (s.reg R.CLK_EVENT).toNat
/-- R465: a holdover has lasted CLK_HOLDLIM. -/
def State.holdLimit (s : State) : State :=
  if !s.aon.pg ∨ s.get F.CLK_STATUS_SRC ≠ 3 then s
  else
    let s1 := s.raise F.CLK_EVENT_HOLD_LIMIT
    if s1.aon.fabMaster ∨ s1.get F.CFG_STATE_IMAGE ≠ 2 then s1
    else (s1.stopRecord .clock .clock 0 s1.clkD0 s1.clkD1 .clockLost).veto
/-- R466: the OSC_WAIT interval ends: the pilot starts on the saved or the factory trim, and start-up goes on. -/
def State.oscWaitEnd (s : State) (present : Bool) : State :=
  if !s.aon.pg ∨ s.aon.tripped ∨ s.get F.SEC_BOOT_STAGE ≠ 1 then s
  else
    let s1 := (s.setTrim (if s.ember.tagOk then s.ember.trim else Config.factoryTrim.toInt)).setStage 2
    if present then (s1.set F.CLK_STATUS_REFPRES 1).set F.CLK_STATUS_SRC 1
    else ((s1.set F.CLK_STATUS_REFPRES 0).set F.CLK_STATUS_SRC 0).raise F.CLK_EVENT_REF_LOST
/-- R467: the root PLL locks in stage TRIM and the divider chain is released; stage ROM follows. -/
def State.pllLock (s : State) : State :=
  if !s.aon.pg ∨ s.aon.tripped ∨ s.get F.SEC_BOOT_STAGE ≠ 2 then s
  else ({ s with aon := { s.aon with locked := true } }.set F.CLK_STATUS_PLL_LOCK 1).setStage 3
/-- R468: the root PLL loses lock: every clocked unit stops. -/
def State.pllUnlock (s : State) : State :=
  if !s.clocked then s
  else ({ s with aon := { s.aon with locked := false } }.set F.CLK_STATUS_PLL_LOCK 0).raise F.CLK_EVENT_PLL_UNLOCK
/-- Lock was lost behind stage TRIM. -/
def State.unlocked (s : State) : Bool := s.aon.pg && !s.aon.locked && !s.aon.tripped && decide (3 ≤ s.get F.SEC_BOOT_STAGE)
/-- R468: the PLL relocks within 100 µs: a clock record, and the step is replayed. -/
def State.pllRelock (s : State) : State :=
  if !s.unlocked then s
  else
    let s1 := { s with aon := { s.aon with locked := true } }.set F.CLK_STATUS_PLL_LOCK 1
    s1.vetoRecord .clock .clock 0 s1.clkD0 s1.clkD1
/-- R468: 100 µs pass without relock: the job stops with CLOCK_LOST. -/
def State.pllTimeout (s : State) : State := if !s.unlocked then s else s.stopNow Stop.clockLost.code
/-- R470: the expected edges of the monitored domains in 10 µs. -/
def monExpected : List Nat := [22000, 11000, 5500, 1000, 250, Config.serdesEdges.toNat]
/-- R470: a monitor interval ends with the edge counts of the domains. -/
def State.monitor (s : State) (counts : List Nat) : State :=
  if !s.clocked then s
  else
    let bad := (List.range 6).filter fun i =>
      match counts[i]? with
      | some c => let e := monExpected.getD i 0; decide (e < 1000 * (c - e + (e - c)))
      | none => false
    if bad.isEmpty then s
    else
      let m := bad.foldl (fun m i => m ||| 2 ^ i) (s.get F.CLK_MON_DOMAIN)
      ((s.set F.CLK_MON_DOMAIN m).raise F.CLK_EVENT_MON_FAULT).pllUnlock

end Sys2Proof.Machine
end

