-- ==== Sys2Proof/Machine/Container.lean ====
section
/-! DEFINITION. Signed containers and their records (15_startup_configuration_security.md R493 to R498). -/

namespace Sys2Proof.Machine

/-- Header fields of a container (R493). -/
def ctMagic (c : List Byte) : Nat := leAt c 0 4
def ctKind (c : List Byte) : Nat := leAt c 4 2
def ctVersion (c : List Byte) : Nat := leAt c 6 2
def ctPart (c : List Byte) : Nat := leAt c 8 4
def ctSvn (c : List Byte) : Nat := leAt c 12 4
def ctLen (c : List Byte) : Nat := leAt c 16 8
def ctCount (c : List Byte) : Nat := leAt c 24 4
def ctDigest (c : List Byte) : List Byte := c.extract 32 96
def ctKeyHash (c : List Byte) : List Byte := c.extract 96 160
def ctKey (c : List Byte) : List Byte := c.extract 256 2049
def ctSigLen (c : List Byte) : Nat := leAt c 2049 2
def ctSig (c : List Byte) : List Byte := (c.extract 2051 3331).take (ctSigLen c)

/-- One record: type, target device address, offset of the payload in the container, payload. -/
structure Rec where
  type : Nat
  target : Nat
  off : Nat
  body : List Byte

/-- R495: the record types of each kind of container. -/
def recTypes (kind : Nat) : List Nat :=
  if kind = 1 then [1, 2, 3, 4, 5] else if kind = 2 then [3, 0x101, 0x102, 0x103, 0x104]
  else if kind = 3 then [0x201, 0x202, 0x203, 0x204, 0x205, 0x206] else []
/-- R495: every record type. -/
def allTypes : List Nat := recTypes 1 ++ recTypes 2 ++ recTypes 3

/-- R494, R495: `n` records from offset `o`; none: the container is invalid. A record of unknown type is skipped unless it
is CRITICAL. -/
def recordsFrom (c : List Byte) (o : Nat) : Nat → Option (List Rec)
  | 0 => some []
  | n + 1 =>
    let len := leAt c (o + 4) 4
    let ty := leAt c o 2
    if c.length < o + 16 + len then none
    else
      match recordsFrom c ((o + 16 + len + 63) / 64 * 64) n with
      | none => none
      | some t =>
        if (recTypes (ctKind c)).contains ty then some (⟨ty, leAt c (o + 8) 8, o + 16, c.extract (o + 16) (o + 16 + len)⟩ :: t)
        else if allTypes.contains ty ∨ (leAt c (o + 2) 2).testBit 0 then none
        else some t
/-- The records of a container. -/
def ctRecords (c : List Byte) : Option (List Rec) := recordsFrom c 4096 (ctCount c)
/-- R493: a well-formed container of a kind, with its body digest. -/
def ctForm (c : List Byte) (kind : Nat) : Bool :=
  decide (4096 ≤ c.length) && ctMagic c == 0x434E4C47 && ctKind c == kind && ctVersion c == 1 && ctLen c == c.length && ctLen c % 64 == 0 &&
    (ctRecords c).isSome && shake256 (c.drop 4096) 64 == ctDigest c
/-- R497: the signer key is the one of a hash, and the signature over the first 256 bytes is valid. -/
def ctSigned (c hash : List Byte) : Bool :=
  ctKeyHash c == hash && shake256 (ctKey c) 64 == hash && decide (1 ≤ ctSigLen c) && decide (ctSigLen c ≤ 1280) &&
    Config.falconVerify (ctKey c) (c.take 256) (ctSig c)
/-- R497, R498: a container of a kind verifies under a key hash, but for its SVN. -/
def ctVerified (c : List Byte) (kind : Nat) (hash : List Byte) : Bool := ctForm c kind && ctPart c == 0x7264 && ctSigned c hash

/-- The first record of a type. -/
def recOf (rs : List Rec) (ty : Nat) : Option Rec := rs.find? (·.type == ty)

end Sys2Proof.Machine
end

