-- ==== Sys2Proof/Machine/Startup.lean ====
section
/-! DEFINITION. Power good, the start-up stages, the ember store, the master token, resets
(15_startup_configuration_security.md R485 to R507, 18 R555, R560, R563, R564, 19 R574 to R578). -/

namespace Sys2Proof.Machine

/-- Sets the bits of a register under a mask, among the bits that its table names. -/
def State.setMasked (s : State) (off v mask : Nat) : State :=
  match regRow? off with
  | some r =>
    let m : Word := BitVec.ofNat 32 (mask &&& r.named)
    s.setReg off ((s.reg off &&& ~~~m) ||| (BitVec.ofNat 32 v &&& m))
  | none => s

/-- R556: the boot ROM maps logical hearths 0 to 3 onto the four lowest-numbered pairs of Q0 that pass its test; which pass
is free (log 6). -/
def State.bootMap (s : State) : State :=
  let (m, s1) := s.fresh 34
  s1.each (((List.range 34).filter fun p => m.testBit p).take 4).zipIdx fun t pl =>
    (t.set (F.CMB_PAIRMAP_PHYS pl.2) pl.1).set (F.CMB_PAIRMAP_VALID pl.2) 1
/-- R490: a stage fails: FAILED, READY low, and a start-up record in the ember store; R536 gives no cause codes, so the cause
is free (log 6). -/
def State.stageFail (s : State) : State :=
  let (cause, s1) := s.fresh 32
  let st := s.get F.SEC_BOOT_STAGE
  ((s1.emberRecord .startup .hob s.master st cause).setStage 15).setReady false

/-- The state of a block whose supply is up and whose registers, units and volatile memory are at their reset values; what
the always-on block, the NVM, the far tier and the outside hold stays. -/
def State.afreshFrom (s : State) (mem : Sparse Byte) (errs : Sparse (BitVec 144)) : State :=
  let ports := s.flue.ports.foldl (fun m (p, x) => Sparse.write m Port.idle p { Port.idle with cart := x.cart }) ([] : Sparse Port)
  { State.reset with mem := mem, errs := errs, ember := s.ember, nvm := s.nvm, aon := s.aon, cxl := { devs := s.cxl.devs, ranges := [] }, flue := { Flue.reset with ports := ports, out := s.flue.out }, irq := s.irq, a192 := s.a192, padWaves := 0, cycle := 0, freeCtr := s.freeCtr, bus := { State.reset.bus with rdata := s.bus.rdata }, pending := s.pending }
/-- The far tier part of a table by place. -/
def farPart {α : Type} (m : Sparse α) (lo : Nat) : Sparse α := m.filter fun e => decide (lo ≤ e.1)
/-- What survives of the host link in the registers: it is not reset with the device. -/
def State.keepLink (s t : State) : State := s.setReg R.CXL_STATUS (t.reg R.CXL_STATUS)

/-- R485, R574: PG rises: the straps are sampled, the master token is granted, start-up begins. -/
def State.pgRise (s : State) (osc hobSel nvm : Nat) (fab : Bool) : State :=
  if !s.aon.standby ∨ s.aon.pg then s
  else
    let s1 := s.afreshFrom (farPart s.mem farBase) (farPart s.errs (farBase / 16))
    let a := { s.aon with pg := true, ready := false, tripped := false, locked := false, oscWait := osc, hobSel := hobSel, nvmMode := nvm, fabMaster := fab, seed := none, romRan := false }
    let s2 := { s1 with aon := a }
    let s3 := (((s2.set F.SEC_BOOT_NVM_MODE nvm).set F.SEC_BOOT_HOB_SEL hobSel).put F.SEC_BOOT_FAB_MASTER fab).set F.SEC_MASTER_HOLDER hobSel
    let s4 := ((s3.set F.CLK_STATUS_OSCWAIT osc).set F.SEC_BOOTCNT_COUNT (s.ember.bootCount + 1)).setStage 1
    let s5 := (s4.set F.GEN_VARIANT_STACK_GIB (if s.a192 then 24 else 48)).put F.GEN_VARIANT_A192 s.a192
    let (v, s6) := s5.fresh 8
    s6.set F.GEN_ID_STEPPING (max 1 v)
/-- R576: PG falls: every clocked unit stops, READY and PG go low, what the rails held is gone. An undervoltage leaves a
record in the ember store; which of its causes holds is free (log 6). The job ends without a verdict. -/
def State.pgFall (s : State) : State :=
  if !s.aon.pg then s
  else
    let (u, s1) := s.fresh 1
    let (v, s2) := s1.fresh 32
    let s3 := if u = 1 then s2.emberRecord .power .clock 0 0 v else s2
    let s4 := s3.afreshFrom (farPart s3.mem farBase) (farPart s3.errs (farBase / 16))
    { s4 with aon := { s4.aon with pg := false, ready := false, tripped := false, locked := false, seed := none, romRan := false } }
/-- R575: the standby rail comes up. -/
def State.standbyUp (s : State) : State := { s with aon := { s.aon with standby := true } }
/-- R576: the standby rail is lost: PG falls, and the ember store is lost. -/
def State.standbyLoss (s : State) : State :=
  let s1 := s.pgFall
  { s1 with ember := Ember.empty, aon := { s1.aon with standby := false } }

/-- R501: the identity of a seed: the key pair's first 48 bytes. -/
def idBytes (seed : List Byte) : List Byte := (shake256 (seed ++ [1]) 64).take 48
/-- R500, R501: stage ROM: self-test, seed, identity. -/
def State.stageRom (s : State) (ok : Bool) (seed : Option (List Byte)) : State :=
  if !s.clocked ∨ s.get F.SEC_BOOT_STAGE ≠ 3 then s
  else if !ok then s.bootMap.stageFail
  else
    let sd := if s.aon.romRan then s.aon.seed else seed
    let s1 := { s with aon := { s.aon with seed := sd, romRan := true } }.bootMap
    let s2 := match sd with
      | some x =>
        let h := shake256 (Config.falconPublic (idBytes x)) 64
        (s1.each (List.range 16) fun t i => t.setReg (R.SEC_IDHASH i) (BitVec.ofNat 32 (leAt h (4 * i) 4))).set F.SEC_BOOT_ID_OK 1
      | none => (s1.set F.SEC_BOOT_ID_OK 0).raise F.SEC_EVENT_ID_FAIL
    s2.setStage 4

/-- R498, R500: what the OWNERSHIP and OWNER records of an image give. -/
def State.ownerOf (s : State) (img : List Byte) (rs : List Rec) : Option (List Byte) × Bool × Bool :=
  match recOf rs 4, recOf rs 5 with
  | some w, some o =>
    let bound := w.body.take 64 == s.idHash && s.on F.SEC_BOOT_ID_OK
    let sgn := Config.falconVerify (ctKey img) (w.body.take 128) ((w.body.drop 130).take (leAt w.body 128 2))
    let form := ctVerified o.body 2 (w.body.extract 64 128)
    let good := form && sgn
    let svn := decide (s.nvm.count1 ≤ ctSvn o.body)
    let pol := match (ctRecords o.body).bind (recOf · 0x104) with
      | some p => leAt p.body 0 4
      | none => 0
    let owned := bound && good && svn
    (if owned then some o.body else none, !s.on F.SEC_BOOT_ID_OK && form && svn && pol.testBit 1, bound && good && !svn)
  | _, _ => (none, false, false)
/-- R284, R293, R495: the hob crickets leave the boot ROM for the firmware of the verified image, at its entry offset in
their local stores, and SECCTL is fixed from the image (log 119). -/
def State.bootHobs (s : State) (fw : List Byte) : State :=
  let st := (fw.take 0x40000).zipIdx.foldl (fun (m : Sparse Byte) (p : Byte × Nat) => Sparse.write m 0 p.2 p.1) []
  s.each [68, 69, 70, 71] fun t c => t.modCrk c fun k =>
    { k with store := st, storeBad := [], rom := false, pc := BitVec.ofNat 64 (storeBase + leAt fw 0 4), level := 2, secctl := Config.secureEntry fw }
/-- R497, R498: a verified configuration image is booted; stage RESTORE follows. -/
def State.bootImage (s : State) (img : List Byte) : State :=
  let rs := (ctRecords img).getD []
  let (own, req, old) := s.ownerOf img rs
  let mine := rs.map fun r => (r.type, false, r.body)
  let owns := match own with
    | some o => ((ctRecords o).getD []).map fun r => (r.type, true, r.body)
    | none => []
  let s0 := match recOf rs 1 with
    | some r => s.bootHobs r.body
    | none => s
  let s1 := { s0 with hob := { s.hob with cfgHdr := img.take 256, ownHdr := (own.getD []).take 256, recs := mine ++ owns } }
  let s2 := ((s1.set F.CFG_CONFSVN_SVN (ctSvn img)).put F.SEC_BOOT_OWNED own.isSome)
  let s3 := if old then s2.raise F.SEC_EVENT_ROLLBACK else s2
  if req then s3.stageFail else s3.setStage 5
/-- R497: whether a configuration image verifies; and whether only its SVN is too low (R499). -/
def State.imageOk (s : State) (img : List Byte) : Bool := ctVerified img 1 Config.vendorHash && decide (s.nvm.count0 ≤ ctSvn img)
def State.imageOld (s : State) (img : List Byte) : Bool := ctVerified img 1 Config.vendorHash && decide (ctSvn img < s.nvm.count0)
/-- R491, R492: stage IMAGE: the slot that the directory names, then the other, then RECOVERY. -/
def State.stageImage (s : State) : State :=
  if !s.clocked ∨ s.get F.SEC_BOOT_STAGE ≠ 4 then s
  else
    let s1 := (s.set F.SEC_SVN0_COUNT s.nvm.count0).set F.SEC_SVN1_COUNT s.nvm.count1
    if s1.aon.nvmMode = 3 then (s1.set F.SEC_BOOT_SLOT 1).setStage 14
    else
      let slot (i : Nat) : List Byte := if i % 2 = 0 then s.nvm.slot0 else s.nvm.slot1
      let a := s.nvm.boot % 2
      let s2 := if s1.imageOld (slot a) then s1.raise F.SEC_EVENT_ROLLBACK else s1
      if s2.imageOk (slot a) then (s2.set F.SEC_BOOT_SLOT a).bootImage (slot a)
      else
        let s3 := s2.raise F.SEC_EVENT_SLOT_FALLBACK
        let s4 := if s3.imageOld (slot (a + 1)) then s3.raise F.SEC_EVENT_ROLLBACK else s3
        if s4.imageOk (slot (a + 1)) then (s4.set F.SEC_BOOT_SLOT (1 - a)).bootImage (slot (a + 1))
        else (s4.set F.SEC_BOOT_SLOT 1).setStage 14

/-- R495: the entries of a DEFAULTS or REGS payload: offset, value, mask. -/
def regEntries (p : List Byte) : List (Nat × Nat × Nat) :=
  (List.range (p.length / 16)).map fun i => (leAt p (16 * i) 4, leAt p (16 * i + 4) 4, leAt p (16 * i + 8) 4)
/-- R502: the digest of the configuration headers in force. -/
def State.confDigest (s : State) : List Byte := shake256 (s.hob.cfgHdr ++ s.hob.ownHdr) 64
/-- R503: stage RESTORE: vendor DEFAULTS, owner DEFAULTS, then the retained settings; an ember store whose tag fails starts
afresh. The restored repair list shows in HBM_C_PPR.PENDING (R366). -/
def State.stageRestore (s : State) : State :=
  if !s.clocked ∨ s.get F.SEC_BOOT_STAGE ≠ 5 then s
  else
    let apply (t : State) (e : Nat × Nat × Nat) : State := t.setMasked e.1 e.2.1 e.2.2
    let defs (own : Bool) : List (Nat × Nat × Nat) := (s.hob.recs.filter fun r => r.1 == 3 && r.2.1 == own).flatMap fun r => regEntries r.2.2
    let s1 := s.each (defs false ++ defs true) apply
    let holds := s.ember.tagOk && s.on F.SEC_BOOT_ID_OK
    let s2 := if holds && s.ember.digest == s.confDigest then s1.each s.ember.retained fun t e => t.setMasked e.1 e.2 0xFFFFFFFF else s1
    let s3 :=
      if holds then { s2 with ember := { s2.ember with bootCount := s2.get F.SEC_BOOTCNT_COUNT } }.each s2.ember.repair fun t (r : Nat × Nat) =>
        t.count (F.HBM_C_PPR_PENDING r.1) 1
      else ({ s2 with ember := { Ember.empty with bootCount := 1, trim := s2.trim } }.set F.SEC_BOOTCNT_COUNT 1).raise F.SEC_EVENT_EMBER_BAD
    { s3 with ember := { s3.ember with tagOk := s3.on F.SEC_BOOT_ID_OK, digest := s3.confDigest } }.setStage 6

/-- R564: one range per device of a port, in bus order, from an address upward; sizes in GiB. -/
def rangesFrom (port : Nat) (a : Nat) : List Nat → List FarRange
  | [] => []
  | g :: t => { base := a, size := g * 2 ^ 30, port := port, ilv := false } :: rangesFrom port (a + g * 2 ^ 30) t
/-- R563, R564: enumeration: far-tier ranges to CXL0's devices, then to CXL1's, or interleaved; 8 TiB at most, 8 devices a
port. The version and the width that a port trains to are free (log 6). -/
def State.enumerate (s : State) : State :=
  let ds (k : Nat) : List Nat := (s.cxl.devs.look [] k).take 8
  let g0 := (ds 0).sum
  let g1 := (ds 1).sum
  let inter := s.on F.CXL_CTRL_ILV && g0 == g1 && g0 != 0
  let all : List FarRange := if inter then [{ base := farBase, size := (g0 + g1) * 2 ^ 30, port := 0, ilv := true }]
    else rangesFrom 0 farBase (ds 0) ++ rangesFrom 1 (farBase + g0 * 2 ^ 30) (ds 1)
  let top := farBase + 2 ^ 43
  let cut : List FarRange := (all.filter fun r => decide (r.base < top)).map fun r => { r with size := min r.size (top - r.base) }
  let s1 := { s with cxl := { s.cxl with ranges := cut } }.setPair R.CXL_FARSIZE_LO ((cut.map FarRange.size).sum)
  let s2 := if 8192 < g0 + g1 ∨ 8 < (s.cxl.devs.look [] 0).length ∨ 8 < (s.cxl.devs.look [] 1).length then s1.raise F.CXL_EVENT_OVERSIZE else s1
  s2.each (List.range 2) fun t k =>
    let (v, u) := t.fresh 6
    let n := if inter then (ds k).length else (cut.filter fun r => r.port == k).length
    let lo := if inter then farBase + 256 * k else ((cut.find? fun r => r.port == k).map FarRange.base).getD 0
    let u1 := (u.set (F.CXL_P_STATUS_DEVS k) n).setPair (R.CXL_P_BASE_LO k) lo
    if (ds k).isEmpty then (u1.set (F.CXL_P_STATUS_STATE k) 0).set (F.CXL_P_STATUS_LANES k) 0
    else ((u1.set (F.CXL_P_STATUS_STATE k) 2).set (F.CXL_P_STATUS_V31 k) (v % 2)).set (F.CXL_P_STATUS_LANES k) (1 + v / 2 % 16)

/-- Maps logical hearth l onto the good pair p. -/
def State.takePair (s : State) (l p : Nat) : State :=
  ((s.set (F.CMB_S_STATE_STATE p) 0).set (F.CMB_PAIRMAP_PHYS l) p).set (F.CMB_PAIRMAP_VALID l) 1
/-- R18: logical hearth l takes the lowest good pair of its own quadrant that no other one has: which of them the spec does
not say (log 116). -/
def State.mapHome (s : State) (l : Nat) : State :=
  match ((List.range 34).map fun i => 34 * (l / 32) + i).find? fun p => s.get (F.CMB_S_STATE_STATE p) == 1 with
  | some p => s.takePair l p
  | none => s
/-- R13, R18, R503: the sparing map of a start-up: a Loaded entry whose pair is good stays in force; each other logical hearth
takes a pair of its own quadrant, or then the nearest spare pair. -/
def State.mapPairs (s : State) : State :=
  let s0 := s.each (List.range 128) fun t l =>
    match t.physOf l with
    | some p => if p < 136 ∧ t.get (F.CMB_S_STATE_STATE p) = 1 then t.takePair l p else t.set (F.CMB_PAIRMAP_VALID l) 0
    | none => t
  let s1 := s0.each ((List.range 128).filter fun l => (s0.physOf l).isNone) State.mapHome
  let s2 := s1.each ((List.range 128).filter fun l => (s1.physOf l).isNone) fun t l =>
    match t.chooseSpare l with
    | some p => t.takePair l p
    | none => t
  (s2.each (List.range 136) State.noteLogical).countPairs
/-- R350, R495: whether a stack of a capacity in GiB is refused: it is not the variant's, or the PART record does not allow it. -/
def State.stackRefused (s : State) (gib : Nat) : Bool :=
  gib != s.get F.GEN_VARIANT_STACK_GIB ||
    ((s.hob.recs.find? fun r => r.1 == 2 && !r.2.1).map fun r => !Config.partAllows r.2.2 gib).getD false
/-- R488: the channels are trained: what a stack's temperature is and whether it has a repair resource left is free (log 6). -/
def State.trainChannels (s : State) (up : List Bool) : State :=
  let s1 := s.each (List.range 8) fun t k =>
    let (v, u) := t.fresh 9
    { u with ram := { u.ram with stackTemp := u.ram.stackTemp.write 0 k (v % 256) } }.each (List.range 32) fun w i =>
      w.set (F.HBM_C_STATE_PPR_EXH (8 * i + k)) (v / 256)
  s1.each (List.range 256) fun t c =>
    if up.getD c false then (t.set (F.HBM_C_STATE_STATE c) 0).noteTrained c
    else (t.set (F.HBM_C_STATE_STATE c) 3).raise F.HBM_EVENT_CH_LOST
/-- R488: stage CALIB: cartridges are read and ports trained, HBM is trained and its repair list made hard, the comb is
tested, CXL is enumerated, each quadrant's V0 and Tcal are found. What the measurements give is free (log 6). A stack of a
capacity that is refused fails the stage (R350, R490). -/
def State.stageCalib (s : State) (portsUp channelsUp slicesOk : List Bool) (cxlGib stackGib : List Nat) : State :=
  if !s.clocked ∨ s.get F.SEC_BOOT_STAGE ≠ 6 then s
  else if stackGib.any s.stackRefused then s.stageFail
  else
    let s1 := s.each (List.range 12) fun t p =>
      let t1 := match (t.port p).cart with
        | some r => t.readCart p r
        | none => t
      if t1.get (F.FLU_P_CTRL_MODE p) = 0 then t1
      else
        let (v, u) := t1.fresh 20
        let u1 := u.trainPort p
        -- R592: all nine lanes, or seven data lanes and the parity lane
        let lanes := if v / 2 ^ 16 < 8 then 511 - 2 ^ (v / 2 ^ 16) else 511
        if portsUp.getD p false then u1.trainingDone p lanes (v % 256) (v / 256 % 256) else u1.trainingTimeout p
    let s2 := s1.trainChannels channelsUp
    let s3 := s2.setInterleave (if 248 ≤ s2.get F.HBM_ILV_N then s2.get F.HBM_ILV_N else 256)
    let s4 := { s3 with ember := { s3.ember with repair := [] } }.each (List.range 256) fun t c => t.set (F.HBM_C_PPR_PENDING c) 0
    let s5 := s4.each (List.range 136) fun t p => t.set (F.CMB_S_STATE_STATE p) (if slicesOk.getD p false && t.get (F.CMB_S_STATE_STATE p) != 2 then 1 else 2)
    let s6 := s5.mapPairs.mapCrickets
    let dv := s6.cxl.devs
    let dv1 := if cxlGib.isEmpty then dv else (cxlGib.take 2).zipIdx.foldl (fun m gk => Sparse.write m [] gk.2 (if gk.1 = 0 then [] else [gk.1])) dv
    let s7 := { s6 with cxl := { s6.cxl with devs := dv1 } }.enumerate
    let s8 := s7.each (List.range 4) fun t q =>
      let (v, u) := t.fresh 13
      let (c, u1) := u.fresh 7
      let u2 := u1.modPwr fun w => { w with v0 := w.v0.write 0 q (min 8000 v), tcal := w.tcal.write 0 q c, hot := w.hot.write 0 q c }
      let (fl, u3) := u2.paceFloor q
      (u3.set (F.PWR_Q_FLOOR_UV q) fl).setVarr q (max fl (u3.get (F.PWR_Q_VARR_UV q)))
    s8.setStage 7
/-- R329: every comb and HBM granule becomes zero data with valid check bits. -/
def State.clearMemory (s : State) : State := { s with mem := farPart s.mem farBase, errs := farPart s.errs (farBase / 16) }
/-- R329, R488: stage INIT; stage READY follows. -/
def State.stageInit (s : State) : State :=
  if !s.clocked ∨ s.get F.SEC_BOOT_STAGE ≠ 7 then s else s.clearMemory.setStage 8
/-- R489, R499: READY rises; an owned device with ADVANCE raises its counters. -/
def State.readyRise (s : State) : State :=
  if !s.clocked ∨ s.get F.SEC_BOOT_STAGE ≠ 8 ∨ s.aon.ready then s
  else
    let s1 := s.setReady true
    let adv := (s1.hob.recs.find? fun r => r.1 == 0x104 && r.2.1).any fun r => (leAt r.2.2 0 4).testBit 0
    if s1.on F.SEC_BOOT_OWNED && adv then
      let a := max s1.nvm.count0 (leAt s1.hob.cfgHdr 12 4)
      let b := max s1.nvm.count1 (leAt s1.hob.ownHdr 12 4)
      ({ s1 with nvm := { s1.nvm with count0 := a, count1 := b } }.set F.SEC_SVN0_COUNT a).set F.SEC_SVN1_COUNT b
    else s1

/-! ## Ember store, token, resets -/

/-- R403, R504: the bits of a setting that are of type Loaded: RETRAIN of FLU_P_CTRL is not. -/
def loadedBits (off : Nat) : Nat := if 0x1310000 ≤ off ∧ off < 0x131C000 then 3 else 0xFFFFFFFF
/-- R504: the changed settings reach the ember store, 512 at most, and the tag is rewritten. -/
def State.retain (s : State) : State :=
  if !s.clocked then s
  else
    let put (l : List (Nat × Nat)) (o : Nat) : List (Nat × Nat) := (l.filter (·.1 != o)) ++ [(o, (s.reg o).toNat &&& loadedBits o)]
    let l := s.hob.changed.foldl put s.ember.retained
    { s with ember := { s.ember with retained := l.drop (l.length - 512), tagOk := s.on F.SEC_BOOT_ID_OK, digest := s.confDigest }, hob := { s.hob with changed := [] } }
/-- R506: a write of SEC_HEARTBEAT by the hob of quadrant q. A write without the token is a claim. -/
def State.beat (s : State) (q : Nat) : State :=
  if q = s.master ∧ s.on F.SEC_MASTER_VALID then s
  else (((s.raise F.SEC_EVENT_FALSE_CLAIM).set F.SEC_MASTER_LASTCLAIM q).errRecord .security 0 .hob q 3 q)
/-- R507, R467: 10 ms of the standby clock pass without a heartbeat: the token passes on, whether the units are clocked or not.
What the new master does takes clocked units (log 126). -/
def State.tokenPass (s : State) : State :=
  if !s.aon.standby ∨ !s.aon.pg ∨ !s.on F.SEC_MASTER_VALID then s
  else
    let h := s.master
    let next := ([1, 2, 3].map fun i => (h + i) % 4).find? fun q => !(s.cricket (68 + q)).halted
    match next with
    | none => ((s.set F.SEC_MASTER_VALID 0).setReady false).setStage 15
    | some q =>
      let s1 := ((s.set F.SEC_MASTER_HOLDER q).raise F.SEC_EVENT_TOKEN_PASS).set F.SEC_MASTER_PASSES (min 7 (s.get F.SEC_MASTER_PASSES + 1))
      let st := s.get F.SEC_BOOT_STAGE
      if !s.clocked then s1
      else if 2 ≤ s1.get F.CFG_STATE_IMAGE then s1.veto.stopNow Stop.masterLost.code
      else if (3 ≤ st ∧ st ≤ 7) ∨ st = 14 then s1.setStage 4
      else s1
/-- R560, R577: a host reset: the job stops with HOST_STOP, the device starts again at stage OSC without new straps, memory
is cleared as at INIT. The link, the ember store and the NVM stay. A thermal trip stays (R577). -/
def State.hostReset (s : State) : State :=
  if !s.aon.pg ∨ s.aon.tripped then s
  else
    let s1 := s.stopNow Stop.hostStop.code
    let s2 := ((s1.afreshFrom (farPart s1.mem farBase) (farPart s1.errs (farBase / 16))).keepLink s1)
    let s3 := { s2 with aon := { s2.aon with ready := false, locked := false }, cycle := s1.cycle, errSeq := s1.errSeq }
    let s4 := (((s3.set F.SEC_BOOT_NVM_MODE s.aon.nvmMode).set F.SEC_BOOT_HOB_SEL s.aon.hobSel).put F.SEC_BOOT_FAB_MASTER s.aon.fabMaster).setReg R.SEC_MASTER (s.reg R.SEC_MASTER)
    let s5 := ((s4.set F.CLK_STATUS_OSCWAIT s.aon.oscWait).set F.SEC_BOOTCNT_COUNT (s.get F.SEC_BOOTCNT_COUNT)).setStage 1
    (s5.setReg R.GEN_ID (s.reg R.GEN_ID)).setReg R.GEN_VARIANT (s.reg R.GEN_VARIANT)
/-- R577: a rising edge of SYS_RST_N after at least 1 µs low. -/
def State.sysReset (s : State) (lowNs : Nat) : State := if lowNs < 1000 then s else s.hostReset
/-- R555: PERST_N and Function Level Reset reset the endpoint's configuration space and MSI-X table only. -/
def State.endpointReset (s : State) : State := { s with irq := { s.irq with epResets := s.irq.epResets + 1 } }
/-- R578: a byte of the standby management bus; answered while standby is up. -/
def State.mgmtByte (s : State) (reg : Nat) : Nat :=
  let w := s.get F.PWR_INPUT_P / 4
  let b (x : Bool) (n : Nat) : Nat := if x then n else 0
  if reg = 0 then s.get F.SEC_BOOT_STAGE
  else if reg = 1 then b s.aon.pg 1 + b s.aon.ready 2 + b s.aon.tripped 4
  else if reg = 2 then b s.aon.pg (w % 256)
  else if reg = 3 then b s.aon.pg (w / 256)
  else if reg = 4 then b s.aon.pg (tempByte (((List.range 4).map fun q => s.pwr.hot.look 0 q).foldl max (s.pwr.hot.look 0 0)))
  else if reg = 5 then s.aon.lastStop
  else 0
/-- R578: a read on the standby management bus. Bytes above 0x05 are free (log 6), the input power is an average of 1 ms
that the model does not hold: bytes 0x02 and 0x03 are free while PG is high. -/
def State.mgmtRead (s : State) (reg : Nat) : State :=
  if !s.aon.standby then s
  else if 6 ≤ reg ∨ (s.aon.pg ∧ (reg = 2 ∨ reg = 3)) then
    let (v, s1) := s.fresh 8
    { s1 with aon := { s1.aon with mgmtOut := v } }
  else { s with aon := { s.aon with mgmtOut := s.mgmtByte reg } }

end Sys2Proof.Machine
end

