-- ==== Sys2Proof/Machine/Live.lean ====
section
/-! DEFINITION. Registers that report what a unit does at the moment of the read: status registers, the timebase, the cause
bits of ERR_SRC (03 R122, 04 R148, 06 R209, 07 R249, 08 R280, 09 R322, 12 R436, 16 R540, 17 R552). -/

namespace Sys2Proof.Machine

/-- Bits of a status word. -/
def bitAt (b : Bool) (n : Nat) : Nat := if b then 2 ^ n else 0

/-- HRT_STATUS of hearth p (R122). A command with FENCE behind one whose last tile drains waits on FENCE (R96). -/
def State.hrtStatus (s : State) (p : Nat) : Nat :=
  let h := s.hearth p
  let cs := (s.queue (hearthQ s p 1)).cmds
  let waits := match s.hearthQid p with
    | some k => s.stalled k
    | none => false
  let n := if h.prev.isSome then 2 else 1
  let fenced := match h.run, cs[n]? with
    | some r, some c => !r.borrowed && decide ((mmOf r.cmd.bytes).tiles ≤ r.tile) && (leAt c.bytes 0 4).testBit 8
    | _, _ => false
  let lent := match h.run with
    | some r => r.borrowed
    | none => false
  bitAt (s.hearthIdle p) 0 + bitAt waits 1 + bitAt fenced 2 + bitAt lent 3 + bitAt h.susp.isSome 4 + bitAt (h.bubble != 0) 5 +
    (min 4 (cs.length - n)) * 2 ^ 8
/-- HRT_BUBBLE of hearth p (R101, R122). -/
def State.hrtBubble (s : State) (p : Nat) : Nat :=
  if (s.hearth p).bubble = 2 then 0xFFFFFFFF else if (s.hearth p).bubble = 1 then s.bubbleLeft p else 0
/-- DMP_STATUS of hearth p (R147): TAPFULL while the tap buffer withholds a wave or has no room for the least record of 272
bytes (R145, R146), SIDEREADY while the side bank of the tile in the array is loaded (R133). -/
def State.dmpStatus (s : State) (p : Nat) : Nat :=
  let h := s.hearth p
  let full := h.tapStalled || decide (tapRoom < h.tapUsed + 272)
  let side := match h.run with
    | some r => (r.sideBank r.tile).tile == some r.tile
    | none => false
  s.get (F.DMP_STATUS_BUSY p) + bitAt full 1 + bitAt side 2
/-- BLW_STATUS of bellows q (R209). -/
def State.blwStatus (s : State) (q : Nat) : Nat :=
  let b := s.bellows q
  let busy (x : Fact) : Bool := x.reading || !x.got.isEmpty || x.job.flight != 0 ||
    (!x.desc.isEmpty && decide (fdRows x.desc ≤ x.jo) && !x.folded)
  let jobs := (b.facts.filter fun e => e.2.job.st == 1 || e.2.job.st == 2).length
  let stall := (List.range 136).any fun p => (match s.logicalOf p with
    | some l => l / 32 == q
    | none => false) && s.rowStalled p
  s.get (F.BLW_STATUS_BUSY q) + bitAt (!b.facts.any fun e => busy e.2) 1 + bitAt (s.queue (svcQ q)).started 2 + bitAt stall 3 +
    bitAt b.hold.isSome 4 + jobs % 2 ^ 11 * 2 ^ 5
/-- KLN_STATUS of kiln q (R249): a request in the slot runs while the kiln serves requests and has no command; a command at
the head that nothing holds is running (log 115). -/
def State.klnStatus (s : State) (q : Nat) : Nat :=
  let runs (o : Nat) : Bool := match s.kilnBusy q with
    | some c => c.op == o
    | none => false
  bitAt (s.kilnIdle q) 0 + bitAt (s.stalled (qidKiln q)) 1 + bitAt (s.kilnLam q && (s.kilnBusy q).isNone) 2 + bitAt (runs 1) 3 +
    bitAt (runs 2) 4
/-- FBX_STATUS of firebox q (R280). -/
def State.fbxStatus (s : State) (q : Nat) : Nat :=
  let op := match s.inHand (fireboxQ q) with
    | some c => c.op % 8
    | none => 0
  bitAt (s.inHand (fireboxQ q)).isNone 0 + bitAt (s.stalled (qidFirebox q)) 1 + op * 4
/-- COL_STATUS of engine q (R436). -/
def State.colStatus (s : State) (q : Nat) : Nat :=
  let op := match s.inHand (colQ q) with
    | some c => c.op % 8
    | none => 0
  let re := match (s.colOf q).run with
    | some r => r.restarted
    | none => false
  bitAt (s.colIdle q) 0 + bitAt (s.stalled (qidCollective q)) 1 + op * 4 + bitAt re 5
/-- CRK_STATUS of cricket c (R322). No store is ever outstanding between commands. -/
def State.crkStatus (s : State) (c : Nat) : Nat :=
  let k := s.cricket c
  bitAt k.halted 0 + bitAt (k.waiting && !s.crkReleased c) 1 + k.level % 4 * 4 + bitAt k.inTrap 4
/-- CRK_PC of cricket c: the instruction that it executes next. -/
def State.crkPc (s : State) (c : Nat) : Nat := ((s.cricket c).pc + (if s.crkReleased c then 4 else 0)).toNat
/-- CRK_LOGICAL of cricket c (R322). -/
def State.crkLogicalWord (s : State) (c : Nat) : Nat :=
  match s.crkLogical c with
  | some l => l + 2 ^ 8
  | none => 0

/-- Whether an event register has a flag whose enable bit is set; both registers of every block read zero after reset. -/
def State.evOn (s : State) (e en : Nat) : Bool := (s.regs.look 0 e &&& s.regs.look 0 en) != 0
/-- R540: bit b of ERR_SRC: some event flag of block b is set and enabled. -/
def State.errSrcBit (s : State) (b : Nat) : Bool :=
  match b with
  | 0 => (List.range 136).any fun p => s.evOn (R.HRT_EVENT p) (R.HRT_EVENT_EN p)
  | 1 => (List.range 136).any fun p => s.evOn (R.DMP_EVENT p) (R.DMP_EVENT_EN p)
  | 2 => (List.range 4).any fun q => s.evOn (R.BLW_EVENT q) (R.BLW_EVENT_EN q)
  | 3 => (List.range 4).any fun q => s.evOn (R.KLN_EVENT q) (R.KLN_EVENT_EN q)
  | 4 => (List.range 4).any fun q => s.evOn (R.FBX_EVENT q) (R.FBX_EVENT_EN q)
  | 5 => (List.range 72).any fun c => s.evOn (R.CRK_EVENT c) (R.CRK_EVENT_EN c)
  | 6 => s.evOn R.CMB_EVENT R.CMB_EVENT_EN
  | 7 => s.evOn R.HBM_EVENT R.HBM_EVENT_EN
  | 8 => s.evOn R.FLU_EVENT R.FLU_EVENT_EN
  | 9 => (List.range 4).any fun q => s.evOn (R.COL_EVENT q) (R.COL_EVENT_EN q)
  | 10 => s.evOn R.NUM_EVENT R.NUM_EVENT_EN
  | 11 => s.evOn R.SYN_EVENT R.SYN_EVENT_EN
  | 12 => s.evOn R.CLK_EVENT R.CLK_EVENT_EN
  | 13 => s.evOn R.PWR_EVENT R.PWR_EVENT_EN
  | 14 => s.evOn R.SEC_EVENT R.SEC_EVENT_EN
  | 15 => s.evOn R.ERR_EVENT R.ERR_EVENT_EN
  | _ => false
/-- R540: ERR_SRC. -/
def State.errSrc (s : State) : Nat := ((List.range 16).map fun b => bitAt (s.errSrcBit b) b).sum

/-- Cycles of a cricket: two to an engine cycle (R467). -/
def State.crkCycles (s : State) : Nat := 2 * s.cycle

/-- Registers by window: HRT, DMP, the quadrant units, CRK. -/
def State.liveWindow (s : State) (off : Nat) : Option Nat :=
  let i (b st : Nat) : Nat := (off - b) / st
  if 0x800000 ≤ off ∧ off < 0x888000 then
    let p := i 0x800000 0x1000
    if off % 0x1000 = 4 then some (s.hrtStatus p) else if off % 0x1000 = 0x44 then some (s.hrtBubble p) else none
  else if 0x900000 ≤ off ∧ off < 0x988000 then
    if off % 0x1000 = 4 then some (s.dmpStatus (i 0x900000 0x1000)) else none
  else if 0xD00000 ≤ off ∧ off < 0xD48000 then
    let c := i 0xD00000 0x1000
    match off % 0x1000 with
    | 0x04 => some (s.crkStatus c)
    | 0x18 => some (s.crkPc c % 2 ^ 32)
    | 0x1C => some (s.crkPc c / 2 ^ 32)
    | 0x24 => some (s.cricket c).fpstat.toNat
    | 0x28 => some (s.crkCycles % 2 ^ 32)
    | 0x2C => some (s.crkCycles / 2 ^ 32 % 2 ^ 32)
    | 0x30 => some (s.crkLogicalWord c)
    | _ => none
  else if off % 0x10000 = 4 ∧ off / 0x10000 % 16 < 4 then
    let q := off / 0x10000 % 16
    match off / 0x100000 with
    | 0x0A => some (s.blwStatus q)
    | 0x0B => some (s.klnStatus q)
    | 0x0C => some (s.fbxStatus q)
    | 0x14 => some (s.colStatus q)
    | _ => none
  else none

/-- R547, R552: the present value of a register for a requester. -/
def State.liveReg (s : State) (who : Nat) (secure : Bool) (off : Nat) : Nat :=
  if off = R.GEN_WHOAMI then who + bitAt secure 8
  else if off = R.GEN_TIME_LO then s.timebase % 2 ^ 32
  else if off = R.GEN_TIME_HI then s.timebase / 2 ^ 32 % 2 ^ 32
  else if off = R.ERR_SRC then s.errSrc
  else if 0x1500400 ≤ off ∧ off < 0x1500500 then s.binSum ((off - 0x1500400) / 4)
  else (s.liveWindow off).getD (s.reg off).toNat

end Sys2Proof.Machine
end

