-- ==== Sys2Proof/Machine/Regs.lean ====
section
/-! DEFINITION. The register bus: widths and alignment, secure-only registers, pairs, posted writes, clears on read, and
what a write of each acting register does (17_register_interface_and_map.md R543 to R551). -/

namespace Sys2Proof.Machine

/-- R544: whether an access of a requester is secure. -/
def State.isSecure (s : State) (who : Nat) : Bool :=
  if 68 ≤ who ∧ who < 72 then (s.cricket who).level == 2
  else who == 72 && s.on F.SEC_SESSION_OPEN && (s.get F.SEC_SESSION_SCOPE).testBit 0
/-- R549, R322: the secure-only registers; in hob windows also CRK_CTRL, CRK_ENTRY and CRK_MAILBOX. -/
def secureOnly (r : RegRow) (off : Nat) : Bool :=
  r.secure || (decide (0xD44000 ≤ off) && decide (off < 0xD48000) && [0x00, 0x10, 0x14, 0x34].contains (off % 0x1000))
/-- The register bus runs: power good and no thermal trip. -/
def State.busOn (s : State) : Bool := s.aon.pg && !s.aon.tripped

/-- R543: a refused access. -/
def State.badAccess (s : State) (off : Nat) : State :=
  (s.raise F.GEN_EVENT_BADACCESS).setReg R.GEN_LASTBAD (BitVec.ofNat 32 (off % 2 ^ 26 + 2 ^ 31))
/-- R549: a denied access. -/
def State.denied (s : State) : State := (s.count F.GEN_DENIED_VALUE 1).raise F.GEN_EVENT_DENIED
/-- R548: a discarded posted write. -/
def State.overrun (s : State) (off : Nat) : State :=
  (s.raise F.GEN_EVENT_POST_OVERRUN).setReg R.GEN_POSTERR (BitVec.ofNat 32 (off % 2 ^ 26 + 2 ^ 31))

/-- R504: registers with fields of reset value Loaded that software may write. -/
def loadedOff (off : Nat) : Bool :=
  (decide (0xD80000 ≤ off) && decide (off < 0xD8010C)) || (decide (0xE00800 ≤ off) && decide (off < 0xE00A00)) ||
  (decide (0x1310000 ≤ off) && decide (off < 0x131C000) && off % 0x1000 == 0) || (decide (0x400040 ≤ off) && decide (off < 0x400100)) ||
  [R.CMB_CTRL, R.HBM_CTRL, R.HBM_ILV, R.FLU_COORD, R.CXL_CTRL].contains off
/-- R504: a change of a Loaded field that the ember store is to take, while CFG_RETAIN.EN is 1. -/
def State.noteChange (s : State) (off : Nat) : State :=
  if loadedOff off && s.on F.CFG_RETAIN_EN && !s.hob.changed.contains off then
    { s with hob := { s.hob with changed := s.hob.changed ++ [off] } }
  else s

/-- A write that sets the writable fields of a register and does nothing else. -/
def State.plainWrite (s : State) (off v : Nat) : State :=
  match regRow? off with
  | some r => s.setMasked off v r.wr
  | none => s
/-- A plain write; `lo`: the low half of the pair, applied in the same cycle (R550). -/
def State.plainPair (s : State) (off v : Nat) (lo : Option Nat) : State :=
  match lo with
  | some l => (s.plainWrite (off - 4) l).plainWrite off v
  | none => s.plainWrite off v

/-! ## Posted writes -/

/-- R548: the BUSY bit of a posted register, and the window that a posted write waits in. -/
def postBusy (off : Nat) : RF × Nat :=
  if 0x900000 ≤ off ∧ off < 0xA00000 then
    let p := (off - 0x900000) / 0x1000
    (F.DMP_STATUS_BUSY p, 0x900000 + 0x1000 * p)
  else if 0xA00000 ≤ off ∧ off < 0xB00000 then
    let q := (off - 0xA00000) / 0x10000
    (F.BLW_STATUS_BUSY q, 0xA00000 + 0x10000 * q)
  else match off / 0x100000 with
    | 0x04 => (F.PWR_STATUS_BUSY, 0x400000)
    | 0x05 => (F.ERR_STATUS_BUSY, 0x500000)
    | 0x10 => (F.HBM_STATUS_BUSY, 0x1000000)
    | 0x13 => (F.FLU_STATUS_BUSY, 0x1300000)
    | 0x15 => (F.NUM_STATUS_BUSY, 0x1500000)
    | _ => (F.FFY_STATUS_BUSY, 0x1600000)
/-- A posted write waits for its application. -/
def State.holdPosted (s : State) (key off v : Nat) (lo : Option Nat) : State :=
  { s with bus := { s.bus with posted := Sparse.write s.bus.posted none key (some (off, v, lo)) } }
/-- The waiting posted write of a window leaves it. -/
def State.takePosted (s : State) (key : Nat) : Option (Nat × Nat × Option Nat) × State :=
  (Sparse.look s.bus.posted none key, { s with bus := { s.bus with posted := Sparse.write s.bus.posted none key none } })
/-- R548: a write to a posted register is accepted, or discarded while BUSY. -/
def State.post (s : State) (off v : Nat) (lo : Option Nat) : State :=
  let (busy, key) := postBusy off
  if s.on busy then s.overrun off
  else if off = R.NUM_SEED_HI then
    { (s.set busy 1).holdPosted key off v lo with num := { s.num with op := 1 } }
  else if off = R.NUM_JCTRL then
    -- R176, R177, R591: a write with both bits is ignored
    if v % 4 = 1 then { ((s.set F.NUM_JCTRL_SAVE 1).set busy 1).saveGens with num := { s.saveGens.num with op := 2 } }
    else if v % 4 = 2 then
      let t := ((s.set F.NUM_JCTRL_RESTORE 1).set busy 1).restoreGens
      { t with num := { t.num with op := 3 } }
    else s
  else if 0x900000 ≤ off ∧ off < 0x988000 ∧ off % 0x1000 = 0x28 then
    let l := match lo with
      | some l => l % 2 ^ 32
      | none => (s.reg (off - 4)).toNat
    ((s.set busy 1).holdPosted key off v lo).ptabStart ((off - 0x900000) / 0x1000) (l / 64 * 64 + v % 2 ^ 32 * 2 ^ 32)
  else if off / 0x10000 % 16 < 4 ∧ off % 0x10000 = 0x34 ∧ off / 0x100000 = 0x0A then
    (s.blwReload (off / 0x10000 % 16) v).holdPosted key off v lo
  else if off = R.HBM_ILV then (s.ilvWrite v).noteChange off
  else if off = R.FLU_TBL_COMMIT then 
    let s1 := s.set F.FLU_TBL_COMMIT_GO v
    if v.testBit 0 then s1.commitStart (s1.pair R.FLU_TBL_ADDR_LO) else s1
  else (s.set busy 1).holdPosted key off v lo

/-- R437, R438: the snapshot copies every live counter and clears the live counters. -/
def State.ffySnapshot (s : State) : State :=
  let s1 := s.each (List.range 8) fun t u => t.each (List.range 8) fun w c => w.setPair (R.FFY_CNT_LO u c) (s.ffy.look 0 (8 * u + c))
  { s1.setPair R.FFY_PADWAVES_LO s.padWaves with ffy := [], padWaves := 0 }
/-- R548: a posted write of the PWR, ERR or FFY block, or of a pair in a window, is applied. -/
def State.applyPosted (s : State) (off v : Nat) (lo : Option Nat) : State :=
  if off = R.FFY_CTRL then
    let s1 := (s.set F.FFY_CTRL_EN v).set F.FFY_CTRL_SNAP (v / 2)
    if v.testBit 1 then s1.ffySnapshot else s1
  else
    let s1 := (s.plainPair off v lo).noteChange off
    if off = R.PWR_EXCMAX then s1.set F.PWR_EXCMAX_US (min 10000 (s1.get F.PWR_EXCMAX_US))
    else if off = R.PWR_TJ then s1.set F.PWR_TJ_THROT (min 105 (s1.get F.PWR_TJ_THROT))
    else s1
/-- R548: the posted write that waits in a window is applied and BUSY returns to 0. -/
def State.postedDone (s : State) (key : Nat) : State :=
  match s.takePosted key with
  | (some (off, v, lo), s1) => ((s1.applyPosted off v lo).set (postBusy off).1 0)
  | (none, _) => s
/-- R139: the load of a polynomial table ends: the address is in force, and the table is in place. -/
def State.ptabDone (s : State) (p : Nat) : State :=
  match s.takePosted (0x900000 + 0x1000 * p) with
  | (some (off, v, lo), s1) => (s1.applyPosted off v lo).ptabLoaded p
  | (none, _) => s
/-- R174, R178: seeding ends. -/
def State.seedingDone (s : State) : State :=
  if s.num.op ≠ 1 then s
  else
    match s.takePosted 0x1500000 with
    | (some (off, v, lo), s1) =>
      let s2 := (s1.applyPosted off v lo).seedAll
      ({ s2 with num := { s2.num with op := 0 } }.set F.NUM_STATUS_SEEDED 1).set F.NUM_STATUS_BUSY 0
    | (none, _) => s
/-- R176, R178: a save or a restore of the generator journal ends. -/
def State.journalOpDone (s : State) : State :=
  if s.num.op = 2 ∨ s.num.op = 3 then
    (({ s with num := { s.num with op := 0 } }.set F.NUM_JCTRL_SAVE 0).set F.NUM_JCTRL_RESTORE 0).set F.NUM_STATUS_BUSY 0
  else s
/-- R210: the reload of bellows q ends. -/
def State.blwReloadDone (s : State) (q : Nat) : State := s.postedDone (0xA00000 + 0x10000 * q)

/-! ## Writes that act -/

/-- R322, R324, R515: a write of CRK_CTRL of cricket c. Setting SSTEP needs a session with the scope for the cricket; halting a hob
cricket needs HOB_DEBUG. -/
def State.crkCtrl (s : State) (c v : Nat) : State :=
  let s1 := if v.testBit 1 then s.crkReset c else s
  let s2 := s1.put (F.CRK_CTRL_SSTEP c) (v.testBit 2 && (s.debugs c || s.on (F.CRK_CTRL_SSTEP c)))
  if v.testBit 0 then s2.crkRun c
  else if c < 68 ∨ s.debugs c then s2.crkOff c else s2
/-- R323, R326, R552: the sparing map of logical hearth l was written. -/
def State.notePair (s t : State) (l : Nat) : State :=
  let note (u : State) (p : Option Nat) : State := match p with
    | some p => if p < 136 then u.noteLogical p else u
    | none => u
  (note (note t (s.physOf l)) (t.physOf l)).countPairs
/-- R460: a configuration write may release stalled waiters in the same cycle. -/
def State.retestAll (s : State) : State := s.each ((s.syn.waiters.map (·.ctr)).dedup) State.retest
/-- R441, R449, R460: a write of SYN_BAR_CNT sets the count; on a group barrier it ends the round. -/
def State.barCount (s : State) (b v : Nat) : State := (((s.carry b none).set (F.SYN_BAR_CNT_COUNT b) v).endRound b).retest b
/-- R448, R460: a mask of slot g was written: a round in progress may be complete. -/
def State.noteMask (s : State) (g : Nat) : State :=
  let b := s.get (F.SYN_GRP_CTRL_COUNTER g)
  if s.ctrValid b && s.isGroup b && s.gslot b == g && s.get (F.SYN_BAR_CNT_COUNT b) != 0 && s.get (F.SYN_GRP_CTRL_PHASE g) == 0 then
    s.groupComplete g b
  else s

/-- R482: a write of CLK_CTRL takes effect at once: CLK_STATUS.SRC shows the source that is selected now, or holdover while it
is not there. -/
def State.clkCtrl (s : State) (v : Nat) : State :=
  let t := s.plainWrite R.CLK_CTRL v
  if t.wantSrc = s.wantSrc then t
  else if t.srcHere t.wantSrc then t.endHoldover.set F.CLK_STATUS_SRC t.wantSrc else t.set F.CLK_STATUS_SRC 3

/-- Writes of acting registers of the HRT and DMP windows; none: the register does not act. -/
def State.actHearth (s : State) (off v : Nat) : Option State :=
  if 0x800000 ≤ off ∧ off < 0x888000 then
    let p := (off - 0x800000) / 0x1000
    match off % 0x1000 with
    | 0x00 => some (s.hearthCtrl p v)
    | 0x18 => some (s.queueSize (hearthQ s p 1) v)
    | 0x20 => some (s.hearthTail p v)
    | 0x48 => some (s.hearthAbort p v)
    | _ => none
  else if 0x900000 ≤ off ∧ off < 0x988000 ∧ off % 0x1000 = 0 then
    some (if v.testBit 0 then s.sideReset ((off - 0x900000) / 0x1000) else s)
  else none
/-- Writes of acting registers of the quadrant units. -/
def State.actQuad (s : State) (off v : Nat) : Option State :=
  let q := off / 0x10000 % 16
  let o := off % 0x10000
  if 4 ≤ q then none
  else match off / 0x100000 with
    | 0x0A =>
      if o = 0 then some (let t := s.plainWrite off v; t.advance (svcQ q))
      else if o = 0x40 then some (s.queueSize (svcQ q) v)
      else if o = 0x48 then some ((s.set (F.BLW_SQTAIL_TAIL q) v).advance (svcQ q)) else none
    | 0x0B => if o = 0 then some (s.kilnCtrl q v) else if o = 0x18 then some (s.queueSize (kilnQ q) v) else if o = 0x20 then some (s.kilnTail q v) else if o = 0x48 then some (s.kilnAbort q v) else none
    | 0x0C => if o = 0 then some (s.fbxCtrl q v) else if o = 0x18 then some (s.queueSize (fireboxQ q) v) else if o = 0x20 then some (s.fbxTail q v) else if o = 0x60 then some (s.fbxAbort q v) else none
    | 0x14 => if o = 0 then some (s.colCtrl q v) else if o = 0x18 then some (s.queueSize (colQ q) v) else if o = 0x20 then some (s.colTail q v) else if o = 0x38 then some (s.colAbort q v) else none
    | _ => none
/-- Writes of acting registers of the CRK and CMB blocks. -/
def State.actCore (s : State) (off v : Nat) : Option State :=
  if 0xD00000 ≤ off ∧ off < 0xD48000 then
    let c := (off - 0xD00000) / 0x1000
    match off % 0x1000 with
    | 0x00 => some (s.crkCtrl c v)
    | 0x34 => some (s.mailbox c v)
    | _ => none
  else if 0xD80000 ≤ off ∧ off < 0xD80100 then some (s.plainWrite off v).countCrickets
  else if off = R.CMB_RETIRE then some (s.retireWrite v)
  else if 0xE00800 ≤ off ∧ off < 0xE00A00 then some (s.notePair (s.plainWrite off v) ((off - 0xE00800) / 4))
  else if off = R.MGN_CTRL then some (s.marginCtrl v)
  else none
/-- Writes of acting registers of the FLU block. -/
def State.actFlue (s : State) (off v : Nat) : Option State :=
  if off = R.FLU_CTRL then some ((s.plainWrite off v).each (List.range 4) fun t q => t.advance (injQ q))
  else if off = R.FLU_EPOCH then some (s.epochWrite v)
  else if off = R.FLU_EMERG then some (s.emergWrite v)
  else if off = R.FLU_FENCE then some (s.fenceWrite v)
  else if 0x1300100 ≤ off ∧ off < 0x1300140 ∧ off % 16 = 8 then some (s.queueSize (injQ ((off - 0x1300100) / 16)) v)
  else if 0x1300100 ≤ off ∧ off < 0x1300140 ∧ off % 16 = 12 then some (s.sendTail ((off - 0x1300100) / 16) v)
  else if 0x1310000 ≤ off ∧ off < 0x131C000 ∧ off % 0x1000 = 0 then some (s.portCtrl ((off - 0x1310000) / 0x1000) v)
  else none
/-- Writes of acting registers of the SYN block. -/
def State.actSyn (s : State) (off v : Nat) : Option State :=
  if off = R.SYN_CTRL then some (s.plainWrite off v).retestAll
  else if off = R.SYN_SIGNAL then some (s.signal (v % 4096) none)
  else if 0x610000 ≤ off ∧ off < 0x618000 then
    let b := (off - 0x610000) / 8
    if off % 8 = 0 then some ((s.plainWrite off v).retest b) else some (s.barCount b v)
  else if 0x618000 ≤ off ∧ off < 0x61C000 then some (s.subtract ((off - 0x618000) / 4) (v % 2 ^ 16))
  else if 0x620000 ≤ off ∧ off < 0x628000 then
    let g := (off - 0x620000) / 0x80
    if off % 0x80 < 0x40 then some ((s.plainWrite off v).noteMask g) else some (s.plainWrite off v).retestAll
  else none
/-- Writes of acting registers of the system blocks. -/
def State.actSys (s : State) (who off v : Nat) : Option State :=
  if off = R.SEC_HEARTBEAT then
    let s1 := s.set F.SEC_HEARTBEAT_BEAT v
    some (if v.testBit 0 ∧ 68 ≤ who ∧ who < 72 then s1.beat (who - 68) else s1)
  else if off = R.CLK_CTRL then some (s.clkCtrl v)
  else if off = R.ERR_CTRL then some (s.setMasked off v 2)
  else if off = R.ERR_RESET then some (if v.testBit 0 then (s.set F.ERR_RESET_UNIT v).unitReset else s.set F.ERR_RESET_UNIT v)
  else if off = R.CXL_HRESET then some (if v % 2 ^ 32 = 1 then s.hostReset else s)
  else if 0x1501000 ≤ off ∧ off < 0x1502000 ∧ off % 16 = 0 then some ((s.plainWrite off v).clearPolicy ((off - 0x1501000) / 16))
  else none

/-- R123, R210, R250, R281, R404: the queue whose ring base a register holds. -/
def State.baseQueue (s : State) (off : Nat) : Option QI :=
  let q := off / 0x10000 % 16
  if 0x800000 ≤ off ∧ off < 0x888000 then
    (if off % 0x1000 = 0x10 ∨ off % 0x1000 = 0x14 then some (hearthQ s ((off - 0x800000) / 0x1000) 1) else none)
  else if q < 4 ∧ [0x0B, 0x0C, 0x14].contains (off / 0x100000) ∧ (off % 0x10000 = 0x10 ∨ off % 0x10000 = 0x14) then
    some (if off / 0x100000 = 0x0B then kilnQ q else if off / 0x100000 = 0x0C then fireboxQ q else colQ q)
  else if q < 4 ∧ off / 0x100000 = 0x0A ∧ (off % 0x10000 = 0x38 ∨ off % 0x10000 = 0x3C) then some (svcQ q)
  else if 0x1300100 ≤ off ∧ off < 0x1300140 ∧ off % 16 < 8 then some (injQ ((off - 0x1300100) / 16))
  else none
/-- What a write to some registers brings beside the register: a region outside its window (R330), a margin run (R367), a fetch
from a new ring base (R551). -/
def State.afterWrite (t : State) (off : Nat) : State :=
  if 0xE00100 ≤ off ∧ off < 0xE00500 then t.noteRegion ((off - 0xE00100) / 16)
  else if [R.MGN_TARGET, R.MGN_ADDR_HI, R.MGN_LEN].contains off then t.marginTouch
  else match t.baseQueue off with
    | some Q => t.advance Q
    | none => t
/-- A write to a register that is not posted, with what it makes its unit do (R546, R551). -/
def State.act (s : State) (who off v : Nat) (lo : Option Nat) : State :=
  let t := match (s.actHearth off v).orElse fun _ => (s.actQuad off v).orElse fun _ => (s.actCore off v).orElse fun _ =>
      (s.actFlue off v).orElse fun _ => (s.actSyn off v).orElse fun _ => s.actSys who off v with
    | some t => t
    | none => s.plainPair off v lo
  (t.afterWrite off).noteChange off

/-! ## Accesses -/

/-- R550: a requester's write holder takes or loses a low half. -/
def State.setHolder (s : State) (who : Nat) (h : Option (Nat × Nat)) : State :=
  { s with bus := { s.bus with holder := Sparse.write s.bus.holder none who h } }
/-- R550: a requester's read shadow. -/
def State.setShadow (s : State) (who : Nat) (h : Option (Nat × Nat)) : State :=
  { s with bus := { s.bus with shadow := Sparse.write s.bus.shadow none who h } }
/-- An allowed write of a whole register or of a pair. -/
def State.applyWrite (s : State) (r : RegRow) (who off v : Nat) (lo : Option Nat) : State :=
  if r.posted then s.post off v lo else s.act who off v lo
/-- R543, R546, R549, R550: one 32-bit write; `sec`: the access is secure. -/
def State.write32 (s : State) (sec : Bool) (who off v : Nat) : State :=
  match regRow? off with
  | none => s
  | some r =>
    if secureOnly r off && !sec then s.denied
    else if r.half = 1 then s.setHolder who (some (off, v))
    else if r.half = 2 then
      match Sparse.look s.bus.holder none who with
      | some (o, l) => if o + 4 = off then (s.setHolder who none).applyWrite r who off v (some l) else s.applyWrite r who off v none
      | none => s.applyWrite r who off v none
    else s.applyWrite r who off v none

/-- R547: what a read clears. -/
def State.readClears (s : State) (r : RegRow) (who off : Nat) : State :=
  if 0x1500400 ≤ off ∧ off < 0x1500500 then s.binClear ((off - 0x1500400) / 4)
  else if 0x800000 ≤ off ∧ off < 0x888000 ∧ off % 0x1000 = 0x28 then s.set (F.HRT_PACE_MIN ((off - 0x800000) / 0x1000)) 0xFF
  else if 0xD00000 ≤ off ∧ off < 0xD48000 ∧ off % 0x1000 = 0x34 ∧ (off - 0xD00000) / 0x1000 = who then s.clear (F.CRK_EVENT_MAIL who)
  else if r.rc = 0 then s
  else s.setReg off (s.reg off &&& ~~~(BitVec.ofNat 32 r.rc))
/-- What a register shows to a requester: reserved and write-only bits read zero (R14, R546). -/
def State.shown (s : State) (r : RegRow) (who off : Nat) : Nat :=
  let v := s.liveReg who (s.isSecure who) off &&& r.named
  v - (v &&& r.wo)
/-- R547, R549, R550: one 32-bit read. -/
def State.read32 (s : State) (who off : Nat) : Nat × State :=
  match regRow? off with
  | none => (0, s)
  | some r =>
    if secureOnly r off && !s.isSecure who then (0, s.denied)
    else
      let v := s.shown r who off
      if r.half = 1 then
        match regRow? (off + 4) with
        | some h => (v, ((s.setShadow who (some (off, s.shown h who (off + 4)))).readClears r who off).readClears h who (off + 4))
        | none => (v, s.readClears r who off)
      else if r.half = 2 then
        match Sparse.look s.bus.shadow none who with
        | some (o, h) => if o + 4 = off then (h, s) else (v, s.readClears r who off)
        | none => (v, s.readClears r who off)
      else (v, s.readClears r who off)

/-- R543: whether an access has an allowed width and alignment. -/
def busShape (off len : Nat) : Bool := off % 4 == 0 && (len == 4 || len == 8)
/-- R543: a register write of `len` bytes; a doubleword is two accesses, the lower offset first. -/
def State.busWrite (s : State) (who off len v : Nat) : State :=
  if !s.busOn then s
  else if !busShape off len then s.badAccess off
  else
    let s1 := s.write32 (s.isSecure who) who off (v % 2 ^ 32)
    if len = 8 then s1.write32 (s1.isSecure who) who (off + 4) (v / 2 ^ 32 % 2 ^ 32) else s1
/-- R543: a register read of `len` bytes: the data and the state. A refused read returns zero. -/
def State.busRead (s : State) (who off len : Nat) : Nat × State :=
  if !s.busOn then (0, s)
  else if !busShape off len then (0, s.badAccess off)
  else
    let (a, s1) := s.read32 who off
    if len = 8 then
      let (b, s2) := s1.read32 who (off + 4)
      (a + 2 ^ 32 * b, s2)
    else (a, s1)
/-- A register read whose data the requester gets (log 3). -/
def State.busReadOut (s : State) (who off len : Nat) : State :=
  let (v, s1) := s.busRead who off len
  if s.busOn then { s1 with bus := { s1.bus with rdata := Sparse.write s1.bus.rdata 0 who v } } else s1

end Sys2Proof.Machine
end

