-- ==== Sys2Proof/Machine/CrkExec.lean ====
section
/-! DEFINITION. How a cricket executes one instruction: fetch, the address space and its checks, the control registers, and
the scalar, branch and system groups (09_cricket_cores_and_vector_extensions.md R286 to R295, R310, R311, R318 to R320). -/

namespace Sys2Proof.Machine

/-- What an instruction does: it ends and the next one is at `next`; it traps and has no effect; it stays at its address. -/
inductive CRes where
  | done (s : State) (next : DWord)
  | trap (cause : Nat) (tval : DWord)
  | stay (s : State)

/-- R286: base of the register window and of the reserved range. -/
def regBase : Nat := 0xFFFFFFFFF0000000
def holeBase : Nat := 0xFFFFFFFFF4000000

/-- A general register; G0 reads zero (R285). -/
def Crk.gReg (k : Crk) (i : Nat) : DWord := if i = 0 then 0 else k.g.look 0 i
/-- Writes a general register; G0 ignores writes (R285). -/
def Crk.setG (k : Crk) (i : Nat) (v : DWord) : Crk := if i = 0 then k else { k with g := Sparse.write k.g 0 i v }

/-- R292: whether user code may access `n` bytes at an address. -/
def Crk.allows (k : Crk) (a n : Nat) (store : Bool) : Bool :=
  (List.range 16).any fun i =>
    let b := (k.rgnBase.look 0 i).toNat
    let c := (k.rgnCtl.look 0 i).toNat
    c.testBit 2 && (if store then c.testBit 1 else c.testBit 0) && decide (b ≤ a) && decide (a + n ≤ b + c / 64 * 64)
/-- R289, R292: the trap of a data access: misaligned, or not permitted. -/
def Crk.checkAccess (k : Crk) (a n : Nat) (store : Bool) : Option Nat :=
  if a % n ≠ 0 then some 2
  else if k.level = 0 ∧ !k.allows a n store then some 3 else none

/-- R307, R328: the check of one address: alignment, permission and decode. -/
def State.vCheck (s : State) (k : Crk) (a n : Nat) (store : Bool) : Option Nat :=
  match k.checkAccess a n store with
  | some cause => some cause
  | none => if a < regBase ∧ (s.locate a).isNone then some 3 else none

/-- R286, R287, R320: cricket c reads `n` bytes at an address that passed its checks. An uncorrectable read is a machine
check and its bytes are free (log 6). Answers the bytes and the address that failed. -/
def State.crkLoad (s : State) (c a n : Nat) : List Byte × Option Nat × State :=
  if storeBase ≤ a then
    if (s.cricket c).storeBad.any fun b => decide (a - storeBase ≤ b) && decide (b < a - storeBase + n) then
      let (bs, s1) := s.freshBytes n
      (bs, some a, s1)
    else ((List.range n).map fun i => (s.cricket c).store.look 0 (a - storeBase + i), none, s)
  else if holeBase ≤ a then (List.replicate n 0, none, s.raise (F.CRK_EVENT_ACCESS c))
  else if regBase ≤ a then
    let (v, s1) := s.busRead c (a - regBase) n
    (leBytes n v, none, s1)
  else
    let r := s.readAt (s.isSecure c) a n
    match r.bad with
    | some (b, _) =>
      let (bs, s1) := r.st.freshBytes n
      (bs, some b, s1)
    | none => (r.bytes, none, r.st)
/-- R286, R310: cricket c writes bytes at an address that passed its checks. An unmapped address is a machine check (R328). -/
def State.crkStore (s : State) (c a : Nat) (bs : List Byte) : State :=
  if storeBase ≤ a then
    s.modCrk c fun k => { k with storeBad := k.storeBad.filter fun b => !(decide (a - storeBase ≤ b) && decide (b < a - storeBase + bs.length)), store := bs.zipIdx.foldl (fun (m : Sparse Byte) (p : Byte × Nat) => Sparse.write m 0 (a - storeBase + p.2) p.1) k.store }
  else if holeBase ≤ a then s
  else if regBase ≤ a then s.busWrite c (a - regBase) bs.length (leNat bs)
  else
    let (u, s1) := s.writeAt (s.isSecure c) a bs
    if u then s1.crkMcheck c a else s1

/-! ## Fetch (R288, R318, R320) -/

/-- Words the instruction cache holds (R285). -/
def icacheWords : Nat := 16384
/-- What fetching gives: a word, a trap, or nothing because the cricket has halted. -/
inductive Fetched where
  | word (w : Nat) (s : State)
  | trap (cause : Nat)
  | halted (s : State)
/-- R284, R288: the instruction at the pc: of the boot ROM, whose words the spec does not give, the local store or memory. A device address is served from the instruction cache, which holds granules of 64 bytes
and may have dropped one (log 24). -/
def State.crkFetch (s : State) (c : Nat) : Fetched :=
  let k := s.cricket c
  let a := k.pc.toNat
  if a % 4 ≠ 0 then .trap 2
  else if k.rom then .word (Config.bootRom k.pc).toNat s
  else if storeBase ≤ a ∧ k.storeBad.any (fun b => decide (a - storeBase ≤ b) && decide (b < a - storeBase + 4)) then
    .halted ((s.crkMcheck c a).crkRest c)
  else if storeBase ≤ a then .word (leNat ((List.range 4).map fun i => k.store.look 0 (a - storeBase + i))) s
  else if regBase ≤ a then .trap 5
  else
    let fill (t : State) : Fetched :=
      let r := t.readAt (t.isSecure c) (a / 64 * 64) 64
      match r.bad with
      | some (b, _) => .halted ((r.st.crkMcheck c b).crkRest c)
      | none =>
        let ws := (List.range 16).map fun i => (a / 64 * 16 + i, BitVec.ofNat 32 (leAt r.bytes (4 * i) 4))
        .word (leAt r.bytes (a % 64) 4) (r.st.modCrk c fun k =>
          { k with icache := (ws ++ k.icache.filter fun e => decide (e.1 / 16 ≠ a / 64)).take icacheWords })
    match k.icache.find? fun e => e.1 == a / 4 with
    | some (_, w) =>
      let (gone, s1) := s.fresh 1
      if gone = 1 then fill s1 else .word w.toNat s1
    | none => fill s

/-! ## One instruction -/

/-- Whether cricket c may execute: clocked, not halted, not stalled. -/
def State.crkGo (s : State) (c : Nat) : Bool :=
  let k := s.cricket c
  s.clocked && !k.halted && !k.waiting && !k.syncing
/-- R322, R515: with SSTEP set in a secure debug session, the cricket halts after one instruction. -/
def State.crkStepped (s : State) (c : Nat) : State :=
  if s.on (F.CRK_CTRL_SSTEP c) && s.debugs c && s.crkGo c then s.crkRest c else s
/-- R444: a cricket whose wait has been released goes on behind the instruction. -/
def State.crkWake (s : State) (c : Nat) : State :=
  if s.clocked && s.crkReleased c then
    ((s.useRelease (s.crkQid c)).modCrk c fun k => { k with waiting := false, pc := k.pc + 4 }).crkStepped c
  else s
/-- R294, R295, R318: a word of a reserved class, or of the system class with an op that has no name and is no SETVL or SETWL. -/
def reservedWord (w : Nat) : Bool :=
  decide (12 ≤ w / 2 ^ 28) || (w / 2 ^ 28 == 4 && decide (12 ≤ bitsOf w 27 22) && (Config.setLength (BitVec.ofNat 32 w)).isNone)
/-- R294, R318: cricket c executes the instruction at its pc when `mine` says that it is of the commanded group; a reserved
word traps. A word of another group changes nothing. -/
def State.crkExec (s0 : State) (c : Nat) (mine : Nat → Bool) (f : Nat → State → CRes) : State :=
  let s := s0.crkWake c
  if !s.crkGo c then s
  else match s.crkFetch c with
    | .trap cause => (s.crkTrap c cause (s.cricket c).pc).crkStepped c
    | .halted t => t
    | .word w t =>
      if reservedWord w then (t.crkTrap c 1 (BitVec.ofNat 64 w)).crkStepped c
      else if !mine w then s
      else match f w t with
        | .done u next => (u.modCrk c fun k => { k with pc := next }).crkStepped c
        | .trap cause tval => (t.crkTrap c cause tval).crkStepped c
        | .stay u => u.crkStepped c

/-- Fields of a word (R294). -/
def wClass (w : Nat) : Nat := w / 2 ^ 28
def wOp (w : Nat) : Nat := bitsOf w 27 22
def wD (w : Nat) : Nat := bitsOf w 21 17
def wA (w : Nat) : Nat := bitsOf w 16 12
def wB (w : Nat) : Nat := bitsOf w 11 7
def wImm (w : Nat) : Int := toSigned 12 w
/-- An illegal instruction (R318). -/
def CRes.illegal (w : Nat) : CRes := .trap 1 (BitVec.ofNat 64 w)
/-- SETVL and SETWL are known by their words, every other group by its class. -/
def isSetLen (w : Nat) : Bool := (Config.setLength (BitVec.ofNat 32 w)).isSome
/-- Whether a word is of a class, or of one of two. -/
def ofClass (a b : Nat) (w : Nat) : Bool := !isSetLen w && (wClass w == a || wClass w == b)
/-- Whether a word is the system operation `op`. -/
def ofSystem (op : Nat) (w : Nat) : Bool := ofClass 4 4 w && wOp w == op
/-- Ends an instruction: the next one follows it. -/
def State.seq (s : State) (c : Nat) : CRes := .done s ((s.cricket c).pc + 4)

/-- R294: scalar integer, register and immediate form. -/
def scalarIntegerOf (c w : Nat) (s : State) : CRes :=
  let k := s.cricket c
  let imm := wClass w == 1
  let b : DWord := if imm then BitVec.ofInt 64 (wImm w) else k.gReg (wB w)
  if !imm ∧ w % 2 ^ 7 ≠ 0 then .illegal w
  else match Config.scalarResult imm (wOp w) (k.gReg (wA w)) b with
    | some v => (s.modCrk c fun k => k.setG (wD w) v).seq c
    | none => .illegal w

/-- The address of a scalar load or store (R294). -/
def scalarAddr (k : Crk) (w : Nat) : Nat := (k.gReg (wA w) + BitVec.ofInt 64 (wImm w)).toNat
/-- A loaded value, zero-extended or sign-extended. -/
def extend (n v : Nat) (sign : Bool) : DWord := if sign then BitVec.ofInt 64 (toSigned (8 * n) v) else BitVec.ofNat 64 v
/-- R289, R294, R320, R328: scalar load or store of 8 to 64 bits. -/
def scalarMemoryOf (c w : Nat) (s : State) : CRes :=
  match Config.scalarMem (wOp w) with
  | none => .illegal w
  | some m =>
    let k := s.cricket c
    let n := 2 ^ (m.toNat / 2 % 4)
    let a := scalarAddr k w
    match s.vCheck k a n (m.getLsbD 0) with
    | some cause => .trap cause (BitVec.ofNat 64 a)
    | none =>
      if m.getLsbD 0 then (s.crkStore c a (leBytes n (k.gReg (wD w)).toNat)).seq c
      else
        let (bs, bad, s1) := s.crkLoad c a n
        let s2 := match bad with
          | some b => s1.crkMcheck c b
          | none => s1
        (s2.modCrk c fun k => k.setG (wD w) (extend n (leNat bs) (m.getLsbD 3))).seq c

/-- R294: branch or jump; what address the offset in words counts from is open (log 23). -/
def branchOf (c w : Nat) (s : State) : CRes :=
  let k := s.cricket c
  match Config.branchTaken (wOp w) (k.gReg (wD w)) (k.gReg (wA w)) with
  | none => .illegal w
  | some t => if t then .done s (Config.branchBase k.pc + BitVec.ofInt 64 (4 * wImm w)) else s.seq c

/-! ## Control registers (R293) -/

/-- VSTATE. -/
def Crk.vstate (k : Crk) : Nat := k.vl % 2 ^ 10 + k.wl % 2 ^ 13 * 2 ^ 10 + (if k.tz then 2 ^ 23 else 0) + (if k.mz then 2 ^ 24 else 0)
/-- R290, R293: the least level that reaches a control register; none: the cricket has no such register. -/
def ctlLevel (c n : Nat) : Option Nat :=
  if n = 1 ∨ n = 2 ∨ n = 0x40 ∨ n = 0x41 then some 0
  else if (0x10 ≤ n ∧ n ≤ 0x14) ∨ (0x20 ≤ n ∧ n ≤ 0x3F) then some 1
  else if n = 0x80 ∧ 68 ≤ c then some 2 else none
/-- The value of a control register; region i has its base at 0x020 + 2 i (log 25). -/
def State.ctlRead (s : State) (c n : Nat) : DWord :=
  let k := s.cricket c
  match n with
  | 0x01 => BitVec.ofNat 64 k.vstate
  | 0x02 => k.fpstat.setWidth 64
  | 0x10 => k.tvec
  | 0x11 => k.tcause
  | 0x12 => k.tval
  | 0x13 => k.tpc
  | 0x14 => BitVec.ofNat 64 (k.tlevel % 4 + if k.inTrap then 4 else 0)
  | 0x40 => BitVec.ofNat 64 s.crkCycles
  | 0x41 => BitVec.ofNat 64 s.timebase
  | 0x80 => k.secctl
  | n => if n % 2 = 0 then k.rgnBase.look 0 ((n - 0x20) / 2) else k.rgnCtl.look 0 ((n - 0x20) / 2)
/-- A write of a control register; reserved bits stay zero, CYCLE and TIMEBASE ignore it. -/
def Crk.ctlWrite (k : Crk) (n : Nat) (v : DWord) : Crk :=
  let x := v.toNat
  match n with
  | 0x01 => { k with vl := x % 2 ^ 10, wl := x / 2 ^ 10 % 2 ^ 13, tz := x.testBit 23, mz := x.testBit 24 }
  | 0x02 => { k with fpstat := v.setWidth 5 }
  | 0x10 => { k with tvec := BitVec.ofNat 64 (x / 64 * 64) }
  | 0x11 => { k with tcause := v }
  | 0x12 => { k with tval := v }
  | 0x13 => { k with tpc := v }
  | 0x14 => { k with tlevel := x % 4, inTrap := x.testBit 2 }
  | 0x40 => k
  | 0x41 => k
  | 0x80 => { k with secctl := v }
  | n =>
    if n % 2 = 0 then { k with rgnBase := Sparse.write k.rgnBase 0 ((n - 0x20) / 2) (BitVec.ofNat 64 (x / 64 * 64)) }
    else { k with rgnCtl := Sparse.write k.rgnCtl 0 ((n - 0x20) / 2) (BitVec.ofNat 64 (x % 2 ^ 32 / 64 * 64 + x % 8)) }

/-! ## System operations (R295) -/

/-- A system word whose reserved fields are set is illegal. -/
def sysOk (w : Nat) : Bool := !Config.sysReserved (BitVec.ofNat 32 w)
def sysG (w : Nat) : Nat := (Config.sysReg (BitVec.ofNat 32 w)).toNat
def sysN (w : Nat) : Nat := (Config.sysNumber (BitVec.ofNat 32 w)).toNat
def sysB (k : Crk) (w : Nat) : Nat := (Config.sysCounter (BitVec.ofNat 32 w) (k.gReg (sysG w))).toNat

/-- R293, R295: CRD. -/
def crdOf (c w : Nat) (s : State) : CRes :=
  match ctlLevel c (sysN w) with
  | some l => if sysOk w ∧ l ≤ (s.cricket c).level then (s.modCrk c fun k => k.setG (sysG w) (s.ctlRead c (sysN w))).seq c else .illegal w
  | none => .illegal w
/-- R293, R295: CWR. -/
def cwrOf (c w : Nat) (s : State) : CRes :=
  match ctlLevel c (sysN w) with
  | some l => if sysOk w ∧ l ≤ (s.cricket c).level then (s.modCrk c fun k => k.ctlWrite (sysN w) (k.gReg (sysG w))).seq c else .illegal w
  | none => .illegal w
/-- R295, R318: TRAP. -/
def trapOf (w : Nat) : CRes := if sysOk w then .trap 4 (BitVec.ofNat 64 w) else .illegal w
/-- R293, R295: TRET: to TPC at the level of TSTATE, never above the present level. -/
def tretOf (c w : Nat) (s : State) : CRes :=
  if sysOk w then .done (s.modCrk c fun k => { k with level := min k.tlevel k.level, inTrap := false }) (s.cricket c).tpc else .illegal w
/-- R311: FENCE orders accesses, which are in order already. -/
def fenceOf (c w : Nat) (s : State) : CRes := if sysOk w then s.seq c else .illegal w
/-- R311: SYNCW stalls until every earlier store is visible. -/
def syncwOf (c w : Nat) (s : State) : CRes := if sysOk w then .stay (s.modCrk c fun k => { k with syncing := true }) else .illegal w
/-- R311: the stalled SYNCW of cricket c completes. -/
def State.syncwDone (s : State) (c : Nat) : State :=
  if s.clocked && (s.cricket c).syncing then
    (s.modCrk c fun k => { k with syncing := false, pc := k.pc + 4 }).crkStepped c
  else s
/-- R288: IFLUSH. -/
def iflushOf (c w : Nat) (s : State) : CRes := if sysOk w then (s.modCrk c fun k => { k with icache := [] }).seq c else .illegal w
/-- R439, R449: the queue identifier that a cricket's signals carry; a worker without a logical number has none. -/
def State.crkSignalQid (s : State) (c : Nat) : Option Nat := if s.crkQid c < 512 then some (s.crkQid c) else none
/-- R295, R441: SPK. -/
def spkOf (c w : Nat) (s : State) : CRes :=
  if sysOk w then (s.signal (sysB (s.cricket c) w) (s.crkSignalQid c)).seq c else .illegal w
/-- R295, R444, R446: WAIT and WAITT. A wait that is satisfied at once goes on; else the cricket stalls. -/
def waitOf (take : Bool) (c w : Nat) (s : State) : CRes :=
  if sysOk w then
    let (now, s1) := s.waitOn (s.crkQid c) (sysB (s.cricket c) w) take
    if now then s1.seq c else .stay (s1.modCrk c fun k => { k with waiting := true })
  else .illegal w
/-- R293: SENTER: a hob cricket goes on at its secure entry at secure level; a worker traps. -/
def senterOf (c w : Nat) (s : State) : CRes :=
  if c < 68 ∨ !sysOk w then .illegal w
  else .done (s.modCrk c fun k => { k with level := 2 }) (s.cricket c).secctl
/-- R295: HALT. -/
def haltOf (c w : Nat) (s : State) : CRes := if sysOk w then .stay (s.crkHalt c) else .illegal w

/-! ## Vector length (R296, R299) -/

/-- SETVL and SETWL: the smaller of the request and the limit. -/
def setLenOf (c w : Nat) (s : State) : CRes :=
  match Config.setLength (BitVec.ofNat 32 w) with
  | none => .illegal w
  | some f =>
    let x := f.toNat
    let k := s.cricket c
    let e := 8 * 2 ^ (x / 2 ^ 11 % 4)
    let long := x.testBit 0
    let n := min (k.gReg (x / 2 ^ 6 % 32)).toNat ((if long then 32768 else 512) / e)
    let k1 : Crk := if long then { k with wl := n, tz := x.testBit 13, mz := x.testBit 14 } else { k with vl := n, tz := x.testBit 13, mz := x.testBit 14 }
    (s.modCrk c fun _ => k1.setG (x / 2 % 32) (BitVec.ofNat 64 n)).seq c
/-- Whether a word is SETVL (`long` false) or SETWL. -/
def isSet (long : Bool) (w : Nat) : Bool :=
  match Config.setLength (BitVec.ofNat 32 w) with
  | some f => f.getLsbD 0 == long
  | none => false

end Sys2Proof.Machine
end

