-- ==== Sys2Proof/Machine/CrkVec.lean ====
section
/-! DEFINITION. The vector unit of a cricket: lengths, masks and tails, arithmetic, reductions, permutes, moves, conversions,
memory, masks and the hash group (09_cricket_cores_and_vector_extensions.md R294, R296 to R308). -/

namespace Sys2Proof.Machine

/-! ## Elements -/

/-- The elements of `e` bits of a register of `n` elements. -/
def unpack (e n v : Nat) : List Nat := (List.range n).map fun i => (v >>> (i * e)) % 2 ^ e
/-- Elements put together, element 0 lowest. -/
def pack (e : Nat) (l : List Nat) : Nat := l.foldr (fun x acc => x % 2 ^ e + acc * 2 ^ e) 0
/-- Bytes of a register of the short or the long file. -/
def vBits (long : Bool) : Nat := if long then 32768 else 512
/-- A register of the V or the W file as a number. -/
def Crk.vReg (k : Crk) (long : Bool) (i : Nat) : Nat := if long then (k.w.look 0 i).toNat else (k.v.look 0 i).toNat
/-- Writes a register of the V or the W file. -/
def Crk.setV (k : Crk) (long : Bool) (i x : Nat) : Crk :=
  if long then { k with w := Sparse.write k.w 0 i (BitVec.ofNat 32768 x) } else { k with v := Sparse.write k.v 0 i (BitVec.ofNat 512 x) }
/-- A mask register (R285). -/
def Crk.mReg (k : Crk) (i : Nat) : Nat := (k.msk.look 0 i).toNat
/-- Writes a mask register. -/
def Crk.setM (k : Crk) (i x : Nat) : Crk := { k with msk := Sparse.write k.msk 0 i (BitVec.ofNat 4096 x) }
/-- ORs exception flags into FPSTAT (R302): bit 0 invalid, 1 division by zero, 2 overflow, 3 underflow, 4 inexact. -/
def Crk.flags (k : Crk) (f : FFlags) : Crk :=
  let b (x : Bool) (n : Nat) : Nat := if x then 2 ^ n else 0
  { k with fpstat := k.fpstat ||| BitVec.ofNat 5 (b f.invalid 0 + b f.divZero 1 + b f.overflow 2 + b f.underflow 3 + b f.inexact 4) }

/-- How an instruction treats its elements (R296, R297, R299). -/
structure Shape where
  long : Bool
  /-- element width in bits, elements of a register, elements below the length -/
  e : Nat
  cap : Nat
  len : Nat
  sc : Bool
  /-- the mask, when MSK is set -/
  mask : Option Nat
  tz : Bool
  mz : Bool

/-- The shape that a vector word gives on a cricket. -/
def shapeOf (k : Crk) (long : Bool) (w : Nat) : Shape :=
  let e := 8 * 2 ^ bitsOf w 6 5
  let cap := vBits long / e
  { long := long, e := e, cap := cap, len := min cap (if long then k.wl else k.vl), sc := w.testBit 0, mask := if w.testBit 4 then some (k.mReg (bitsOf w 3 1)) else none, tz := k.tz, mz := k.mz }
/-- Whether element i is active (R297). -/
def Shape.active (h : Shape) (i : Nat) : Bool :=
  if h.sc then i == 0
  else decide (i < h.len) && (match h.mask with
    | some m => m.testBit i
    | none => true)
/-- The active elements in ascending order. -/
def Shape.actives (h : Shape) : List Nat := (List.range h.cap).filter h.active
/-- R296: with a length of 0 an instruction does nothing. -/
def Shape.void (h : Shape) : Bool := !h.sc && h.len == 0
/-- R297: the new element i: `new` where active, else its old contents or zero. -/
def Shape.merge (h : Shape) (i old new : Nat) : Nat :=
  if h.active i then new
  else if h.sc then old
  else if i < h.len then (if h.mz then 0 else old)
  else if h.tz then 0 else old
/-- A destination register after an instruction: `new` gives the active elements. -/
def Shape.result (h : Shape) (old : Nat) (new : Nat → Nat) : Nat :=
  let o := unpack h.e h.cap old
  pack h.e ((List.range h.cap).map fun i => h.merge i (o.getD i 0) (new i))
/-- A destination mask register after a comparison. -/
def Shape.maskResult (h : Shape) (old : Nat) (new : Nat → Bool) : Nat :=
  ((List.range 4096).filter fun i => h.merge i (if old.testBit i then 1 else 0) (if new i then 1 else 0) == 1).foldl (fun v i => v + 2 ^ i) 0

/-! ## Arithmetic (R301, R302). The model's numbering of the operations (log 23):
0 add, 1 subtract, 2 multiply, 3 fusedMultiplyAdd, 4 divide, 5 square root, 6 minimum, 7 maximum, 8 minimumNumber,
9 maximumNumber, 10 classify; 16 to 23 quiet comparisons, 24 to 31 signalling comparisons: equal, less, less or equal,
greater, greater or equal, unordered, not equal, ordered; 32 to 50 integer: add, subtract, multiply low, high signed, high
unsigned, shift left, right, right signed, and, or, exclusive-or, minimum and maximum signed, minimum and maximum unsigned,
saturating add signed and unsigned, saturating subtract signed and unsigned; 56 to 63 integer comparisons: equal, not equal,
less and less or equal signed, less and less or equal unsigned, greater signed, greater unsigned; 64 slide up, 65 slide
down, 66 broadcast of element 0, 67 broadcast of G, 68 gather, 69 compress; 80 to 85 float reductions: ordered sum, tree
sum, minimum, maximum; 88 to 93 integer reductions: ordered sum, tree sum, minimum and maximum signed, minimum and maximum
unsigned; 96 element 0 to G, 97 G to element 0, 98 V to a W strip, 99 a W strip to V. -/

/-- The strict format of an element width. -/
def vfmt (e : Nat) : Option FFmt := if e = 64 then some fmt64 else if e = 32 then some fmt32 else none
/-- IEEE 754-2019 minimum and maximum (`number` false) or minimumNumber and maximumNumber on bits; -0 is below +0. -/
def minMax (f : FFmt) (max number : Bool) (a b : Nat) : Nat × FFlags :=
  let bad : FFlags := { FFlags.none with invalid := f.isSnan a || f.isSnan b }
  let na := f.isNanBits a
  let nb := f.isNanBits b
  if na || nb then
    if number && !(na && nb) then (if na then b else a, bad)
    else
      let nans := [a, b].filter f.isNanBits
      (f.quiet (nans.getD (Config.oneOf nans % nans.length) 0), bad)
  else
    let x := f.decode a
    let y := f.decode b
    let aLess : Bool := x.lt y || (x.isZero && y.isZero && x.neg)
    (if aLess != max then a else b, FFlags.none)
/-- IEEE 754-2019 class of a datum: 0 signalling NaN, 1 quiet NaN, 2 to 5 negative infinity, normal, subnormal, zero, 6 to 9
positive zero, subnormal, normal, infinity. -/
def classOf (f : FFmt) (a : Nat) : Nat :=
  let n := a.testBit (f.eb + f.fb)
  if f.isSnan a then 0
  else if f.isNanBits a then 1
  else
    let c := if (f.decode a).isInf then 0 else if (f.decode a).isZero then 3 else if a / 2 ^ f.fb % 2 ^ f.eb = 0 then 2 else 1
    if n then 2 + c else 9 - c
/-- A float comparison by its number, 0 to 7, quiet or signalling. -/
def compareF (f : FFmt) (signalling : Bool) (p a b : Nat) : Bool × FFlags :=
  let x := f.decode a
  let y := f.decode b
  let un := x.isNan || y.isNan
  let r : Bool := match p with
    | 0 => x.eqv y
    | 1 => x.lt y
    | 2 => x.le y
    | 3 => y.lt x
    | 4 => y.le x
    | 5 => un
    | 6 => !x.eqv y
    | _ => !un
  (r, { FFlags.none with invalid := if signalling then un else f.isSnan a || f.isSnan b })
/-- An element-wise float operation on bits: `c` is the addend of a fused multiply-add. -/
def floatOp (f : FFmt) (op a b c : Nat) : Nat × FFlags :=
  match op with
  | 0 => f.sAdd a b
  | 1 => f.sSub a b
  | 2 => f.sMul a b
  | 3 => f.sFma a b c
  | 4 => f.sDiv a b
  | 5 => f.sSqrt a
  | 6 => minMax f false false a b
  | 7 => minMax f true false a b
  | 8 => minMax f false true a b
  | 9 => minMax f true true a b
  | _ => ((Config.classWord (classOf f a)).toNat, FFlags.none)
/-- A signed integer held to a width. -/
def satS (e : Nat) (i : Int) : Nat := ofSigned e (clampI (-(2 ^ (e - 1) : Nat)) ((2 ^ (e - 1) : Nat) - 1) i)
/-- An element-wise integer operation; saturating forms exist at 8 and 16 bits. -/
def intOp (e op a b : Nat) : Nat :=
  let x := toSigned e a
  let y := toSigned e b
  let shift (kind r : Nat) : Nat := if b < e then r else (Config.bigShift kind e a b).toNat
  match op with
  | 0 => (a + b) % 2 ^ e
  | 1 => (a + 2 ^ e - b) % 2 ^ e
  | 2 => a * b % 2 ^ e
  | 3 => ofSigned e (x * y / (2 ^ e : Nat))
  | 4 => a * b / 2 ^ e
  | 5 => shift 0 (a <<< b % 2 ^ e)
  | 6 => shift 1 (a >>> b)
  | 7 => shift 2 (ofSigned e (x / (2 ^ b : Nat)))
  | 8 => a &&& b
  | 9 => a ||| b
  | 10 => a ^^^ b
  | 11 => if x ≤ y then a else b
  | 12 => if x ≤ y then b else a
  | 13 => min a b
  | 14 => max a b
  | 15 => satS e (x + y)
  | 16 => min (a + b) (2 ^ e - 1)
  | 17 => satS e (x - y)
  | _ => a - b
/-- An integer comparison by its number. -/
def compareI (e p a b : Nat) : Bool :=
  let x := toSigned e a
  let y := toSigned e b
  match p with
  | 0 => a == b
  | 1 => a != b
  | 2 => decide (x < y)
  | 3 => decide (x ≤ y)
  | 4 => decide (a < b)
  | 5 => decide (a ≤ b)
  | 6 => decide (y < x)
  | _ => decide (b < a)

/-- A fold over elements in ascending order with flags; none: no element. -/
def chain (op : Nat → Nat → Nat × FFlags) : List Nat → Option Nat × FFlags
  | [] => (none, FFlags.none)
  | x :: t => (t.foldl (fun (acc : Nat × FFlags) y =>
      let r := op acc.1 y
      (r.1, acc.2.or r.2)) (x, FFlags.none)).map some id
/-- One level of the pairwise sum of lanes: an empty lane takes no part (R303). -/
def pairLanes (op : Nat → Nat → Nat × FFlags) (l : List (Option Nat)) : List (Option Nat) × FFlags :=
  (List.range ((l.length + 1) / 2)).foldl (fun (acc : List (Option Nat) × FFlags) i =>
    match l.getD (2 * i) none, l.getD (2 * i + 1) none with
    | some a, some b => (acc.1 ++ [some (op a b).1], acc.2.or (op a b).2)
    | some a, none => (acc.1 ++ [some a], acc.2)
    | none, b => (acc.1 ++ [b], acc.2)) ([], FFlags.none)
/-- R303: the tree sum: element i in lane i mod 8, then the lanes pairwise. -/
def treeSum (op : Nat → Nat → Nat × FFlags) (xs : List (Nat × Nat)) : Option Nat × FFlags :=
  let lanes := (List.range 8).map fun j => chain op ((xs.filter fun p => p.1 % 8 == j).map (·.2))
  let fl := lanes.foldl (fun f l => f.or l.2) FFlags.none
  let (a, fa) := pairLanes op (lanes.map (·.1))
  let (b, fb) := pairLanes op a
  let (d, fd) := pairLanes op b
  (d.getD 0 none, ((fl.or fa).or fb).or fd)
/-- A reduction over the active elements, with their numbers; no active element gives +0 (R303). -/
def reduceOf (e op : Nat) (xs : List (Nat × Nat)) : Option (Nat × FFlags) :=
  let vs := xs.map (·.2)
  let int (g : Nat → Nat → Nat) : Option (Nat × FFlags) := some ((chain (fun a b => (g a b, FFlags.none)) vs).1.getD 0, FFlags.none)
  let flt (r : FFmt → Option Nat × FFlags) : Option (Nat × FFlags) := (vfmt e).map fun f => ((r f).1.getD 0, (r f).2)
  match op with
  | 80 => flt fun f => chain f.sAdd vs
  | 81 => flt fun f => treeSum f.sAdd xs
  | 82 => flt fun f => chain (minMax f false false) vs
  | 83 => flt fun f => chain (minMax f true false) vs
  | 88 => int fun a b => intOp e 0 a b
  | 89 => int fun a b => intOp e 0 a b
  | 90 => int fun a b => intOp e 11 a b
  | 91 => int fun a b => intOp e 12 a b
  | 92 => int fun a b => intOp e 13 a b
  | 93 => int fun a b => intOp e 14 a b
  | _ => none

/-- R294: in the long classes every register field has bits [4:3] zero, a field that names a G register among them (log 117). -/
def longFields (w : Nat) : Bool := wD w < 8 && wA w < 8 && wB w < 8
/-- An instruction that leaves the cricket's registers as `k`. -/
def State.withCrk (s : State) (c : Nat) (k : Crk) : CRes := (s.modCrk c fun _ => k).seq c

/-- Element-wise float operations and comparisons; none: not at this width. -/
def vFloat (k : Crk) (h : Shape) (w op : Nat) : Option Crk :=
  match vfmt h.e with
  | none => none
  | some f =>
    let va := unpack h.e h.cap (k.vReg h.long (wA w))
    let vb := unpack h.e h.cap (k.vReg h.long (wB w))
    let vd := unpack h.e h.cap (k.vReg h.long (wD w))
    let at' (l : List Nat) (i : Nat) : Nat := l.getD i 0
    if op < 16 then
      let r (i : Nat) : Nat × FFlags := floatOp f op (at' va i) (at' vb i) (at' vd i)
      let k1 := k.setV h.long (wD w) (h.result (k.vReg h.long (wD w)) fun i => (r i).1)
      some (k1.flags (h.actives.foldl (fun fl i => fl.or (r i).2) FFlags.none))
    else
      let r (i : Nat) : Bool × FFlags := compareF f (decide (24 ≤ op)) (op % 8) (at' va i) (at' vb i)
      let k1 := k.setM (wD w % 8) (h.maskResult (k.mReg (wD w % 8)) fun i => (r i).1)
      some (k1.flags (h.actives.foldl (fun fl i => fl.or (r i).2) FFlags.none))
/-- Element-wise integer operations and comparisons. -/
def vInt (k : Crk) (h : Shape) (w op : Nat) : Option Crk :=
  let va := unpack h.e h.cap (k.vReg h.long (wA w))
  let vb := unpack h.e h.cap (k.vReg h.long (wB w))
  if op < 56 then
    if 47 ≤ op ∧ 16 < h.e then none
    else some (k.setV h.long (wD w) (h.result (k.vReg h.long (wD w)) fun i => intOp h.e (op - 32) (va.getD i 0) (vb.getD i 0)))
  else some (k.setM (wD w % 8) (h.maskResult (k.mReg (wD w % 8)) fun i => compareI h.e (op - 56) (va.getD i 0) (vb.getD i 0)))
/-- Permutes (R301). A slide takes its distance from a G register. Elements that no source element reaches, and elements below
the length behind those that a compress packs, are open (log 26). -/
def vPermute (k : Crk) (h : Shape) (w op : Nat) : Option Crk :=
  let old := k.vReg h.long (wD w)
  let va := unpack h.e h.cap (k.vReg h.long (wA w))
  let vb := unpack h.e h.cap (k.vReg h.long (wB w))
  let vd := unpack h.e h.cap old
  let n := (k.gReg (wB w)).toNat
  let put (x : Nat) : Option Crk := some (k.setV h.long (wD w) x)
  match op with
  | 64 => put (h.result old fun i => if n ≤ i then va.getD (i - n) 0 else (Config.slideVacant true h.e i (vd.getD i 0)).toNat % 2 ^ h.e)
  | 65 => put (h.result old fun i => match va[i + n]? with
      | some x => x
      | none => (Config.slideVacant false h.e i (vd.getD i 0)).toNat % 2 ^ h.e)
  | 66 => put (h.result old fun _ => va.getD 0 0)
  | 67 => put (h.result old fun _ => (k.gReg (wA w)).toNat % 2 ^ h.e)
  | 68 => put (h.result old fun i => match va[vb.getD i 0]? with
      | some x => x
      | none => (Config.gatherOutside h.e (vb.getD i 0)).toNat % 2 ^ h.e)
  | 69 =>
    let xs := h.actives.map fun i => va.getD i 0
    let rest (i : Nat) : Nat := (Config.compressRest h.e i (vd.getD i 0)).toNat % 2 ^ h.e
    let all : Shape := { h with mask := none }
    put (all.result old fun i => match xs[i]? with
      | some x => x
      | none => rest i)
  | _ => none
/-- A destination of a move: the new elements `new` where it writes, every other element as the tail and mask rules leave it
(R297). -/
def Shape.moved (h : Shape) (old : Nat) (new : Nat → Option Nat) : Nat :=
  let o := unpack h.e h.cap old
  pack h.e ((List.range h.cap).map fun i => h.merge i (o.getD i 0) ((new i).getD (o.getD i 0)))
/-- Moves between files (R285, R297, R301). A G register stands for element 0; the long forms count the elements of a strip
within the W register, the short forms within the strip (log 26). The bits of a G register above a narrow element are open. -/
def vMove (k : Crk) (h : Shape) (w op : Nat) : Option Crk :=
  let n := 512 / h.e
  let strip := (Config.moveStrip (BitVec.ofNat 32 w) (k.gReg (wB w))).toNat
  let lo := if h.long then strip * n else 0
  match op with
  | 96 =>
    let x := k.vReg h.long (wA w) % 2 ^ h.e
    some (k.setG (wD w) (BitVec.ofNat 64 (h.merge 0 (k.gReg (wD w)).toNat (x + (Config.moveHigh h.e x).toNat * 2 ^ h.e))))
  | 97 => some (k.setV h.long (wD w) (h.moved (k.vReg h.long (wD w)) fun i => if i = 0 then some (k.gReg (wA w)).toNat else none))
  | 98 =>
    let va := unpack h.e n (k.vReg false (wA w))
    let src (i : Nat) : Option Nat := if lo ≤ i then va[i - lo]? else none
    let old := k.vReg true (wD w % 8)
    let strips := unpack 512 64 old
    some (k.setV true (wD w % 8) (if h.long then h.moved old src else pack 512 (strips.set strip (h.moved (strips.getD strip 0) src))))
  | 99 =>
    let vw := unpack h.e n ((unpack 512 64 (k.vReg true (wA w % 8))).getD strip 0)
    let o := unpack h.e n (k.vReg false (wD w))
    some (k.setV false (wD w) (pack h.e ((List.range n).map fun i => h.merge (lo + i) (o.getD i 0) (vw.getD i 0))))
  | _ => none
/-- Reductions (R297, R303): the result is element 0 of the destination; the others follow the tail and mask rules. -/
def vReduce (k : Crk) (h : Shape) (w op : Nat) : Option Crk :=
  let va := unpack h.e h.cap (k.vReg h.long (wA w))
  (reduceOf h.e op (h.actives.map fun i => (i, va.getD i 0))).map fun r =>
    let old := k.vReg h.long (wD w)
    let o := unpack h.e h.cap old
    (k.setV h.long (wD w) (pack h.e ((List.range h.cap).map fun i => if i = 0 then r.1 else h.merge i (o.getD i 0) (o.getD i 0)))).flags r.2

/-- R294, R301: one vector arithmetic instruction. -/
def vectorOf (long : Bool) (c w : Nat) (s : State) : CRes :=
  match Config.vectorOp long (wOp w) with
  | none => .illegal w
  | some o =>
    let op := o.toNat
    let k := s.cricket c
    let h := shapeOf k long w
    let r := if op < 11 ∨ (16 ≤ op ∧ op < 32) then vFloat k h w op
      else if (32 ≤ op ∧ op < 51) ∨ (56 ≤ op ∧ op < 64) then vInt k h w op
      else if 64 ≤ op ∧ op < 70 then vPermute k h w op
      else if 80 ≤ op ∧ op < 94 then vReduce k h w op
      else vMove k h w op
    if long ∧ !longFields w then .illegal w
    else match r with
      | none => .illegal w
      | some k1 => if h.void then s.seq c else s.withCrk c k1

/-! ## Conversions (R305) -/

/-- Width in bits of a conversion code: an element code of R41, or 12 to 15 for an integer. -/
def convWidth (t : Nat) : Nat := if t < 12 then 8 * elemBytes t else if t % 2 = 0 then 32 else 64
/-- The exact value of a source element, with the scale and TEXP of a format block. -/
def convValue (t : Nat) (f : Option FBlock) (sb b : Nat) : FV :=
  if t = 12 ∨ t = 13 then FV.ofInt (toSigned (convWidth t) b)
  else if t = 14 ∨ t = 15 then .fin false b 0
  else match f with
    | some f => decodeScaled f b sb
    | none => elemValue t b
/-- Whether a conversion is strict: among binary64, binary32, binary16, bfloat16 and the integers. -/
def convStrict (t : Nat) : Bool := t < 4 || 12 ≤ t
/-- A strict conversion of bits. An integer that does not hold the value raises invalid and is open. -/
def convertStrict (src dst b : Nat) (x : FV) : Nat × FFlags :=
  if 12 ≤ dst then
    let w := convWidth dst
    let i := roundInt x
    let lo : Int := if dst < 14 then -(2 ^ (w - 1) : Nat) else 0
    let hi : Int := if dst < 14 then (2 ^ (w - 1) : Nat) - 1 else (2 ^ w : Nat) - 1
    if !x.isFin ∨ i < lo ∨ hi < i then ((Config.intInvalid dst b).toNat % 2 ^ w, { FFlags.none with invalid := true })
    else (ofSigned w i, { FFlags.none with inexact := !(FV.ofInt i).eqv x })
  else match floatFmt dst, floatFmt src with
    | some f, some g =>
      if x.isNan then
        -- the payload's leading bits are kept
        let m := b % 2 ^ g.fb
        let p := if g.fb ≤ f.fb then m * 2 ^ (f.fb - g.fb) else m / 2 ^ (g.fb - f.fb)
        (f.quiet ((if b.testBit (g.eb + g.fb) then 2 ^ (f.eb + f.fb) else 0) + (2 ^ f.eb - 1) * 2 ^ f.fb + p), { FFlags.none with invalid := g.isSnan b })
      else (f.encode (f.roundF x).1, (f.roundF x).2)
    | some f, none => (f.encode (f.roundF x).1, (f.roundF x).2)
    | none, _ => (0, FFlags.none)
/-- A fast conversion (R305): E4M3 and E5M2 keep the sign of a zero. -/
def convertFast (dst : Nat) (x : FV) : Nat × FFlags :=
  let v := convFast dst x
  let bits := if (dst = 4 ∨ dst = 5) ∧ x.isFin ∧ x.neg ∧ v.bits = 0 then 0x80 else v.bits
  (bits, { FFlags.none with overflow := v.ovf, invalid := v.inv })
/-- R55, R305: the format block in a pair of G registers: word and scale pitch in the first, scale base in the second. -/
def Crk.block (k : Crk) (g : Nat) : FBlock :=
  ⟨(k.gReg g).toNat % 2 ^ 32, (k.gReg g).toNat / 2 ^ 32, (k.gReg (g + 1)).toNat⟩
/-- What a conversion reads beside its source: the scale bytes of its format block, or the trap of their access. -/
structure Scales where
  bytes : List Byte
  trap : Option (Nat × Nat)
  st : State
/-- R305: reads the scale bytes of the first `n` elements of a row that stands along K (log 118); an uncorrectable read is a
machine check (R320). -/
def State.crkScales (s : State) (c : Nat) (f : FBlock) (n : Nat) : Scales :=
  let cnt := if n = 0 then 0 else (f.cell .a 0 (n - 1)).2 + 1
  if f.scale = 0 ∨ cnt = 0 then ⟨[], none, s⟩
  else if (s.cricket c).level = 0 ∧ !(s.cricket c).allows f.base cnt false then ⟨[], some (3, f.base), s⟩
  else
    let (bs, bad, s1) := s.crkLoad c f.base cnt
    ⟨bs, none, match bad with
      | some b => s1.crkMcheck c b
      | none => s1⟩
/-- R305: one conversion instruction. Element i of the source at its width gives element i of the target at its width; both
lie below the length (log 26). A format block that breaks R58 is an illegal instruction (log 118). -/
def conversionOf (c w : Nat) (s : State) : CRes :=
  match Config.conversionOp (wOp w) (bitsOf w 6 5) with
  | none => .illegal w
  | some o =>
    let x := o.toNat
    let k := s.cricket c
    let blocked := x.testBit 7
    let f := k.block (wB w)
    let src := if blocked then f.elem else x % 16
    let target := if blocked then (if x.testBit 8 then 1 else 0) else if x / 16 % 8 = 0 then wB w else 11 + x / 16 % 8
    if (!blocked ∧ 12 ≤ wB w ∧ x / 16 % 8 = 0) ∨ 15 < target ∨ (blocked ∧ wB w = 31) then .illegal w
    else
      let wide := max (convWidth src) (convWidth target)
      let h0 := shapeOf k false w
      let h := { h0 with e := convWidth target, cap := 512 / wide, len := min h0.len (512 / wide) }
      if blocked ∧ f.bad (f.grid .a 1 h.cap).2 then .illegal w
      else if h.void then s.seq c
      else
        let z : Scales := if blocked then s.crkScales c f (if h.sc then 1 else h.len) else ⟨[], none, s⟩
        match z.trap with
        | some t => .trap t.1 (BitVec.ofNat 64 t.2)
        | none =>
          let vs := unpack (convWidth src) (512 / convWidth src) (k.vReg false (wA w))
          let r (i : Nat) : Nat × FFlags :=
            let v := convValue src (if blocked then some f else none) (leAt z.bytes (f.cell .a 0 i).2 1) (vs.getD i 0)
            if convStrict src && convStrict target && !blocked then convertStrict src target (vs.getD i 0) v
            else if convStrict target then convertStrict 12 target (vs.getD i 0) v
            else convertFast target v
          let n := 512 / convWidth target
          let o := unpack (convWidth target) n (k.vReg false (wD w))
          let k1 := (z.st.cricket c).setV false (wD w) (pack (convWidth target) ((List.range n).map fun i => h.merge i (o.getD i 0) (r i).1))
          z.st.withCrk c (k1.flags (h.actives.foldl (fun fl i => fl.or (r i).2) FFlags.none))

/-! ## Memory (R306 to R308) -/

/-- R306: the address of element i. -/
def vAddr (k : Crk) (h : Shape) (w form i : Nat) : Nat :=
  let base := k.gReg (wA w)
  match form with
  | 0 => (base + BitVec.ofNat 64 (i * (h.e / 8))).toNat
  | 1 => (base + BitVec.ofNat 64 i * k.gReg (wB w)).toNat
  | 2 => (base + BitVec.ofNat 64 ((k.vReg h.long (wB w) >>> (32 * i)) % 2 ^ 32)).toNat
  | _ => (base + BitVec.ofNat 64 ((k.vReg h.long (wB w) >>> (64 * i)) % 2 ^ 64)).toNat
/-- R306 to R308: one vector load or store. -/
def vectorMemoryOf (long : Bool) (c w : Nat) (s : State) : CRes :=
  match Config.vectorMem long (wOp w) with
  | none => .illegal w
  | some o =>
    let k := s.cricket c
    let h := shapeOf k long w
    let store := o.getLsbD 0
    let form := o.toNat / 2
    let n := h.e / 8
    if long ∧ !longFields w then .illegal w
    else
      let addr := vAddr k h w form
      match h.actives.find? fun i => (s.vCheck k (addr i) n store).isSome with
      | some i => .trap ((s.vCheck k (addr i) n store).getD 3) (BitVec.ofNat 64 (addr i))
      | none =>
        if h.void then s.seq c
        else if store then
          let vs := unpack h.e h.cap (k.vReg long (wD w))
          (s.each h.actives fun t i => t.crkStore c (addr i) (leBytes n (vs.getD i 0))).seq c
        else
          -- R308: a strided load with stride zero reads its address once
          let once := form == 1 && k.gReg (wB w) == 0
          let reads := if once then h.actives.take 1 else h.actives
          let (got, bad, s1) := reads.foldl (fun (acc : List (Nat × Nat) × Option Nat × State) i =>
            let (bs, b, t) := acc.2.2.crkLoad c (addr i) n
            (acc.1 ++ [(i, leNat bs)], (match acc.2.1 with | some x => some x | none => b), t)) ([], none, s)
          let s2 := match bad with
            | some b => s1.crkMcheck c b
            | none => s1
          let one := (got.head?.map (·.2)).getD 0
          let val (i : Nat) : Nat := if once then one else ((got.find? fun p => p.1 == i).map (·.2)).getD 0
          (s2.modCrk c fun k => k.setV long (wD w) (h.result (k.vReg long (wD w)) val)).seq c

/-! ## Masks and hash (R294) -/

/-- One mask instruction. -/
def maskOf (c w : Nat) (s : State) : CRes :=
  let k := s.cricket c
  let src (f i : Nat) : BitVec 4096 := if Config.maskField (wOp w) f then (k.gReg i).setWidth 4096 else BitVec.ofNat 4096 (k.mReg (i % 8))
  match Config.maskResult (wOp w) (src 1 (wA w)) (src 2 (wB w)) with
  | none => .illegal w
  | some r =>
    if r.getLsbD 4096 then s.withCrk c (k.setG (wD w) (r.setWidth 64)) else s.withCrk c (k.setM (wD w % 8) (r.toNat % 2 ^ 4096))
/-- One hash instruction: the state is the low 1,600 bits of four V registers. -/
def hashOf (c w : Nat) (s : State) : CRes :=
  let k := s.cricket c
  let x := pack 512 ((List.range 4).map fun i => k.vReg false ((wD w + i) % 32))
  match Config.hashResult (wOp w) (BitVec.ofNat 1600 x) with
  | none => .illegal w
  | some r =>
    let y := x / 2 ^ 1600 * 2 ^ 1600 + r.toNat
    s.withCrk c ((List.range 4).foldl (fun k i => k.setV false ((wD w + i) % 32) (y / 2 ^ (512 * i) % 2 ^ 512)) k)

end Sys2Proof.Machine
end

