-- ==== Sys2Proof/Machine/HostIf.lean ====
section
/-! DEFINITION. The host control page and its commands: load, unload, attestation, sessions, recovery; the BAR2 window, the
PCIe link and the CXL ports (12 R433, 15 R492, R508 to R515, 18 R556 to R566). -/

namespace Sys2Proof.Machine

/-- Offset of the host control page in the BAR2 window (R556). -/
def pageBase : Nat := 0x3FFFF000
/-- R508: a word of the page as the hob reads it. -/
def State.pageRead (s : State) (o n : Nat) : Nat × State :=
  let (bs, s1) := s.hobRead (pageBase + o) n
  (leNat bs, s1)

/-- R509: the hob takes commands: stage READY or RECOVERY, no command in progress, no load that waits. -/
def State.hobListens (s : State) : Bool :=
  s.clocked && s.hob.cmd.isNone && !s.hob.loading && (s.get F.SEC_BOOT_STAGE == 8 || s.get F.SEC_BOOT_STAGE == 14)
/-- R509: whether the arguments of a command reach the page or are out of range: bytes it reads and writes from argument 0. -/
def argsBad (cmd a len : Nat) : Bool :=
  let need := match cmd with
    | 1 => len
    | 3 => 64 + 1728
    | 5 => 3392
    | 7 => len
    | _ => 0
  [1, 3, 5, 7].contains cmd && decide (pageBase < a + need)
/-- R508, R509: whether the command word names a command that the stage takes. -/
def cmdKnown (stage cmd : Nat) : Bool := if stage = 14 then cmd == 7 else decide (1 ≤ cmd) && decide (cmd ≤ 6)

/-- R509: the end of a command: the status, then the done sequence, then a zero command word, then the vector. -/
def State.cmdEnd (s : State) (status : Nat) : State :=
  match s.hob.cmd with
  | none => s
  | some (_, seq, _, _) =>
    let s1 := ((s.pageWrite 0x10 (leBytes 4 status)).pageWrite 0x14 (leBytes 4 seq)).pageWrite 8 (leBytes 4 0)
    { s1 with hob := { s1.hob with cmd := none } }.raise F.CXL_IPEND_HOSTCMD
/-- R509: the hob polls the page. A command it cannot take ends BAD_COMMAND; a LOAD marks the state as loading. -/
def State.pagePoll (s : State) : State :=
  if !s.hobListens then s
  else
    let (cmd, s1) := s.pageRead 8 4
    if cmd = 0 then s1
    else
      let (seq, s2) := s1.pageRead 0xC 4
      let (a, s3) := s2.pageRead 0x18 8
      let (len, s4) := s3.pageRead 0x20 8
      let s5 := { s4 with hob := { s4.hob with cmd := some (cmd, seq, a, len) } }
      if !cmdKnown (s.get F.SEC_BOOT_STAGE) cmd || argsBad cmd a len then s5.cmdEnd 4
      else if cmd = 1 ∧ s.get F.CFG_STATE_IMAGE = 0 then s5.set F.CFG_STATE_IMAGE 1 else s5

/-! ## LOAD (R510) -/

/-- The two words that the page and the error ring get of a refusal: code, resource, stage, need, available (R433). -/
def refusalBytes (code res stage need avail : Nat) : List Byte :=
  leBytes 1 code ++ leBytes 1 res ++ leBytes 2 stage ++ leBytes 4 0 ++ leBytes 8 need ++ leBytes 8 avail
/-- R433, R510: a refused load: the refusal record in the page and in the error ring, and status REFUSED. -/
def State.refuse (s : State) (code res stage need avail : Nat) : State :=
  let bs := refusalBytes code res stage need avail
  let s1 := (s.pageWrite 0x40 bs).errRecord .load 0 .hob s.master (leAt bs 0 8) (leAt bs 8 4)
  (s1.set F.CFG_STATE_IMAGE 0).cmdEnd 1

/-- R510 steps 2 to 4: the container checks; the code of the first that fails. -/
def State.imageRefusal (s : State) (img : List Byte) : Option Nat :=
  let keys := s.hob.recs.find? fun r => r.1 == 0x101 && r.2.1
  if !ctForm img 3 then some 2
  else if ctPart img ≠ 0x7264 then some 1
  else if !s.on F.SEC_BOOT_OWNED then some 2
  else match keys with
    | none => some 2
    | some k =>
      let rs := (ctRecords img).getD []
      let known := (Config.keyHashes k.2.2).contains (ctKeyHash img)
      let sec := rs.any fun r => r.type == 0x204 && (regEntries r.body).any fun e => e.1 / 0x100000 == 2
      if !known || !ctSigned img (ctKeyHash img) || decide (ctSvn img < (Config.leastSvn k.2.2).toNat) || sec then some 2 else none

/-- A field of a JOB payload (log 10). -/
def jobOf (j : List Byte) (i : Nat) : Nat := (Config.jobField j i).toNat
/-- R433: what the device has of resource i. -/
def State.available (s : State) (i : Nat) : Nat :=
  match i with
  | 0 => s.nch * s.chCap
  | 1 => s.get F.CMB_NPAIR_COUNT * 2 ^ 28
  | 2 => s.get F.CMB_NPAIR_COUNT
  | 3 => s.get F.GEN_UNITS_CRICKETS
  | 4 => s.nch
  | _ => s.pair R.CXL_FARSIZE_LO
/-- R487: a device that is no fabric master has no frame marks for a job of several devices. -/
def State.marksMissing (s : State) (j : List Byte) : Bool :=
  decide (1 < jobOf j 0) && !s.aon.fabMaster && !s.on F.FLU_STATUS_MARKLOCK
/-- R433, R486, R487: whether the topology of a JOB record is refused. -/
def State.topologyBad (s : State) (j : List Byte) : Bool :=
  jobOf j 20 != s.get F.FLU_COORD_SX + 1 || jobOf j 21 != s.get F.FLU_COORD_SY + 1 || jobOf j 22 != s.get F.FLU_COORD_SZ + 1 ||
    ((List.range 12).any fun p => jobOf j (48 + p) != 0 && !s.portLive p) || s.marksMissing j || s.hob.dual
/-- R368: packets per slot of a port by its mode. -/
def State.slotMax (s : State) (p : Nat) : Nat :=
  match s.get (F.FLU_P_CTRL_MODE p) with
  | 1 => 10
  | 2 => 5
  | _ => 0
/-- R433, R510 step 5: the checks of the JOB record in ascending order of their codes: code, resource, need, available. -/
def State.jobRefusal (s : State) (j : List Byte) : Option (Nat × Nat × Nat × Nat) :=
  match (List.range 6).find? fun i => decide (s.available i < jobOf j (5 + i)) with
  | some i => some (0x10, i, jobOf j (5 + i), s.available i)
  | none =>
    if s.topologyBad j then some (0x11, 0, 0, 0)
    else if jobOf j 1 * jobOf j 2 * jobOf j 3 ≠ jobOf j 0 ∨ jobOf j 1 * jobOf j 2 * jobOf j 3 = 0 then some (0x12, 0, 0, 0)
    else if (List.range 12).any fun p => decide (s.slotMax p < jobOf j (32 + p)) then some (0x13, 0, 0, 0)
    else none

/-- A posted write that the hob makes at load is applied before the hob goes on (R548). -/
def State.settlePost (s : State) (off : Nat) : State :=
  match regRow? off with
  | none => s
  | some r =>
    if !r.posted then s
    else if off = R.NUM_SEED_HI then s.seedingDone
    else if off = R.NUM_JCTRL then s.journalOpDone
    else if off = R.HBM_ILV then s.ilvDone
    else if off = R.FLU_TBL_COMMIT then s.commitDone
    else if 0x900000 ≤ off ∧ off < 0xA00000 then s.ptabDone ((off - 0x900000) / 0x1000)
    else s.postedDone (postBusy off).2
/-- R510 step 6: one REGS entry: the bits under its mask, as a secure write of the hob. -/
def State.regsEntry (s : State) (e : Nat × Nat × Nat) : State :=
  if e.1 % 4 ≠ 0 then s
  else
    let old := (s.reg e.1).toNat
    let v := (old - (old &&& e.2.2)) ||| (e.2.1 &&& e.2.2)
    (s.write32 true (68 + s.master) e.1 v).settlePost e.1
/-- R510 step 6: DATA and CODE records are copied, then REGS entries are applied, in record order. -/
def State.copyRecords (s : State) (rs : List Rec) : State :=
  let s1 := s.each (rs.filter fun (r : Rec) => r.type == 0x202 || r.type == 0x203) fun t r =>
    t.hobWrite r.target (if r.type = 0x202 then Config.codeBytes r.body else r.body)
  s1.each ((rs.filter fun (r : Rec) => r.type == 0x204).flatMap fun (r : Rec) => regEntries r.body) State.regsEntry
/-- R389, R510 step 7: TABLES is committed, from its target or, with none, from the window, and a planned switch is requested
for the first step. -/
def State.loadTables (s : State) (a : Nat) (rs : List Rec) (first : Nat) : State :=
  match recOf rs 0x205 with
  | none => s
  | some r =>
    let t := if r.target = 0 then s else s.hobWrite r.target r.body
    let u := (t.commitStart (if r.target = 0 then a + r.off else r.target)).commitDone
    let v := { u with flue := { u.flue with fallbacks := (Config.fallbackSets r.body).map fun (x : BitVec 32 × BitVec 64) => (x.1.toNat, x.2.toNat) } }
    (v.epochWrite (first % 2 ^ 24 * 2 ^ 8 + 2)).epochSwitch
/-- R174, R176, R510 step 8, R591: the seed, and the journal of the first step. -/
def State.loadSeed (s : State) (rs : List Rec) (first : Nat) : State :=
  let s1 := match recOf rs 0x206 with
    | some r => s.setPair R.NUM_SEED_LO (leAt r.body 0 8)
    | none => s
  ((s1.seedAll.set F.NUM_STATUS_SEEDED 1).saveGens).journalStep first
/-- R533: the newer valid slot. -/
def State.newerSlot (s : State) : Option (Nat × List (Nat × Nat) × List Byte) × State :=
  let (a, s1) := s.slotRead 0
  let (b, s2) := s1.slotRead 1
  (match a, b with
   | some x, some y => some (if x.1 < y.1 then y else x)
   | some x, none => some x
   | none, y => y, s2)
/-- R511: the hob binds the load barrier to the last group slot, as its only local participant, and arrives (log 28). -/
def State.arriveLoad (s : State) : State :=
  let b := s.jobf 11 % 4096
  let k := qidHob s.master
  let s1 := ((((s.setReg (R.SYN_BAR_CFG b) 0).set (F.SYN_BAR_CFG_VALID b) 1).set (F.SYN_BAR_CFG_GROUP b) 1).set (F.SYN_BAR_CFG_GSLOT b) 255).barCount b 0
  let s2 := s1.each (List.range 16) fun t i => t.set (F.SYN_GRP_MASK_MASK 255 i) (if i = k / 32 then 2 ^ (k % 32) else 0)
  let s3 := (((s2.set (F.SYN_GRP_CTRL_COUNTER 255) b).set (F.SYN_GRP_CTRL_TREE 255) 1).set (F.SYN_GRP_CTRL_TREEID 255) (s.jobf 12)).set (F.SYN_GRP_CTRL_VALID 255) 1
  s3.signal b (some k)
/-- R537: a load whose restore finds no valid slot stops with CHECKPOINT_BAD (log 29). -/
def State.loadStopped (s : State) : State :=
  let s1 := (s.errRecord .job 2 .hob s.master 4 Stop.checkpointBad.code).unitsOff.workersHalt
  let s2 := ((s1.set F.ERR_STOP_CODE Stop.checkpointBad.code).raise F.ERR_EVENT_STOP).set F.ERR_STATUS_JOB 4
  ({ s2 with aon := { s2.aon with lastStop := Stop.checkpointBad.code } }.set F.CFG_STATE_IMAGE 3).cmdEnd 1
/-- R510 steps 6 to 9, from an image that passed its checks. -/
def State.loadImage (s : State) (a : Nat) (img j : List Byte) (rs : List Rec) : State :=
  let s1 := { s.enumerate with hob := { s.enumerate.hob with imgHdr := img.take 256, code := (rs.filter fun (r : Rec) => r.type == 0x202).map fun (r : Rec) => (r.target, r.body) }, job := { Job.none with jrec := j } }
  let s2 := (s1.set F.ERR_STOP_CODE 0).copyRecords rs
  let restore := s2.on F.ERR_CKCTRL_RESTORE
  let (slot, s3) := if restore then (s2.set F.CFG_STATE_RESTORE 1).newerSlot else (none, s2)
  let first := match slot with
    | some x => x.1 + 1
    | none => 0
  let s4 := (s3.loadTables a rs first).loadSeed rs first
  let s5 := { s4 with job := { s4.job with step := first, firstStep := first, lastCommit := first - 1 } }.setPair R.ERR_STEP_LO (first - 1)
  match restore, slot with
  | true, none => (s5.set F.CFG_STATE_RESTORE 0).loadStopped
  | true, some x =>
    let s6 := ((s5.slotRestore x.2.1 x.2.2).set F.CFG_STATE_RESTORE 0).arriveLoad
    { s6 with hob := { s6.hob with loading := true } }
  | false, _ => { s5.arriveLoad with hob := { s5.arriveLoad.hob with loading := true } }
/-- R510: the LOAD that the hob has taken. -/
def State.load (s : State) : State :=
  match s.hob.cmd with
  | some (1, _, a, len) =>
    if !s.clocked ∨ s.hob.loading then s
    else if 2 ≤ s.get F.CFG_STATE_IMAGE then s.cmdEnd 2
    else
      let (img, s1) := s.hobRead a len
      match s1.imageRefusal img with
      | some code => s1.refuse code 0 0 0 0
      | none =>
        let rs := (ctRecords img).getD []
        match recOf rs 0x201 with
        | none => s1.refuse 2 0 0 0 0
        | some r =>
          match s1.jobRefusal r.body with
          | some (code, res, need, avail) =>
            let s2 := if code = 0x11 ∧ s1.marksMissing r.body then s1.errRecord .clock 0 .clock 0 (s1.reg R.CLK_STATUS).toNat (s1.reg R.CLK_EVENT).toNat else s1
            s2.refuse code res (jobOf r.body 4) need avail
          | none => s1.loadImage a img r.body rs
  | _ => s
/-- R510: what a completed load leaves in the registers: every rank of the job, its cuts, its image's hash, and the job enabled. -/
def State.loadEnds (s : State) : State :=
  let s1 := { s with hob := { s.hob with loading := false } }
  let s2 := (s1.each (List.range 4) fun t q => t.set (F.COL_NRANKS_COUNT q) (s.jobf 0)).set F.ERR_CTRL_JOB_EN 1
  let s3 := (((s2.set F.CFG_NDEV_COUNT (s.jobf 0)).set F.CFG_CUTS_A_RS (s.jobf 1)).set F.CFG_CUTS_A_S (s.jobf 2)).set F.CFG_CUTS_B_RR (s.jobf 3)
  let h := s.imgHash
  let s4 := ((s3.set F.CFG_CUTS_B_STAGE (s.jobf 23)).set F.CFG_CUHAMSVN_SVN (leAt s.hob.imgHdr 12 4)).each (List.range 16) fun t i =>
    t.setReg (R.CFG_IMGHASH i) (BitVec.ofNat 32 (leAt h (4 * i) 4))
  (s4.set F.CFG_STATE_IMAGE 2).set F.ERR_STATUS_JOB 1

/-- R510 step 10, R554: the load barrier has released: the image is in force and the workers start. -/
def State.loadComplete (s : State) : State :=
  if !s.clocked ∨ !s.hob.loading ∨ !s.satisfied (s.jobf 11 % 4096) then s
  else
    let s5 := s.loadEnds.stepStart s.job.firstStep
    (s5.saveIndexes.startWorkers.pageWrite 0x40 (refusalBytes 0 0 0 0 0)).cmdEnd 0
/-- R511, R512, R357: a load is cleared: every unit off, every worker halted, memory clear, and no job. Channels lost in the job
leave the interleave. -/
def State.clearLoad (s : State) : State :=
  let s1 := s.unitsOff.workersHalt.clearMemory.reduceInterleave
  let s2 := (s1.each (List.range 4) fun t q => t.set (F.COL_NRANKS_COUNT q) 1).set F.ERR_CTRL_JOB_EN 0
  let s3 := (((s2.set F.CFG_STATE_IMAGE 0).set F.CFG_STATE_RESTORE 0).set F.CFG_NDEV_COUNT 0).setReg R.CFG_CUTS_A 0
  let s4 := ((s3.setReg R.CFG_CUTS_B 0).set F.CFG_CUHAMSVN_SVN 0).each (List.range 16) fun t i => t.setReg (R.CFG_IMGHASH i) 0
  let s5 := { s4.set F.ERR_STATUS_JOB 0 with hob := { s4.hob with imgHdr := [], code := [], loading := false }, job := Job.none }
  (s5.pageWrite 0 (leBytes 4 (if s5.aon.ready then 1 else 0))).pageWrite 4 (leBytes 4 (s5.get F.SEC_BOOT_STAGE))
/-- R511: a load barrier that does not release within the load timeout. -/
def State.loadTimeout (s : State) : State :=
  if !s.clocked ∨ !s.hob.loading ∨ s.satisfied (s.jobf 11 % 4096) then s else s.clearLoad.cmdEnd 3
/-- R512: UNLOAD. -/
def State.unload (s : State) : State :=
  match s.hob.cmd with
  | some (2, _, _, _) => if s.clocked then ((s.stopNow Stop.hostStop.code).clearLoad).cmdEnd 0 else s
  | _ => s

/-! ## Attestation and sessions (R513 to R515) -/

/-- A list of bytes cut or padded with zeros to a length. -/
def padTo (n : Nat) (bs : List Byte) : List Byte := bs.take n ++ List.replicate (n - bs.length) 0
/-- R513: bytes 0 to 383 of a report. -/
def State.reportBody (s : State) (nonce : List Byte) : List Byte :=
  let b (x : Bool) (n : Nat) : Nat := if x then 2 ^ n else 0
  let fl := b (s.on F.SEC_BOOT_OWNED) 0 + b (s.on F.SEC_SESSION_OPEN) 1 + b (decide (2 ≤ s.get F.CFG_STATE_IMAGE)) 2 + b (s.on F.SEC_BOOT_SLOT) 3
  let own := if s.hob.ownHdr.isEmpty then List.replicate 64 0 else shake256 s.hob.ownHdr 64
  leBytes 4 1 ++ leBytes 4 fl ++ leBytes 8 (s.get F.SEC_BOOTCNT_COUNT) ++ nonce ++ s.idHash ++ shake256 s.hob.cfgHdr 64 ++ own ++ s.imgHash ++
    leBytes 4 s.nvm.count0 ++ leBytes 4 s.nvm.count1 ++ leBytes 8 s.job.lastCommit ++ List.replicate 64 0
/-- R513: ATTEST. -/
def State.attest (s : State) : State :=
  match s.hob.cmd with
  | some (3, _, a, _) =>
    if !s.clocked then s
    else
      match s.on F.SEC_BOOT_ID_OK, s.aon.seed with
      | true, some seed =>
        let (nonce, s1) := s.hobRead a 32
        let body := s1.reportBody nonce
        let sig := Config.falconSign (idBytes seed) body
        (s1.hobWrite (a + 64) (body ++ leBytes 2 (min 1280 sig.length) ++ padTo 1280 sig ++ List.replicate 62 0)).cmdEnd 0
      | _, _ => s.cmdEnd 5
  | _ => s
/-- R514: CHALLENGE with the nonce that the generator gives. -/
def State.challenge (s : State) (nonce : List Byte) : State :=
  match s.hob.cmd with
  | some (4, _, _, _) =>
    if !s.clocked then s
    else
      let n := padTo 32 nonce
      let s1 := s.pageWrite 0x80 n
      { s1 with hob := { s1.hob with nonce := some n } }.cmdEnd 0
  | _ => s
/-- R514: whether a debug token opens a session: identity, nonce, and key checks. -/
def State.tokenOk (s : State) (t : List Byte) : Bool :=
  let scope := leAt t 4 4
  let hash := t.extract 104 168
  let keyOk := shake256 (ctKey t) 64 == hash && decide (1 ≤ ctSigLen t) && decide (ctSigLen t ≤ 1280) && Config.falconVerify (ctKey t) (t.take 256) (ctSig t)
  let dbg := (s.hob.recs.find? fun r => r.1 == 0x102 && r.2.1).any fun r =>
    (Config.keyHashes r.2.2).contains hash && decide (scope &&& (Config.keyScope r.2.2 hash).toNat = scope)
  let vendor := !s.on F.SEC_BOOT_OWNED && hash == Config.vendorHash
  leAt t 0 4 == 0x4B544247 && t.extract 8 72 == s.idHash && s.hob.nonce == some (t.extract 72 104) && scope < 8 && keyOk && (dbg || vendor)
/-- R514, R515: SUBMIT consumes the nonce; a token that holds opens a session with its scope. -/
def State.submit (s : State) : State :=
  match s.hob.cmd with
  | some (5, _, a, _) =>
    if !s.clocked then s
    else
      let (t, s1) := s.hobRead a 3392
      let ok := s1.tokenOk t
      let s2 := { s1 with hob := { s1.hob with nonce := none } }
      if ok then
        let s3 := ((s2.set F.SEC_SESSION_OPEN 1).set F.SEC_SESSION_SCOPE (leAt t 4 4)).raise F.SEC_EVENT_SESSION_OPEN
        (s3.errRecord .security 0 .hob s3.master 5 s3.master).cmdEnd 0
      else (s2.raise F.SEC_EVENT_TOKEN_REJECT).cmdEnd 5
  | _ => s
/-- R515: CLOSE. -/
def State.closeSession (s : State) : State :=
  match s.hob.cmd with
  | some (6, _, _, _) => if s.clocked then ((s.set F.SEC_SESSION_OPEN 0).set F.SEC_SESSION_SCOPE 0).cmdEnd 0 else s
  | _ => s
/-- R492: CONFIG: in RECOVERY, an image in the window is verified as an NVM image is, and booted. -/
def State.config (s : State) : State :=
  match s.hob.cmd with
  | some (7, _, a, len) =>
    if !s.clocked ∨ s.get F.SEC_BOOT_STAGE ≠ 14 then s
    else
      let (img, s1) := s.hobRead a len
      if s1.imageOk img then (s1.bootImage img).cmdEnd 0
      else (if s1.imageOld img then s1.raise F.SEC_EVENT_ROLLBACK else s1).cmdEnd 1
  | _ => s

/-! ## The window and the links -/

/-- R557: a host write through BAR2: the page is always written, the rest only while no image is loaded. -/
def State.windowWrite (s : State) (off : Nat) (bs : List Byte) : State :=
  if !s.busOn ∨ 0x40000000 < off + bs.length then s
  else
    let n := min bs.length (pageBase - off)
    let s1 := if n = 0 then s
      else if s.get F.CFG_STATE_IMAGE = 0 then (s.write off (bs.take n)).2 else s.raise F.CXL_EVENT_HOST_WDISC
    if n < bs.length then (s1.write (off + n) (bs.drop n)).2 else s1
/-- R559: the PCIe link is up: the vectors that waited are sent. -/
def State.pcieUp (s : State) (gen width : Nat) : State :=
  if gen < 4 ∨ 6 < gen ∨ !([1, 2, 4].contains width) ∨ !s.aon.pg then s
  else
    let s1 := (s.set F.CXL_STATUS_GEN gen).set F.CXL_STATUS_WIDTH width
    { s1 with irq := { s1.irq with msix := s1.irq.msix ++ s1.irq.owed, owed := [] } }
/-- R559: the PCIe link is lost; a job, a load and a command go on. -/
def State.pcieDown (s : State) : State := (s.set F.CXL_STATUS_GEN 0).set F.CXL_STATUS_WIDTH 0
/-- R563, R564: a CXL device is added, only while no image is loaded. -/
def State.cxlAdd (s : State) (k gib : Nat) : State :=
  if !s.clocked ∨ s.on F.CFG_STATE_IMAGE ∨ gib = 0 then s
  else ({ s with cxl := { s.cxl with devs := Sparse.write s.cxl.devs [] k (s.cxl.devs.look [] k ++ [gib]) } }.enumerate).raise F.CXL_EVENT_HOTPLUG
/-- R566: a CXL port loses its link: a drain to its ranges is abandoned. -/
def State.cxlDown (s : State) (k : Nat) : State :=
  if s.get (F.CXL_P_STATUS_STATE k) = 0 then s
  else
    let s1 := (s.set (F.CXL_P_STATUS_STATE k) 0).raise F.CXL_EVENT_LINK_DOWN
    let s2 := if s1.jobEn then { s1 with job := { s1.job with faulty := (15, k) :: s1.job.faulty } } else s1
    if s2.job.ckDrain.isSome && !s2.job.ckEnded then
      if s2.farOk (s2.slotBase s2.drainSlot) (4096 + s2.drainLen) then s2
      else { s2 with job := { s2.job with ckDrain := none } }.set F.ERR_STATUS_DRAIN 0
    else s2
/-- R563, R564: the far-tier ranges without those of the last device of port k; of interleaved ranges none stays (log 128). -/
def State.rangesWithout (s : State) (k : Nat) : List FarRange :=
  let mine := s.cxl.ranges.filter fun r => r.port == k
  if s.cxl.ranges.any FarRange.ilv then []
  else if mine.length = (s.cxl.devs.look [] k).length then
    (s.cxl.ranges.filter fun r => decide (r.port < k)) ++ mine.dropLast ++ s.cxl.ranges.filter fun r => decide (k < r.port)
  else s.cxl.ranges
/-- R563: a CXL device is removed, only while no image is loaded; with an image its link is lost (R566). Its ranges leave the far
tier. -/
def State.cxlRemove (s : State) (k : Nat) : State :=
  let ds := s.cxl.devs.look [] k
  if !s.clocked ∨ ds.isEmpty then s
  else if s.on F.CFG_STATE_IMAGE then s.cxlDown k
  else
    let rs := s.rangesWithout k
    let s1 := { s with cxl := { devs := Sparse.write s.cxl.devs [] k ds.dropLast, ranges := rs } }.setPair R.CXL_FARSIZE_LO ((rs.map FarRange.size).sum)
    let s2 := s1.each (List.range 2) fun t i => t.set (F.CXL_P_STATUS_DEVS i) (rs.filter fun r => r.port == i).length
    (if ds.length = 1 then s2.set (F.CXL_P_STATUS_STATE k) 0 else s2).raise F.CXL_EVENT_HOTPLUG

end Sys2Proof.Machine
end

