-- ==== Sys2Proof/Machine/Settle.lean ====
section
/-! DEFINITION. Interrupt causes, vectors and ALERT_N, brought up to date after every command
(16_step_commit_replay_and_errors.md R540, 18_host_and_far_memory_links.md R559, R561, R562). -/

namespace Sys2Proof.Machine

/-- R561: whether the cause of vector v holds. -/
def State.causeHolds (s : State) (v : Nat) : Bool :=
  match v with
  | 0 => s.on F.CXL_IPEND_HOSTCMD
  | 1 => s.on F.CXL_IPEND_STAGE
  | 2 => s.evOn R.CXL_EVENT R.CXL_EVENT_EN
  | 3 => false
  | v => s.errSrcBit (v - 4)
/-- R561: the vectors whose cause holds; vectors 20 to 63 have none. -/
def State.causes (s : State) : List Nat := (List.range 20).filter s.causeHolds
/-- A list of vectors as a word, bit v for vector v. -/
def causeWord (l : List Nat) : Nat := l.foldl (fun w v => w ||| 2 ^ v) 0
/-- R562: ALERT_N is low while some cause holds whose bit in CXL_IMASK is 1. -/
def State.alertHigh (s : State) : Bool := s.causes.all fun v => !(s.get F.CXL_IMASK_MASK).testBit v
/-- R559, R561, R562: causes that hold become pending; those that were not raise their vectors, at once or, with the link
down, once it is up again. -/
def State.settle (s : State) : State :=
  let now := s.causes
  let fresh := now.filter fun v => !s.irq.active.testBit v
  let up := s.get F.CXL_STATUS_GEN != 0
  { s with irq := { s.irq with active := causeWord now, msix := if up then s.irq.msix ++ fresh else s.irq.msix, owed := if up then s.irq.owed else s.irq.owed ++ fresh, alertN := s.alertHigh } }

end Sys2Proof.Machine
end

