-- ==== Sys2Proof/Machine/Meaning.lean ====
section
/-! DEFINITION. What every meaning shares: the answer of a command, the clock gate, a write of one register bit, and the
application of a posted write (14_clocks_and_power.md R468, 17_register_interface_and_map.md R546, R548). -/

namespace Sys2Proof.Machine

/-- The answer of a command that leaves the state t: interrupt causes are brought up to date (R561), the queue of waiting
commands is what it was. -/
def State.answer (s t : State) : Host.Outcome State Fault Refusal := .next { t.settle with pending := s.pending }
/-- R468, R576, R479: a command of a clocked unit does nothing while the clocks are stopped. -/
def State.ticked (s : State) (f : State → State) : Host.Outcome State Fault Refusal := s.answer (if s.clocked then f s else s)
/-- R546: a write of a register that sets the given bits and gives the other fields the values they hold. -/
def State.writeBits (s : State) (who off bits : Nat) : State := s.busWrite who off 4 ((s.reg off).toNat ||| bits)
/-- R548: the posted write of the PWR, ERR or FFY block is applied. -/
def State.postedApplied (s : State) (blk : Nat) : State :=
  if s.busOn && [0x400000, 0x500000, 0x1600000].contains blk then s.postedDone blk else s

end Sys2Proof.Machine
end

