-- ==== Sys2Proof/Machine/BarrierRows.lean ====
section
/-! DEFINITION. Barriers and sparks as commands (13_barriers_sparks_queues.md). -/

namespace Sys2Proof.Machine

/-- R441: a local spark reaches its counter. -/
def execBarrierSignal (b : Fin 4096) (qid : Option (BitVec 9)) (s : State) : Host.Outcome State Fault Refusal :=
  s.ticked fun t => t.signal b.val (qid.map BitVec.toNat)

/-- R446: an engine cycle of a satisfied count barrier. -/
def execWaitTakeRelease (b : Fin 4096) (s : State) : Host.Outcome State Fault Refusal :=
  s.ticked fun t => t.takeCycle b.val

/-- R441: a write of SYN_BAR_SUB. -/
def execBarrierSubtract (who : Requester) (b : Fin 4096) (val : Word) (s : State) : Host.Outcome State Fault Refusal :=
  s.answer (s.busWrite who.val (R.SYN_BAR_SUB b.val) 4 val.toNat)

/-- R449: a write of SYN_SIGNAL. -/
def execSynSignal (who : Requester) (val : Word) (s : State) : Host.Outcome State Fault Refusal :=
  s.answer (s.busWrite who.val (R.SYN_SIGNAL) 4 val.toNat)

/-- R460: a write of SYN_BAR_CNT. -/
def execBarrierCountWrite (who : Requester) (b : Fin 4096) (val : Word) (s : State) : Host.Outcome State Fault Refusal :=
  s.answer (s.busWrite who.val (R.SYN_BAR_CNT b.val) 4 val.toNat)

/-- R454: the head wait of a queue has passed SYN_LENDTHR. -/
def execPowerLend (qid : BitVec 9) (s : State) : Host.Outcome State Fault Refusal :=
  s.ticked fun t => t.powerLend qid.toNat

end Sys2Proof.Machine
end

