-- ==== Sys2Proof/Machine/BellowsRows.lean ====
section
/-! DEFINITION. The bellows as commands (06_bellows_curvature_and_roots.md). -/

namespace Sys2Proof.Machine

/-- R196: the next tile of a root product goes to a borrow slot. -/
def execBorrowSubmit (q : Fin 4) (s : State) : Host.Outcome State Fault Refusal :=
  s.ticked fun t => t.borrowSubmit q.val

/-- R182: the oldest tap record of a hearth arrives at its home bellows. -/
def execTapRecord (p : Fin 136) (s : State) : Host.Outcome State Fault Refusal :=
  s.ticked fun t => t.tapRecord p.val

/-- R186: a factor of KIND 2 or 3 starts to sample its matrix. -/
def execMatrixSampleStart (q : Fin 4) (f : Fin 1024) (s : State) : Host.Outcome State Fault Refusal :=
  s.ticked fun t => t.matrixStart q.val f.val

/-- R187: the lowest complete row is accumulated. -/
def execRowAccumulate (q : Fin 4) (f : Fin 1024) (s : State) : Host.Outcome State Fault Refusal :=
  s.ticked fun t => t.rowAccumulate q.val f.val

/-- R188: the step sums are folded into the factor. -/
def execFactorFold (q : Fin 4) (f : Fin 1024) (s : State) : Host.Outcome State Fault Refusal :=
  s.ticked fun t => t.factorFold q.val f.val

/-- R244: the next eigenvalue request is submitted. -/
def execLambdaRequestSubmit (q : Fin 4) (s : State) : Host.Outcome State Fault Refusal :=
  s.ticked fun t => t.lambdaSubmit q.val

/-- R193: the root of the job is prepared. -/
def execRootPreparation (q : Fin 4) (f : Fin 1024) (s : State) : Host.Outcome State Fault Refusal :=
  s.ticked fun t => t.rootPreparation q.val f.val

/-- R194: the next coupled step of the job. -/
def execRootIteration (q : Fin 4) (f : Fin 1024) (s : State) : Host.Outcome State Fault Refusal :=
  s.ticked fun t => t.rootIteration q.val f.val

/-- R198: the delivery step has come to its end without the root. -/
def execRootHold (q : Fin 4) (s : State) : Host.Outcome State Fault Refusal :=
  s.ticked fun t => t.rootHold q.val

/-- R205: a write of BLW_SQTAIL. -/
def execBlwSqtailWrite (who : Requester) (q : Fin 4) (val : Word) (s : State) : Host.Outcome State Fault Refusal :=
  s.answer (s.busWrite who.val (R.BLW_SQTAIL q.val) 4 val.toNat)

/-- R206: the ORTHO at the head of the service queue. -/
def execOrtho (q : Fin 4) (s : State) : Host.Outcome State Fault Refusal :=
  s.ticked fun t => t.ortho q.val

/-- R210: a write of BLW_RELOAD. -/
def execBlwReload (who : Requester) (q : Fin 4) (val : Word) (s : State) : Host.Outcome State Fault Refusal :=
  s.answer (s.busWrite who.val (R.BLW_RELOAD q.val) 4 val.toNat)

/-- R210: the reload ends. -/
def execBlwReloadDone (q : Fin 4) (s : State) : Host.Outcome State Fault Refusal :=
  s.ticked fun t => t.blwReloadDone q.val

end Sys2Proof.Machine
end

