-- ==== Sys2Proof/Machine/BootRows.lean ====
section
/-! DEFINITION. Start-up, the heartbeat, settings and the management bus as commands (15_startup_configuration_security.md, 19_module_pins_and_electrical.md). -/

namespace Sys2Proof.Machine

/-- R500: the boot ROM stage ends. -/
def execStageRom (ok : Bool) (seed : Option (List Byte)) (s : State) : Host.Outcome State Fault Refusal :=
  s.answer (s.stageRom ok seed)

/-- R497: the configuration image. -/
def execStageImage (s : State) : Host.Outcome State Fault Refusal :=
  s.answer (s.stageImage)

/-- R503: the settings are restored. -/
def execStageRestore (s : State) : Host.Outcome State Fault Refusal :=
  s.answer (s.stageRestore)

/-- R488: training, repair, test and enumeration end. -/
def execStageCalib (portsUp : List Bool) (channelsUp : List Bool) (slicesOk : List Bool) (gib : List Nat × List Nat) (s : State) : Host.Outcome State Fault Refusal :=
  s.answer (s.stageCalib portsUp channelsUp slicesOk gib.1 gib.2)

/-- R329: memory is initialised. -/
def execStageInit (s : State) : Host.Outcome State Fault Refusal :=
  s.answer (s.stageInit)

/-- R489: READY rises. -/
def execReady (s : State) : Host.Outcome State Fault Refusal :=
  s.answer (s.readyRise)

/-- R506: the hob of a quadrant writes SEC_HEARTBEAT. -/
def execHeartbeat (q : Fin 4) (s : State) : Host.Outcome State Fault Refusal :=
  s.answer (s.busWrite (68 + q.val) R.SEC_HEARTBEAT 4 1)

/-- R507: 10 ms without a heartbeat. -/
def execTokenPass (s : State) : Host.Outcome State Fault Refusal :=
  s.answer s.tokenPass

/-- R504: changed settings reach the ember store. -/
def execRetainWrite (s : State) : Host.Outcome State Fault Refusal :=
  s.ticked fun t => t.retain

/-- R578: a read on the standby management bus. -/
def execStandbyBusRead (reg : Byte) (s : State) : Host.Outcome State Fault Refusal :=
  s.answer (s.mgmtRead reg.toNat)

end Sys2Proof.Machine
end

