-- ==== Sys2Proof/Machine/CollectiveRows.lean ====
section
/-! DEFINITION. The collective engines as commands (12_collectives_and_job_mapping.md). -/

namespace Sys2Proof.Machine

/-- R410: the next complete block of a tree is combined. -/
def execBlockCombine (q : Fin 4) (s : State) : Host.Outcome State Fault Refusal :=
  s.ticked fun t => t.blockCombine q.val

/-- R405: a write of COL_QTAIL. -/
def execColQtailWrite (who : Requester) (q : Fin 4) (val : Word) (s : State) : Host.Outcome State Fault Refusal :=
  s.answer (s.busWrite who.val (R.COL_QTAIL q.val) 4 val.toNat)

/-- R407: the ALLREDUCE at the head. -/
def execAllreduce (q : Fin 4) (s : State) : Host.Outcome State Fault Refusal :=
  s.ticked fun t => t.colStart q.val 1

/-- R407: the REDUCE at the head. -/
def execReduce (q : Fin 4) (s : State) : Host.Outcome State Fault Refusal :=
  s.ticked fun t => t.colStart q.val 2

/-- R417: the NORM at the head. -/
def execCollectiveNorm (q : Fin 4) (s : State) : Host.Outcome State Fault Refusal :=
  s.ticked fun t => t.colStart q.val 3

/-- R407: the NOP at the head. -/
def execCollectiveNop (q : Fin 4) (s : State) : Host.Outcome State Fault Refusal :=
  s.ticked fun t => t.colNop q.val

/-- R424: a write of COL_ABORT. -/
def execColAbort (who : Requester) (q : Fin 4) (tag : Word) (s : State) : Host.Outcome State Fault Refusal :=
  s.answer (s.busWrite who.val (R.COL_ABORT q.val) 4 tag.toNat)

/-- R436: a write of 1 to COL_CTRL.QRESET; the other fields keep their values. -/
def execCollectiveQreset (who : Requester) (q : Fin 4) (s : State) : Host.Outcome State Fault Refusal :=
  s.answer (s.writeBits who.val (R.COL_CTRL q.val) 2)

end Sys2Proof.Machine
end

