-- ==== Sys2Proof/Machine/CricketRows.lean ====
section
/-! DEFINITION. The cricket instructions and the cricket controls as commands (09_cricket_cores_and_vector_extensions.md). A cricket whose word is of another group is left as it is (log 23). -/

namespace Sys2Proof.Machine

/-- R294: a scalar integer instruction. -/
def execScalarInteger (c : Fin 72) (s : State) : Host.Outcome State Fault Refusal :=
  s.ticked fun t => t.crkExec c.val (ofClass 0 1) (scalarIntegerOf c.val)

/-- R289, R294: a scalar load or store. -/
def execScalarLoadStore (c : Fin 72) (s : State) : Host.Outcome State Fault Refusal :=
  s.ticked fun t => t.crkExec c.val (ofClass 2 2) (scalarMemoryOf c.val)

/-- R294: a branch or a jump. -/
def execBranch (c : Fin 72) (s : State) : Host.Outcome State Fault Refusal :=
  s.ticked fun t => t.crkExec c.val (ofClass 3 3) (branchOf c.val)

/-- R301: a short-vector arithmetic instruction. -/
def execShortVectorArithmetic (c : Fin 72) (s : State) : Host.Outcome State Fault Refusal :=
  s.ticked fun t => t.crkExec c.val (ofClass 5 5) (vectorOf false c.val)

/-- R306: a short-vector load or store. -/
def execShortVectorMemory (c : Fin 72) (s : State) : Host.Outcome State Fault Refusal :=
  s.ticked fun t => t.crkExec c.val (ofClass 6 6) (vectorMemoryOf false c.val)

/-- R299: a long-vector arithmetic instruction. -/
def execLongVectorArithmetic (c : Fin 72) (s : State) : Host.Outcome State Fault Refusal :=
  s.ticked fun t => t.crkExec c.val (ofClass 7 7) (vectorOf true c.val)

/-- R307: a long-vector load or store. -/
def execLongVectorMemory (c : Fin 72) (s : State) : Host.Outcome State Fault Refusal :=
  s.ticked fun t => t.crkExec c.val (ofClass 8 8) (vectorMemoryOf true c.val)

/-- R294: a mask instruction. -/
def execMaskOperation (c : Fin 72) (s : State) : Host.Outcome State Fault Refusal :=
  s.ticked fun t => t.crkExec c.val (ofClass 9 9) (maskOf c.val)

/-- R305: a conversion. -/
def execConversion (c : Fin 72) (s : State) : Host.Outcome State Fault Refusal :=
  s.ticked fun t => t.crkExec c.val (ofClass 10 10) (conversionOf c.val)

/-- R294: a hash instruction. -/
def execHash (c : Fin 72) (s : State) : Host.Outcome State Fault Refusal :=
  s.ticked fun t => t.crkExec c.val (ofClass 11 11) (hashOf c.val)

/-- R296: SETVL. -/
def execSetvl (c : Fin 72) (s : State) : Host.Outcome State Fault Refusal :=
  s.ticked fun t => t.crkExec c.val (isSet false) (setLenOf c.val)

/-- R299: SETWL. -/
def execSetwl (c : Fin 72) (s : State) : Host.Outcome State Fault Refusal :=
  s.ticked fun t => t.crkExec c.val (isSet true) (setLenOf c.val)

/-- R295: CRD. -/
def execCrd (c : Fin 72) (s : State) : Host.Outcome State Fault Refusal :=
  s.ticked fun t => t.crkExec c.val (ofSystem 0) (crdOf c.val)

/-- R295: CWR. -/
def execCwr (c : Fin 72) (s : State) : Host.Outcome State Fault Refusal :=
  s.ticked fun t => t.crkExec c.val (ofSystem 1) (cwrOf c.val)

/-- R295: TRAP, the trap of R318 with cause ENVCALL. -/
def execTrap (c : Fin 72) (s : State) : Host.Outcome State Fault Refusal :=
  s.ticked fun t => t.crkExec c.val (ofSystem 2) (fun w _ => trapOf w)

/-- R295: TRET. -/
def execTret (c : Fin 72) (s : State) : Host.Outcome State Fault Refusal :=
  s.ticked fun t => t.crkExec c.val (ofSystem 3) (tretOf c.val)

/-- R311: FENCE. -/
def execFence (c : Fin 72) (s : State) : Host.Outcome State Fault Refusal :=
  s.ticked fun t => t.crkExec c.val (ofSystem 4) (fenceOf c.val)

/-- R311: SYNCW. -/
def execSyncw (c : Fin 72) (s : State) : Host.Outcome State Fault Refusal :=
  s.ticked fun t => t.crkExec c.val (ofSystem 5) (syncwOf c.val)

/-- R311: the stalled SYNCW completes. -/
def execSyncwDone (c : Fin 72) (s : State) : Host.Outcome State Fault Refusal :=
  s.ticked fun t => t.syncwDone c.val

/-- R288: IFLUSH. -/
def execIflush (c : Fin 72) (s : State) : Host.Outcome State Fault Refusal :=
  s.ticked fun t => t.crkExec c.val (ofSystem 6) (iflushOf c.val)

/-- R295, R441: SPK. -/
def execSpk (c : Fin 72) (s : State) : Host.Outcome State Fault Refusal :=
  s.ticked fun t => t.crkExec c.val (ofSystem 7) (spkOf c.val)

/-- R444: WAIT. -/
def execWait (c : Fin 72) (s : State) : Host.Outcome State Fault Refusal :=
  s.ticked fun t => t.crkExec c.val (ofSystem 8) (waitOf false c.val)

/-- R446: WAITT. -/
def execWaitt (c : Fin 72) (s : State) : Host.Outcome State Fault Refusal :=
  s.ticked fun t => t.crkExec c.val (ofSystem 9) (waitOf true c.val)

/-- R293: SENTER. -/
def execSenter (c : Fin 72) (s : State) : Host.Outcome State Fault Refusal :=
  s.ticked fun t => t.crkExec c.val (ofSystem 10) (senterOf c.val)

/-- R295: HALT. -/
def execHalt (c : Fin 72) (s : State) : Host.Outcome State Fault Refusal :=
  s.ticked fun t => t.crkExec c.val (ofSystem 11) (haltOf c.val)

/-- R322: a write of CRK_CTRL with RUN = 1; SSTEP keeps its value. -/
def execCricketRun (who : Requester) (c : Fin 72) (s : State) : Host.Outcome State Fault Refusal :=
  s.answer (s.busWrite who.val (R.CRK_CTRL c.val) 4 (1 + 4 * s.get (F.CRK_CTRL_SSTEP c.val)))

/-- R324: a write of CRK_CTRL with RUN = 0; SSTEP keeps its value. -/
def execCricketHalt (who : Requester) (c : Fin 72) (s : State) : Host.Outcome State Fault Refusal :=
  s.answer (s.busWrite who.val (R.CRK_CTRL c.val) 4 (4 * s.get (F.CRK_CTRL_SSTEP c.val)))

/-- R322: a write of CRK_CTRL with CRESET = 1; RUN and SSTEP keep their values. -/
def execCreset (who : Requester) (c : Fin 72) (s : State) : Host.Outcome State Fault Refusal :=
  s.answer (s.writeBits who.val (R.CRK_CTRL c.val) 2)

/-- R322: a write of CRK_MAILBOX. -/
def execMailboxWrite (who : Requester) (c : Fin 72) (val : Word) (s : State) : Host.Outcome State Fault Refusal :=
  s.answer (s.busWrite who.val (R.CRK_MAILBOX c.val) 4 val.toNat)

end Sys2Proof.Machine
end

