-- ==== Sys2Proof/Machine/FireboxRows.lean ====
section
/-! DEFINITION. The firebox as commands (08_firebox_parameter_update.md). -/

namespace Sys2Proof.Machine

/-- R252: a write of FBX_QTAIL. -/
def execFbxQtailWrite (who : Requester) (q : Fin 4) (val : Word) (s : State) : Host.Outcome State Fault Refusal :=
  s.answer (s.busWrite who.val (R.FBX_QTAIL q.val) 4 val.toNat)

/-- R263: the NORM at the head. -/
def execNorm (q : Fin 4) (s : State) : Host.Outcome State Fault Refusal :=
  s.ticked fun t => t.fbxNorm q.val

/-- R265: the FOLD at the head. -/
def execFold (q : Fin 4) (s : State) : Host.Outcome State Fault Refusal :=
  s.ticked fun t => t.fbxFold q.val

/-- R267: the UPDATE at the head. -/
def execUpdate (q : Fin 4) (s : State) : Host.Outcome State Fault Refusal :=
  s.ticked fun t => t.fbxUpdate q.val

/-- R277: the DWRITE at the head. -/
def execDwrite (q : Fin 4) (s : State) : Host.Outcome State Fault Refusal :=
  s.ticked fun t => t.fbxDwrite q.val

/-- R254: the NOP at the head. -/
def execFireboxNop (q : Fin 4) (s : State) : Host.Outcome State Fault Refusal :=
  s.ticked fun t => t.fbxNop q.val

/-- R279: a write of FBX_ABORT. -/
def execFbxAbort (who : Requester) (q : Fin 4) (tag : Word) (s : State) : Host.Outcome State Fault Refusal :=
  s.answer (s.busWrite who.val (R.FBX_ABORT q.val) 4 tag.toNat)

/-- R280: a write of 1 to FBX_CTRL.QRESET; the other fields keep their values. -/
def execFireboxQreset (who : Requester) (q : Fin 4) (s : State) : Host.Outcome State Fault Refusal :=
  s.answer (s.writeBits who.val (R.FBX_CTRL q.val) 2)

end Sys2Proof.Machine
end

