-- ==== Sys2Proof/Machine/FlueRows.lean ====
section
/-! DEFINITION. The Flue fabric as commands (11_flue_fabric.md, 19_module_pins_and_electrical.md). -/

namespace Sys2Proof.Machine

/-- R592: a write of FLU_P_CTRL. -/
def execPortModeWrite (who : Requester) (p : Fin 12) (val : Word) (s : State) : Host.Outcome State Fault Refusal :=
  s.answer (s.busWrite who.val (R.FLU_P_CTRL p.val) 4 val.toNat)

/-- R403: a write of FLU_P_CTRL with RETRAIN = 1. -/
def execPortRetrainRequest (who : Requester) (p : Fin 12) (val : Word) (s : State) : Host.Outcome State Fault Refusal :=
  s.answer (s.busWrite who.val (R.FLU_P_CTRL p.val) 4 (val.toNat ||| 4))

/-- R592: training ends with the lanes in service. -/
def execPortTrainingDone (p : Fin 12) (lanes : BitVec 9) (rtt hop : BitVec 8) (s : State) : Host.Outcome State Fault Refusal :=
  s.ticked fun t => t.trainingDone p.val lanes.toNat rtt.toNat hop.toNat

/-- R592: training times out. -/
def execPortTrainingTimeout (p : Fin 12) (s : State) : Host.Outcome State Fault Refusal :=
  s.ticked fun t => t.trainingTimeout p.val

/-- R371: a lane is lost. -/
def execLaneLost (p : Fin 12) (l : Fin 9) (s : State) : Host.Outcome State Fault Refusal :=
  s.ticked fun t => t.laneLost p.val l.val

/-- R371: a lane over FLU_P_LANETHR is retired as if lost. -/
def execLaneRetire (p : Fin 12) (l : Fin 9) (s : State) : Host.Outcome State Fault Refusal :=
  s.ticked fun t => t.laneRetire p.val l.val

/-- R374: a codeword that cannot be decoded. -/
def execCodewordUncorrectable (p : Fin 12) (seqs : List (BitVec 6)) (s : State) : Host.Outcome State Fault Refusal :=
  s.ticked fun t => t.codewordBad p.val (seqs.map BitVec.toNat)

/-- R374: a NAK arrives. -/
def execNak (p : Fin 12) (seq : BitVec 6) (s : State) : Host.Outcome State Fault Refusal :=
  s.ticked fun t => t.nakIn p.val seq.toNat

/-- R373: uncorrectable codewords have lasted FLU_P_DEADT. -/
def execPortDeadTimeout (p : Fin 12) (s : State) : Host.Outcome State Fault Refusal :=
  s.ticked fun t => t.deadTimeout p.val

/-- R381: a packet arrives. -/
def execPacketArrival (p : Fin 12) (seq : BitVec 6) (pkt : List Byte) (errs : List (BitVec 144)) (s : State) : Host.Outcome State Fault Refusal :=
  s.ticked fun t => t.packetIn p.val seq.toNat pkt errs

/-- R377: a packet has been held longer than FLU_HOLDLIM. -/
def execHoldLimitExpiry (p : Fin 12) (s : State) : Host.Outcome State Fault Refusal :=
  s.ticked fun t => t.holdExpired p.val

/-- R386: the oldest delivered DATA packet. -/
def execDataReceive (s : State) : Host.Outcome State Fault Refusal :=
  s.ticked fun t => t.dataReceive

/-- R451: the oldest delivered SPARK packet. -/
def execSparkReceive (s : State) : Host.Outcome State Fault Refusal :=
  s.ticked fun t => t.sparkReceive

/-- R384: the oldest delivered stream ACK. -/
def execStreamAck (s : State) : Host.Outcome State Fault Refusal :=
  s.ticked fun t => t.streamAck

/-- R421: the oldest delivered tree ACK. -/
def execTreeAck (s : State) : Host.Outcome State Fault Refusal :=
  s.ticked fun t => t.treeAck

/-- R388: the oldest delivered MCAST packet. -/
def execMcastReceive (s : State) : Host.Outcome State Fault Refusal :=
  s.ticked fun t => t.mcastReceive

/-- R384: the SEND at the head of an injector. -/
def execSend (q : Fin 4) (s : State) : Host.Outcome State Fault Refusal :=
  s.ticked fun t => t.send q.val

/-- R384: a write of FLU_SQTAIL. -/
def execFluSqtailWrite (who : Requester) (q : Fin 4) (val : Word) (s : State) : Host.Outcome State Fault Refusal :=
  s.answer (s.busWrite who.val (R.FLU_SQTAIL q.val) 4 val.toNat)

/-- R393: a frame boundary of the fabric master. -/
def execFrameMark (s : State) : Host.Outcome State Fault Refusal :=
  s.ticked fun t => t.frameMark

/-- R393: a frame mark arrives. -/
def execFrameMarkReceive (p : Fin 12) (frame : BitVec 48) (s : State) : Host.Outcome State Fault Refusal :=
  s.ticked fun t => t.frameMarkIn p.val frame.toNat

/-- R389: a write of FLU_TBL_COMMIT. -/
def execTableCommit (who : Requester) (val : Word) (s : State) : Host.Outcome State Fault Refusal :=
  s.answer (s.busWrite who.val (R.FLU_TBL_COMMIT) 4 val.toNat)

/-- R389: the table commit ends. -/
def execTableCommitDone (s : State) : Host.Outcome State Fault Refusal :=
  s.ticked fun t => t.commitDone

/-- R390: a write of FLU_EPOCH. -/
def execPlannedSwitchRequest (who : Requester) (val : Word) (s : State) : Host.Outcome State Fault Refusal :=
  s.answer (s.busWrite who.val (R.FLU_EPOCH) 4 val.toNat)

/-- R390: a frame boundary at which a planned switch may happen. -/
def execEpochSwitch (s : State) : Host.Outcome State Fault Refusal :=
  s.ticked fun t => t.epochSwitch

/-- R395: a write of FLU_EMERG. -/
def execEmergencyNotice (who : Requester) (val : Word) (s : State) : Host.Outcome State Fault Refusal :=
  s.answer (s.busWrite who.val (R.FLU_EMERG) 4 val.toNat)

/-- R395: a NOTICE arrives. -/
def execNoticeReceive (p : Fin 12) (pkt : List Byte) (s : State) : Host.Outcome State Fault Refusal :=
  s.ticked fun t => t.noticeIn p.val pkt

/-- R395: the switch frame of an emergency switch. -/
def execEmergencySwitch (s : State) : Host.Outcome State Fault Refusal :=
  s.ticked fun t => t.emergencySwitch

/-- R394: a write of FLU_FENCE. -/
def execFenceWrite (who : Requester) (val : Word) (s : State) : Host.Outcome State Fault Refusal :=
  s.answer (s.busWrite who.val (R.FLU_FENCE) 4 val.toNat)

/-- R586: a cartridge is inserted. -/
def execCartridgeInsert (p : Fin 12) (record : List Byte) (s : State) : Host.Outcome State Fault Refusal :=
  s.answer (s.cartInsert p.val record)

/-- R586: a cartridge is removed. -/
def execCartridgeRemove (p : Fin 12) (s : State) : Host.Outcome State Fault Refusal :=
  s.answer (s.cartRemove p.val)

/-- R586: a cartridge draws more than 30 W. -/
def execCartridgeOverpower (p : Fin 12) (s : State) : Host.Outcome State Fault Refusal :=
  s.answer (s.cartOverpower p.val)

/-- R398: the hob reads every cartridge. -/
def execCartridgeMonitor (readings : List (List Nat)) (s : State) : Host.Outcome State Fault Refusal :=
  s.ticked fun t => t.cartMonitor readings

/-- R399: a minute has passed. -/
def execCartridgeHours (s : State) : Host.Outcome State Fault Refusal :=
  s.ticked fun t => t.cartHours

end Sys2Proof.Machine
end

