-- ==== Sys2Proof/Machine/HearthRows.lean ====
section
/-! DEFINITION. The hearth and its drain as commands (03_hearth_matrix_engines.md, 04_backward_pass_and_damper.md, 05_training_numerics.md). -/

namespace Sys2Proof.Machine

/-- R95: a write of HRT_QTAIL. -/
def execHearthQtailWrite (who : Requester) (p : Fin 136) (val : Word) (s : State) : Host.Outcome State Fault Refusal :=
  s.answer (s.busWrite who.val (R.HRT_QTAIL p.val) 4 val.toNat)

/-- R95: prefetch up to four descriptors ahead. -/
def execHearthPrefetch (p : Fin 136) (s : State) : Host.Outcome State Fault Refusal :=
  s.ticked fun t => t.hearthPrefetch p.val

/-- R102: the MATMUL at the head is validated and run to its end. -/
def execMatmul (p : Fin 136) (s : State) : Host.Outcome State Fault Refusal :=
  s.ticked fun t => t.matmulRun p.val

/-- R99: the BUBBLE at the head starts. -/
def execBubble (p : Fin 136) (s : State) : Host.Outcome State Fault Refusal :=
  s.ticked fun t => t.bubbleStart p.val

/-- R98: the NOP at the head completes. -/
def execHearthNop (p : Fin 136) (s : State) : Host.Outcome State Fault Refusal :=
  s.ticked fun t => t.hearthNop p.val

/-- R81, R87: one wave, with its least slack. -/
def execWave (p : Fin 136) (slack : Byte) (s : State) : Host.Outcome State Fault Refusal :=
  s.ticked fun t => t.waveOf p.val slack.toNat

/-- R88: a handshake has not arrived by the edge at which the next wave is due. -/
def execPaceMiss (p : Fin 136) (s : State) : Host.Outcome State Fault Refusal :=
  s.ticked fun t => t.paceMiss p.val

/-- R108: the drain takes the finished tile. -/
def execTileDrain (p : Fin 136) (s : State) : Host.Outcome State Fault Refusal :=
  s.ticked fun t => t.tileDrain p.val

/-- R111: the tile is drained again with its block scales raised. -/
def execReDrain (p : Fin 136) (s : State) : Host.Outcome State Fault Refusal :=
  s.ticked fun t => t.reDrain p.val

/-- R112: the tile reruns with A scaled down. -/
def execReRun (p : Fin 136) (s : State) : Host.Outcome State Fault Refusal :=
  s.ticked fun t => t.reRun p.val

/-- R100: the bubble ends at a tile boundary. -/
def execBubbleEnd (p : Fin 136) (s : State) : Host.Outcome State Fault Refusal :=
  s.ticked fun t => t.bubbleEnd p.val

/-- R101: a hold bubble starts. -/
def execHoldBubble (p : Fin 136) (s : State) : Host.Outcome State Fault Refusal :=
  s.ticked fun t => t.holdStart p.val

/-- R101: the hold bubble ends. -/
def execHoldBubbleEnd (p : Fin 136) (s : State) : Host.Outcome State Fault Refusal :=
  s.ticked fun t => t.holdEnd p.val

/-- R121: a write of HRT_ABORT. -/
def execHrtAbort (who : Requester) (p : Fin 136) (tag : Word) (s : State) : Host.Outcome State Fault Refusal :=
  s.answer (s.busWrite who.val (R.HRT_ABORT p.val) 4 tag.toNat)

/-- R122: a write of 1 to HRT_CTRL.QRESET; the other fields keep their values. -/
def execHearthQreset (who : Requester) (p : Fin 136) (s : State) : Host.Outcome State Fault Refusal :=
  s.answer (s.writeBits who.val (R.HRT_CTRL p.val) 4)

/-- R87: a software read of HRT_PACE restarts its MIN. -/
def execPaceMinRead (who : Requester) (p : Fin 136) (s : State) : Host.Outcome State Fault Refusal :=
  s.answer (s.busReadOut who.val (R.HRT_PACE p.val) 4)

/-- R132: a write of 1 to DMP_CTRL.SRESET. -/
def execSideRingReset (who : Requester) (p : Fin 136) (s : State) : Host.Outcome State Fault Refusal :=
  s.answer (s.busWrite who.val (R.DMP_CTRL p.val) 4 1)

/-- R139: a write of DMP_PTADDR_HI starts the load of a polynomial table. -/
def execPtabLoad (who : Requester) (p : Fin 136) (val : Word) (s : State) : Host.Outcome State Fault Refusal :=
  s.answer (s.busWrite who.val (R.DMP_PTADDR_HI p.val) 4 val.toNat)

/-- R139: the table load ends. -/
def execPtabLoadDone (p : Fin 136) (s : State) : Host.Outcome State Fault Refusal :=
  s.ticked fun t => t.ptabDone p.val

/-- R161: the selected tile is computed again in FP32 slice mode. -/
def execWatchRecheck (p : Fin 136) (s : State) : Host.Outcome State Fault Refusal :=
  s.ticked fun t => t.watchRecheck p.val

/-- R164: the recheck is compared with the written tile. -/
def execWatchCompare (p : Fin 136) (s : State) : Host.Outcome State Fault Refusal :=
  s.ticked fun t => t.watchCompare p.val

end Sys2Proof.Machine
end

