-- ==== Sys2Proof/Machine/HostRows.lean ====
section
/-! DEFINITION. The host page, the window, resets and links as commands (15_startup_configuration_security.md, 18_host_and_far_memory_links.md). -/

namespace Sys2Proof.Machine

/-- R509: the hob polls the control page. -/
def execHostPagePoll (s : State) : Host.Outcome State Fault Refusal :=
  s.ticked fun t => t.pagePoll

/-- R510: LOAD. -/
def execLoad (s : State) : Host.Outcome State Fault Refusal :=
  s.ticked fun t => t.load

/-- R510: the load barrier has released. -/
def execLoadComplete (s : State) : Host.Outcome State Fault Refusal :=
  s.ticked fun t => t.loadComplete

/-- R511: the load barrier times out. -/
def execLoadTimeout (s : State) : Host.Outcome State Fault Refusal :=
  s.ticked fun t => t.loadTimeout

/-- R512: UNLOAD. -/
def execUnload (s : State) : Host.Outcome State Fault Refusal :=
  s.ticked fun t => t.unload

/-- R513: ATTEST. -/
def execAttest (s : State) : Host.Outcome State Fault Refusal :=
  s.ticked fun t => t.attest

/-- R514: CHALLENGE. -/
def execChallenge (nonce : List Byte) (s : State) : Host.Outcome State Fault Refusal :=
  s.ticked fun t => t.challenge nonce

/-- R514: SUBMIT. -/
def execSubmit (s : State) : Host.Outcome State Fault Refusal :=
  s.ticked fun t => t.submit

/-- R515: CLOSE. -/
def execClose (s : State) : Host.Outcome State Fault Refusal :=
  s.ticked fun t => t.closeSession

/-- R492: CONFIG. -/
def execConfig (s : State) : Host.Outcome State Fault Refusal :=
  s.ticked fun t => t.config

/-- R557: a host write through BAR2. -/
def execHostWindowWrite (off : Nat) (bytes : List Byte) (s : State) : Host.Outcome State Fault Refusal :=
  s.answer (s.windowWrite off bytes)

/-- R560: a write of CXL_HRESET. -/
def execHostReset (who : Requester) (val : Word) (s : State) : Host.Outcome State Fault Refusal :=
  s.answer (s.busWrite who.val (R.CXL_HRESET) 4 val.toNat)

/-- R577: a rising edge of SYS_RST_N. -/
def execSysRstN (lowNs : Nat) (s : State) : Host.Outcome State Fault Refusal :=
  s.answer (s.sysReset lowNs)

/-- R555: PERST_N or a Function Level Reset: both reset the same things. -/
def execPerstN (_flr : Bool) (s : State) : Host.Outcome State Fault Refusal :=
  s.answer (s.endpointReset)

/-- R559: the PCIe link is up. -/
def execPcieLinkUp (gen : Fin 8) (width : Fin 32) (s : State) : Host.Outcome State Fault Refusal :=
  s.answer (s.pcieUp gen.val width.val)

/-- R564: a CXL device is added. -/
def execCxlHotAdd (k : Fin 2) (gib : Nat) (s : State) : Host.Outcome State Fault Refusal :=
  s.answer (s.cxlAdd k.val gib)

/-- R566: a CXL port loses its link. -/
def execCxlLinkDown (k : Fin 2) (s : State) : Host.Outcome State Fault Refusal :=
  s.answer (s.cxlDown k.val)

/-- R559: the PCIe link is lost. -/
def execPcieLinkDown (s : State) : Host.Outcome State Fault Refusal :=
  s.answer (s.pcieDown)

/-- R563: a CXL device is removed. -/
def execCxlHotRemove (k : Fin 2) (s : State) : Host.Outcome State Fault Refusal :=
  s.answer (s.cxlRemove k.val)

end Sys2Proof.Machine
end

