-- ==== Sys2Proof/Machine/KilnRows.lean ====
section
/-! DEFINITION. The kiln as commands (07_kiln_solver.md). -/

namespace Sys2Proof.Machine

/-- R245: the kiln serves the request in its slot. -/
def execLambdaRequest (q : Fin 4) (s : State) : Host.Outcome State Fault Refusal :=
  s.ticked fun t => t.lambdaServe q.val false

/-- R245: the request reaches KLN_LAMDL before its last iteration. -/
def execLambdaBudgetReached (q : Fin 4) (s : State) : Host.Outcome State Fault Refusal :=
  s.ticked fun t => t.lambdaServe q.val true

/-- R217: a write of KLN_QTAIL. -/
def execKlnQtailWrite (who : Requester) (q : Fin 4) (val : Word) (s : State) : Host.Outcome State Fault Refusal :=
  s.answer (s.busWrite who.val (R.KLN_QTAIL q.val) 4 val.toNat)

/-- R226: the SOLVE at the head is set up. -/
def execSolve (q : Fin 4) (s : State) : Host.Outcome State Fault Refusal :=
  s.ticked fun t => t.solve q.val

/-- R228: one iteration. -/
def execSolveIteration (q : Fin 4) (s : State) : Host.Outcome State Fault Refusal :=
  s.ticked fun t => t.solveIteration q.val

/-- R232: the charged total has reached the deadline. -/
def execDeadline (q : Fin 4) (s : State) : Host.Outcome State Fault Refusal :=
  s.ticked fun t => t.kilnDeadline q.val

/-- R237: the FACTOR at the head. -/
def execFactor (q : Fin 4) (s : State) : Host.Outcome State Fault Refusal :=
  s.ticked fun t => t.factor q.val

/-- R218: the NOP at the head. -/
def execKilnNop (q : Fin 4) (s : State) : Host.Outcome State Fault Refusal :=
  s.ticked fun t => t.kilnNop q.val

/-- R248: a write of KLN_ABORT. -/
def execKlnAbort (who : Requester) (q : Fin 4) (tag : Word) (s : State) : Host.Outcome State Fault Refusal :=
  s.answer (s.busWrite who.val (R.KLN_ABORT q.val) 4 tag.toNat)

/-- R249: a write of 1 to KLN_CTRL.QRESET; the other fields keep their values. -/
def execKilnQreset (who : Requester) (q : Fin 4) (s : State) : Host.Outcome State Fault Refusal :=
  s.answer (s.writeBits who.val (R.KLN_CTRL q.val) 4)

end Sys2Proof.Machine
end

