-- ==== Sys2Proof/Machine/MemoryRows.lean ====
section
/-! DEFINITION. Walkers, pair retirement, channels, the interleave and margining as commands (10_comb_hbm_and_far_memory.md). -/

namespace Sys2Proof.Machine

/-- R340: a walker reads its next line. -/
def execWeevilRead (hbm : Bool) (idx : Fin 256) (s : State) : Host.Outcome State Fault Refusal :=
  s.ticked fun t => if hbm then t.weevilHbm idx.val else t.weevilComb idx.val

/-- R348: a write of CMB_RETIRE. -/
def execPairRetire (who : Requester) (val : Word) (s : State) : Host.Outcome State Fault Refusal :=
  s.answer (s.busWrite who.val (R.CMB_RETIRE) 4 val.toNat)

/-- R348: the retirement copy ends. -/
def execPairRetireDone (s : State) : Host.Outcome State Fault Refusal :=
  s.ticked fun t => t.retireDone

/-- R353: a transaction is tried again. -/
def execParityRetry (ch : Fin 256) (ok : Bool) (s : State) : Host.Outcome State Fault Refusal :=
  s.ticked fun t => t.parityRetry ch.val ok

/-- R354: the temperature of a channel's stack, which may start an emergency retrain of it. -/
def execEmergencyRetrain (ch : Fin 256 × BitVec 8) (s : State) : Host.Outcome State Fault Refusal :=
  s.ticked fun t => t.stackTemperature ch.1.val ch.2.toNat

/-- R354: the retrain completes. -/
def execRetrainDone (ch : Fin 256) (s : State) : Host.Outcome State Fault Refusal :=
  s.ticked fun t => t.retrainDone ch.val

/-- R357: the channel is lost. -/
def execChannelLost (ch : Fin 256) (s : State) : Host.Outcome State Fault Refusal :=
  s.ticked fun t => t.channelLost ch.val

/-- R352: a write of HBM_ILV. -/
def execInterleaveReform (who : Requester) (val : Word) (s : State) : Host.Outcome State Fault Refusal :=
  s.answer (s.busWrite who.val (R.HBM_ILV) 4 val.toNat)

/-- R352: the interleave has been re-formed. -/
def execInterleaveReformDone (s : State) : Host.Outcome State Fault Refusal :=
  s.ticked fun t => t.ilvDone

/-- R363: a write of MGN_CTRL with START = 1. -/
def execMarginStart (who : Requester) (val : Word) (s : State) : Host.Outcome State Fault Refusal :=
  s.answer (s.busWrite who.val (R.MGN_CTRL) 4 (val.toNat ||| 1))

/-- R367: a write of MGN_CTRL with ABORT = 1. -/
def execMarginAbort (who : Requester) (s : State) : Host.Outcome State Fault Refusal :=
  s.answer (s.busWrite who.val (R.MGN_CTRL) 4 2)

/-- R363: the margining run ends with its counts. -/
def execMarginRunDone (ce ue : Word) (s : State) : Host.Outcome State Fault Refusal :=
  s.ticked fun t => t.marginDone ce.toNat ue.toNat

/-- R356: the soft repair ends. -/
def execSoftRepairDone (ch : Fin 256) (s : State) : Host.Outcome State Fault Refusal :=
  s.ticked fun t => t.softRepairDone ch.val

end Sys2Proof.Machine
end

