-- ==== Sys2Proof/Machine/NumericsRows.lean ====
section
/-! DEFINITION. Seeding, the generator journal, policy entries and histograms as commands (05_training_numerics.md). -/

namespace Sys2Proof.Machine

/-- R174: a write of NUM_SEED_HI starts seeding. -/
def execSeeding (who : Requester) (val : Word) (s : State) : Host.Outcome State Fault Refusal :=
  s.answer (s.busWrite who.val (R.NUM_SEED_HI) 4 val.toNat)

/-- R174: seeding ends. -/
def execSeedingDone (s : State) : Host.Outcome State Fault Refusal :=
  s.ticked fun t => t.seedingDone

/-- R591: a write of NUM_JCTRL with SAVE = 1. -/
def execJournalSave (who : Requester) (s : State) : Host.Outcome State Fault Refusal :=
  s.answer (s.busWrite who.val (R.NUM_JCTRL) 4 1)

/-- R177: a write of NUM_JCTRL with RESTORE = 1. -/
def execJournalRestore (who : Requester) (s : State) : Host.Outcome State Fault Refusal :=
  s.answer (s.busWrite who.val (R.NUM_JCTRL) 4 2)

/-- R178: the save or restore ends. -/
def execJournalOpDone (s : State) : Host.Outcome State Fault Refusal :=
  s.ticked fun t => t.journalOpDone

/-- R159: a write of NUM_POL_CTRL clears the history and the pending maximum of its entry. -/
def execPolicyWrite (who : Requester) (e : Fin 256) (val : Word) (s : State) : Host.Outcome State Fault Refusal :=
  s.answer (s.busWrite who.val (R.NUM_POL_CTRL e.val) 4 val.toNat)

/-- R166: a read of NUM_HBIN returns the saturating sum of the four copies and clears them. -/
def execHbinRead (who : Requester) (b : Fin 64) (s : State) : Host.Outcome State Fault Refusal :=
  s.answer (s.busReadOut who.val (R.NUM_HBIN b.val) 4)

end Sys2Proof.Machine
end

