-- ==== Sys2Proof/Machine/PowerRows.lean ====
section
/-! DEFINITION. Clocks and power as commands (14_clocks_and_power.md). -/

namespace Sys2Proof.Machine

/-- R462: a measurement window ends. -/
def execTrimWindow (count : Nat) (s : State) : Host.Outcome State Fault Refusal :=
  s.answer (s.trimWindow count)

/-- R462: the hob saves the trim word. -/
def execTrimSave (s : State) : Host.Outcome State Fault Refusal :=
  s.ticked fun t => t.trimSave

/-- R463: the reference is lost. -/
def execRefLost (s : State) : Host.Outcome State Fault Refusal :=
  s.answer (s.refLost)

/-- R465: a holdover has lasted CLK_HOLDLIM. -/
def execHoldLimit (s : State) : Host.Outcome State Fault Refusal :=
  s.answer (s.holdLimit)

/-- R466: the OSC_WAIT interval ends. -/
def execOscWaitEnd (present : Bool) (s : State) : Host.Outcome State Fault Refusal :=
  s.answer (s.oscWaitEnd present)

/-- R467: the root PLL locks. -/
def execPllLock (s : State) : Host.Outcome State Fault Refusal :=
  s.answer (s.pllLock)

/-- R468: the root PLL loses lock. -/
def execPllUnlock (s : State) : Host.Outcome State Fault Refusal :=
  s.answer (s.pllUnlock)

/-- R468: the root PLL relocks in time. -/
def execPllRelock (s : State) : Host.Outcome State Fault Refusal :=
  s.answer (s.pllRelock)

/-- R468: no relock in time. -/
def execPllRelockTimeout (s : State) : Host.Outcome State Fault Refusal :=
  s.answer (s.pllTimeout)

/-- R470: a monitor interval ends. -/
def execMonitorInterval (counts : List Nat) (s : State) : Host.Outcome State Fault Refusal :=
  s.ticked fun t => t.monitor counts

/-- R472: a regulator reports overvoltage, undervoltage or overcurrent. -/
def execRailFault (r : Fin 16) (ov uv oc : Bool) (s : State) : Host.Outcome State Fault Refusal :=
  s.answer (s.railFault r.val (ov || uv || oc))

/-- R474: a loop period ends. -/
def execVloopPeriod (q : Fin 4) (s : State) : Host.Outcome State Fault Refusal :=
  s.ticked fun t => t.vloop q.val

/-- R475 to R477: the comparison of every microsecond. -/
def execBudgetCompare (quads : List Nat) (input : Nat) (s : State) : Host.Outcome State Fault Refusal :=
  s.ticked fun t => t.budgetCompare quads input

/-- R478: the throttle interval ends. -/
def execThrottleStep (s : State) : Host.Outcome State Fault Refusal :=
  s.ticked fun t => t.throttleStep

/-- R479: the junction readings. -/
def execThermalSample (temps : List Int) (s : State) : Host.Outcome State Fault Refusal :=
  s.ticked fun t => t.thermalSample temps

/-- R485: PG rises. -/
def execPowerGoodRise (oscWait : Fin 8) (hobSel : Fin 4) (nvmMode : Fin 4) (fabMaster : Bool) (s : State) : Host.Outcome State Fault Refusal :=
  s.answer (s.pgRise oscWait.val hobSel.val nvmMode.val fabMaster)

/-- R576: PG falls. -/
def execPowerGoodFall (s : State) : Host.Outcome State Fault Refusal :=
  s.answer (s.pgFall)

/-- R472: the restoration attempt ends. -/
def execRailRestoreDone (ok : Bool) (s : State) : Host.Outcome State Fault Refusal :=
  s.answer (s.railRestored ok)

/-- R463: the reference returns. -/
def execReferenceReturn (mark : Bool) (s : State) : Host.Outcome State Fault Refusal :=
  s.answer (s.refReturn mark)

/-- R575: the standby rail comes up. -/
def execStandbyPowerUp (s : State) : Host.Outcome State Fault Refusal :=
  s.answer (s.standbyUp)

/-- R576: the standby rail is lost. -/
def execStandbyPowerLoss (s : State) : Host.Outcome State Fault Refusal :=
  s.answer (s.standbyLoss)

end Sys2Proof.Machine
end

