-- ==== Sys2Proof/Machine/RegisterRows.lean ====
section
/-! DEFINITION. The register bus as commands: a write, a read, and a read of the low half of a pair (17_register_interface_and_map.md R543 to R551). -/

namespace Sys2Proof.Machine

/-- R543, R546, R549: a write of `len` bytes; a 4-byte write carries the low half of the data. -/
def execRegisterWrite (who : Requester) (off : BitVec 26) (len : Nat) (val : DWord) (s : State) : Host.Outcome State Fault Refusal :=
  s.answer (s.busWrite who.val off.toNat len val.toNat)

/-- R543, R547: a read returns its data and clears the RC fields it read. -/
def execReadClear (who : Requester) (off : BitVec 26) (len : Nat) (s : State) : Host.Outcome State Fault Refusal :=
  s.answer (s.busReadOut who.val off.toNat len)

/-- R550: a read of the _LO word of a pair returns it and latches the high word for the requester. -/
def execPairLoRead (who : Requester) (off : BitVec 26) (s : State) : Host.Outcome State Fault Refusal :=
  s.answer (s.busReadOut who.val off.toNat 4)

end Sys2Proof.Machine
end

