-- ==== Sys2Proof/Machine/StepRows.lean ====
section
/-! DEFINITION. Steps, verdicts, checkpoints, resets of units and posted writes as commands (16_step_commit_replay_and_errors.md). -/

namespace Sys2Proof.Machine

/-- R519: the verdict is issued. -/
def execVerdictIssue (s : State) : Host.Outcome State Fault Refusal :=
  s.ticked fun t => t.verdictIssue

/-- R520: the verdict result arrives. -/
def execVerdictResult (s : State) : Host.Outcome State Fault Refusal :=
  s.ticked fun t => t.verdictResult

/-- R520: the verdict does not complete in time. -/
def execVerdictTimeout (s : State) : Host.Outcome State Fault Refusal :=
  s.ticked fun t => t.verdictTimeout

/-- R521: the step watchdog expires. -/
def execStepWatchdog (s : State) : Host.Outcome State Fault Refusal :=
  s.ticked fun t => t.stepWatchdog

/-- R524: the step closes. -/
def execStepClose (s : State) : Host.Outcome State Fault Refusal :=
  s.ticked fun t => t.stepClose

/-- R532: the drain to the far tier ends. -/
def execCheckpointDrainDone (s : State) : Host.Outcome State Fault Refusal :=
  s.ticked fun t => t.drainDone

/-- R526: the step is replayed. -/
def execReplay (s : State) : Host.Outcome State Fault Refusal :=
  s.ticked fun t => t.replayStep

/-- R533: the device restores the confirmed checkpoint. -/
def execRewind (s : State) : Host.Outcome State Fault Refusal :=
  s.ticked fun t => t.rewindStep

/-- R534: a write of ERR_RESET. -/
def execUnitReset (who : Requester) (val : Word) (s : State) : Host.Outcome State Fault Refusal :=
  s.answer (s.busWrite who.val (R.ERR_RESET) 4 val.toNat)

/-- R548: a write of ERR_CKCTRL. -/
def execCheckpointControlWrite (who : Requester) (val : Word) (s : State) : Host.Outcome State Fault Refusal :=
  s.answer (s.busWrite who.val (R.ERR_CKCTRL) 4 val.toNat)

/-- R437: a write of FFY_CTRL. -/
def execFfySnapshot (who : Requester) (val : Word) (s : State) : Host.Outcome State Fault Refusal :=
  s.answer (s.busWrite who.val (R.FFY_CTRL) 4 val.toNat)

/-- R548: the posted write of the PWR, ERR or FFY block is applied. -/
def execPostedWriteApplied (blk : BitVec 26) (s : State) : Host.Outcome State Fault Refusal :=
  s.answer (s.postedApplied blk.toNat)

end Sys2Proof.Machine
end

