-- ==== Sys2Proof/Machine/Dispatch.lean ====
section
/-! DEFINITION. Execution of a command: one arm per constructor of Instr. -/

namespace Sys2Proof.Machine

/-- The effect of a command on everything but the queue. -/
def exec (i : Instr) (s : State) : Host.Outcome State Fault Refusal :=
  match i with
  | .registerWrite who off len val => Sys2Proof.Machine.execRegisterWrite who off len val s
  | .readClear who off len => Sys2Proof.Machine.execReadClear who off len s
  | .pairLoRead who off => Sys2Proof.Machine.execPairLoRead who off s
  | .hearthQtailWrite who p val => Sys2Proof.Machine.execHearthQtailWrite who p val s
  | .hearthPrefetch p => Sys2Proof.Machine.execHearthPrefetch p s
  | .matmul p => Sys2Proof.Machine.execMatmul p s
  | .bubble p => Sys2Proof.Machine.execBubble p s
  | .hearthNop p => Sys2Proof.Machine.execHearthNop p s
  | .wave p slack => Sys2Proof.Machine.execWave p slack s
  | .paceMiss p => Sys2Proof.Machine.execPaceMiss p s
  | .tileDrain p => Sys2Proof.Machine.execTileDrain p s
  | .reDrain p => Sys2Proof.Machine.execReDrain p s
  | .reRun p => Sys2Proof.Machine.execReRun p s
  | .bubbleEnd p => Sys2Proof.Machine.execBubbleEnd p s
  | .holdBubble p => Sys2Proof.Machine.execHoldBubble p s
  | .holdBubbleEnd p => Sys2Proof.Machine.execHoldBubbleEnd p s
  | .borrowSubmit q => Sys2Proof.Machine.execBorrowSubmit q s
  | .hrtAbort who p tag => Sys2Proof.Machine.execHrtAbort who p tag s
  | .hearthQreset who p => Sys2Proof.Machine.execHearthQreset who p s
  | .paceMinRead who p => Sys2Proof.Machine.execPaceMinRead who p s
  | .sideRingReset who p => Sys2Proof.Machine.execSideRingReset who p s
  | .ptabLoad who p val => Sys2Proof.Machine.execPtabLoad who p val s
  | .ptabLoadDone p => Sys2Proof.Machine.execPtabLoadDone p s
  | .watchRecheck p => Sys2Proof.Machine.execWatchRecheck p s
  | .watchCompare p => Sys2Proof.Machine.execWatchCompare p s
  | .seeding who val => Sys2Proof.Machine.execSeeding who val s
  | .seedingDone => Sys2Proof.Machine.execSeedingDone s
  | .journalSave who => Sys2Proof.Machine.execJournalSave who s
  | .journalRestore who => Sys2Proof.Machine.execJournalRestore who s
  | .journalOpDone => Sys2Proof.Machine.execJournalOpDone s
  | .policyWrite who e val => Sys2Proof.Machine.execPolicyWrite who e val s
  | .hbinRead who b => Sys2Proof.Machine.execHbinRead who b s
  | .tapRecord p => Sys2Proof.Machine.execTapRecord p s
  | .matrixSampleStart q f => Sys2Proof.Machine.execMatrixSampleStart q f s
  | .rowAccumulate q f => Sys2Proof.Machine.execRowAccumulate q f s
  | .factorFold q f => Sys2Proof.Machine.execFactorFold q f s
  | .lambdaRequestSubmit q => Sys2Proof.Machine.execLambdaRequestSubmit q s
  | .lambdaRequest q => Sys2Proof.Machine.execLambdaRequest q s
  | .lambdaBudgetReached q => Sys2Proof.Machine.execLambdaBudgetReached q s
  | .rootPreparation q f => Sys2Proof.Machine.execRootPreparation q f s
  | .rootIteration q f => Sys2Proof.Machine.execRootIteration q f s
  | .rootHold q => Sys2Proof.Machine.execRootHold q s
  | .blwSqtailWrite who q val => Sys2Proof.Machine.execBlwSqtailWrite who q val s
  | .ortho q => Sys2Proof.Machine.execOrtho q s
  | .blwReload who q val => Sys2Proof.Machine.execBlwReload who q val s
  | .blwReloadDone q => Sys2Proof.Machine.execBlwReloadDone q s
  | .klnQtailWrite who q val => Sys2Proof.Machine.execKlnQtailWrite who q val s
  | .solve q => Sys2Proof.Machine.execSolve q s
  | .solveIteration q => Sys2Proof.Machine.execSolveIteration q s
  | .deadline q => Sys2Proof.Machine.execDeadline q s
  | .factor q => Sys2Proof.Machine.execFactor q s
  | .kilnNop q => Sys2Proof.Machine.execKilnNop q s
  | .klnAbort who q tag => Sys2Proof.Machine.execKlnAbort who q tag s
  | .kilnQreset who q => Sys2Proof.Machine.execKilnQreset who q s
  | .fbxQtailWrite who q val => Sys2Proof.Machine.execFbxQtailWrite who q val s
  | .norm q => Sys2Proof.Machine.execNorm q s
  | .fold q => Sys2Proof.Machine.execFold q s
  | .update q => Sys2Proof.Machine.execUpdate q s
  | .dwrite q => Sys2Proof.Machine.execDwrite q s
  | .fireboxNop q => Sys2Proof.Machine.execFireboxNop q s
  | .fbxAbort who q tag => Sys2Proof.Machine.execFbxAbort who q tag s
  | .fireboxQreset who q => Sys2Proof.Machine.execFireboxQreset who q s
  | .scalarInteger c => Sys2Proof.Machine.execScalarInteger c s
  | .scalarLoadStore c => Sys2Proof.Machine.execScalarLoadStore c s
  | .branch c => Sys2Proof.Machine.execBranch c s
  | .shortVectorArithmetic c => Sys2Proof.Machine.execShortVectorArithmetic c s
  | .shortVectorMemory c => Sys2Proof.Machine.execShortVectorMemory c s
  | .longVectorArithmetic c => Sys2Proof.Machine.execLongVectorArithmetic c s
  | .longVectorMemory c => Sys2Proof.Machine.execLongVectorMemory c s
  | .maskOperation c => Sys2Proof.Machine.execMaskOperation c s
  | .conversion c => Sys2Proof.Machine.execConversion c s
  | .hash c => Sys2Proof.Machine.execHash c s
  | .setvl c => Sys2Proof.Machine.execSetvl c s
  | .setwl c => Sys2Proof.Machine.execSetwl c s
  | .crd c => Sys2Proof.Machine.execCrd c s
  | .cwr c => Sys2Proof.Machine.execCwr c s
  | .trap c => Sys2Proof.Machine.execTrap c s
  | .tret c => Sys2Proof.Machine.execTret c s
  | .fence c => Sys2Proof.Machine.execFence c s
  | .syncw c => Sys2Proof.Machine.execSyncw c s
  | .syncwDone c => Sys2Proof.Machine.execSyncwDone c s
  | .iflush c => Sys2Proof.Machine.execIflush c s
  | .spk c => Sys2Proof.Machine.execSpk c s
  | .wait c => Sys2Proof.Machine.execWait c s
  | .waitt c => Sys2Proof.Machine.execWaitt c s
  | .senter c => Sys2Proof.Machine.execSenter c s
  | .halt c => Sys2Proof.Machine.execHalt c s
  | .cricketRun who c => Sys2Proof.Machine.execCricketRun who c s
  | .cricketHalt who c => Sys2Proof.Machine.execCricketHalt who c s
  | .creset who c => Sys2Proof.Machine.execCreset who c s
  | .mailboxWrite who c val => Sys2Proof.Machine.execMailboxWrite who c val s
  | .weevilRead hbm idx => Sys2Proof.Machine.execWeevilRead hbm idx s
  | .pairRetire who val => Sys2Proof.Machine.execPairRetire who val s
  | .pairRetireDone => Sys2Proof.Machine.execPairRetireDone s
  | .parityRetry ch ok => Sys2Proof.Machine.execParityRetry ch ok s
  | .emergencyRetrain ch => Sys2Proof.Machine.execEmergencyRetrain ch s
  | .retrainDone ch => Sys2Proof.Machine.execRetrainDone ch s
  | .channelLost ch => Sys2Proof.Machine.execChannelLost ch s
  | .interleaveReform who val => Sys2Proof.Machine.execInterleaveReform who val s
  | .interleaveReformDone => Sys2Proof.Machine.execInterleaveReformDone s
  | .marginStart who val => Sys2Proof.Machine.execMarginStart who val s
  | .marginAbort who => Sys2Proof.Machine.execMarginAbort who s
  | .marginRunDone ce ue => Sys2Proof.Machine.execMarginRunDone ce ue s
  | .portModeWrite who p val => Sys2Proof.Machine.execPortModeWrite who p val s
  | .portRetrainRequest who p val => Sys2Proof.Machine.execPortRetrainRequest who p val s
  | .portTrainingDone p lanes rtt hop => Sys2Proof.Machine.execPortTrainingDone p lanes rtt hop s
  | .portTrainingTimeout p => Sys2Proof.Machine.execPortTrainingTimeout p s
  | .laneLost p l => Sys2Proof.Machine.execLaneLost p l s
  | .laneRetire p l => Sys2Proof.Machine.execLaneRetire p l s
  | .codewordUncorrectable p seqs => Sys2Proof.Machine.execCodewordUncorrectable p seqs s
  | .nak p seq => Sys2Proof.Machine.execNak p seq s
  | .portDeadTimeout p => Sys2Proof.Machine.execPortDeadTimeout p s
  | .packetArrival p seq pkt errs => Sys2Proof.Machine.execPacketArrival p seq pkt errs s
  | .holdLimitExpiry p => Sys2Proof.Machine.execHoldLimitExpiry p s
  | .dataReceive => Sys2Proof.Machine.execDataReceive s
  | .sparkReceive => Sys2Proof.Machine.execSparkReceive s
  | .streamAck => Sys2Proof.Machine.execStreamAck s
  | .treeAck => Sys2Proof.Machine.execTreeAck s
  | .mcastReceive => Sys2Proof.Machine.execMcastReceive s
  | .blockCombine q => Sys2Proof.Machine.execBlockCombine q s
  | .send q => Sys2Proof.Machine.execSend q s
  | .fluSqtailWrite who q val => Sys2Proof.Machine.execFluSqtailWrite who q val s
  | .frameMark => Sys2Proof.Machine.execFrameMark s
  | .frameMarkReceive p frame => Sys2Proof.Machine.execFrameMarkReceive p frame s
  | .tableCommit who val => Sys2Proof.Machine.execTableCommit who val s
  | .tableCommitDone => Sys2Proof.Machine.execTableCommitDone s
  | .plannedSwitchRequest who val => Sys2Proof.Machine.execPlannedSwitchRequest who val s
  | .epochSwitch => Sys2Proof.Machine.execEpochSwitch s
  | .emergencyNotice who val => Sys2Proof.Machine.execEmergencyNotice who val s
  | .noticeReceive p pkt => Sys2Proof.Machine.execNoticeReceive p pkt s
  | .emergencySwitch => Sys2Proof.Machine.execEmergencySwitch s
  | .fenceWrite who val => Sys2Proof.Machine.execFenceWrite who val s
  | .cartridgeInsert p record => Sys2Proof.Machine.execCartridgeInsert p record s
  | .cartridgeRemove p => Sys2Proof.Machine.execCartridgeRemove p s
  | .cartridgeOverpower p => Sys2Proof.Machine.execCartridgeOverpower p s
  | .cartridgeMonitor readings => Sys2Proof.Machine.execCartridgeMonitor readings s
  | .cartridgeHours => Sys2Proof.Machine.execCartridgeHours s
  | .colQtailWrite who q val => Sys2Proof.Machine.execColQtailWrite who q val s
  | .allreduce q => Sys2Proof.Machine.execAllreduce q s
  | .reduce q => Sys2Proof.Machine.execReduce q s
  | .collectiveNorm q => Sys2Proof.Machine.execCollectiveNorm q s
  | .collectiveNop q => Sys2Proof.Machine.execCollectiveNop q s
  | .colAbort who q tag => Sys2Proof.Machine.execColAbort who q tag s
  | .collectiveQreset who q => Sys2Proof.Machine.execCollectiveQreset who q s
  | .barrierSignal b qid => Sys2Proof.Machine.execBarrierSignal b qid s
  | .waitTakeRelease b => Sys2Proof.Machine.execWaitTakeRelease b s
  | .barrierSubtract who b val => Sys2Proof.Machine.execBarrierSubtract who b val s
  | .synSignal who val => Sys2Proof.Machine.execSynSignal who val s
  | .barrierCountWrite who b val => Sys2Proof.Machine.execBarrierCountWrite who b val s
  | .powerLend qid => Sys2Proof.Machine.execPowerLend qid s
  | .trimWindow count => Sys2Proof.Machine.execTrimWindow count s
  | .trimSave => Sys2Proof.Machine.execTrimSave s
  | .refLost => Sys2Proof.Machine.execRefLost s
  | .holdLimit => Sys2Proof.Machine.execHoldLimit s
  | .oscWaitEnd present => Sys2Proof.Machine.execOscWaitEnd present s
  | .pllLock => Sys2Proof.Machine.execPllLock s
  | .pllUnlock => Sys2Proof.Machine.execPllUnlock s
  | .pllRelock => Sys2Proof.Machine.execPllRelock s
  | .pllRelockTimeout => Sys2Proof.Machine.execPllRelockTimeout s
  | .monitorInterval counts => Sys2Proof.Machine.execMonitorInterval counts s
  | .railFault r ov uv oc => Sys2Proof.Machine.execRailFault r ov uv oc s
  | .vloopPeriod q => Sys2Proof.Machine.execVloopPeriod q s
  | .budgetCompare quads input => Sys2Proof.Machine.execBudgetCompare quads input s
  | .throttleStep => Sys2Proof.Machine.execThrottleStep s
  | .thermalSample temps => Sys2Proof.Machine.execThermalSample temps s
  | .powerGoodRise oscWait hobSel nvmMode fabMaster => Sys2Proof.Machine.execPowerGoodRise oscWait hobSel nvmMode fabMaster s
  | .powerGoodFall => Sys2Proof.Machine.execPowerGoodFall s
  | .stageRom ok seed => Sys2Proof.Machine.execStageRom ok seed s
  | .stageImage => Sys2Proof.Machine.execStageImage s
  | .stageRestore => Sys2Proof.Machine.execStageRestore s
  | .stageCalib portsUp channelsUp slicesOk gib => Sys2Proof.Machine.execStageCalib portsUp channelsUp slicesOk gib s
  | .stageInit => Sys2Proof.Machine.execStageInit s
  | .ready => Sys2Proof.Machine.execReady s
  | .heartbeat q => Sys2Proof.Machine.execHeartbeat q s
  | .tokenPass => Sys2Proof.Machine.execTokenPass s
  | .hostPagePoll => Sys2Proof.Machine.execHostPagePoll s
  | .load => Sys2Proof.Machine.execLoad s
  | .loadComplete => Sys2Proof.Machine.execLoadComplete s
  | .loadTimeout => Sys2Proof.Machine.execLoadTimeout s
  | .unload => Sys2Proof.Machine.execUnload s
  | .attest => Sys2Proof.Machine.execAttest s
  | .challenge nonce => Sys2Proof.Machine.execChallenge nonce s
  | .submit => Sys2Proof.Machine.execSubmit s
  | .close => Sys2Proof.Machine.execClose s
  | .config => Sys2Proof.Machine.execConfig s
  | .retainWrite => Sys2Proof.Machine.execRetainWrite s
  | .standbyBusRead reg => Sys2Proof.Machine.execStandbyBusRead reg s
  | .verdictIssue => Sys2Proof.Machine.execVerdictIssue s
  | .verdictResult => Sys2Proof.Machine.execVerdictResult s
  | .verdictTimeout => Sys2Proof.Machine.execVerdictTimeout s
  | .stepWatchdog => Sys2Proof.Machine.execStepWatchdog s
  | .stepClose => Sys2Proof.Machine.execStepClose s
  | .checkpointDrainDone => Sys2Proof.Machine.execCheckpointDrainDone s
  | .replay => Sys2Proof.Machine.execReplay s
  | .rewind => Sys2Proof.Machine.execRewind s
  | .unitReset who val => Sys2Proof.Machine.execUnitReset who val s
  | .checkpointControlWrite who val => Sys2Proof.Machine.execCheckpointControlWrite who val s
  | .ffySnapshot who val => Sys2Proof.Machine.execFfySnapshot who val s
  | .hostWindowWrite off bytes => Sys2Proof.Machine.execHostWindowWrite off bytes s
  | .hostReset who val => Sys2Proof.Machine.execHostReset who val s
  | .sysRstN lowNs => Sys2Proof.Machine.execSysRstN lowNs s
  | .perstN flr => Sys2Proof.Machine.execPerstN flr s
  | .pcieLinkUp gen width => Sys2Proof.Machine.execPcieLinkUp gen width s
  | .cxlHotAdd k gib => Sys2Proof.Machine.execCxlHotAdd k gib s
  | .cxlLinkDown k => Sys2Proof.Machine.execCxlLinkDown k s
  | .pcieLinkDown => Sys2Proof.Machine.execPcieLinkDown s
  | .cxlHotRemove k => Sys2Proof.Machine.execCxlHotRemove k s
  | .railRestoreDone ok => Sys2Proof.Machine.execRailRestoreDone ok s
  | .postedWriteApplied blk => Sys2Proof.Machine.execPostedWriteApplied blk s
  | .referenceReturn mark => Sys2Proof.Machine.execReferenceReturn mark s
  | .softRepairDone ch => Sys2Proof.Machine.execSoftRepairDone ch s
  | .standbyPowerUp => Sys2Proof.Machine.execStandbyPowerUp s
  | .standbyPowerLoss => Sys2Proof.Machine.execStandbyPowerLoss s

end Sys2Proof.Machine
end

