-- ==== Sys2Proof/Machine/Idle.lean ====
section
/-! DEFINITION. What the block does in an engine cycle without a command: the cycle count moves on, withheld waves and held
packets have their cycle, and while counting runs every idle unit counts under one cause (04 R146; 11 R376;
12_collectives_and_job_mapping.md R434, R435, R437; log 3). -/

namespace Sys2Proof.Machine

/-- R478: whether the throttle withholds issue in this cycle. -/
def State.withheld (s : State) : Bool := decide ([8, 7, 6, 4, 2].getD (s.get F.PWR_STATUS_THROT) 2 ≤ s.cycle % 8)
/-- R478: the power cause of a unit that has work in a withheld cycle. -/
def State.throttled (s : State) (busy : Bool) : List Nat := if busy && s.withheld then [3] else []
/-- R476: the power cause of a unit that issues at half rate while its lent budget returns. -/
def State.returning (s : State) (qid : Nat) : List Nat := if s.syn.recalled.contains qid && s.cycle % 2 == 1 then [3] else []
/-- R354, R356: a channel of the interleave holds its accesses. -/
def State.channelHeld (s : State) : Bool := s.live.any fun c => s.get (F.HBM_C_STATE_STATE c) == 1 || s.get (F.HBM_C_STATE_STATE c) == 2
/-- R376: whether a packet waits for a credit on a live port. -/
def State.packetHeld (s : State) : Bool := (List.range 12).any fun p => s.portLive p && !(s.port p).held.isEmpty
/-- R390: the repair cause of a unit whose next command waits for a planned switch. -/
def State.switchWait (s : State) (Q : QI) : List Nat := if s.switchHold && (s.readyHead Q).isSome then [4] else []
/-- R421: a tree node of engine q holds 16 unacknowledged chunks. -/
def State.windowFull (s : State) (q : Nat) : Bool := (s.colOf q).nodes.any fun (n : Nat × TNode) => decide (n.2.acked + 16 ≤ n.2.next / 256)

/-- A unit as the idle counters see it: its class (R437), its queue identifier, whether it has a command in progress, and
causes of its own for this cycle. -/
structure IdleUnit where
  cls : Nat
  qid : Option Nat
  busy : Bool
  causes : List Nat

/-- Hearth p: R101 and R198 an empty hold bubble, R146 a tap stall. -/
def State.idleHearth (s : State) (p : Nat) : IdleUnit :=
  let h := s.hearth p
  { cls := 0, qid := s.hearthQid p, busy := h.run.isSome
    causes := s.throttled h.run.isSome ++ (if h.bubble = 2 ∧ h.run.isNone then [5] else []) ++ if h.tapStalled then [6] else [] }
/-- Collective engine q: an operation in progress waits for data, or for an acknowledgement (R421, R434). -/
def State.idleEngine (s : State) (q : Nat) : IdleUnit :=
  let run := (s.colOf q).run.isSome
  { cls := 3, qid := some (qidCollective q), busy := run
    causes := s.throttled run ++ (if run ∨ s.windowFull q then [1] else []) ++ s.switchWait (colQ q) ++ if run ∧ s.packetHeld then [6] else [] }
/-- Injector q: a stream that it has open waits for its acknowledgements (R384, R434). -/
def State.idleInjector (s : State) (q : Nat) : IdleUnit :=
  let run := !(s.inj q).opened.isEmpty
  { cls := 6, qid := some (qidInjector q), busy := run
    causes := (if run then [1] else []) ++ s.switchWait (injQ q) ++ if run ∧ s.packetHeld then [6] else [] }
/-- Every unit, by class of the FFY block (R434, R437). A hearth in a BUBBLE is not idle (R99). -/
def State.idleUnits (s : State) : List IdleUnit :=
  let four := List.range 4
  ((List.range 136).filter fun p => (s.hearth p).bubble != 1).map s.idleHearth ++
  four.map (fun q => ⟨1, some (qidKiln q), (s.kilnBusy q).isSome, s.throttled (s.kilnBusy q).isSome⟩) ++
  four.map (fun q => ⟨2, some (qidFirebox q), (s.inHand (fireboxQ q)).isSome, s.throttled (s.inHand (fireboxQ q)).isSome⟩) ++
  four.map s.idleEngine ++
  four.map (fun q => ⟨4, some (qidBellows q), (s.queue (svcQ q)).started, []⟩) ++
  (List.range 68).map (fun c => ⟨5, some (s.crkQid c), !(s.cricket c).halted, []⟩) ++
  four.map s.idleInjector

/-- R435: an idle cycle of queue `k` in a wait: it counts when the wait ends, under the cause of the wait or a higher one that
held in the cycle. -/
def State.waitCycle (s : State) (k : Nat) (causes : List Nat) : State :=
  let key := (firstCause causes).getD 8
  let upd (w : Waiter) : Waiter := if w.qid = k then { w with idle := w.idle.write 0 key (w.idle.look 0 key + 1) } else w
  { s with syn := { s.syn with waiters := s.syn.waiters.map upd } }
/-- R434, R435: one cycle of a unit: a wait, or an idle cycle under one cause, by which its command is delayed. -/
def State.unitCycle (s : State) (u : IdleUnit) (causes : List Nat) : State :=
  match u.qid with
  | some k =>
    if s.stalled k then s.waitCycle k causes
    else match firstCause causes with
      | some c => (s.countFfy u.cls c 1).noteDelay k c
      | none => s
  | none => match firstCause causes with
    | some c => s.countFfy u.cls c 1
    | none => s
/-- R475: a unit with work in a quadrant over its grant, of a class that a throttle acts on (R478). -/
def State.overGrant (s : State) (u : IdleUnit) : Bool :=
  u.busy && decide (u.cls < 4) && match u.qid.bind s.lendOf with
    | some (q, _) => s.pwr.overs.contains q
    | none => false
/-- R434: every unit's cycle. R475: which cycles a quadrant over its grant withholds is free (log 6). R348: while a pair is copied during a job, units without work wait for the repair; R354: whether a unit with
work waits on a channel that holds its accesses is free (log 6). -/
def State.countIdle (s : State) : State :=
  let (bs, s1) := if s.channelHeld || !s.pwr.overs.isEmpty then s.freshBytes 56 else ([], s)
  let repair (u : IdleUnit) (i : Nat) : List Nat := if (s.on F.CMB_STATUS_RETIRING && s.jobEn && !u.busy) || (u.busy && s.channelHeld && (leNat bs).testBit i) then [4] else []
  let quota (u : IdleUnit) (i : Nat) : List Nat := if s.overGrant u && (leNat bs).testBit (224 + i) then [3] else []
  s1.each s.idleUnits.zipIdx fun t (u : IdleUnit × Nat) =>
    t.unitCycle u.1 (u.1.causes ++ repair u.1 u.2 ++ quota u.1 u.2 ++ match u.1.qid with
      | some k => if u.1.busy then s.returning k else []
      | none => [])
/-- R146: a cycle in which the dampers withhold waves. -/
def State.tapCycle (s : State) : State := s.each ((List.range 136).filter fun p => (s.hearth p).tapStalled) State.tapStall
/-- R376: packets of the output queues leave as credits come back. -/
def State.linkCycle (s : State) : State := s.each ((List.range 12).filter fun p => !(s.port p).held.isEmpty) State.flushPort
/-- One engine cycle without a command. -/
def State.idle (s : State) : State :=
  let s1 := if s.clocked then s.tapCycle.linkCycle else s
  let s2 := if s1.clocked && s1.on F.FFY_CTRL_EN then s1.countIdle else s1
  { { s2 with cycle := s.cycle + 1 }.settle with pending := s.pending }

end Sys2Proof.Machine
end

