-- ==== Sys2Proof/Safety.lean ====
section
/-! DEFINITION. What statements about runs of the block are made of: what a command gives, what two states share, and the
condition that interrupt lines are up to date. -/

namespace Sys2Proof.Machine

/-- Two states agree in everything but the interrupt block's own fields and the queue of commands. -/
def Agree (t u : State) : Prop := { t with irq := u.irq, pending := u.pending } = u
/-- Command i at state s answers a next state that agrees with u. -/
def Gives (i : Instr) (s u : State) : Prop := ∃ t, exec i s = .next t ∧ Agree t u
/-- R561, R562: the recorded causes and ALERT_N are those of the present registers. -/
def IrqCurrent (s : State) : Prop := s.irq.active = causeWord s.causes ∧ s.irq.alertN = s.alertHigh
/-- Every register but those at the listed offsets reads as before. -/
def RegsBut (offs : List Nat) (s t : State) : Prop := ∀ o, o ∉ offs → t.reg o = s.reg o
/-- Every byte of memory, and every error pattern, is as before. -/
def SameMemory (s t : State) : Prop := ∀ k, t.byteAt k = s.byteAt k ∧ t.errAt k = s.errAt k
/-- A write of the register at this offset makes no unit act, whatever the state: it only stores. -/
def Inert (off : Nat) : Prop :=
  (∀ (s : State) (who v : Nat), s.actHearth off v = none ∧ s.actQuad off v = none ∧ s.actCore off v = none ∧ s.actFlue off v = none ∧
    s.actSyn off v = none ∧ s.actSys who off v = none ∧ s.baseQueue off = none) ∧ ¬ (0xE00100 ≤ off ∧ off < 0xE00500) ∧
    off ∉ [R.MGN_TARGET, R.MGN_ADDR_HI, R.MGN_LEN]
/-- A read of the register at this offset clears no more than the RC bits of its table (R547). -/
def ClearsPlainly (who off : Nat) : Prop :=
  ¬ (0x1500400 ≤ off ∧ off < 0x1500500) ∧ ¬ (0x800000 ≤ off ∧ off < 0x888000 ∧ off % 0x1000 = 0x28) ∧
    ¬ (0xD00000 ≤ off ∧ off < 0xD48000 ∧ off % 0x1000 = 0x34 ∧ (off - 0xD00000) / 0x1000 = who)
/-- A requester has read the low word of the pair at an offset: it has the word, and its read shadow holds the high word (R550). -/
def State.latched (s : State) (who off lo hi : Nat) : State :=
  { s with bus := { s.bus with shadow := s.bus.shadow.write none who (some (off, hi)), rdata := s.bus.rdata.write 0 who lo } }
/-- Registers of the ERR, CMB, HBM and CXL blocks. -/
def memReg (o : Nat) : Bool := o / 0x100000 == 0x05 || o / 0x100000 == 0x0E || o / 0x100000 == 0x10 || o / 0x100000 == 0x12
/-- The head of hearth p is a command with this opcode, copied whole, and the hearth is free to start it: clocked, enabled, with no command or
bubble in progress, its start barrier released (R95 to R98, R588). -/
def State.hearthHead (s : State) (p op : Nat) (c : QCmd) : Prop :=
  s.clocked = true ∧ (s.hearth p).run = none ∧ (s.hearth p).bubble = 0 ∧ (hearthQ s p 1).en s = true ∧ s.readyHead (hearthQ s p 1) = some c ∧ c.op = op
/-- The instructions of a cricket as commands: the command, the words of its group, and what such a word does (R294, R295). -/
def crkGroups (c : Fin 72) : List (Instr × (Nat → Bool) × (Nat → State → CRes)) :=
  [(.scalarInteger c, ofClass 0 1, scalarIntegerOf c.val), (.scalarLoadStore c, ofClass 2 2, scalarMemoryOf c.val), (.branch c, ofClass 3 3, branchOf c.val),
   (.shortVectorArithmetic c, ofClass 5 5, vectorOf false c.val), (.shortVectorMemory c, ofClass 6 6, vectorMemoryOf false c.val),
   (.longVectorArithmetic c, ofClass 7 7, vectorOf true c.val), (.longVectorMemory c, ofClass 8 8, vectorMemoryOf true c.val),
   (.maskOperation c, ofClass 9 9, maskOf c.val), (.conversion c, ofClass 10 10, conversionOf c.val), (.hash c, ofClass 11 11, hashOf c.val),
   (.setvl c, isSet false, setLenOf c.val), (.setwl c, isSet true, setLenOf c.val), (.crd c, ofSystem 0, crdOf c.val), (.cwr c, ofSystem 1, cwrOf c.val),
   (.trap c, ofSystem 2, fun w _ => trapOf w), (.tret c, ofSystem 3, tretOf c.val), (.fence c, ofSystem 4, fenceOf c.val), (.syncw c, ofSystem 5, syncwOf c.val),
   (.iflush c, ofSystem 6, iflushOf c.val), (.spk c, ofSystem 7, spkOf c.val), (.wait c, ofSystem 8, waitOf false c.val), (.waitt c, ofSystem 9, waitOf true c.val),
   (.senter c, ofSystem 10, senterOf c.val), (.halt c, ofSystem 11, haltOf c.val)]
/-- Cricket c, with no wait to end and nothing that holds it, fetches the word w of a group that the instruction set has; t is the state after
the fetch. -/
def State.crkFetches (s : State) (c w : Nat) (t : State) : Prop :=
  s.crkReleased c = false ∧ s.crkGo c = true ∧ s.crkFetch c = .word w t ∧ reservedWord w = false
/-- The end of an instruction that had its effect: the next one is at `next`. -/
def State.crkWent (u : State) (c : Nat) (next : DWord) : State := (u.modCrk c fun k => { k with pc := next }).crkStepped c

/-- R228, R247: what the solve z of kiln q works on can be read: k, with the state u after the reads. -/
def State.solveReads (s : State) (q : Nat) (z : Solve) (k : KSet) (u : State) : Prop :=
  ∃ (h : Rd) (m : KRd) (cx : CtxRd) (pr : KPrec) (v : State) (cert : Rd),
    h = s.read (slMatrix z.cmd.bytes) 64 ∧ h.bad = none ∧ m = h.st.readBcsr h.bytes ∧ m.bad = none ∧ m.mat = some k.a ∧
    cx = m.st.ctxRead q z.ctxBase (slCtx z.cmd.bytes) ∧ cx.bad = none ∧ k.st = z.ctx k.a cx.inc ∧
    pr = cx.st.readPrec k.a z.prec k.st ∧ pr.bad = none ∧ k.f = pr.f ∧ k.dg = pr.dg ∧ pr.st.readB z.cmd.bytes k.a.n = (k.b, none, v) ∧
    cert = (if z.fixed then v.read (slCert z.cmd.bytes) (16 + 8 * (slCap z.cmd.bytes + 1)) else ⟨[], none, v⟩) ∧ cert.bad = none ∧
    k.cert = cert.bytes ∧ u = cert.st
/-- R121, R248, R279, R455 to R458: command i, an abort of queue Q by tag. Nothing while the result before is unread. Else, where the command that ended last
did not carry the tag: the command in progress that carries it is stopped, with result ABORTED; a queued one, the first that carries it, is marked, and its
wait withdrawn where it is the head; and where no command carries it the result is NOT_FOUND. -/
def AbortRuns (i : Instr) (s : State) (Q : QI) (tag : Nat) (stop : State → QCmd → State) : Prop :=
  (s.get Q.res ≠ 0 → Gives i s s) ∧
  (s.get Q.res = 0 → (s.queue Q).last ≠ some tag →
    (∀ c, s.startedHead Q = some c → c.tag = tag →
      ∃ t, exec i s = .next t ∧ Agree t ((stop s c).abortResult Q 1 tag) ∧ t.get Q.res = 1 ∧ t.on Q.evAborted = true) ∧
    (∀ (n : Nat) (c : QCmd), (s.queue Q).cmds[n]? = some c → c.tag = tag → c.aborted = false → (∀ m < n, ∀ y, (s.queue Q).cmds[m]? = some y → y.tag ≠ tag) →
      (n = 0 → (s.queue Q).started = false) → (n ≤ 1 → (s.queue Q).ahead = false) →
      let u := s.modQueue Q fun k => { k with cmds := k.cmds.set n { c with aborted := true } }
      let v := match Q.qid with
        | some k => if n = 0 then u.withdraw k else u
        | none => u
      Gives i s ((v.abortResult Q 1 tag).advance Q)) ∧
    ((∀ c ∈ (s.queue Q).cmds, c.tag ≠ tag) → s.waitingSlots Q = [] → Gives i s ((s.set Q.res 3).raise Q.evAborted)))

/-- R146, R376: no wave is withheld for the taps and no packet waits for a credit. -/
def State.Quiet (s : State) : Prop := (∀ p, p < 136 → (s.hearth p).tapStalled = false) ∧ ∀ p, p < 12 → (s.port p).held = []

end Sys2Proof.Machine
end

