-- ==== Sys2Proof/Certificates/Slice0/Obligations.lean ====
section
/-! DEFINITION. The statements for the provers. `Gives i s u` says that command i answers a next state from s, and that this
state is u but for the interrupt block's own fields and the queue of commands, so what u leaves as it was is the frame. -/

open Sys2Proof Sys2Proof.Machine

/-! ## The machine as a whole -/

/-- A step with a command at the front of the queue is exec of that command on the state with the queue's rest. -/
def Obligations.StepRunsFront : Prop :=
  ∀ (c : Instr) (rest : List Instr) (s : State), s.pending = c :: rest → step s = exec c { s with pending := rest }

/-- A step on an empty queue is one engine cycle without a command: the cycle count moves on and, while the idle counters do
not run and nothing is withheld for taps or credits, nothing else but interrupt lines changes (the model's choice, log 3). -/
def Obligations.EmptyQueueIdles : Prop :=
  ∀ s : State, s.pending = [] → ∃ t, step s = .next t ∧ t.pending = [] ∧ t.cycle = s.cycle + 1 ∧
    ((s.clocked = false ∨ s.Quiet) → t.regs = s.regs ∧ t.mem = s.mem ∧
      ((s.clocked = false ∨ s.on F.FFY_CTRL_EN = false) → Agree t { s with cycle := s.cycle + 1 }))

/-- Every command answers a next state: no command of the block faults or is refused; and it leaves the queue of waiting
commands to the step. -/
def Obligations.EveryCommandAnswers : Prop :=
  ∀ (c : Instr) (s : State), ∃ t, exec c s = .next t ∧ t.pending = s.pending

/-- R561, R562: after every step, whatever the state before it was, the recorded causes are those that hold, and ALERT_N is
high exactly when no unmasked cause holds. -/
def Obligations.StepKeepsIrqCurrent : Prop :=
  ∀ s t : State, IrqCurrent s → step s = .next t → IrqCurrent t

/-- Steps serve the queue first in, first out: k commands run by k steps, in order, and each leaves the rest waiting. -/
def Obligations.QueueIsFifo : Prop :=
  ∀ (cs rest : List Instr) (s : State), s.pending = cs ++ rest →
    ∃ t, core.run cs.length s = .next t ∧ t.pending = rest ∧ (cs ≠ [] → IrqCurrent t)

/-- The state right after reset: interrupt lines are up to date, memory has its canonical form, no command waits, and
registers read the reset values that their tables give (R123, R147, R249, R322, R482, R537, R540, R566). -/
def Obligations.ResetState : Prop :=
  IrqCurrent State.reset ∧ Memory.wf State.reset.mem = true ∧ State.reset.pending = [] ∧ State.reset.irq.alertN = true ∧
  (∀ p : Fin 136, State.reset.get (F.HRT_PACE_MIN p.val) = 0xFF ∧ State.reset.get (F.HRT_PACE_GUARD_GUARD p.val) = 16) ∧
  (∀ c : Fin 72, (State.reset.reg (R.CRK_STATUS c.val)).toNat = if c.val < 68 then 5 else 8) ∧
  State.reset.get F.PWR_LIMIT_W = 3000 ∧ State.reset.get F.PWR_PEAK_W = 3400 ∧ State.reset.get F.PWR_EXCMAX_US = 10000 ∧
  State.reset.get F.CMB_CETHR_COUNT = 3 ∧ State.reset.get F.ERR_LIMITS_REPLAYMAX = 3 ∧ State.reset.get F.CXL_IMASK_MASK = 0xFFFF7

/-! ## The register bus (17_register_interface_and_map.md) -/

/-- R546: a 4-byte write of a register that makes no unit act, is no half of a pair and is not posted: each writable bit
takes the bit written, every other bit of the register stays, and nothing else changes (but the note of R504 that a Loaded
field was changed). -/
def Obligations.RegisterWriteStores : Prop :=
  ∀ (who : Requester) (off : BitVec 26) (val : DWord) (r : RegRow) (s : State), s.busOn = true → off.toNat % 4 = 0 →
    regRow? off.toNat = some r → (secureOnly r off.toNat = false ∨ s.isSecure who.val = true) → r.half = 0 → r.posted = false →
    Inert off.toNat →
    ∃ w : Word, (∀ i < 32, w.getLsbD i = if r.wr.testBit i && r.named.testBit i then val.getLsbD i else (s.reg off.toNat).getLsbD i) ∧
      Gives (.registerWrite who off 4 val) s ((s.setReg off.toNat w).noteChange off.toNat)

/-- R543: an access of another width or off its alignment does nothing but set BADACCESS and latch the offset in GEN_LASTBAD;
a read of that kind returns zero. -/
def Obligations.BadAccessIsRefused : Prop :=
  ∀ (who : Requester) (off : BitVec 26) (len : Nat) (val : DWord) (s : State), s.busOn = true →
    ¬ (off.toNat % 4 = 0 ∧ (len = 4 ∨ len = 8)) →
    let u := (s.raise F.GEN_EVENT_BADACCESS).setReg R.GEN_LASTBAD (BitVec.ofNat 32 (off.toNat + 2 ^ 31))
    Gives (.registerWrite who off len val) s u ∧
      Gives (.readClear who off len) s { u with bus := { u.bus with rdata := u.bus.rdata.write 0 who.val 0 } }

/-- R549: a write or read of a secure-only register by a requester that is not secure does nothing but count in GEN_DENIED
and set DENIED; the read returns zero. -/
def Obligations.DeniedAccess : Prop :=
  ∀ (who : Requester) (off : BitVec 26) (val : DWord) (r : RegRow) (s : State), s.busOn = true → off.toNat % 4 = 0 →
    regRow? off.toNat = some r → secureOnly r off.toNat = true → s.isSecure who.val = false →
    let u := (s.count F.GEN_DENIED_VALUE 1).raise F.GEN_EVENT_DENIED
    Gives (.registerWrite who off 4 val) s u ∧
      Gives (.readClear who off 4) s { u with bus := { u.bus with rdata := u.bus.rdata.write 0 who.val 0 } }

/-- R547: a read of a register that is no half of a pair returns the value shown and clears its RC bits; nothing else changes. -/
def Obligations.ReadClears : Prop :=
  ∀ (who : Requester) (off : BitVec 26) (r : RegRow) (s : State), s.busOn = true → off.toNat % 4 = 0 →
    regRow? off.toNat = some r → (secureOnly r off.toNat = false ∨ s.isSecure who.val = true) → r.half = 0 →
    ClearsPlainly who.val off.toNat →
    let v := s.shown r who.val off.toNat
    let u := if r.rc = 0 then s else s.setReg off.toNat (s.reg off.toNat &&& ~~~(BitVec.ofNat 32 r.rc))
    Gives (.readClear who off 4) s { u with bus := { u.bus with rdata := u.bus.rdata.write 0 who.val v } }

/-- R550: a read of the _LO word of a pair returns it and latches the _HI word of the same moment for the requester; a read
of the _HI word that follows returns the latched word, whatever has happened to the counter in between. -/
def Obligations.PairReadIsOneMoment : Prop :=
  ∀ (who : Requester) (off offHi : BitVec 26) (r h : RegRow) (s : State), s.busOn = true → off.toNat % 4 = 0 → offHi.toNat = off.toNat + 4 →
    regRow? off.toNat = some r → regRow? (off.toNat + 4) = some h → r.half = 1 → h.half = 2 → r.rc = 0 → h.rc = 0 →
    (secureOnly r off.toNat = false ∨ s.isSecure who.val = true) → ClearsPlainly who.val off.toNat → ClearsPlainly who.val (off.toNat + 4) →
    (∃ t, exec (.pairLoRead who off) s = .next t ∧ Agree t (s.latched who.val off.toNat (s.shown r who.val off.toNat) (s.shown h who.val (off.toNat + 4)))) ∧
    (∀ t : State, t.busOn = true → (secureOnly h (off.toNat + 4) = false ∨ t.isSecure who.val = true) →
      ∀ hi, t.bus.shadow.look none who.val = some (off.toNat, hi) →
      Gives (.readClear who offHi 4) t { t with bus := { t.bus with rdata := t.bus.rdata.write 0 who.val hi } })

/-- R87, R166: a read of HRT_PACE returns it and restarts its MIN; a read of NUM_HBIN returns the saturating sum of the four
copies of the selected bin and clears those copies and no other. -/
def Obligations.ReadsThatClear : Prop :=
  ∀ (who : Requester) (s : State), s.busOn = true →
    (∀ p : Fin 136, ∃ t, exec (.paceMinRead who p) s = .next t ∧ t.bus.rdata.look 0 who.val = (s.reg (R.HRT_PACE p.val)).toNat % 2 ^ 16 ∧
      t.get (F.HRT_PACE_MIN p.val) = 0xFF ∧ t.get (F.HRT_PACE_NOW p.val) = s.get (F.HRT_PACE_NOW p.val) ∧
      RegsBut [R.HRT_PACE p.val] s t ∧ t.mem = s.mem ∧ t.num = s.num) ∧
    (∀ i : Fin 64, ∃ t, exec (.hbinRead who i) s = .next t ∧ t.bus.rdata.look 0 who.val = s.binSum i.val ∧ t.binSum i.val = 0 ∧
      (∀ k, (∀ q < 4, k ≠ binKey q (s.get F.NUM_HSEL_SET) (s.get F.NUM_HSEL_KIND) i.val) → t.num.bins.look 0 k = s.num.bins.look 0 k) ∧
      t.regs = s.regs ∧ t.mem = s.mem)

/-! ## Command queues (03, 06, 07, 08, 11, 12, 13) -/

/-- R95, R205, R217, R252, R384, R405: a write of a queue's tail sets the tail, after which the unit fetches. R95: prefetching fetches with room for four
more descriptors. -/
def Obligations.TailWriteAndPrefetchFetch : Prop :=
  (∀ (who : Requester) (val : Word) (s : State), s.busOn = true →
      (∀ p : Fin 136, Gives (.hearthQtailWrite who p val) s
        ((s.set (F.HRT_QTAIL_TAIL p.val) val.toNat).advance (hearthQ (s.set (F.HRT_QTAIL_TAIL p.val) val.toNat) p.val 1))) ∧
      (∀ q : Fin 4, Gives (.blwSqtailWrite who q val) s ((s.set (F.BLW_SQTAIL_TAIL q.val) val.toNat).advance (svcQ q.val)) ∧
        Gives (.klnQtailWrite who q val) s ((s.set (F.KLN_QTAIL_TAIL q.val) val.toNat).advance (kilnQ q.val)) ∧
        Gives (.fbxQtailWrite who q val) s ((s.set (F.FBX_QTAIL_TAIL q.val) val.toNat).advance (fireboxQ q.val)) ∧
        Gives (.fluSqtailWrite who q val) s ((s.set (F.FLU_SQTAIL_VALUE q.val) val.toNat).advance (injQ q.val)) ∧
        Gives (.colQtailWrite who q val) s ((s.set (F.COL_QTAIL_TAIL q.val) val.toNat).advance (colQ q.val)))) ∧
  (∀ (p : Fin 136) (s : State), s.clocked = true → Gives (.hearthPrefetch p) s (s.advance (hearthQ s p.val 5)))

/-- R95, R587: an enabled queue that holds no copy and whose HEAD differs from its TAIL fetches the slot at HEAD: HEAD moves
on by one slot, modulo the entries, and the copy holds the slot's bytes. A queue that is not enabled fetches nothing. -/
def Obligations.FetchTakesTheSlot : Prop :=
  ∀ (q : Fin 4) (Q : QI) (s : State), Q ∈ [svcQ q.val, kilnQ q.val, fireboxQ q.val, colQ q.val, injQ q.val] →
    (s.qOn Q = false → ∀ n, s.fetchSlots Q n = s) ∧
    (s.qOn Q = true → s.qsizeOk Q = true → s.get Q.head ≠ s.qtail Q → (s.queue Q).cmds = [] → (s.read (s.slotAddr Q (s.get Q.head)) Q.slotBytes).bad = none →
      (s.read (s.slotAddr Q (s.get Q.head)) Q.slotBytes).st = s →
      ∀ n, let t := s.fetchSlots Q (n + 1)
        t.get Q.head = (s.get Q.head + 1) % s.get Q.size ∧ RegsBut [Q.head.off] s t ∧ t.mem = s.mem ∧
        ∃ c, (t.queue Q).cmds = [c] ∧ c.slot = s.get Q.head ∧ c.addr = s.slotAddr Q (s.get Q.head) ∧
          c.bytes = (s.read (s.slotAddr Q (s.get Q.head)) Q.slotBytes).bytes)

/-- R457: an abort before the result of the one before has been read is ignored. R455, R456, R121, R248, R279: an abort takes the first command, in
progress or queued, that carries the tag: one in progress is stopped as its unit stops it, its region undefined and its record ABORTED; a queued one is
marked and a wait that it stalls in is withdrawn; the result is 1, with its record (R458). R121: with no command that carries the tag the result is 3,
NOT_FOUND, and ABORTED is set; nothing else changes. Each holds of the queues of hearths, kilns, fireboxes and collective engines, while the command that
ended last did not carry the tag (log 104). -/
def Obligations.AbortAnswers : Prop :=
  ∀ (who : Requester) (tag : Word) (s : State), s.busOn = true →
    (∀ p : Fin 136, AbortRuns (.hrtAbort who p tag) s (hearthQ s p.val 1) tag.toNat fun t c => t.hearthStop p.val c) ∧
    (∀ q : Fin 4, AbortRuns (.klnAbort who q tag) s (kilnQ q.val) tag.toNat fun t c => t.kilnStop q.val c) ∧
    (∀ q : Fin 4, AbortRuns (.fbxAbort who q tag) s (fireboxQ q.val) tag.toNat fun t c => (t.fbxVoid q.val c).fbxEnd q.val c 0x11 FCount.none) ∧
    (∀ q : Fin 4, AbortRuns (.colAbort who q tag) s (colQ q.val) tag.toNat fun t c => t.colStop q.val c)

/-- R122, R249, R280, R436: QRESET of a unit that is not enabled and is idle: HEAD and TAIL become 0, fetched copies and the
unit's wait are gone; nothing else changes. -/
def Obligations.QueueResetEmpties : Prop :=
  ∀ (who : Requester) (s : State), s.busOn = true →
    (∀ p : Fin 136, s.on (F.HRT_CTRL_EN p.val) = false → s.hearthIdle p.val = true → (∀ w ∈ s.syn.waiters, s.hearthQid p.val ≠ some w.qid) →
      ∃ t, exec (.hearthQreset who p) s = .next t ∧ t.get (F.HRT_QHEAD_HEAD p.val) = 0 ∧ t.get (F.HRT_QTAIL_TAIL p.val) = 0 ∧
        t.queue (hearthQ s p.val 1) = Queue.empty ∧ RegsBut [R.HRT_CTRL p.val, R.HRT_QHEAD p.val, R.HRT_QTAIL p.val] s t ∧ t.mem = s.mem) ∧
    (∀ q : Fin 4, (∀ w ∈ s.syn.waiters, w.qid ≠ qidKiln q.val ∧ w.qid ≠ qidFirebox q.val ∧ w.qid ≠ qidCollective q.val) →
      (s.on (F.KLN_CTRL_EN q.val) = false → s.kilnIdle q.val = true →
        ∃ t, exec (.kilnQreset who q) s = .next t ∧ t.get (F.KLN_QHEAD_HEAD q.val) = 0 ∧ t.get (F.KLN_QTAIL_TAIL q.val) = 0 ∧
          t.queue (kilnQ q.val) = Queue.empty ∧ RegsBut [R.KLN_CTRL q.val, R.KLN_QHEAD q.val, R.KLN_QTAIL q.val] s t ∧ t.mem = s.mem) ∧
      (s.on (F.FBX_CTRL_EN q.val) = false → (s.queue (fireboxQ q.val)).started = false →
        ∃ t, exec (.fireboxQreset who q) s = .next t ∧ t.get (F.FBX_QHEAD_HEAD q.val) = 0 ∧ t.get (F.FBX_QTAIL_TAIL q.val) = 0 ∧
          t.queue (fireboxQ q.val) = Queue.empty ∧ RegsBut [R.FBX_CTRL q.val, R.FBX_QHEAD q.val, R.FBX_QTAIL q.val] s t ∧ t.mem = s.mem) ∧
      (s.on (F.COL_CTRL_EN q.val) = false → s.colIdle q.val = true →
        ∃ t, exec (.collectiveQreset who q) s = .next t ∧ t.get (F.COL_QHEAD_HEAD q.val) = 0 ∧ t.get (F.COL_QTAIL_TAIL q.val) = 0 ∧
          t.queue (colQ q.val) = Queue.empty ∧ RegsBut [R.COL_CTRL q.val, R.COL_QHEAD q.val, R.COL_QTAIL q.val] s t ∧ t.mem = s.mem))

/-- R132: a write of 1 to DMP_CTRL.SRESET sets the head of the side ring to 0, and is ignored unless the hearth is not enabled and idle. -/
def Obligations.SideRingResets : Prop :=
  ∀ (who : Requester) (p : Fin 136) (s : State), s.busOn = true →
    (s.on (F.HRT_CTRL_EN p.val) = false → s.hearthIdle p.val = true →
      ∃ t, exec (.sideRingReset who p) s = .next t ∧ t.get (F.DMP_SHEAD_HEAD p.val) = 0 ∧ RegsBut [R.DMP_SHEAD p.val] s t ∧ t.mem = s.mem ∧ t.queues = s.queues) ∧
    ((s.on (F.HRT_CTRL_EN p.val) = true ∨ s.hearthIdle p.val = false) → Gives (.sideRingReset who p) s s)

/-! ## Posted writes (17_register_interface_and_map.md) -/

/-- R139, R174, R210, R437, R548: a write of a posted register while its BUSY bit is 0 is accepted: BUSY becomes 1 and the write waits, with the low half
that the requester's write holder holds for a pair (R550); a table's image is read; seeding starts; a reload starts on its factors. R176, R177, R591: SAVE or RESTORE while the
journal is not BUSY: BUSY and the bit written are 1, and the generator states are written to the journal, or read from it. R352, R389: a write of
HBM_ILV with a number of channels that the device can interleave, while no image is loaded and the block is not BUSY, starts the re-forming; a write
of FLU_TBL_COMMIT with bit 0 set starts the commit of the image at FLU_TBL_ADDR, and the inactive version becomes invalid. -/
def Obligations.PostedWritesStart : Prop :=
  (∀ (who : Requester) (val : Word) (s : State), s.busOn = true →
      (∀ (p : Fin 136) (lo : Nat), s.on (F.DMP_STATUS_BUSY p.val) = false → s.bus.holder.look none who.val = some (R.DMP_PTADDR_LO p.val, lo) →
        Gives (.ptabLoad who p val) s
          ((((s.setHolder who.val none).set (F.DMP_STATUS_BUSY p.val) 1).holdPosted (0x900000 + 0x1000 * p.val) (R.DMP_PTADDR_HI p.val) val.toNat (some lo)).ptabStart p.val
            (lo % 2 ^ 32 / 64 * 64 + val.toNat * 2 ^ 32))) ∧
      (∀ lo : Nat, s.on F.NUM_STATUS_BUSY = false → s.isSecure who.val = true → s.bus.holder.look none who.val = some (R.NUM_SEED_LO, lo) →
        ∃ t, exec (.seeding who val) s = .next t ∧ t.num.op = 1 ∧ t.on F.NUM_STATUS_BUSY = true ∧
          t.bus.posted.look none 0x1500000 = some (R.NUM_SEED_HI, val.toNat, some lo) ∧ RegsBut [R.NUM_STATUS] s t ∧ t.mem = s.mem ∧ t.num.gens = s.num.gens) ∧
      (∀ q : Fin 4, s.on (F.BLW_STATUS_BUSY q.val) = false →
        Gives (.blwReload who q val) s ((s.blwReload q.val val.toNat).holdPosted (0xA00000 + 0x10000 * q.val) (R.BLW_RELOAD q.val) val.toNat none)) ∧
      (s.on F.ERR_STATUS_BUSY = false → s.isSecure who.val = true →
        Gives (.checkpointControlWrite who val) s ((s.set F.ERR_STATUS_BUSY 1).holdPosted 0x500000 R.ERR_CKCTRL val.toNat none)) ∧
      (s.on F.FFY_STATUS_BUSY = false →
        Gives (.ffySnapshot who val) s ((s.set F.FFY_STATUS_BUSY 1).holdPosted 0x1600000 R.FFY_CTRL val.toNat none))) ∧
  (∀ (who : Requester) (s : State), s.busOn = true → s.isSecure who.val = true → s.on F.NUM_STATUS_BUSY = false →
      (∃ t u : State, u = ((s.set F.NUM_JCTRL_SAVE 1).set F.NUM_STATUS_BUSY 1).saveGens ∧ exec (.journalSave who) s = .next t ∧ t.num.op = 2 ∧
        t.mem = u.mem ∧ t.regs = u.regs) ∧
      (∃ t u : State, u = ((s.set F.NUM_JCTRL_RESTORE 1).set F.NUM_STATUS_BUSY 1).restoreGens ∧ exec (.journalRestore who) s = .next t ∧ t.num.op = 3 ∧
        t.mem = u.mem ∧ t.regs = u.regs ∧ t.num.gens = u.num.gens)) ∧
  (∀ (who : Requester) (val : Word) (s : State), s.busOn = true → s.isSecure who.val = true →
      (s.on F.HBM_STATUS_BUSY = false → s.on F.CFG_STATE_IMAGE = false → 248 ≤ val.toNat % 512 → val.toNat % 512 ≤ 256 → val.toNat % 512 ≤ s.inService.length →
        ∃ t, exec (.interleaveReform who val) s = .next t ∧ t.ram.reform = some (val.toNat % 512) ∧ t.on F.HBM_STATUS_BUSY = true ∧
          RegsBut [R.HBM_STATUS] s t ∧ t.mem = s.mem) ∧
      (s.on F.FLU_STATUS_BUSY = false → val.getLsbD 0 = true →
        ∃ t, exec (.tableCommit who val) s = .next t ∧ t.flue.commit = some (s.pair R.FLU_TBL_ADDR_LO) ∧ t.on F.FLU_STATUS_BUSY = true ∧
          t.flue.tables = s.flue.tables ∧ (s.inactive = 0 → t.flue.valid0 = false) ∧ (s.inactive = 1 → t.flue.valid1 = false) ∧
          RegsBut [R.FLU_STATUS, R.FLU_TBL_COMMIT] s t ∧ t.mem = s.mem))

/-- R548: a posted write while BUSY is 1 is discarded: POST_OVERRUN is set and GEN_POSTERR latches the offset; nothing else changes. -/
def Obligations.PostedWriteOverruns : Prop :=
  ∀ (who : Requester) (val : Word) (s : State), s.busOn = true →
    let lost (off : Nat) : State := (s.raise F.GEN_EVENT_POST_OVERRUN).setReg R.GEN_POSTERR (BitVec.ofNat 32 (off + 2 ^ 31))
    (∀ q : Fin 4, s.on (F.BLW_STATUS_BUSY q.val) = true → Gives (.blwReload who q val) s (lost (R.BLW_RELOAD q.val))) ∧
    (s.on F.FFY_STATUS_BUSY = true → Gives (.ffySnapshot who val) s (lost R.FFY_CTRL)) ∧
    (s.isSecure who.val = true →
      (s.on F.ERR_STATUS_BUSY = true → Gives (.checkpointControlWrite who val) s (lost R.ERR_CKCTRL)) ∧
      (s.on F.HBM_STATUS_BUSY = true → Gives (.interleaveReform who val) s (lost R.HBM_ILV)) ∧
      (s.on F.FLU_STATUS_BUSY = true → Gives (.tableCommit who val) s (lost R.FLU_TBL_COMMIT)) ∧
      (s.on F.NUM_STATUS_BUSY = true → Gives (.journalSave who) s (lost R.NUM_JCTRL) ∧ Gives (.journalRestore who) s (lost R.NUM_JCTRL)))

/-- R139, R174, R178, R210, R548: what waits is applied when its operation ends, and BUSY returns to 0: the register takes the value; a table is in place;
every generator has its seed; the journal bits are 0. R352, R389: the re-forming and the table commit end: the interleave is over the number of
channels asked for; with no uncorrectable read, the inactive version holds the 8,192 entries read, valid unless one of them breaks its rules. -/
def Obligations.PostedWritesEnd : Prop :=
  (∀ (s : State) (off v : Nat) (lo : Option Nat),
      (∀ p : Fin 136, s.clocked = true → s.bus.posted.look none (0x900000 + 0x1000 * p.val) = some (off, v, lo) →
        Gives (.ptabLoadDone p) s (((s.takePosted (0x900000 + 0x1000 * p.val)).2.applyPosted off v lo).ptabLoaded p.val)) ∧
      (s.clocked = true → s.num.op = 1 → s.bus.posted.look none 0x1500000 = some (off, v, lo) →
        ∃ t, exec .seedingDone s = .next t ∧ t.num.op = 0 ∧ t.on F.NUM_STATUS_BUSY = false ∧ t.on F.NUM_STATUS_SEEDED = true ∧
          t.num.gens = ((s.takePosted 0x1500000).2.applyPosted off v lo).seedAll.num.gens) ∧
      (s.clocked = true → (s.num.op = 2 ∨ s.num.op = 3) →
        ∃ t, exec .journalOpDone s = .next t ∧ t.num.op = 0 ∧ t.on F.NUM_JCTRL_SAVE = false ∧ t.on F.NUM_JCTRL_RESTORE = false ∧ t.on F.NUM_STATUS_BUSY = false ∧
          RegsBut [R.NUM_JCTRL, R.NUM_STATUS] s t ∧ t.mem = s.mem ∧ t.num.gens = s.num.gens) ∧
      (∀ q : Fin 4, s.clocked = true → s.bus.posted.look none (0xA00000 + 0x10000 * q.val) = some (R.BLW_RELOAD q.val, v, none) →
        ∃ t, exec (.blwReloadDone q) s = .next t ∧ t.on (F.BLW_STATUS_BUSY q.val) = false ∧ t.bus.posted.look none (0xA00000 + 0x10000 * q.val) = none ∧
          RegsBut [R.BLW_RELOAD q.val, R.BLW_STATUS q.val] s t ∧ t.mem = s.mem ∧ t.blw = s.blw) ∧
      (∀ blk : BitVec 26, s.busOn = true → blk.toNat ∈ [0x400000, 0x500000, 0x1600000] → s.bus.posted.look none blk.toNat = some (off, v, lo) →
        Gives (.postedWriteApplied blk) s (((s.takePosted blk.toNat).2.applyPosted off v lo).set (postBusy off).1 0))) ∧
  (∀ s : State, s.clocked = true →
      (∀ n, s.ram.reform = some n → Gives .interleaveReformDone s (({ s with ram := { s.ram with reform := none } }.setInterleave n).set F.HBM_STATUS_BUSY 0)) ∧
      (∀ a, s.flue.commit = some a → (s.read a 131072).bad = none →
        ∃ t, exec .tableCommitDone s = .next t ∧ t.flue.commit = none ∧ t.on F.FLU_STATUS_BUSY = false ∧
          t.flue.tables = (codesOf 16 (s.read a 131072).bytes 8192).zipIdx.foldl (fun m (e, i) => Sparse.write m 0 (s.inactive * 8192 + i) e)
            ((s.read a 131072).st.flue.tables.filter fun e => e.1 / 8192 != s.inactive) ∧
          (s.inactive = 1 → t.flue.valid1 = !(((codesOf 16 (s.read a 131072).bytes 8192).take 4096).any routeBad || ((codesOf 16 (s.read a 131072).bytes 8192).drop 4096).any treeBad)) ∧
          (s.inactive = 0 → t.flue.valid0 = !(((codesOf 16 (s.read a 131072).bytes 8192).take 4096).any routeBad || ((codesOf 16 (s.read a 131072).bytes 8192).drop 4096).any treeBad))))


/-! ## Barriers and sparks (13_barriers_sparks_queues.md) -/

/-- R441: every signal to a usable count barrier adds one to its count; a count at 0xFFFF stays there and SAT is set, in the counter's register and in
SYN_EVENT; to a group barrier, the first arrival of a queue of its mask does so (R449). A write of SYN_BAR_SUB subtracts its value, and leaves zero, with UNDER set in both places, where that would go below zero. -/
def Obligations.SignalsAndSubtractionsCount : Prop :=
  (∀ (b : Fin 4096) (s : State), s.on F.SYN_CTRL_EN = true → s.ctrValid b.val = true → s.isGroup b.val = false →
      ∀ c : Instr, ((∃ k, c = .barrierSignal b k ∧ s.clocked = true) ∨ (∃ (who : Requester) (val : Word), c = .synSignal who val ∧ val.toNat % 4096 = b.val ∧ s.busOn = true)) →
      ∃ t, exec c s = .next t ∧
        t.get (F.SYN_BAR_CNT_COUNT b.val) = min (s.get (F.SYN_BAR_CNT_COUNT b.val) + 1) 0xFFFF ∧
        (s.get (F.SYN_BAR_CNT_COUNT b.val) = 0xFFFF → t.on (F.SYN_BAR_CNT_SAT b.val) = true ∧ t.on F.SYN_EVENT_SAT = true) ∧
        (s.get (F.SYN_BAR_CNT_COUNT b.val) ≠ 0xFFFF → t.on (F.SYN_BAR_CNT_SAT b.val) = s.on (F.SYN_BAR_CNT_SAT b.val) ∧ t.reg R.SYN_EVENT = s.reg R.SYN_EVENT) ∧
        RegsBut [R.SYN_BAR_CNT b.val, R.SYN_EVENT] s t ∧ t.mem = s.mem) ∧
  (∀ (b : Fin 4096) (k : BitVec 9) (g : Nat) (s : State), s.clocked = true → s.on F.SYN_CTRL_EN = true → s.ctrValid b.val = true → s.isGroup b.val = true → g = s.gslot b.val →
      s.inMask g k.toNat = true → k.toNat ∉ s.syn.arrived.look [] g → s.on (F.SYN_GRP_CTRL_TREE g) = false →
      ∃ t, exec (.barrierSignal b (some k)) s = .next t ∧
        t.get (F.SYN_BAR_CNT_COUNT b.val) = min (s.get (F.SYN_BAR_CNT_COUNT b.val) + 1) 0xFFFF ∧
        (s.get (F.SYN_BAR_CNT_COUNT b.val) = 0xFFFF → t.on (F.SYN_BAR_CNT_SAT b.val) = true ∧ t.on F.SYN_EVENT_SAT = true) ∧
        t.syn.arrived.look [] g = s.syn.arrived.look [] g ++ [k.toNat] ∧
        t.get (F.SYN_GRP_CTRL_PHASE g) = (if t.get (F.SYN_BAR_CNT_COUNT b.val) = s.maskCount g then 2 else s.get (F.SYN_GRP_CTRL_PHASE g)) ∧
        RegsBut [R.SYN_BAR_CNT b.val, R.SYN_EVENT, R.SYN_GRP_CTRL g] s t ∧ t.mem = s.mem) ∧
  (∀ (who : Requester) (b : Fin 4096) (val : Word) (s : State), s.busOn = true →
      ∃ t, exec (.barrierSubtract who b val) s = .next t ∧
        t.get (F.SYN_BAR_CNT_COUNT b.val) = s.get (F.SYN_BAR_CNT_COUNT b.val) - val.toNat % 2 ^ 16 ∧
        (s.get (F.SYN_BAR_CNT_COUNT b.val) < val.toNat % 2 ^ 16 → t.get (F.SYN_BAR_CNT_COUNT b.val) = 0 ∧ t.on (F.SYN_BAR_CNT_UNDER b.val) = true ∧ t.on F.SYN_EVENT_UNDER = true) ∧
        (val.toNat % 2 ^ 16 ≤ s.get (F.SYN_BAR_CNT_COUNT b.val) → t.on (F.SYN_BAR_CNT_UNDER b.val) = s.on (F.SYN_BAR_CNT_UNDER b.val) ∧ t.reg R.SYN_EVENT = s.reg R.SYN_EVENT) ∧
        RegsBut [R.SYN_BAR_CNT b.val, R.SYN_EVENT, R.SYN_GRP_CTRL (s.gslot b.val)] s t ∧ t.mem = s.mem)

/-- R460: a write of SYN_BAR_CNT sets the count. R442, R444: after a signal to a usable count barrier, no queue stands stalled in a level wait on it if its count
has reached P; a wait on another counter, or a take, is as it was. What the spark carried is noted (R435). -/
def Obligations.CountWritesAndReleases : Prop :=
  (∀ (who : Requester) (b : Fin 4096) (val : Word) (s : State), s.busOn = true →
      ∃ t, exec (.barrierCountWrite who b val) s = .next t ∧ t.get (F.SYN_BAR_CNT_COUNT b.val) = val.toNat % 2 ^ 16 ∧
        t.on (F.SYN_BAR_CNT_SAT b.val) = s.on (F.SYN_BAR_CNT_SAT b.val) ∧ t.on (F.SYN_BAR_CNT_UNDER b.val) = s.on (F.SYN_BAR_CNT_UNDER b.val) ∧
        RegsBut [R.SYN_BAR_CNT b.val, R.SYN_GRP_CTRL (s.gslot b.val)] s t ∧ t.mem = s.mem) ∧
  (∀ (b : Fin 4096) (k : Option (BitVec 9)) (s : State), s.clocked = true → s.on F.SYN_CTRL_EN = true → s.ctrValid b.val = true → s.isGroup b.val = false →
      ∃ t, exec (.barrierSignal b k) s = .next t ∧
        (s.get (F.SYN_BAR_CFG_P b.val) ≤ min (s.get (F.SYN_BAR_CNT_COUNT b.val) + 1) 0xFFFF →
          t.syn.waiters = s.syn.waiters.filter (fun w => !(w.ctr == b.val && !w.take)) ∧ ∀ w ∈ s.syn.waiters, w.ctr = b.val → w.take = false → w.qid ∈ t.syn.released) ∧
        (min (s.get (F.SYN_BAR_CNT_COUNT b.val) + 1) 0xFFFF < s.get (F.SYN_BAR_CFG_P b.val) → t.syn = { s.syn with carried := t.syn.carried }))

/-- R446: an engine cycle of a satisfied count barrier releases exactly the take-waiter with the lowest queue identifier and subtracts P. -/
def Obligations.TakeReleasesOne : Prop :=
  ∀ (b : Fin 4096) (w : Waiter) (s : State), s.clocked = true → s.on F.SYN_CTRL_EN = true → s.satisfied b.val = true → s.isGroup b.val = false →
    w ∈ s.syn.waiters → w.ctr = b.val → w.take = true → (∀ v ∈ s.syn.waiters, v.ctr = b.val → v.take = true → v = w ∨ w.qid < v.qid) →
    ∃ t, exec (.waitTakeRelease b) s = .next t ∧ t.syn.waiters = s.syn.waiters.filter (· != w) ∧ t.syn.released = s.syn.released ++ [w.qid] ∧
      t.get (F.SYN_BAR_CNT_COUNT b.val) = s.get (F.SYN_BAR_CNT_COUNT b.val) - s.get (F.SYN_BAR_CFG_P b.val) ∧ RegsBut [R.SYN_BAR_CNT b.val] s t ∧ t.mem = s.mem

/-- R454: a queue whose head wait has lasted past the threshold lends its unit's power, once.
R453: a signal to a counter that is not usable counts nothing: it is misuse, of cause 7 for a bad group slot and of cause 2 else. -/
def Obligations.WaitsLendPowerAndMisuseIsNoted : Prop :=
  (∀ (k : BitVec 9) (s : State), s.clocked = true → s.on F.SYN_CTRL_LEND_EN = true → s.stalled k.toNat = true → k.toNat ∉ s.syn.lent →
      Gives (.powerLend k) s { s with syn := { s.syn with lent := s.syn.lent ++ [k.toNat] } }) ∧
  (∀ (b : Fin 4096) (k : Option (BitVec 9)) (s : State), s.clocked = true → s.on F.SYN_CTRL_EN = true → s.ctrValid b.val = false →
      ∃ t, exec (.barrierSignal b k) s = .next t ∧ t.on F.SYN_EVENT_MISUSE = true ∧
        (t.reg R.SYN_MISUSE).toNat = b.val + (if s.on (F.SYN_BAR_CFG_VALID b.val) && s.isGroup b.val then 7 else 2) * 2 ^ 12 + (k.map BitVec.toNat).getD 0 * 2 ^ 16 + 2 ^ 31 ∧
        t.syn = s.syn ∧ (∀ c : Fin 4096, t.reg (R.SYN_BAR_CNT c.val) = s.reg (R.SYN_BAR_CNT c.val)))

/-! ## Hearths (03_hearth_matrix_engines.md, 05_training_numerics.md) -/

/-- R88, R499: a missed handshake is counted in the hearth, in the command in progress and in the bubble, and the quadrant's supply rises by the
programmed number of 0.5 mV steps, not past 0.80 V (R471), unless VLOOP_EN holds it (R483), with lowering held off. -/
def Obligations.PaceMissRaisesSupply : Prop :=
  ∀ (p : Fin 136) (s : State), s.clocked = true → ∃ t, exec (.paceMiss p) s = .next t ∧
    t.get (F.HRT_PACEMISS_VALUE p.val) = min (s.get (F.HRT_PACEMISS_VALUE p.val) + 1) 0xFFFFFFFF ∧ t.on (F.HRT_EVENT_PACE_MISS p.val) = true ∧
    (t.hearth p.val).run = (s.hearth p.val).run.map (fun r => { r with misses := r.misses + 1 }) ∧ (t.hearth p.val).bubbleMiss = (s.hearth p.val).bubbleMiss + 1 ∧
    (s.on F.PWR_CTRL_VLOOP_EN = true → t.get (F.PWR_Q_VARR_UV (pairQuad p.val)) = min 8000 (s.get (F.PWR_Q_VARR_UV (pairQuad p.val)) + 5 * s.get F.PWR_VLOOP_MISS) ∧ t.on F.PWR_EVENT_PACE_RAISE = true) ∧
    (s.on F.PWR_CTRL_VLOOP_EN = false → t.get (F.PWR_Q_VARR_UV (pairQuad p.val)) = s.get (F.PWR_Q_VARR_UV (pairQuad p.val)) ∧ t.on F.PWR_EVENT_PACE_RAISE = s.on F.PWR_EVENT_PACE_RAISE) ∧
    t.pwr = { s.pwr with missed := s.pwr.missed.write false (pairQuad p.val) true, block := s.pwr.block.write 0 (pairQuad p.val) 8 } ∧
    RegsBut [R.HRT_PACEMISS p.val, R.HRT_EVENT p.val, R.PWR_Q_VARR (pairQuad p.val), R.PWR_EVENT] s t ∧ t.mem = s.mem

/-- R102, R588: the MATMUL at the head of a free hearth, where validation finds nothing against it, becomes the command in progress and runs out;
one whose side entry was unreadable ends with MEMORY_ERROR (R131). -/
def Obligations.MatmulRunsOut : Prop :=
  ∀ (p : Fin 136) (c : QCmd) (s : State), s.hearthHead p.val 1 c → c.sideBad = false → s.mmReject p.val c = none →
    Gives (.matmul p) s (((s.startHead (hearthQ s p.val 1)).modHearth p.val fun h => { h with run := some (HRun.new c false) }).hearthRunOut p.val (HRun.new c false).fuel)

/-- R81, R87, R90, R133, R143: a wave that is not the last of its tile, with its strips and its side tile readable and room in the tap buffer: the lanes take
the wave's products, the banks hold the strips in use and the side bank its tile, the taps join the buffer, the wave counts and its slack is noted; no other command of any queue moves. -/
def Obligations.WaveAccumulates : Prop :=
  ∀ (p : Fin 136) (slack : Byte) (r : HRun) (s : State), s.clocked = true → (s.hearth p.val).run = some r →
    ∀ (x : MM) (k pass : Nat) (bk : Banks) (sd : SideLoad), x = mmOf r.cmd.bytes → (s.hearth p.val).withheld r x = false → (s.hearth p.val).tapStalled = false →
    k = r.wave / x.cls.passes → pass = r.wave % x.cls.passes → bk = x.loadBanks s r.tile k pass r.bankA r.bankB → bk.bad = none →
    sd = x.loadSide bk.st r.cmd.side r.tile r.wave (r.sideBank r.tile) → sd.bad = none → r.wave + 1 < x.waves →
    ∃ t, exec (.wave p slack) s = .next t ∧
      (t.hearth p.val).run = some { r.putSide r.tile sd.bank with wave := r.wave + 1, lanes := x.waveLanes r.tile k pass 0 bk.a.now bk.b.now r.lanes, bankA := bk.a, bankB := bk.b } ∧
      (t.hearth p.val).tapBuf = (s.hearth p.val).tapBuf ++ r.tapsOf x k bk.a.now bk.b.now ∧
      t.pair (R.HRT_WAVES_LO p.val) = (s.pair (R.HRT_WAVES_LO p.val) + 1) % 2 ^ 64 ∧
      t.get (F.HRT_PACE_NOW p.val) = slack.toNat ∧ t.get (F.HRT_PACE_MIN p.val) = min (s.get (F.HRT_PACE_MIN p.val)) slack.toNat ∧
      (t.hearth p.val).pmLeast = min (s.hearth p.val).pmLeast slack.toNat ∧ t.queues = s.queues ∧ t.mem = sd.st.mem ∧
      (∀ o, memReg o = false → o ∉ [R.HRT_PACE p.val, R.HRT_WAVES_LO p.val, R.HRT_WAVES_HI p.val] → t.reg o = s.reg o)

/-- R108, R111, R112: the tile in the drain is drained, drained again with its block scales raised, or accumulated again with A scaled down, as what the
last pass found decides; the attempt is counted in the hearth, in the policy and in the command. R161, R163, R164: the tile selected for the watch is
computed again in FP32 from the decoded operands, unless one of them is not a finite binary32 value; a tile marked so is counted as not checked and
settles. -/
def Obligations.TileIsDrainedRecomputedWatched : Prop :=
  (∀ (p : Fin 136) (r : HRun) (ft : FinTile) (s : State), s.clocked = true → (s.hearth p.val).old = some r → r.fin = some ft →
      (ft.need = 0 → Gives (.tileDrain p) s (s.drainPass p.val r ft)) ∧
      (ft.need = 1 → Gives (.reDrain p) s ((s.countAttempt p.val (mmOf r.cmd.bytes).policy (ft.attempt + 1)).drainPass p.val
        { r with attempts := r.attempts + 1, maxAtt := max r.maxAtt (ft.attempt + 1) } { ft with attempt := ft.attempt + 1, need := 0 })) ∧
      (ft.need = 2 → ∀ (x : MM) (u : Rerun), x = mmOf r.cmd.bytes →
        u = State.rerunWaves p.val x ft.idx ((ft.attempt + 1) * polStep r.cmd.policy) x.waves 0 ⟨r.bankA, r.bankB, [], none, s.countAttempt p.val x.policy (ft.attempt + 1)⟩ → u.bad = none →
        Gives (.reRun p) s (u.st.modOld p.val fun q => { q with bankA := u.a, bankB := u.b, fin := some { ft with attempt := ft.attempt + 1, shift := (ft.attempt + 1) * polStep r.cmd.policy, lanes := u.lanes, marked := lanesMarked u.lanes, need := 0 } }))) ∧
  (∀ (p : Fin 136) (r : HRun) (w : Watch) (s : State), s.clocked = true → (s.hearth p.val).old = some r → r.watch = some w →
      (w.ran = false → ∀ (x : MM) (rs cs : List (List FV)) (u v z : State), x = mmOf r.cmd.bytes →
        x.a.decodeRows s (x.row0 w.idx) (x.rows w.idx) x.k = (rs, none, u) → x.b.decodeRows u (x.col0 w.idx) (x.cols w.idx) x.k = (cs, none, v) →
        z = v.each (List.range (3 * x.k)) (fun t _ => t.waveFree p.val x.pad) →
        ((∀ l ∈ rs ++ cs, ∀ e ∈ l, e.isFin = true ∧ fmt32.holds e = true) → Gives (.watchRecheck p) s (z.modOld p.val fun q => { q with watch := some { w with ran := true, notChecked := false, lanes := laneTable (x.rows w.idx) (x.cols w.idx) fun i j => { Lane.zero with small := BitVec.ofNat 64 (fmt32.encode (dot32 (rs.getD i []) (cs.getD j []))) } } })) ∧
        ((∃ l ∈ rs ++ cs, ∃ e ∈ l, e.isFin = false ∨ fmt32.holds e = false) →
          Gives (.watchRecheck p) s (z.modOld p.val fun q => { q with watch := some { w with ran := true, notChecked := true, lanes := [] } }))) ∧
      (w.ran = true → w.notChecked = true →
        Gives (.watchCompare p) s (((s.count F.NUM_WNOTCHK_VALUE 1).modOld p.val fun q => { q with watch := none }).tileDone p.val)))

/-- R98, R99, R106, R107: a NOP at the head writes its record and sends its spark; a BUBBLE opens at its cycle count, lets borrowed work start, is made
longer by a pace miss inside it, and when it ends, with no borrowed tile in progress, writes its record. R101: a hearth that the hold of its bellows names, with an empty queue, opens a hold
bubble; the bubble ends once the hold has ended or a command has been written. -/
def Obligations.NopAndBubblesRun : Prop :=
  ((∀ (p : Fin 136) (c : QCmd) (s : State), s.hearthHead p.val 3 c →
      bitsOf (leAt c.bytes 0 4) 31 9 = 0 → zeroAt c.bytes 8 160 = true → bitsOf (leAt c.bytes 168 2) 14 12 = 0 → zeroAt c.bytes 170 6 = true → zeroAt c.bytes 184 8 = true →
      (leAt c.bytes 176 8 = 0 ∨ s.recAddrOk (leAt c.bytes 176 8) = true) →
      Gives (.hearthNop p) s (((s.startHead (hearthQ s p.val 1)).hearthFinish p.val c 0).endHead (hearthQ s p.val 1))) ∧
    (∀ (p : Fin 136) (c : QCmd) (s : State), s.hearthHead p.val 2 c →
      bitsOf (leAt c.bytes 0 4) 31 9 = 0 → leAt c.bytes 8 4 ≠ 0 → zeroAt c.bytes 12 164 = true → zeroAt c.bytes 184 8 = true →
      (leAt c.bytes 176 8 = 0 ∨ s.recAddrOk (leAt c.bytes 176 8) = true) →
      Gives (.bubble p) s (((s.startHead (hearthQ s p.val 1)).modHearth p.val fun h => { h with bubble := 1, bubbleAt := s.cycle, bubbleMiss := 0 }).startBorrowed p.val)) ∧
    (∀ (p : Fin 136) (c : QCmd) (s : State), s.clocked = true → (s.hearth p.val).bubble = 1 → s.bubbleLeft p.val = 0 → (s.hearth p.val).run = none →
      s.startedHead (hearthQ s p.val 1) = some c →
      Gives (.bubbleEnd p) s (((s.hearthFinish p.val c 0).modHearth p.val fun h => { h with bubble := 0 }).endHead (hearthQ s p.val 1))) ∧
    (∀ (p : Fin 136) (c : QCmd) (s : State), s.clocked = true → (s.hearth p.val).bubble = 1 → (s.queue (hearthQ s p.val 1)).cmds.head? = some c → s.cycle = (s.hearth p.val).bubbleAt →
      ∃ t, exec (.paceMiss p) s = .next t ∧ t.bubbleLeft p.val = s.bubbleLeft p.val + 1)) ∧
  (∀ (p : Fin 136) (s : State), s.clocked = true → (s.hearth p.val).run = none →
      ((s.hearth p.val).bubble = 0 → s.heldHearth p.val = true → s.mainEmpty p.val = true → s.on (F.HRT_CTRL_BORROW_EN p.val) = false →
        Gives (.holdBubble p) s (s.modHearth p.val fun h => { h with bubble := 2, bubbleAt := s.cycle })) ∧
      ((s.hearth p.val).bubble = 2 → (s.heldHearth p.val = false ∨ s.mainEmpty p.val = false) →
        Gives (.holdBubbleEnd p) s ((s.modHearth p.val fun h => { h with bubble := 0 }).advance (hearthQ s p.val 1))))


/-! ## Bellows (06_bellows_curvature_and_roots.md) -/

/-- R181 to R188: curvature work of a bellows that is on. The oldest tap record of a hearth leaves its buffer and is counted: one that its tap entry
places in a row with room has its elements written to the row store and its chunk marked present, one that it places nowhere is dropped and
counted. A matrix factor without a start barrier starts reading. The lowest row of a factor, once complete, is taken into the step sums of all its
blocks, or, with a non-finite element, counted and left out. A factor whose rows are all processed is folded once, block by block. -/
def Obligations.CurvatureIsAccumulated : Prop :=
  (∀ (p : Fin 136) (sc : Nat) (bs : List Byte) (rest : List (Nat × List Byte)) (lg : Nat) (r : Rd) (j start how : Nat) (u : State) (s : State), s.clocked = true →
    (s.hearth p.val).tapBuf = (sc, bs) :: rest → s.logicalOf p.val = some lg → s.blwOn (lg / 32) = true →
    r = s.read (s.tapEntry (lg / 32) bs) 16 → r.bad = none → s.tapPlace (lg / 32) bs r.bytes = (j, start, how) →
    u = (r.st.modHearth p.val fun h => { h with tapBuf := rest }).count (F.DMP_TAPREC_VALUE p.val) 1 →
    ((how = 0 → Gives (.tapRecord p) s ((u.putChunk (lg / 32) (rowChunk (s.fact (lg / 32) (leAt r.bytes 0 2 % 1024)).desc j (start / 256))
        ((List.range (min 256 (fdDim (s.fact (lg / 32) (leAt r.bytes 0 2 % 1024)).desc - start))).map (tapValue sc bs))).gotChunk (lg / 32) (leAt r.bytes 0 2 % 1024) j (start / 256))) ∧
      (how = 1 → Gives (.tapRecord p) s (u.tapDrop (lg / 32))))) ∧
  (∀ (q : Fin 4) (f : Fin 1024) (s : State), s.clocked = true → s.blwOn q.val = true → (s.fact q.val f.val).desc ≠ [] → f.val < s.get (F.BLW_NFACT_COUNT q.val) →
    (2 ≤ fdKind (s.fact q.val f.val).desc → (s.fact q.val f.val).reading = false → (s.fact q.val f.val).vec = 0 → (fdBar (s.fact q.val f.val).desc).testBit 15 = false →
      Gives (.matrixSampleStart q f) s ((s.modFact q.val f.val fun x => { x with reading := true }).fillRows q.val f.val (fdGlen (s.fact q.val f.val).desc + 1))) ∧
    ((s.fact q.val f.val).jo < fdRows (s.fact q.val f.val).desc → (s.fact q.val f.val).got.look 0 (s.fact q.val f.val).jo = fullMask (fdChunks (s.fact q.val f.val).desc) →
      ∀ (x : Fact) (r : Rd) (v : List FV), x = s.fact q.val f.val → r = s.read (rowChunk x.desc x.jo 0) (fdChunks x.desc * 1024) → r.bad = none →
      v = (codesOf 4 r.bytes (fdDim x.desc)).map val32 →
      ((∀ e ∈ v, e.isFin = true) → Gives (.rowAccumulate q f) s
        ((((r.st.factCheck q.val f.val).each (List.range (fdBlocks x.desc)) fun t b => t.addRow q.val x.desc (fdCopy x.desc (1 - s.factCur q.val f.val)) b (!x.acc) v).modFact q.val f.val
          fun y => { y with jo := y.jo + 1, acc := true, got := y.got.drop y.jo }).fillRows q.val f.val (fdGlen x.desc + 1))) ∧
      ((∃ e ∈ v, e.isFin = false) → Gives (.rowAccumulate q f) s
        ((((r.st.count (F.BLW_NONFIN_VALUE q.val) 1).raise (F.BLW_EVENT_ROW_NONFIN q.val)).modFact q.val f.val
          fun y => { y with jo := y.jo + 1, got := y.got.drop y.jo }).fillRows q.val f.val (fdGlen x.desc + 1)))) ∧
    (fdRows (s.fact q.val f.val).desc ≤ (s.fact q.val f.val).jo → (s.fact q.val f.val).folded = false →
      Gives (.factorFold q f) s (((s.factCheck q.val f.val).each (List.range (fdBlocks (s.fact q.val f.val).desc)) fun t b => t.foldBlock q.val (s.fact q.val f.val).desc (s.factCur q.val f.val) b (s.fact q.val f.val).acc).modFact q.val f.val
        fun x => { x with folded := true })))

/-- R193, R194, R196, R198, R244: the life of a root job on a bellows that runs root jobs. Its eigenvalue request is written and submitted when no
other is out; its preparation scales and writes the first matrix; its iterations read the certificate and step once their products have ended; the
next tile of a product goes to the lowest free borrow slot of the borrow set; and a job that still owes the closing step its root holds the step. -/
def Obligations.RootJobsProceed : Prop :=
  (∀ (q : Fin 4) (f : Nat) (rest : List Nat) (u : State) (s : State), s.clocked = true → s.rootOn q.val = true → s.on (F.BLW_LAMSPK_VALID q.val) = true →
    (s.bellows q.val).asked = none → (s.bellows q.val).order = f :: rest →
    u = (((s.unitWrite .bellows q.val (fdReq (s.fact q.val f).desc) (leBytes 4 1 ++ leBytes 4 (f + (s.fact q.val f).job.block * 2 ^ 10) ++ leBytes 8 (fdBuf (s.fact q.val f).desc 0) ++
      leBytes 4 (fdPitch (s.fact q.val f).desc) ++ leBytes 2 (fdSize (s.fact q.val f).desc (s.fact q.val f).job.block) ++ leBytes 2 ((s.reg (R.BLW_LAMSPK q.val)).toNat) ++ leBytes 8 0)).modBlw q.val
        fun b => { b with order := rest, asked := some f }).modJob q.val f fun j => { j with req := 1 }) →
    Gives (.lambdaRequestSubmit q) s { u with kln := u.kln.write Kln.reset q.val { (u.kln.look Kln.reset q.val) with req := some (fdReq (s.fact q.val f).desc) } }) ∧
  (∀ (q : Fin 4) (f : Fin 1024) (x : Fact) (n : Nat) (m : MRd) (c r : Rd) (delta g : FV) (e : Int) (s : State), s.clocked = true → s.rootOn q.val = true →
    x = s.fact q.val f.val → x.job.st = 1 → x.job.req = 2 → n = fdSize x.desc x.job.block →
    m = s.readMat (fdBuf x.desc 0) (fdPitch x.desc) n n 4 → c = m.st.read (fdCert x.desc) 16 → r = c.st.read (fdReq x.desc + 32) 16 →
    m.bad = none → c.bad = none → r.bad = none → leAt r.bytes 8 1 = 0 →
    delta = fmt64.add (fmt64.mul (fdDampRel x.desc) (val64 (leAt r.bytes 0 8))) (fdDampAbs x.desc) → g = fmt64.mul (fdGuard x.desc) (fmt64.add (val64 (leAt r.bytes 0 8)) delta) →
    g.isFin = true → FV.zero.lt g = true → e = leastPow2 g → (val32 (leAt c.bytes 4 4)).le (delta.scale2 (-e)) = true →
    Gives (.rootPreparation q f) s (((r.st.modBlw q.val fun b => { b with order := b.order.filter (· != f.val) }).writeMat .bellows q.val (fdBuf x.desc 0) (fdPitch x.desc) 4
      (matOf n n fun i l => bits32 ((if i = l then fmt64.add (val32 (matAt m.rows 0 i l)) delta else val32 (matAt m.rows 0 i l)).scale2 (-e)))).modJob q.val f.val
        fun j => { j with st := 2, exp := e, iter := 0, ran := false })) ∧
  (∀ (q : Fin 4) (f : Fin 1024) (x : Fact) (j : RootJob) (c : Rd) (s : State), s.clocked = true → s.rootOn q.val = true → x = s.fact q.val f.val → j = x.job.settled (rootTiles x.desc x.job.block) → j.st = 2 →
    j.prods = [] → j.ran = true → c = (s.modJob q.val f.val fun _ => j).read (fdCert x.desc) (16 * (fdNit x.desc + 1)) → c.bad = none →
    Gives (.rootIteration q f) s (c.st.rootStep q.val f.val (j.iter + 1) c.bytes)) ∧
  (∀ (q : Fin 4) (f p : Nat) (ps : List Nat) (j : RootJob) (pr : Prod) (rest : List Prod) (s : State), s.clocked = true → s.rootOn q.val = true →
    (List.range 1024).find? (s.tileReady q.val) = some f → s.freeBorrow q.val = p :: ps →
    j = (s.fact q.val f).job.settled (rootTiles (s.fact q.val f).desc (s.fact q.val f).job.block) → j.prods = pr :: rest →
    Gives (.borrowSubmit q) s ((s.modJob q.val f fun _ => { j with next := j.next + 1, flight := j.flight + 1 }).modHearth p fun h => { h with borrow := some { slot := 0, addr := 0, bytes := tileBytes (s.fact q.val f).desc (tileTag q.val f) j.block pr j.next, side := [], policy := s.policyCopy 0, sideBad := false, aborted := false } })) ∧
  (∀ (q : Fin 4) (s : State), s.clocked = true → s.jobEn = true → (s.bellows q.val).hold = none →
    (((s.bellows q.val).facts.any fun x => x.2.job.deliver == s.job.step && (x.2.job.st == 1 || x.2.job.st == 2)) = true →
      Gives (.rootHold q) s ((s.modBlw q.val fun b => { b with hold := some s.cycle }).raise (F.BLW_EVENT_ROOT_HOLD q.val))) ∧
    (((s.bellows q.val).facts.any fun x => x.2.job.deliver == s.job.step && (x.2.job.st == 1 || x.2.job.st == 2)) = false → s.on (F.BLW_RELSPK_VALID q.val) = true →
      Gives (.rootHold q) s (s.signal (s.get (F.BLW_RELSPK_COUNTER q.val)) none)))

/-- R205 to R207: the ORTHO at the head of a service queue: its input is read, its result written, and its record holds the status and, after a full
run, the trace over the rank; a zero input gives a zero result with status 1, one that is not finite gives none with status 2. -/
def Obligations.OrthoDelivers : Prop :=
  ∀ (q : Fin 4) (c : QCmd) (u : State) (p : MRd) (st : Nat) (res m : List (List FV)) (s : State), s.qOn (svcQ q.val) = true → s.readyHead (svcQ q.val) = some c →
    u = s.startHead (svcQ q.val) → orthoBad u c.bytes = false → p = u.readMat (leAt c.bytes 16 8) (leAt c.bytes 32 4) (leAt c.bytes 8 4) (leAt c.bytes 12 2) 4 → p.bad = none →
    orthoOf (leAt c.bytes 8 4) (leAt c.bytes 12 2) (leAt c.bytes 14 1) (val32 (leAt c.bytes 40 4)) (p.rows.map fun l => l.map val32) = (st, res, m) →
    (st = 0 → Gives (.ortho q) s (((p.st.writeMat .bellows q.val (leAt c.bytes 24 8) (leAt c.bytes 36 4) 4 (res.map fun l => l.map bits32)).svcEnd q.val c 0
      (fmt32.encode (fmt32.round (fmt64.div (sum64 ((List.range (leAt c.bytes 12 2)).map fun i => matAt m FV.zero i i)) (FV.ofInt (leAt c.bytes 12 2)))))).endHead (svcQ q.val))) ∧
    (st = 1 → ∀ (w v : State), w = p.st.writeMat .bellows q.val (leAt c.bytes 24 8) (leAt c.bytes 36 4) 4 (res.map fun l => l.map bits32) → v = (w.fresh 32).2 →
      Gives (.ortho q) s ((v.svcEnd q.val c 1 (w.fresh 32).1).endHead (svcQ q.val))) ∧
    (st = 2 → Gives (.ortho q) s (((p.st.fresh 32).2.svcEnd q.val c 2 (p.st.fresh 32).1).endHead (svcQ q.val)))

/-! ## Kilns (07_kiln_solver.md) -/

/-- R222, R226, R588: the SOLVE at the head of a free kiln, whose matrix header and context can be read, is validated and set up, or rejected. R232, R218,
R237: a solve whose charge has reached its deadline stops with its present solution; a FACTOR whose rows all have their pivots is stored in the other
copy and the context names it; a NOP writes its record. -/
def Obligations.SolveSetsUpAndEnds : Prop :=
  (∀ (q : Fin 4) (c : QCmd) (u : State) (h : Rd) (cx : CtxRd) (s : State), s.qOn (kilnQ q.val) = true → (s.kiln q.val).run = none → s.readyHead (kilnQ q.val) = some c → c.op = 1 →
      u = s.startHead (kilnQ q.val) → klnCommonBad u q.val c.bytes = false → h = u.read (slMatrix c.bytes) 64 →
      cx = h.st.ctxRead q.val (u.pair (R.KLN_CTXBASE_LO q.val)) (slCtx c.bytes) → h.bad = none → cx.bad = none →
      (solveBad cx.st q.val c.bytes h.bytes cx.inc = false → Gives (.solve q) s (cx.st.solveSetup q.val c h.bytes)) ∧
      (solveBad cx.st q.val c.bytes h.bytes cx.inc = true → Gives (.solve q) s ((cx.st.klnReject q.val c).endHead (kilnQ q.val)))) ∧
  ((∀ (q : Fin 4) (z : Solve) (k : KSet) (u s : State), s.clocked = true → (s.kiln q.val).run = some z → slDeadline z.cmd.bytes ≤ z.charged →
      s.solveReads q.val z k u → z.hs = [] → Gives (.deadline q) s (u.solveStop q.val k.a z (if z.flags &&& kfRetried ≠ 0 then 5 else 2))) ∧
    (∀ (q : Fin 4) (c : QCmd) (u : State) (h : Rd) (m : KRd) (a : KMat) (r : Option (List (List (Nat × Blk)))) (ab : Bool) (ch : Nat) (v : State) (s : State),
      s.qOn (kilnQ q.val) = true → (s.kiln q.val).run = none → s.readyHead (kilnQ q.val) = some c → c.op = 2 → u = s.startHead (kilnQ q.val) → klnCommonBad u q.val c.bytes = false →
      h = u.read (slMatrix c.bytes) 64 → h.bad = none → factorBad h.st q.val c.bytes h.bytes = false → m = h.st.readBcsr h.bytes → m.bad = none → m.mat = some a →
      m.st.strictly q.val (factorRows (slPrec c.bytes) a.bs (slDeadline c.bytes) a.rows 0 [] 0) = ((r, ab, ch), v) →
      (∀ f, r = some f → ∀ (cx : CtxRd) (copy : Nat) (w : State), cx = v.ctxRead q.val (v.pair (R.KLN_CTXBASE_LO q.val)) (slCtx c.bytes) → cx.bad = none →
        copy = 1 - leAt cx.cur 72 4 / 8 % 2 →
        w = cx.st.unitWrite .kiln q.val (leAt cx.inc (80 + 8 * copy) 8) ((factorStore (slPrec c.bytes) a.bs a f).flatMap fun b => b.flatMap fun l => l.flatMap fun e => leBytes 8 e) →
        w.writeFaulted .kiln q.val = false →
        Gives (.factor q) s (((w.unitWrite .kiln q.val cx.addr (ctxSet (ctxSet cx.inc 64 8 a.psig) 72 4 (slPrec c.bytes + 8 * copy))).klnFinish q.val c 8 0 0 0 0 ch 0).endHead (kilnQ q.val))) ∧
      (r = none → Gives (.factor q) s (((if ab then v.raise (F.KLN_EVENT_FACTOR_ABANDONED q.val) else v.raise (F.KLN_EVENT_FACTOR_FAILED q.val)).klnFinish q.val c (if ab then 9 else 10) 0 0 0 0 ch 0).endHead (kilnQ q.val)))) ∧
    (∀ (q : Fin 4) (c : QCmd) (s : State), s.qOn (kilnQ q.val) = true → (s.kiln q.val).run = none → s.readyHead (kilnQ q.val) = some c → c.op = 3 →
      leAt c.bytes 0 4 < 2 ^ 8 → zeroAt c.bytes 8 84 = true → zeroAt c.bytes 96 32 = true → zeroAt c.bytes 136 56 = true → bitsOf (slSpark c.bytes) 14 12 = 0 → bitsOf (leAt c.bytes 94 2) 14 12 = 0 →
      (slRec c.bytes = 0 ∨ (slRec c.bytes % 64 = 0 ∧ s.recAddrOk (slRec c.bytes) = true)) →
      Gives (.kilnNop q) s (((s.startHead (kilnQ q.val)).klnFinish q.val c 11 0 0 0 0 0 0).endHead (kilnQ q.val))))

/-- R228 to R232, R241, R242: one iteration of a solve short of its deadline, with its matrix, preconditioner, right side and certificate readable:
it is counted and charged; the solve goes on, also past its cap once its deadline has arrived, or stops converged, at its cap, or broken down; a breach
of the certificate takes the retry or ends; the result of a retry is marked. -/
def Obligations.SolveIterates : Prop :=
  ∀ (q : Fin 4) (z z1 : Solve) (k : KSet) (u v w : State) (t : KStep) (s : State),
    s.clocked = true → (s.kiln q.val).run = some z → z.charged < slDeadline z.cmd.bytes → s.solveReads q.val z k u →
    u.strictly q.val (z.iterate k.a (z.pc k.f k.dg) k.cert k.b) = (t, v) → z1 = z.after k.a t →
    w = (v.setPair (R.KLN_ITERS_LO q.val) ((v.pair (R.KLN_ITERS_LO q.val) + 1) % 2 ^ 64)).scribble z.cmd.bytes k.a.n z.fixed →
    (t.stop = 0 → (z1.iters < slCap z.cmd.bytes ∨ slDeadline z.cmd.bytes ≤ z1.charged) → Gives (.solveIteration q) s (w.modKln q.val fun k => { k with run := some z1 })) ∧
    (t.stop = 0 → slCap z.cmd.bytes ≤ z1.iters → z1.charged < slDeadline z.cmd.bytes → Gives (.solveIteration q) s (w.solveStop q.val k.a z1 (if z.flags &&& kfRetried ≠ 0 then 5 else 3))) ∧
    (t.stop = 1 → Gives (.solveIteration q) s (w.solveStop q.val k.a z1 0)) ∧
    (t.stop = 2 → Gives (.solveIteration q) s (w.solveStop q.val k.a z1 (if z.flags &&& kfRetried ≠ 0 then 5 else 4))) ∧
    (t.stop = 3 → ∀ (x0 : List Dbl) (y : State), w.readX0 z.cmd.bytes k.st k.a.n = (x0, none, y) → Gives (.solveIteration q) s (y.kilnBreach q.val k.a k.b x0 z1))

/-- R243 to R245: a well-formed eigenvalue request runs NPI power iterations, or only those that the budget lets start: the result holds the
estimate, or is marked as one without convergence or one cut short. -/
def Obligations.LambdaRequestIsAnswered : Prop :=
  ∀ (q : Fin 4) (a : Nat) (r : Rd) (n full : Nat) (m : MRd) (mu : Option Dbl) (it : Nat) (u : State) (k : Nat) (s : State), s.clocked = true → s.on (F.KLN_CTRL_LAM_EN q.val) = true →
    (s.kiln q.val).req = some a → r = s.read a 32 → r.bad = none → n = leAt r.bytes 20 2 →
    leAt r.bytes 0 4 = 1 → leAt r.bytes 4 4 < 2 ^ 15 → leAt r.bytes 8 8 % 64 = 0 → leAt r.bytes 16 4 % 64 = 0 → 0 < n → n ≤ 2048 → bitsOf (leAt r.bytes 22 2) 14 12 = 0 → leAt r.bytes 24 8 = 0 →
    full = ceilDiv (s.get (F.KLN_LAMDL_CYCLES q.val)) (lamCost n) → m = r.st.readMat (leAt r.bytes 8 8) (leAt r.bytes 16 4) n n 4 → m.bad = none →
    k = min full (s.npi q.val) → m.st.strictly q.val (powerIter (m.rows.map fun l => l.map widen32to64) k (List.replicate n dOne) 0 0) = ((mu, it), u) →
    (s.npi q.val ≤ full → Gives (.lambdaRequest q) s (u.lambdaAnswer q.val a (if mu.isSome then 0 else 1) it (it * lamCost n) (mu.getD 0) (leAt r.bytes 22 2))) ∧
    (full < s.npi q.val → Gives (.lambdaBudgetReached q) s (u.lambdaAnswer q.val a (if mu.isSome then 2 else 1) it (it * lamCost n) 0 (leAt r.bytes 22 2)))

/-! ## Fireboxes (08_firebox_parameter_update.md) -/

/-- R252 to R254, R263 to R265: a NORM runs pass 1 over its valid shards in ascending order and ends with their counts; a FOLD writes the vector of the
totals of this step and the incoming state of every valid group; a NOP writes its record and sends its spark. -/
def Obligations.NormFoldAndNopRun : Prop :=
  ∀ (q : Fin 4) (c : QCmd) (u : State) (s : State), s.qOn (fireboxQ q.val) = true → s.readyHead (fireboxQ q.val) = some c → u = s.startHead (fireboxQ q.val) → fbxCommonBad u c.bytes = false →
    (c.op = 1 → fcRangeBad u q.val c.bytes = false → zeroAt c.bytes 24 20 = true →
      ∀ (l : List (Nat × List Byte × List Byte)) (v w : State) (n : FCount), u.loadShards q.val (fcFirst c.bytes) (fcCount c.bytes) = (l, none, v) →
      (l.all fun p => !shardBad p.2.1 p.2.2) = true → overShards (fun t i d e => t.normShard q.val i d e) l FCount.none v = (n, none, w) → Gives (.norm q) s (w.fbxEnd q.val c 0 n)) ∧
    (c.op = 2 → leAt c.bytes 8 4 = 0 → addrBad (fcVec c.bytes) = false → zeroAt c.bytes 32 12 = true →
      ∀ (recs groups : List (List Byte × List Byte)) (v w : State) (sels : Rd),
      u.readPairs (u.get (F.FBX_NSHARD_COUNT q.val)) 192 64 (fun i => u.shardAddr q.val i) (fun i => u.shardRec q.val i) = (recs, none, v) →
      sels = v.groupSels → sels.bad = none → sels.st.readPairs 256 128 32 (fun g => u.groupAddr q.val g) (fun g => u.gstateAddr q.val g (groupSel sels.bytes g)) = (groups, none, w) →
      Gives (.fold q) s (((w.unitWrite .firebox q.val (fcVec c.bytes) (foldVec s.job.step recs)).foldGroups q.val sels.bytes groups).fbxEnd q.val c 0 FCount.none)) ∧
    (c.op = 5 → leAt c.bytes 8 4 = 0 → zeroAt c.bytes 24 20 = true → Gives (.fireboxNop q) s (u.fbxEnd q.val c 0 FCount.none))

/-- R267 to R276: an UPDATE whose vector reports no non-finite element runs pass 2 over its shards, in order, with the programs and constants of their
groups; one whose vector reports one vetoes the step and writes no shard. -/
def Obligations.UpdateRunsOrVetoes : Prop :=
  ∀ (q : Fin 4) (c : QCmd) (u v w : State) (l : List (Nat × List Byte × List Byte)) (progs : List (Nat × List Nat)) (r : Rd) (s : State),
    s.qOn (fireboxQ q.val) = true → s.readyHead (fireboxQ q.val) = some c → c.op = 3 → u = s.startHead (fireboxQ q.val) →
    fbxCommonBad u c.bytes = false → fcRangeBad u q.val c.bytes = false → addrBad (fcVec c.bytes) = false → paramOk (fcMaxNorm c.bytes) = true → zeroAt c.bytes 36 8 = true →
    u.loadShards q.val (fcFirst c.bytes) (fcCount c.bytes) = (l, none, v) → (l.any fun p => shardBad p.2.1 p.2.2 || groupBadEntry p.2.2) = false →
    v.loadProgs l = (progs, none, w) → (l.any fun p => !(((progs.lookup (sdGroup p.2.1)).getD []).all (insOk (sdNstate p.2.1)))) = false →
    r = w.read (fcVec c.bytes) 6160 → r.bad = none →
    ((r.bytes.head?.any fun x => x.getLsbD 0) = true → Gives (.update q) s (((r.st.raise (F.FBX_EVENT_VETOED q.val)).vetoNf).fbxEnd q.val c 1 FCount.none)) ∧
    ((r.bytes.head?.any fun x => x.getLsbD 0) = false → ∀ (ents : List (List Byte × List Byte)) (a b : State) (n : FCount) (sels : Rd),
      sels = r.st.groupSels → sels.bad = none → sels.st.readPairs 256 128 32 (fun g => w.groupAddr q.val g) (fun g => w.gstateAddr q.val g (1 - groupSel sels.bytes g)) = (ents, none, a) →
      a.updateShards q.val (fun g => (progs.lookup g).getD []) (updateConsts ents r.bytes (fcMaxNorm c.bytes)) l = (n, none, b) → Gives (.update q) s (b.fbxEnd q.val c 0 n))

/-- R277: a DWRITE to a shard that this step has updated writes its finite elements to the incoming copy and publishes them; one to a frozen shard, to
a shard that pass 2 has not handled in this step, or past its end, is discarded, with a cause that holds. -/
def Obligations.DwriteWritesOrIsDiscarded : Prop :=
  ∀ (q : Fin 4) (c : QCmd) (u v : State) (j : Nat) (sd e : List Byte) (rest : List (Nat × List Byte × List Byte)) (rd : Rd) (s : State),
    s.qOn (fireboxQ q.val) = true → s.readyHead (fireboxQ q.val) = some c → c.op = 4 → u = s.startHead (fireboxQ q.val) →
    fbxCommonBad u c.bytes = false → fcRangeBad u q.val c.bytes = false → fcCount c.bytes = 1 → addrBad (fcVec c.bytes) = false → leAt c.bytes 36 4 ≠ 0 → leAt c.bytes 40 4 < 2 →
    u.loadShards q.val (fcFirst c.bytes) 1 = ((j, sd, e) :: rest, none, v) → shardBad sd e = false → rd = v.read (v.shardRec q.val (fcFirst c.bytes)) 64 → rd.bad = none →
    ∀ why, why = (if geFrozen e then [1] else []) ++ (if (leAt rd.bytes 40 4).testBit 2 && leAt rd.bytes 48 8 == s.job.step then [] else [2]) ++
      (if sdN sd < leAt c.bytes 32 4 + leAt c.bytes 36 4 then [3] else []) →
    (why ≠ [] → ∃ cause ∈ why, Gives (.dwrite q) s (rd.st.dwDiscard q.val c cause)) ∧
    (why = [] → ∀ (inc : Nat) (vs hs : List Nat) (a b : State), inc = 1 - leAt rd.bytes 8 4 % 2 →
        rd.st.readCodes (fcVec c.bytes) (leAt c.bytes 36 4) 4 = (vs, none, a) → a.readCodes (sdHigh sd + inc * sdOff sd) (sdN sd) 2 = (hs, none, b) →
        (vs.zipIdx.filter fun p => (val32 p.1).isFin).length = leAt c.bytes 36 4 →
        Gives (.dwrite q) s (((b.dwElems q.val sd e inc (leAt c.bytes 32 4) ((leAt c.bytes 40 4).testBit 0) (vs.zipIdx.filter fun p => (val32 p.1).isFin)).publish q.val sd inc
          (dwHighs (leAt c.bytes 32 4) (vs.zipIdx.filter fun p => (val32 p.1).isFin) hs)).fbxEnd q.val c 0 ⟨0, leAt c.bytes 36 4, 0⟩))

/-! ## Collective engines (12_collectives_and_job_mapping.md) -/

/-- R405 to R408, R412, R416, R417, R419, R420: an ALLREDUCE, REDUCE or NORM at the head of an engine that keeps its rules, on a tree that is free,
starts: its local contribution, with the status of this device, enters the node of the tree; under a veto of its check list only the status does. -/
def Obligations.CollectiveStarts : Prop :=
  ∀ (q : Fin 4) (i : Instr) (op : Nat) (c : QCmd) (u v : State) (e : Nat) (ct : Contrib) (chk : Bool) (r : ColRun) (s : State),
    ((i = .allreduce q ∧ op = 1) ∨ (i = .reduce q ∧ op = 2) ∨ (i = .collectiveNorm q ∧ op = 3)) →
    s.qOn (colQ q.val) = true → s.readyHead (colQ q.val) = some c → c.op = op → colBad s q.val c.bytes = false →
    (s.node q.val (treeKey s.epoch (ccTree c.bytes))).kept = [] → s.runOn q.val (treeKey s.epoch (ccTree c.bytes)) = none → s.switchHold = false →
    u = (s.startHead (colQ q.val)).noteInjection → e = u.treeEntry u.epoch (ccTree c.bytes) →
    ct = (if !treeLocal e then ⟨[], 0, false, none, u⟩ else if op = 3 then u.normContribution c.bytes else u.contribution c.bytes) → ct.bad = none →
    ct.st.checkList c.bytes = (chk, none, v) →
    r = { cmd := c, tree := ccTree c.bytes, epoch := v.epoch, nb := ccBlocks c.bytes, writes := op != 2 || treeParent e == 12, root := treeParent e == 12, own := if treeLocal e then ct.blocks ++ [statusPack (ct.veto || chk) false (if (ct.veto || chk) then ccRank c.bytes else 0x3FFF) (if (ct.veto || chk) then ccLayer c.bytes else 0) 1 ct.nonfin] else [], res := [], rnext := 0, sent := none, restarted := false } →
    Gives i s (v.colLaunch q.val false r (op == 3 || !(ccCheck c.bytes && (ct.veto || chk) && treeLocal e)))

/-- R407, R410, R421: a NOP of a collective engine writes its record; a node whose sources have all given its next block combines it; one that only
relays a single child keeps the block and sends it to its parent unchanged. -/
def Obligations.BlocksAreCombined : Prop :=
  (∀ (q : Fin 4) (c : QCmd) (s : State), s.qOn (colQ q.val) = true → s.readyHead (colQ q.val) = some c → c.op = 4 → colCommonBad (s.startHead (colQ q.val)) c.bytes = false →
    leAt c.bytes 0 4 < 2 ^ 8 → zeroAt c.bytes 8 60 = true → zeroAt c.bytes 80 32 = true →
    Gives (.collectiveNop q) s (((s.startHead (colQ q.val)).colFinish q.val c 0 ColRec.none).endHead (colQ q.val))) ∧
  (∀ (q : Fin 4) (k i : Nat) (src : List Nat) (s : State), s.clocked = true →
    (((s.colOf q.val).nodes.map (·.1)).findSome? fun k => (s.combinable q.val k).map fun x => (k, x.1, x.2)) = some (k, i, src) →
    Gives (.blockCombine q) s (s.combineAt q.val k i src) ∧
    (s.runOn q.val k = none → ∀ p, src = [p] → Gives (.blockCombine q) s
      (((s.modNode q.val k fun n => { n with contrib := n.contrib.filter fun c => c.1 % 2 ^ 32 != i, next := i + 1 }).modNode q.val k fun n =>
        { n with kept := n.kept ++ [(i, (s.node q.val k).contrib.look [] (p * 2 ^ 32 + i))] }).sendOn (treeParent (s.treeAt k))
          (treePacket 2 (k / 4096) (k % 4096) i ((s.node q.val k).contrib.look [] (p * 2 ^ 32 + i))))))

/-! ## Crickets (09_cricket_cores_and_vector_extensions.md) -/

/-- R294, R295, R318: a cricket that fetches a word of the commanded group does what the word says and goes on where it says, traps at the fetched
state with no other effect, or stays where it is; a word of another group is left alone. -/
def Obligations.InstructionRuns : Prop :=
  ∀ (c : Fin 72) (i : Instr) (mine : Nat → Bool) (f : Nat → State → CRes) (w : Nat) (t s : State), (i, mine, f) ∈ crkGroups c → s.crkFetches c.val w t →
    (mine w = true → Gives i s (match f w t with
      | .done u next => u.crkWent c.val next
      | .trap cause tval => (t.crkTrap c.val cause tval).crkStepped c.val
      | .stay u => u.crkStepped c.val)) ∧
    (mine w = false → Gives i s s)

/-- R318, R319: TRAP, with no trap in progress and no single step: TCAUSE, TVAL, TPC and TSTATE take the cause, the word, the address and the level; the
level becomes supervisor unless it is higher, and the cricket goes on at TVEC; no other register of the cricket changes. Inside a trap the
cricket records the double trap and halts. -/
def Obligations.TrapIsTaken : Prop :=
  ∀ (c : Fin 72) (w : Nat) (t s : State), s.crkFetches c.val w t → ofSystem 2 w = true → sysOk w = true → t.on (F.CRK_CTRL_SSTEP c.val) = false →
    ((t.cricket c.val).inTrap = false → ∃ u, exec (.trap c) s = .next u ∧
      u.cricket c.val = { t.cricket c.val with tcause := 4, tval := BitVec.ofNat 64 w, tpc := (t.cricket c.val).pc, tlevel := (t.cricket c.val).level, inTrap := true, level := max 1 (t.cricket c.val).level, pc := (t.cricket c.val).tvec } ∧
      u.on (F.CRK_EVENT_TRAP c.val) = true ∧ (∀ d : Fin 72, d ≠ c → u.cricket d.val = t.cricket d.val) ∧ RegsBut [R.CRK_EVENT c.val, R.CRK_TRAP c.val] t u ∧ u.mem = t.mem) ∧
    ((t.cricket c.val).inTrap = true → (t.cricket c.val).halted = false → ∃ u, exec (.trap c) s = .next u ∧ (u.cricket c.val).halted = true ∧ u.on (F.CRK_EVENT_DOUBLE c.val) = true ∧ u.on (F.CRK_EVENT_HALTED c.val) = true ∧
      u.get (F.CRK_CTRL_RUN c.val) = t.get (F.CRK_CTRL_RUN c.val) ∧ (u.cricket c.val).pc = (t.cricket c.val).pc)

/-- R285, R289, R294, R296, R299: results of the scalar group, of branches, of SETVL and SETWL, and of accesses to the local store: a store of n bytes
changes those n bytes, least significant first, and no other; a load of bytes none of which is uncorrectable gives them, zero- or sign-extended.
What a branch's offset counts from is open (log 23). -/
def Obligations.ScalarResults : Prop :=
  ∀ (c : Fin 72) (w : Nat) (t s : State), s.crkFetches c.val w t →
    (∀ v, ofClass 0 1 w = true → (wClass w = 1 ∨ w % 2 ^ 7 = 0) →
      Config.scalarResult (wClass w == 1) (wOp w) ((t.cricket c.val).gReg (wA w)) (if wClass w = 1 then BitVec.ofInt 64 (wImm w) else (t.cricket c.val).gReg (wB w)) = some v →
      Gives (.scalarInteger c) s ((t.modCrk c.val fun k => k.setG (wD w) v).crkWent c.val ((t.cricket c.val).pc + 4))) ∧
    (∀ taken, ofClass 3 3 w = true → Config.branchTaken (wOp w) ((t.cricket c.val).gReg (wD w)) ((t.cricket c.val).gReg (wA w)) = some taken →
      Gives (.branch c) s (t.crkWent c.val (if taken then Config.branchBase (t.cricket c.val).pc + BitVec.ofInt 64 (4 * wImm w) else (t.cricket c.val).pc + 4))) ∧
    (∀ (x : BitVec 15) (e n : Nat), Config.setLength (BitVec.ofNat 32 w) = some x → e = 8 * 2 ^ (x.toNat / 2 ^ 11 % 4) →
      (x.getLsbD 0 = false → n = min ((t.cricket c.val).gReg (x.toNat / 2 ^ 6 % 32)).toNat (512 / e) →
        Gives (.setvl c) s ((t.modCrk c.val fun k => { k with vl := n, tz := x.toNat.testBit 13, mz := x.toNat.testBit 14 }.setG (x.toNat / 2 % 32) (BitVec.ofNat 64 n)).crkWent c.val ((t.cricket c.val).pc + 4))) ∧
      (x.getLsbD 0 = true → n = min ((t.cricket c.val).gReg (x.toNat / 2 ^ 6 % 32)).toNat (32768 / e) →
        Gives (.setwl c) s ((t.modCrk c.val fun k => { k with wl := n, tz := x.toNat.testBit 13, mz := x.toNat.testBit 14 }.setG (x.toNat / 2 % 32) (BitVec.ofNat 64 n)).crkWent c.val ((t.cricket c.val).pc + 4)))) ∧
    (∀ (m : BitVec 4) (a n : Nat), ofClass 2 2 w = true → Config.scalarMem (wOp w) = some m → n = 2 ^ (m.toNat / 2 % 4) → a = ((t.cricket c.val).gReg (wA w) + BitVec.ofInt 64 (wImm w)).toNat →
      a % n = 0 → 0xFFFFFFFFFFFC0000 ≤ a → ((t.cricket c.val).level = 0 → (t.cricket c.val).allows a n (m.getLsbD 0) = true) →
      (m.getLsbD 0 = true → ∃ u, exec (.scalarLoadStore c) s = .next u ∧
        (∀ j, (u.cricket c.val).store.look 0 j = if a - 0xFFFFFFFFFFFC0000 ≤ j ∧ j < a - 0xFFFFFFFFFFFC0000 + n
          then BitVec.ofNat 8 (((t.cricket c.val).gReg (wD w)).toNat / 256 ^ (j - (a - 0xFFFFFFFFFFFC0000))) else (t.cricket c.val).store.look 0 j) ∧
        (u.cricket c.val).g = (t.cricket c.val).g ∧ (u.cricket c.val).pc = (t.cricket c.val).pc + 4 ∧ u.mem = t.mem) ∧
      (m.getLsbD 0 = false → (∀ b ∈ (t.cricket c.val).storeBad, b < a - 0xFFFFFFFFFFFC0000 ∨ a - 0xFFFFFFFFFFFC0000 + n ≤ b) → Gives (.scalarLoadStore c) s ((t.modCrk c.val fun k => k.setG (wD w)
        (extend n (leNat ((List.range n).map fun i => (t.cricket c.val).store.look 0 (a - 0xFFFFFFFFFFFC0000 + i))) (m.getLsbD 3))).crkWent c.val ((t.cricket c.val).pc + 4))))

/-- R288, R293, R295, R311, R441, R444, R446: the system group, for a word with its reserved fields zero. CRD and CWR read and write a control register
that the level reaches, and trap as illegal otherwise; TRET goes to TPC at the level of TSTATE, never above the present one, and clears IN_TRAP; FENCE
goes on; SYNCW stays until its completion; IFLUSH empties the instruction cache; SPK signals its counter; WAIT and WAITT go on or stall; SENTER takes a
hob cricket to its secure entry and traps elsewhere; HALT halts. -/
def Obligations.SystemOperations : Prop :=
  ∀ (c : Fin 72) (w : Nat) (t s : State), s.crkFetches c.val w t → sysOk w = true →
    (∀ l, ctlLevel c.val (sysN w) = some l → l ≤ (t.cricket c.val).level →
      (ofSystem 0 w = true → Gives (.crd c) s ((t.modCrk c.val fun k => k.setG (sysG w) (t.ctlRead c.val (sysN w))).crkWent c.val ((t.cricket c.val).pc + 4))) ∧
      (ofSystem 1 w = true → Gives (.cwr c) s ((t.modCrk c.val fun k => k.ctlWrite (sysN w) (k.gReg (sysG w))).crkWent c.val ((t.cricket c.val).pc + 4)))) ∧
    ((∀ l, ctlLevel c.val (sysN w) = some l → (t.cricket c.val).level < l) →
      (ofSystem 0 w = true → Gives (.crd c) s ((t.crkTrap c.val 1 (BitVec.ofNat 64 w)).crkStepped c.val)) ∧
      (ofSystem 1 w = true → Gives (.cwr c) s ((t.crkTrap c.val 1 (BitVec.ofNat 64 w)).crkStepped c.val))) ∧
    (ofSystem 3 w = true → Gives (.tret c) s ((t.modCrk c.val fun k => { k with level := min k.tlevel k.level, inTrap := false }).crkWent c.val (t.cricket c.val).tpc)) ∧
    (ofSystem 4 w = true → Gives (.fence c) s (t.crkWent c.val ((t.cricket c.val).pc + 4))) ∧
    (ofSystem 5 w = true → Gives (.syncw c) s (t.modCrk c.val fun k => { k with syncing := true })) ∧
    (ofSystem 6 w = true → Gives (.iflush c) s ((t.modCrk c.val fun k => { k with icache := [] }).crkWent c.val ((t.cricket c.val).pc + 4))) ∧
    (ofSystem 7 w = true → ∀ u, u = t.signal (sysB (t.cricket c.val) w) (t.crkSignalQid c.val) → Gives (.spk c) s (u.crkWent c.val ((u.cricket c.val).pc + 4))) ∧
    (∀ (take : Bool) (i : Instr), (i = .wait c ∧ take = false ∧ ofSystem 8 w = true) ∨ (i = .waitt c ∧ take = true ∧ ofSystem 9 w = true) →
      ∀ u, t.waitOn (t.crkQid c.val) (sysB (t.cricket c.val) w) take = (true, u) → Gives i s (u.crkWent c.val ((u.cricket c.val).pc + 4))) ∧
    (∀ (take : Bool) (i : Instr), (i = .wait c ∧ take = false ∧ ofSystem 8 w = true) ∨ (i = .waitt c ∧ take = true ∧ ofSystem 9 w = true) →
      ∀ u, t.waitOn (t.crkQid c.val) (sysB (t.cricket c.val) w) take = (false, u) → Gives i s (u.modCrk c.val fun k => { k with waiting := true })) ∧
    (ofSystem 10 w = true → 68 ≤ c.val → Gives (.senter c) s ((t.modCrk c.val fun k => { k with level := 2 }).crkWent c.val (t.cricket c.val).secctl)) ∧
    (ofSystem 11 w = true → Gives (.halt c) s (t.crkHalt c.val))

/-- R311, R322, R324: a stalled SYNCW completes behind its instruction. A write of CRK_CTRL, secure for a hob cricket, starts a halted cricket at its entry
address at supervisor level, halts a running one, withdrawing its wait, and clears a halted one's registers, masks, vector state, FPSTAT and IN_TRAP; a
write of the mailbox leaves its word and marks mail. No other cricket, register or byte of memory changes. -/
def Obligations.CricketIsControlled : Prop :=
  (∀ (c : Fin 72) (s : State), s.clocked = true → (s.cricket c.val).syncing = true →
    Gives (.syncwDone c) s ((s.modCrk c.val fun k => { k with syncing := false, pc := k.pc + 4 }).crkStepped c.val)) ∧
  (∀ (c : Fin 72) (who : Requester) (s : State), s.busOn = true → (c.val < 68 ∨ s.isSecure who.val = true) →
    ((s.cricket c.val).halted = true → ∃ t, exec (.cricketRun who c) s = .next t ∧
      t.cricket c.val = { s.cricket c.val with halted := false, level := 1, rom := false, pc := BitVec.ofNat 64 (s.pair (R.CRK_ENTRY_LO c.val)) } ∧ t.on (F.CRK_CTRL_RUN c.val) = true ∧
      (∀ d : Fin 72, d ≠ c → t.cricket d.val = s.cricket d.val) ∧ RegsBut [R.CRK_CTRL c.val] s t ∧ t.mem = s.mem) ∧
    ((s.cricket c.val).halted = false → c.val < 68 → ∃ t, exec (.cricketHalt who c) s = .next t ∧
      t.cricket c.val = { s.cricket c.val with halted := true, waiting := false, syncing := false } ∧ t.on (F.CRK_CTRL_RUN c.val) = false ∧ t.on (F.CRK_EVENT_HALTED c.val) = true ∧
      (∀ d : Fin 72, d ≠ c → t.cricket d.val = s.cricket d.val) ∧
      ((s.cricket c.val).waiting = true → ∀ w ∈ t.syn.waiters, w.qid ≠ s.crkQid c.val) ∧ ((s.cricket c.val).waiting = false → RegsBut [R.CRK_CTRL c.val, R.CRK_EVENT c.val] s t) ∧ t.mem = s.mem) ∧
    ((s.cricket c.val).halted = true → s.on (F.CRK_CTRL_RUN c.val) = false → ∃ t, exec (.creset who c) s = .next t ∧
      t.cricket c.val = { s.cricket c.val with g := [], v := [], w := [], msk := [], vl := 0, wl := 0, tz := false, mz := false, fpstat := 0, inTrap := false } ∧
      (∀ d : Fin 72, d ≠ c → t.cricket d.val = s.cricket d.val) ∧ RegsBut [R.CRK_CTRL c.val] s t ∧ t.mem = s.mem) ∧
    (∀ val : Word, ∃ t, exec (.mailboxWrite who c val) s = .next t ∧ t.get (F.CRK_MAILBOX_MSG c.val) = val.toNat ∧ t.on (F.CRK_EVENT_MAIL c.val) = true ∧ t.crk = s.crk ∧
      RegsBut [R.CRK_MAILBOX c.val, R.CRK_EVENT c.val] s t ∧ t.mem = s.mem))

/-! ## Writes that make a unit act -/

/-- R159: a write of NUM_POL_CTRL clears that entry's history and pending maximum, and no other entry's. R348: RETIRE with GO and a
spare destination starts the copy, and a write while one runs does nothing. R363: with no image loaded, START begins a
margining run, or sets REFUSED when the axis does not suit the target or the length is out of range; one that is under way keeps running. R367: ABORT ends it, and the counts it
leaves are free. R546: the written bits of MGN_CTRL stay. -/
def Obligations.ControlWritesAct : Prop :=
  ∀ (who : Requester) (val : Word) (s : State), s.busOn = true →
    (∀ e : Fin 256, ∃ t, exec (.policyWrite who e val) s = .next t ∧ t.num.hist.look [] e.val = [] ∧ (t.reg (R.NUM_PST_PEND e.val)) = 0 ∧
      t.reg (R.NUM_PST_HMAX e.val) = 0 ∧ t.get (F.NUM_PST_HCNT_HCOUNT e.val) = 0 ∧
      (∀ e' : Fin 256, e' ≠ e → t.num.hist.look [] e'.val = s.num.hist.look [] e'.val) ∧
      RegsBut [R.NUM_POL_CTRL e.val, R.NUM_PST_PEND e.val, R.NUM_PST_HMAX e.val, R.NUM_PST_HCNT e.val] s t ∧ t.mem = s.mem) ∧
    (s.isSecure who.val = true →
      (s.on F.CMB_STATUS_RETIRING = true → Gives (.pairRetire who val) s s) ∧
      (s.on F.CMB_STATUS_RETIRING = false → val.getLsbD 31 = true → val.toNat % 256 < 136 → val.toNat / 2 ^ 8 % 256 < 136 →
        s.get (F.CMB_S_STATE_STATE (val.toNat / 2 ^ 8 % 256)) = 1 →
        ∃ t, exec (.pairRetire who val) s = .next t ∧ t.ram.retiring = some (val.toNat % 256, val.toNat / 2 ^ 8 % 256) ∧ t.on F.CMB_STATUS_RETIRING = true ∧
          t.get F.CMB_RETIRE_FROM = val.toNat % 256 ∧ t.get F.CMB_RETIRE_TO = val.toNat / 2 ^ 8 % 256 ∧
          RegsBut [R.CMB_RETIRE, R.CMB_STATUS] s t ∧ t.mem = s.mem) ∧
      (val.getLsbD 1 = false → s.on F.CFG_STATE_IMAGE = false → s.on F.MGN_STATUS_BUSY = true → Gives (.marginStart who val) s ((s.set F.MGN_CTRL_START 1).set F.MGN_CTRL_ABORT 0)) ∧
      (val.getLsbD 1 = false → s.on F.CFG_STATE_IMAGE = false → s.on F.MGN_STATUS_BUSY = false →
        let may : Bool := (if s.on F.MGN_TARGET_KIND then s.get F.MGN_AXIS_AXIS == 4 || s.get F.MGN_AXIS_AXIS == 5 else decide (s.get F.MGN_AXIS_AXIS < 4)) &&
          decide (0 < s.get F.MGN_LEN_LINES) && decide (s.get F.MGN_LEN_LINES ≤ 1048576)
        ∃ t, exec (.marginStart who val) s = .next t ∧ t.on F.MGN_STATUS_BUSY = may ∧ t.on F.MGN_STATUS_REFUSED = !may ∧ t.on F.MGN_STATUS_DONE = (s.on F.MGN_STATUS_DONE && !may) ∧
          RegsBut [R.MGN_STATUS, R.MGN_CTRL] s t ∧ t.mem = s.mem) ∧
      ∀ s0, s0 = (s.set F.MGN_CTRL_START 0).set F.MGN_CTRL_ABORT 1 →
        (s.on F.MGN_STATUS_BUSY = true → ∃ t, exec (.marginAbort who) s = .next t ∧ t.on F.MGN_STATUS_BUSY = false ∧
          RegsBut [R.MGN_CTRL, R.MGN_STATUS, R.MGN_CE, R.MGN_UE] s t ∧ t.mem = s0.marginLoss.mem) ∧
        (s.on F.MGN_STATUS_BUSY = false → Gives (.marginAbort who) s s0))

/-- R362: a start of a margining run is accepted only while no image is loaded; otherwise it is ignored, and REFUSED is set. -/
def Obligations.MarginStartNeedsNoImage : Prop :=
  ∀ (who : Requester) (val : Word) (s : State), s.busOn = true → s.isSecure who.val = true → val.getLsbD 1 = false →
    (s.on F.CFG_STATE_IMAGE = true → Gives (.marginStart who val) s (((s.set F.MGN_CTRL_START 1).set F.MGN_CTRL_ABORT 0).set F.MGN_STATUS_REFUSED 1)) ∧
    (∀ t, exec (.marginStart who val) s = .next t → s.on F.MGN_STATUS_BUSY = false → t.on F.MGN_STATUS_BUSY = true → s.on F.CFG_STATE_IMAGE = false)

/-- R592, R403: a write of MODE without RETRAIN takes the port to OFF at once or starts its training, with its replay buffer and its lanes gone;
RETRAIN with the mode it has only leaves the request. R390: a request of a planned switch stands unless an injection of its step, or of a later one, has been made; PEND = 0
withdraws it, and what waited is injected. R395: GO sends the NOTICE that names the dead link and the switch frame on every live port. R394: FENCE fences the live ports it names
and brings those it no longer names back. -/
def Obligations.FlueControlWritesAct : Prop :=
  ∀ (who : Requester) (val : Word) (s : State), s.busOn = true → s.isSecure who.val = true →
    (∀ p : Fin 12, val.getLsbD 2 = false → val.toNat % 4 < 3 →
      (val.toNat % 4 = 0 → s.get F.FLU_STATUS_MARKPORT ≠ p.val →
        ∃ t, exec (.portModeWrite who p val) s = .next t ∧ t.portState p.val = 0 ∧ t.get (F.FLU_P_STATUS_LANES p.val) = 0 ∧ t.get (F.FLU_P_CTRL_MODE p.val) = 0 ∧
          (t.port p.val).retrain = false ∧ (t.port p.val).held = (s.port p.val).held ∧
          (∀ q : Fin 12, q ≠ p → t.port q.val = s.port q.val) ∧ RegsBut [R.FLU_P_CTRL p.val, R.FLU_P_STATUS p.val] s t ∧ t.mem = s.mem) ∧
      (val.toNat % 4 ≠ 0 → s.get F.FLU_STATUS_MARKPORT ≠ p.val →
        ∃ t, exec (.portModeWrite who p val) s = .next t ∧ t.portState p.val = 1 ∧ t.get (F.FLU_P_STATUS_LANES p.val) = 0 ∧
          t.get (F.FLU_P_CTRL_MODE p.val) = val.toNat % 4 ∧ (t.port p.val).replay = [] ∧ (t.port p.val).retrain = false ∧ (t.port p.val).held = (s.port p.val).held ∧
          (∀ q : Fin 12, q ≠ p → t.port q.val = s.port q.val) ∧ RegsBut [R.FLU_P_CTRL p.val, R.FLU_P_STATUS p.val] s t ∧ t.mem = s.mem)) ∧
    (∀ p : Fin 12, (val ||| 4).toNat % 4 = s.get (F.FLU_P_CTRL_MODE p.val) →
      ∃ t, exec (.portRetrainRequest who p val) s = .next t ∧ t.on (F.FLU_P_CTRL_RETRAIN p.val) = true ∧ t.port p.val = { s.port p.val with retrain := true } ∧
        t.portState p.val = s.portState p.val ∧ RegsBut [R.FLU_P_CTRL p.val] s t ∧ t.mem = s.mem) ∧
    (val.getLsbD 1 = false → Gives (.plannedSwitchRequest who val) s ((s.set F.FLU_EPOCH_SWSTEP (val.toNat / 2 ^ 8)).set F.FLU_EPOCH_PEND 0).releaseInjections) ∧
    (val.getLsbD 1 = true → (s.jobEn = false ∨ ∀ n, s.flue.injected = some n → stepFrom (val.toNat / 2 ^ 8) n = false) →
      Gives (.plannedSwitchRequest who val) s ((s.set F.FLU_EPOCH_SWSTEP (val.toNat / 2 ^ 8)).set F.FLU_EPOCH_PEND 1)) ∧
    (∀ n, val.getLsbD 1 = true → s.jobEn = true → s.flue.injected = some n → stepFrom (val.toNat / 2 ^ 8) n = true →
      Gives (.plannedSwitchRequest who val) s ((s.set F.FLU_EPOCH_SWSTEP (val.toNat / 2 ^ 8)).set F.FLU_EPOCH_PEND 0).releaseInjections) ∧
    (val.getLsbD 8 = true → ∀ p, p = val.toNat / 2 ^ 12 % 16 → p < 12 →
      let u := ((s.set F.FLU_EMERG_LEAD (val.toNat % 256)).set F.FLU_EMERG_GO (val.toNat / 2 ^ 8)).set F.FLU_EMERG_PORT (val.toNat / 2 ^ 12)
      let fs := (s.frame + val.toNat % 256) % 2 ^ 48
      Gives (.emergencyNotice who val) s ((u.flood (List.range 12)
        (mkPacket [] 5 s.epoch 0 2 0 0 0 ((Config.noticePayload (s.fnum * 16 + p) fs).take 48))).takeNotice (s.fnum * 16 + p) fs)) ∧
    ((∀ g < 256, s.on (F.SYN_GRP_CTRL_TREE g) = false) → (∀ p < 12, val.getLsbD p = false → s.portState p ≠ 5) →
      ∃ t, exec (.fenceWrite who val) s = .next t ∧ t.get F.FLU_FENCE_PORTS = val.toNat % 4096 ∧ t.mem = s.mem ∧
        ∀ p : Fin 12, (s.portLive p.val = true → val.getLsbD p.val = true → t.portState p.val = 5 ∧ (t.port p.val).held = []) ∧
          (s.portLive p.val = false ∨ val.getLsbD p.val = false → t.portState p.val = s.portState p.val ∧ (t.port p.val).held = (s.port p.val).held))

/-! ## Flue: ports (11_flue_fabric.md) -/

/-- R592, R371: training ends with the lanes, round trip and hop delay it found, and the port comes up, degraded when a lane is missing, or dead when too few lanes
trained or the time ran out; one lane lost degrades the port and a second kills it; a lane
retired has more corrected symbols than its threshold, and goes as if lost (how many more the count takes is free, log 121). R374, R375: an uncorrectable codeword is counted and its packets
are asked for again, a NAK for each; a NAK sends the named packet again from the replay buffer, and one that names a packet no longer there vetoes the step.
R373: a port uncorrectable for too long is dead. R377: a packet held too long stops the job with SCHEDULE_BROKEN and vetoes the step. -/
def Obligations.PortsTrainAndFail : Prop :=
  ∀ (p : Fin 12) (s : State), s.clocked = true →
    (∀ (lanes : BitVec 9) (rtt hop : BitVec 8), s.portState p.val = 1 →
      let u := ((s.set (F.FLU_P_STATUS_LANES p.val) lanes.toNat).set (F.FLU_P_RTT_RTT p.val) rtt.toNat).set (F.FLU_P_RTT_HOPSLOTS p.val) hop.toNat
      let n := ((List.range 9).filter fun l => lanes.toNat.testBit l).length
      (s.get (F.FLU_P_CTRL_MODE p.val) ≠ 2 → 8 ≤ n → Gives (.portTrainingDone p lanes rtt hop) s (u.portUp p.val)) ∧
      (s.get (F.FLU_P_CTRL_MODE p.val) ≠ 2 → n < 8 → Gives (.portTrainingDone p lanes rtt hop) s (u.portDead p.val)) ∧
      Gives (.portTrainingTimeout p) s (s.portDead p.val)) ∧
    (s.portState p.val = 1 → (s.get F.FLU_FENCE_PORTS).testBit p.val = false → s.worn p.val = false → (s.port p.val).held = [] →
      s.get (F.FLU_P_CTRL_MODE p.val) = 1 → ∀ rtt hop : BitVec 8, ∃ t, exec (.portTrainingDone p 511 rtt hop) s = .next t ∧ t.portState p.val = 2 ∧
        t.get (F.FLU_P_STATUS_LANES p.val) = 511 ∧ t.get (F.FLU_P_RTT_HOPSLOTS p.val) = hop.toNat ∧ RegsBut [R.FLU_P_STATUS p.val, R.FLU_P_RTT p.val] s t ∧ t.mem = s.mem) ∧
    (∀ (l : Fin 9) (c : Instr) (u : State), c = .laneLost p l ∧ u = s ∨ c = .laneRetire p l ∧ u = s.noteSymbols p.val (s.get (F.FLU_P_LANETHR_COUNT p.val) + 1) →
      s.portLive p.val = true → s.get (F.FLU_P_CTRL_MODE p.val) ≠ 2 →
      (s.get (F.FLU_P_STATUS_LANES p.val) = 511 →
        Gives c s (((u.set (F.FLU_P_STATUS_LANES p.val) (511 - 2 ^ l.val)).raise (F.FLU_P_EVENT_LANE_LOST p.val)).set (F.FLU_P_STATUS_STATE p.val) 3)) ∧
      ((s.get (F.FLU_P_STATUS_LANES p.val)).testBit l.val = true → s.get (F.FLU_P_STATUS_LANES p.val) ≠ 511 →
        Gives c s (((u.set (F.FLU_P_STATUS_LANES p.val) (s.get (F.FLU_P_STATUS_LANES p.val) - 2 ^ l.val)).raise (F.FLU_P_EVENT_LANE_LOST p.val)).portDead p.val))) ∧
    (s.portLive p.val = true →
      (∀ seqs : List (BitVec 6), ∃ t, exec (.codewordUncorrectable p seqs) s = .next t ∧
        t.get (F.FLU_P_FECUNC_VALUE p.val) = min (s.get (F.FLU_P_FECUNC_VALUE p.val) + 1) 0xFFFFFFFF ∧
        (∀ n, n ∈ (t.port p.val).missing ↔ n ∈ (s.port p.val).missing ∨ n ∈ seqs.map BitVec.toNat) ∧
        t.flue.ctl = s.flue.ctl ++ seqs.map (fun n => (p.val, LinkMsg.nak n.toNat)) ∧ t.flue.out = s.flue.out ∧
        RegsBut [R.FLU_P_FECUNC p.val] s t ∧ t.mem = s.mem) ∧
      (∀ (seq : BitVec 6) (e : Nat × List Byte), (s.port p.val).replay.find? (fun e => e.1 == seq.toNat) = some e →
        ∃ t, exec (.nak p seq) s = .next t ∧ t.flue = { s.flue with out := s.flue.out ++ [(p.val, e.2)] } ∧
          t.get (F.FLU_P_REPLAY_VALUE p.val) = min (s.get (F.FLU_P_REPLAY_VALUE p.val) + 1) 0xFFFFFFFF ∧ RegsBut [R.FLU_P_REPLAY p.val] s t ∧ t.mem = s.mem) ∧
      (∀ seq : BitVec 6, (s.port p.val).replay.find? (fun e => e.1 == seq.toNat) = none →
        Gives (.nak p seq) s ((s.raise F.FLU_EVENT_LINK_LOSS).vetoRecord .fabric .port p.val 0 (fabD1 p.val 0xFF))) ∧
      (s.jobEn = false → s.get F.FLU_STATUS_MARKPORT ≠ p.val →
        ∃ t, exec (.portDeadTimeout p) s = .next t ∧ t.portState p.val = 4 ∧ t.on (F.FLU_P_EVENT_DEAD p.val) = true ∧ (t.port p.val).held = [] ∧ (t.port p.val).replay = [] ∧
          (∀ q : Fin 12, q ≠ p → t.port q.val = s.port q.val) ∧ RegsBut [R.FLU_P_STATUS p.val, R.FLU_P_EVENT p.val, R.FLU_P_FENCEDROP p.val] s t ∧ t.mem = s.mem) ∧
      (s.jobEn = true → Gives (.portDeadTimeout p) s (s.portDead p.val))) ∧
    (∀ (pkt : List Byte) (rest : List (List Byte)), (s.port p.val).held = pkt :: rest →
      Gives (.holdLimitExpiry p) s ((s.stopRecord .fabric .port p.val (leNat (pkt.take 8)) (fabD1 12 (pktType pkt)) .scheduleBroken).veto))

/-! ## Flue: packets (11_flue_fabric.md, 12_collectives_and_job_mapping.md, 13_barriers_sparks_queues.md) -/

/-- R374, R375, R381: a packet whose codewords are free of errors is taken as it is, unless the port waits for an earlier one; one with an uncorrectable
codeword is asked for again. R386: the next packet of a stream writes its bytes at its place, moves the stream's index on and releases sparks that
waited for it; a packet of another index is a sequence fault, and a receive descriptor that breaks R385 is rejected (R15). R451: a spark counts at once when its stream has come far enough, and is held else.
R384: a stream's ACK is noted, and the last one ends the send; R388: a multicast packet goes to every port below; R421: a tree ACK releases what was kept. -/
def Obligations.PacketsAreServed : Prop :=
  ∀ s : State, s.clocked = true →
    (∀ (p : Fin 12) (seq : BitVec 6) (pkt : List Byte) (errs : List (BitVec 144)), s.portLive p.val = true →
      ∀ u, u = s.noteSymbols p.val 0 →
      (pkt.length = 64 → (∀ e ∈ errs, e = 0) → (s.port p.val).missing = [] → Gives (.packetArrival p seq pkt errs) s (u.accept p.val pkt)) ∧
      (checkCodewords pkt errs = none → Gives (.packetArrival p seq pkt errs) s (u.codewordBad p.val [seq.toNat]))) ∧
    (∀ (port : Nat) (pkt : List Byte) (s1 : State),
      (s.takeDelivered (fun p => pktType p == 0) = some ((port, pkt), s1) →
        (4096 ≤ pktTag pkt → Gives .dataReceive s (s1.seqFault port pkt)) ∧
        (∀ (tag i : Nat) (r : Rd), tag = pktTag pkt → i = 256 * pktAux pkt + pktSeq pkt → tag < 4096 → r = s1.read (s1.rdAddr tag) 32 → r.bad = none →
          (rdValid r.bytes = true → rdBad r.bytes = true → Gives .dataReceive s (r.st.descRecord (rxKind port) (s1.rxUnit port) (s1.rdAddr tag) tag)) ∧
          (rdValid r.bytes = false ∨ rdBad r.bytes = false ∧ i ≠ rdNext r.bytes ∧ i % 256 ≠ 0 → Gives .dataReceive s (r.st.seqFault port pkt)) ∧
          (rdValid r.bytes = true → rdBad r.bytes = false → i = rdNext r.bytes → i < ceilDiv (rdLen r.bytes) 48 → i % 256 ≠ 255 → port < 12 →
            let bs := (pktPayload pkt).take (min 48 (rdLen r.bytes - 48 * i))
            let u := (r.st.unitWrite .port port (s1.rdAddr tag + 24) (leBytes 4 (i + 1))).unitWrite .port port (rdBase r.bytes + 48 * i) bs
            Gives .dataReceive s ({ u with flue := { u.flue with rxSum := u.flue.rxSum.write 0 (tag * 2 ^ 25 + i) (sumPart i bs) } }.releaseHeld tag (i + 1))))) ∧
      (s.takeDelivered (fun p => pktType p == 3) = some ((port, pkt), s1) → ∀ (b k : Nat), b = pktAux pkt % 4096 → k = leAt (pktPayload pkt) 0 4 →
        (k = 0 → s1.ctrValid b = true → s1.isGroup b = false → Gives .sparkReceive s (s1.signal b none)) ∧
        (∀ r : Rd, r = s1.read (s1.rdAddr (pktTag pkt)) 32 → k ≠ 0 → pktTag pkt < 4096 → r.bad = none → rdValid r.bytes = true → rdBad r.bytes = false →
          (k ≤ rdNext r.bytes → Gives .sparkReceive s (r.st.signal b none)) ∧
          (rdNext r.bytes < k → s1.syn.hold.length < 256 →
            Gives .sparkReceive s ({ r.st with syn := { r.st.syn with hold := r.st.syn.hold ++ [(b, pktTag pkt, k)] } }.set F.SYN_STATUS_HOLDS (r.st.syn.hold.length + 1))) ∧
          (rdNext r.bytes < k → 256 ≤ s1.syn.hold.length → Gives .sparkReceive s (s.raise F.SYN_EVENT_HOLD_FULL)))) ∧
      (s.takeDelivered (fun p => pktType p == 4 && decide (pktTag p < 4096)) = some ((port, pkt), s1) →
        ((∀ q < 4, ∀ o ∈ (s1.inj q).opened, sdTag o.cmd.bytes ≠ pktTag pkt) → Gives .streamAck s s1) ∧
        (∀ o : OpenSend, (s1.inj 0).opened = [o] → sdTag o.cmd.bytes = pktTag pkt → pktAux pkt ∉ o.acked →
          ((∃ c < sdChunks o.cmd.bytes, c ∉ o.acked ∧ c ≠ pktAux pkt) → Gives .streamAck s (s1.modInj 0 fun _ => { opened := [{ o with acked := o.acked ++ [pktAux pkt] }] })) ∧
          ((∀ c < sdChunks o.cmd.bytes, c ∈ o.acked ∨ c = pktAux pkt) → Gives .streamAck s ((s1.modInj 0 fun _ => { opened := [] }).sendEnd 0 o.cmd)))) ∧
      (s.takeDelivered (fun p => pktType p == 4 && decide (0xF000 ≤ pktTag p)) = some ((port, pkt), s1) →
        let k := treeKey (s1.pktVersion port pkt) (pktTag pkt - 0xF000)
        Gives .treeAck s (s1.treeAckIn (treeEngine (s1.treeAt k)) k (pktAux pkt))) ∧
      (s.takeDelivered (fun p => pktType p == 1) = some ((port, pkt), s1) →
        let k := treeKey (s1.pktVersion port pkt) (pktAux pkt % 4096)
        let u := s1.each (treePorts (s1.treeAt k)) fun t p => t.sendOn p pkt
        (treeParent (s1.treeAt k) = 12 → Gives .mcastReceive s u) ∧
        (treeParent (s1.treeAt k) ≠ 12 → ∀ (r : ColRun) (v : Bool), u.runOn (treeEngine (s1.treeAt k)) k = some (r, v) →
          Gives .mcastReceive s (u.resultIn (treeEngine (s1.treeAt k)) v r pkt)) ∧
        (treeParent (s1.treeAt k) ≠ 12 → u.runOn (treeEngine (s1.treeAt k)) k = none → treeLocal (s1.treeAt k) = false → Gives .mcastReceive s u))) ∧
    (∀ (q : Fin 4) (c : QCmd), s.qOn (injQ q.val) = true → s.switchHold = false → s.readyHead (injQ q.val) = some c → c.op = 1 →
      let u := s.startHead (injQ q.val)
      (sendBad u c.bytes = true → Gives (.send q) s (((u.descRecord .injector q.val c.addr c.tag).sendEnd q.val c).endHead (injQ q.val))) ∧
      (∀ r : Rd, r = u.read (sdSrc c.bytes) (sdLen c.bytes) → sendBad u c.bytes = false → r.bad = none →
        (Config.sendAcked c.bytes = true →
          Gives (.send q) s (((r.st.stream c.bytes 0 r.bytes).modInj q.val fun j => { opened := j.opened ++ [⟨c, []⟩] }).endHead (injQ q.val))) ∧
        (Config.sendAcked c.bytes = false → Gives (.send q) s (((r.st.stream c.bytes 0 r.bytes).sendEnd q.val c).endHead (injQ q.val)))))

/-! ## Flue: frames, epochs, cartridges (11_flue_fabric.md) -/

/-- R393: the fabric master counts a frame at each boundary and sends a mark on every live native port, and a device in holdover counts on; another device takes the frame number of a mark on
its mark port and re-emits it, and a master that hears a mark is a dual master (log 29). R397: an Asivo port carries no notice. R395: the first copy of a notice goes on to every other live port, and later copies are discarded. R390: the epoch changes when a switch is pending, the
inactive version is valid and the step is due, and what the hold kept back is injected then; R395: at the switch frame the epoch changes, or the job stops where there is no valid version. -/
def Obligations.FramesAndEpochs : Prop :=
  ∀ s : State, s.clocked = true →
    (s.aon.fabMaster = true → ∃ t, exec .frameMark s = .next t ∧ t.frame = (s.frame + 1) % 2 ^ 48 ∧
      t.flue = { s.flue with ctl := s.flue.ctl ++ s.markPorts.map fun p => (p, LinkMsg.mark t.frame) } ∧ RegsBut [R.FLU_FRAME_LO, R.FLU_FRAME_HI] s t ∧ t.mem = s.mem) ∧
    (s.aon.fabMaster = false → s.on F.FLU_STATUS_MARKLOCK = true → Gives .frameMark s s) ∧
    (s.aon.fabMaster = false → s.on F.FLU_STATUS_MARKLOCK = false → ∃ t, exec .frameMark s = .next t ∧ t.frame = (s.frame + 1) % 2 ^ 48 ∧ t.flue = s.flue ∧
      RegsBut [R.FLU_FRAME_LO, R.FLU_FRAME_HI] s t ∧ t.mem = s.mem) ∧
    (∀ (p : Fin 12) (frame : BitVec 48), s.portLive p.val = true → s.get (F.FLU_P_CTRL_MODE p.val) = 1 →
      (s.aon.fabMaster = false → s.markPort = some p.val → s.get F.FLU_STATUS_MARKPORT = p.val →
        ∃ t, exec (.frameMarkReceive p frame) s = .next t ∧ t.frame = frame.toNat ∧ t.on F.FLU_STATUS_MARKLOCK = true ∧ t.get F.FLU_STATUS_MARKPORT = p.val ∧
          t.flue = { s.flue with ctl := s.flue.ctl ++ s.markPorts.map fun q => (q, LinkMsg.mark frame.toNat) } ∧ RegsBut [R.FLU_STATUS, R.FLU_FRAME_LO, R.FLU_FRAME_HI] s t ∧ t.mem = s.mem) ∧
      (s.aon.fabMaster = true → Gives (.frameMarkReceive p frame) s
        (({ s with hob := { s.hob with dual := true } }.raise F.SEC_EVENT_DUAL_MASTER).vetoRecord .clock .clock 0 (s.reg R.CLK_STATUS).toNat (s.reg R.CLK_EVENT).toNat))) ∧
    (∀ (p : Fin 12) (pkt : List Byte) (link fs : Nat), s.portLive p.val = true → s.get (F.FLU_P_CTRL_MODE p.val) ≠ 2 →
      link = (Config.noticeLink (pktPayload pkt)).toNat → fs = (Config.noticeFrame (pktPayload pkt)).toNat →
      ((link, fs) ∈ s.flue.notices → Gives (.noticeReceive p pkt) s s) ∧
      ((link, fs) ∉ s.flue.notices → Gives (.noticeReceive p pkt) s ((s.flood ((List.range 12).filter (· != p.val)) pkt).takeNotice link fs))) ∧
    (∀ (p : Fin 12) (pkt : List Byte), s.portLive p.val = true → s.get (F.FLU_P_CTRL_MODE p.val) = 2 → Gives (.noticeReceive p pkt) s (s.misroute p.val pkt)) ∧
    (s.on F.FLU_EPOCH_PEND = true → s.verValid s.inactive = true → (s.jobEn = false ∨ stepFrom (s.get F.FLU_EPOCH_SWSTEP) s.job.step = true) →
      ∃ t, Gives .epochSwitch s t.releaseInjections ∧ t.epoch = 1 - s.epoch ∧ t.on F.FLU_EPOCH_PEND = false ∧ t.on F.FLU_EVENT_SWITCHED = true ∧
        t.on F.FLU_EPOCH_OLDFREE = false ∧ t.on F.FLU_STATUS_INACT_VALID = t.verValid t.inactive ∧ t.flue = { s.flue with dropOld := false, switchStep := s.get F.FLU_EPOCH_SWSTEP } ∧ RegsBut [R.FLU_EPOCH, R.FLU_EVENT, R.FLU_STATUS] s t ∧ t.mem = s.mem) ∧
    ((s.on F.FLU_EPOCH_PEND = false ∨ s.verValid s.inactive = false ∨ s.jobEn = true ∧ stepFrom (s.get F.FLU_EPOCH_SWSTEP) s.job.step = false) → Gives .epochSwitch s s) ∧
    (∀ fs, s.flue.emergAt = some fs →
      (s.frame < fs → Gives .emergencySwitch s s) ∧
      (fs ≤ s.frame → (s.flue.commit.isSome = true ∨ s.verValid s.inactive = false) →
        Gives .emergencySwitch s ({ s with flue := { s.flue with emergAt := none } }.linkLost)) ∧
      (fs ≤ s.frame → s.flue.commit = none → s.verValid s.inactive = true → (∀ q < 4, (s.inj q).opened = [] ∧ (s.colOf q).nodes = [] ∧ (s.colOf q).run = none ∧ (s.colOf q).verdict = none) →
        ∃ t, exec .emergencySwitch s = .next t ∧ t.epoch = 1 - s.epoch ∧ t.on F.FLU_EPOCH_OLDFREE = true ∧ t.flue.dropOld = true ∧ t.flue.emergAt = none ∧
          RegsBut [R.FLU_EPOCH, R.FLU_EVENT, R.FLU_STATUS] s t ∧ t.mem = s.mem))

/-- R586, R398, R399: a cartridge that is inserted is read once the cages have their supply (R585), and its port trains at once, or at the next step boundary while an image is loaded; one that is removed leaves its
port dead if it was in service; one that draws too much loses its supply and its port. The readings of every cartridge are kept, and a minute with
the laser on counts toward its life. -/
def Obligations.CartridgesComeAndGo : Prop :=
  (∀ (p : Fin 12) (record : List Byte) (s u : State), s.aon.pg = true →
    (s.cagesOn = false → Gives (.cartridgeInsert p record) s ((s.raise (F.FLU_P_EVENT_CART_CHANGE p.val)).modPort p.val fun q => { q with cart := some record, laser := false, lifeSeen := 0 })) ∧
    (s.cagesOn = true → u = (s.raise (F.FLU_P_EVENT_CART_CHANGE p.val)).readCart p.val record →
    (u.get (F.FLU_P_CTRL_MODE p.val) = 0 → Gives (.cartridgeInsert p record) s u) ∧
    (u.get (F.FLU_P_CTRL_MODE p.val) ≠ 0 → u.on F.CFG_STATE_IMAGE = true → Gives (.cartridgeInsert p record) s (u.modPort p.val fun q => { q with retrain := true })) ∧
    (u.get (F.FLU_P_CTRL_MODE p.val) ≠ 0 → u.on F.CFG_STATE_IMAGE = false → Gives (.cartridgeInsert p record) s (u.trainPort p.val)))) ∧
  (∀ (p : Fin 12) (record : List Byte) (s : State), s.aon.pg = true → (s.port p.val).cart = some record →
    (s.portLive p.val = false → s.portState p.val ≠ 5 →
      ∃ t, exec (.cartridgeRemove p) s = .next t ∧ (t.port p.val).cart = none ∧ (t.port p.val).laser = false ∧ t.get (F.FLU_P_CART_KIND p.val) = 0 ∧
        t.on (F.FLU_P_EVENT_CART_CHANGE p.val) = true ∧ t.portState p.val = s.portState p.val ∧ RegsBut [R.FLU_P_EVENT p.val, R.FLU_P_CART p.val] s t ∧ t.mem = s.mem) ∧
    ((s.portLive p.val = true ∨ s.portState p.val = 5) →
      Gives (.cartridgeRemove p) s ((((((s.raise (F.FLU_P_EVENT_CART_CHANGE p.val)).set (F.FLU_P_CART_KIND p.val) 0).set (F.FLU_P_CART_UNVERIFIED p.val) 0).set (F.FLU_P_CART_LIFEPCT p.val) 0).modPort p.val
        fun q => { q with cart := none, laser := false, lifeSeen := 0 }).portDead p.val)) ∧
    Gives (.cartridgeOverpower p) s ((s.modPort p.val fun q => { q with laser := false }).portDead p.val)) ∧
  (∀ (readings : List (List Nat)) (s : State), s.clocked = true → Gives (.cartridgeMonitor readings) s { s with flue := { s.flue with monitors := readings } }) ∧
  (∀ s : State, s.clocked = true → (∀ p < 12, (s.port p).laser = false) → Gives .cartridgeHours s s) ∧
  (∀ (p : Fin 12) (record : List Byte) (s : State), s.clocked = true → (∀ q < 12, q ≠ p.val → (s.port q).laser = false) → (s.port p.val).cart = some record →
    (s.port p.val).laser = true → (Config.cartKind record).toNat = 2 → ∀ u, u = s.setMinutes (Config.cartKey record).toNat (s.cartMinutes (Config.cartKey record).toNat + 1) →
    Gives .cartridgeHours s (u.noteLife p.val record))

/-! ## Memory (10_comb_hbm_and_far_memory.md, 18_host_and_far_memory_links.md) -/

/-- R557: a write through the host window with no image loaded lands in memory, and nothing but the bytes written changes; with one loaded it is discarded outside the control
page and noted; past the window it does nothing. Whatever is written, memory keeps its canonical form (log 2), and registers outside the memory blocks stay. -/
def Obligations.HostWindowWrites : Prop :=
  ∀ (off : Nat) (bytes : List Byte) (s : State), s.busOn = true →
    (s.get F.CFG_STATE_IMAGE = 0 → off % 16 = 0 → bytes.length = 16 → off + 16 ≤ pageBase → ∀ k, s.locate off = some k →
      ∃ t, exec (.hostWindowWrite off bytes) s = .next t ∧ (∀ i < 16, t.byteAt (k + i) = bytes.getD i 0) ∧ t.errAt (k / 16) = 0 ∧
        (∀ j, j < k ∨ k + 16 ≤ j → t.byteAt j = s.byteAt j) ∧ (∀ g, g ≠ k / 16 → t.errAt g = s.errAt g) ∧ RegsBut [] s t) ∧
    (s.get F.CFG_STATE_IMAGE ≠ 0 → bytes ≠ [] → off + bytes.length ≤ pageBase → Gives (.hostWindowWrite off bytes) s (s.raise F.CXL_EVENT_HOST_WDISC)) ∧
    (2 ^ 30 < off + bytes.length → Gives (.hostWindowWrite off bytes) s s) ∧
    (∃ t, exec (.hostWindowWrite off bytes) s = .next t ∧ (Memory.wf s.mem = true → Memory.wf t.mem = true) ∧ (∀ o, memReg o = false → t.reg o = s.reg o) ∧
      t.queues = s.queues ∧ t.syn = s.syn ∧ t.flue = s.flue ∧ t.crk = s.crk)

/-- R340, R341: a walker of a slice or a channel that is on moves over its line, cleaning or recording each granule, and wraps at the end. R348: a copy that ends puts the spare pair in the place of the failing one.
R353, R354, R357: a retry that succeeds is counted; one of many, or the last that may be tried, retrains the channel at once; a transaction that fails again after that loses
the channel. A channel whose stack's temperature has moved by more than TDELTA retrains too.
R356: a soft repair ends with the row written back, and the channel is in service once no row of it waits. R363: a margining run ends with its counts, its setting restored. -/
def Obligations.MemoryUnitsAct : Prop :=
  ∀ s : State, s.clocked = true →
    (∀ (p : Fin 136) (i : Fin 256), i.val = p.val → s.on F.CMB_CTRL_WV_EN = true → s.get (F.CMB_S_STATE_STATE p.val) < 2 →
      let l := s.get (F.CMB_S_WVPOS_LINE p.val)
      let u := s.each (List.range 4) fun t g => t.walkGranule .slice p.val (physBase + p.val * 2 ^ 28 + l * 64 + 16 * g) (physBase + p.val * 2 ^ 28 + l * 64 + 16 * g)
      (l + 1 < 4194304 → Gives (.weevilRead false i) s (u.set (F.CMB_S_WVPOS_LINE p.val) (l + 1))) ∧
      (l + 1 = 4194304 → Gives (.weevilRead false i) s { u.set (F.CMB_S_WVPOS_LINE p.val) 0 with ram := { u.ram with trackers := u.ram.trackers.write [] p.val [] } })) ∧
    (∀ c : Fin 256, s.on F.HBM_CTRL_WV_EN = true → s.get (F.HBM_C_STATE_STATE c.val) ≠ 3 →
      let l := s.ram.hbmPos.look 0 c.val
      let u := s.each (List.range 4) fun t g =>
        match t.chanAddr c.val (l * 64 + 16 * g) with
        | some a => t.walkGranule .channel c.val a (hbmBase + c.val * 2 ^ 31 + l * 64 + 16 * g)
        | none => if t.errAt ((hbmBase + c.val * 2 ^ 31 + l * 64 + 16 * g) / 16) = 0 then t
          else (t.fresh 48).2.walkPlace false .channel c.val (t.fresh 48).1 (hbmBase + c.val * 2 ^ 31 + l * 64 + 16 * g)
      ((l + 1) * 64 < s.chCap → Gives (.weevilRead true c) s { u with ram := { u.ram with hbmPos := u.ram.hbmPos.write 0 c.val (l + 1) } }) ∧
      (s.chCap ≤ (l + 1) * 64 → Gives (.weevilRead true c) s { u with ram := { u.ram with hbmPos := u.ram.hbmPos.write 0 c.val 0, trackers := u.ram.trackers.write [] (256 + c.val) [] } })) ∧
    (∀ src dst, s.ram.retiring = some (src, dst) →
      let u := { (s.copySlice src dst).set F.CMB_STATUS_RETIRING 0 with ram := { (s.copySlice src dst).ram with retiring := none } }.set (F.CMB_S_STATE_STATE src) 2
      (∀ l, s.logicalOf src = some l → Gives .pairRetireDone s (((u.set (F.CMB_S_STATE_STATE dst) 0).mapPair l (some dst)).countPairs.raise F.CMB_EVENT_PAIR_RETIRED)) ∧
      (s.logicalOf src = none → Gives .pairRetireDone s (u.countPairs.raise F.CMB_EVENT_PAIR_RETIRED))) ∧
    (∀ c : Fin 256, s.get (F.HBM_C_STATE_STATE c.val) = 0 → s.chOut c.val = false →
      (s.ram.retriesMs.look 0 c.val / 2 ^ 20 ≠ s.cycle / 1100000 → 1 < s.get F.HBM_RTCTRL_PARTHR →
        ∃ t, exec (.parityRetry c true) s = .next t ∧ t.get (F.HBM_C_PAR_VALUE c.val) = min (s.get (F.HBM_C_PAR_VALUE c.val) + 1) 0xFFFFFFFF ∧
          t.on F.HBM_EVENT_PAR_RETRY = true ∧ t.ram.retries.look 0 c.val = 0 ∧ RegsBut [R.HBM_C_PAR c.val, R.HBM_EVENT] s t ∧ t.mem = s.mem) ∧
      (∀ deg : BitVec 8, s.get F.HBM_RTCTRL_TDELTA < max deg.toNat (s.ram.trainedTemp.look 0 c.val) - min deg.toNat (s.ram.trainedTemp.look 0 c.val) →
        ∃ t, exec (.emergencyRetrain (c, deg)) s = .next t ∧ t.get (F.HBM_C_STATE_STATE c.val) = 1 ∧ t.on F.HBM_EVENT_RT_EMERG = true ∧
        RegsBut [R.HBM_C_STATE c.val, R.HBM_EVENT, R.HBM_C_RETRAIN c.val] s t ∧ t.mem = s.mem ∧ t.ram = { s.ram with stackTemp := s.ram.stackTemp.write 0 (c.val % 8) deg.toNat })) ∧
    (∀ (c : Fin 256) (deg : BitVec 8), max deg.toNat (s.ram.trainedTemp.look 0 c.val) - min deg.toNat (s.ram.trainedTemp.look 0 c.val) ≤ s.get F.HBM_RTCTRL_TDELTA →
      Gives (.emergencyRetrain (c, deg)) s { s with ram := { s.ram with stackTemp := s.ram.stackTemp.write 0 (c.val % 8) deg.toNat } }) ∧
    (∀ c : Fin 256, s.get (F.HBM_C_STATE_STATE c.val) = 1 →
      ∃ t, exec (.retrainDone c) s = .next t ∧ t.get (F.HBM_C_STATE_STATE c.val) = 0 ∧ t.ram = { s.ram with trainedAt := s.ram.trainedAt.write 0 c.val s.cycle, trainedTemp := s.ram.trainedTemp.write 0 c.val (s.ram.stackTemp.look 0 (c.val % 8)) } ∧
        s.get (F.HBM_C_HOLD_VALUE c.val) ≤ t.get (F.HBM_C_HOLD_VALUE c.val) ∧ RegsBut [R.HBM_C_STATE c.val, R.HBM_C_HOLD c.val] s t ∧ t.mem = s.mem) ∧
    (∀ c : Fin 256, s.get (F.HBM_C_STATE_STATE c.val) ≠ 3 →
      let u := (s.set (F.HBM_C_STATE_STATE c.val) 3).raise F.HBM_EVENT_CH_LOST
      (s.on F.CFG_STATE_IMAGE = false → Gives (.channelLost c) s u.reduceInterleave) ∧
      (s.on F.CFG_STATE_IMAGE = true → ∀ d v, u.fresh 64 = (d, v) →
        Gives (.channelLost c) s (let w := v.vetoRecord .hardware .channel c.val d c.val
          if w.fitsHbm (w.nch - w.membersLost) then w.vetoRewind else w.vetoStop Stop.capacityLost.code))) ∧
    (∀ ce ue : Word, s.on F.MGN_STATUS_BUSY = true → ∃ t, exec (.marginRunDone ce ue) s = .next t ∧ t.on F.MGN_STATUS_BUSY = false ∧ t.on F.MGN_STATUS_DONE = true ∧
      t.get F.MGN_CE_COUNT = ce.toNat ∧ t.get F.MGN_UE_COUNT = ue.toNat ∧ RegsBut [R.MGN_STATUS, R.MGN_CE, R.MGN_UE] s t ∧ t.mem = s.marginLoss.mem) ∧
    (∀ (c : Fin 256) (r : Nat × Nat), s.ram.repairing.find? (fun r => r.1 == c.val) = some r →
      ∃ t, exec (.softRepairDone c) s = .next t ∧ t.get (F.HBM_C_STATE_STATE c.val) = (if ((s.ram.repairing.filter (· != r)).any fun x => x.1 == c.val) = true then 2 else 0) ∧ t.on F.HBM_EVENT_PPR_DONE = true ∧
        t.ember = { s.ember with repair := (s.ember.repair ++ [r]).take 512 } ∧ t.ram.repairing = s.ram.repairing.filter (· != r) ∧
        RegsBut [R.HBM_C_STATE c.val, R.HBM_C_HOLD c.val, R.HBM_C_PPR c.val, R.HBM_EVENT] s t)

/-! ## Clocks and power (14_clocks_and_power.md) -/

/-- R462: a window moves the trim against the error it measured, by 1.0 ppm at most and within 200 ppm, and two good windows in a row lock it. R463: a loss of REFCLK
puts the device in holdover; R465: one that lasts too long vetoes the step and stops the job where the device is not the fabric master. R466: the wait for the oscillator ends with the
saved trim. R467: the PLL locks and the clocks start. R468, R470: a loss of lock, or a domain whose edges are off, stops them; a relock vetoes the step with a record, and no
relock stops the job. -/
def Obligations.ClockKeepsTime : Prop :=
  (∀ (count src : Nat) (s : State), s.aon.pg = true → s.aon.tripped = false → src = s.wantSrc → (src = 1 ∨ src = 2) → s.srcHere src = true → s.get F.CLK_STATUS_SRC ≠ 3 →
    let e : Nat := if src = 1 then 92274688 else 134217728
    let dif : Int := (count : Int) - (e : Int)
    let x := s.trim - max (-10) (min 10 (roundDiv (dif * 10000000) e))
    let good : Bool := decide ((dif * 10000000).natAbs ≤ e)
    ∃ t, exec (.trimWindow count) s = .next t ∧ t.trim = max (-2000) (min 2000 x) ∧ t.get F.CLK_STATUS_SRC = src ∧ (x < -2000 ∨ 2000 < x → t.on F.CLK_EVENT_TRIM_RANGE = true) ∧
      t.goodWins = (if good then min 2 (s.goodWins + 1) else 0) ∧ t.on F.CLK_STATUS_TRIMLOCK = decide (t.goodWins = 2) ∧
      RegsBut [R.CLK_STATUS, R.CLK_OFFSET, R.CLK_TRIM, R.CLK_EVENT] s t ∧ t.mem = s.mem) ∧
  (∀ s : State, s.clocked = true → Gives .trimSave s { s with ember := { s.ember with trim := s.trim, tagOk := s.on F.SEC_BOOT_ID_OK } }) ∧
  (∀ s : State, s.aon.pg = true →
    (s.get F.CLK_STATUS_SRC = 1 → ∃ t, exec .refLost s = .next t ∧ t.get F.CLK_STATUS_SRC = 3 ∧ t.on F.CLK_STATUS_REFPRES = false ∧ t.on F.CLK_EVENT_REF_LOST = true ∧
      RegsBut [R.CLK_STATUS, R.CLK_EVENT] s t ∧ t.mem = s.mem) ∧
    (s.get F.CLK_STATUS_SRC = 3 → (s.aon.fabMaster = true ∨ s.get F.CFG_STATE_IMAGE ≠ 2) → Gives .holdLimit s (s.raise F.CLK_EVENT_HOLD_LIMIT)) ∧
    (s.get F.CLK_STATUS_SRC = 3 → s.aon.fabMaster = false → s.get F.CFG_STATE_IMAGE = 2 →
      let u := s.raise F.CLK_EVENT_HOLD_LIMIT
      Gives .holdLimit s ((u.stopRecord .clock .clock 0 u.clkD0 u.clkD1 .clockLost).veto)) ∧
    Gives (.referenceReturn false) s (s.set F.CLK_STATUS_REFPRES 1) ∧ Gives (.referenceReturn true) s (s.set F.FLU_STATUS_MARKLOCK 1)) ∧
  (∀ (present : Bool) (s : State), s.aon.pg = true → s.aon.tripped = false → s.get F.SEC_BOOT_STAGE = 1 →
    ∀ u, u = (s.setTrim (if s.ember.tagOk then s.ember.trim else Config.factoryTrim.toInt)).setStage 2 →
    Gives (.oscWaitEnd present) s (if present then (u.set F.CLK_STATUS_REFPRES 1).set F.CLK_STATUS_SRC 1
      else ((u.set F.CLK_STATUS_REFPRES 0).set F.CLK_STATUS_SRC 0).raise F.CLK_EVENT_REF_LOST)) ∧
  (∀ s : State, s.aon.pg = true → s.aon.tripped = false → s.get F.SEC_BOOT_STAGE = 2 →
    Gives .pllLock s (({ s with aon := { s.aon with locked := true } }.set F.CLK_STATUS_PLL_LOCK 1).setStage 3)) ∧
  (∀ s : State, s.clocked = true →
    let u := ({ s with aon := { s.aon with locked := false } }.set F.CLK_STATUS_PLL_LOCK 0).raise F.CLK_EVENT_PLL_UNLOCK
    Gives .pllUnlock s u ∧ u.clocked = false ∧
    (∀ counts : List Nat, (∀ i < 6, ∀ c, counts[i]? = some c → 1000 * (c - monExpected.getD i 0 + (monExpected.getD i 0 - c)) ≤ monExpected.getD i 0) → Gives (.monitorInterval counts) s s) ∧
    (∀ (counts : List Nat) (i c : Nat), i < 6 → counts[i]? = some c → monExpected.getD i 0 < 1000 * (c - monExpected.getD i 0 + (monExpected.getD i 0 - c)) →
      ∃ t, exec (.monitorInterval counts) s = .next t ∧ t.clocked = false ∧ t.on F.CLK_EVENT_MON_FAULT = true ∧ t.on F.CLK_EVENT_PLL_UNLOCK = true ∧ t.on F.CLK_STATUS_PLL_LOCK = false ∧
        RegsBut [R.CLK_MON, R.CLK_EVENT, R.CLK_STATUS] s t ∧ t.mem = s.mem)) ∧
  (∀ s : State, s.unlocked = true →
    let u := { s with aon := { s.aon with locked := true } }.set F.CLK_STATUS_PLL_LOCK 1
    Gives .pllRelock s (u.vetoRecord .clock .clock 0 u.clkD0 u.clkD1) ∧ Gives .pllRelockTimeout s (s.stopNow Stop.clockLost.code))

/-- R472: a rail fault vetoes the step with a record; a VARR rail is restored once, and any other fault, or a restoring that fails, stops the job. R474: each loop period sets the
quadrant's supply from its least slack and that hearth's guard, never below the pace floor. R475, R477: measured powers and the input are recorded, and the excursion counter rises while
the input is over the limit; over the peak, the throttle level is at least 3. R478: the level rises by one while a limit that raised it stands, and falls by one when all are met.
R479: the junction readings set warning and throttle marks, and a reading of 110 °C trips the device. -/
def Obligations.PowerIsManaged : Prop :=
  ∀ s : State, s.clocked = true →
    (∀ (r : Fin 16) (ov uv oc : Bool), r.val < 15 →
      ((ov || uv || oc) = false → Gives (.railFault r ov uv oc) s s) ∧
      ((ov || uv || oc) = true → ∀ v s1, s.fresh 32 = (v, s1) →
        let u := (s1.raise F.PWR_EVENT_RAIL_FAULT).vetoRecord .power .clock 0 r.val v
        (r.val < 4 → r.val ∉ s.pwr.restoring → Gives (.railFault r ov uv oc) s (u.modPwr fun w => { w with restoring := w.restoring ++ [r.val] })) ∧
        ((4 ≤ r.val ∨ r.val ∈ s.pwr.restoring) → Gives (.railFault r ov uv oc) s u.powerFault))) ∧
    (∀ r rest, s.pwr.restoring = r :: rest →
      Gives (.railRestoreDone true) s (s.modPwr fun w => { w with restoring := rest }) ∧
      Gives (.railRestoreDone false) s (s.modPwr fun w => { w with restoring := rest }).powerFault) ∧
    (∀ (q : Fin 4) (m : Nat), m = ((s.activeOf q.val).map fun p => (s.hearth p).pmLeast).foldl min 255 →
      ∃ t g fl, exec (.vloopPeriod q) s = .next t ∧ ((∃ p ∈ s.activeOf q.val, (s.hearth p).pmLeast = m) → ∃ p ∈ s.activeOf q.val, (s.hearth p).pmLeast = m ∧ g = s.get (F.HRT_PACE_GUARD_GUARD p)) ∧
        t.get (F.PWR_Q_FLOOR_UV q.val) = fl % 2 ^ 16 ∧
        t.get (F.PWR_Q_VARR_UV q.val) = min 8000 (max fl
          (if s.on F.PWR_CTRL_VLOOP_EN = false ∨ ((s.activeOf q.val).any fun p => (s.hearth p).pmRan) = false ∨ s.pwr.missed.look false q.val = true then s.get (F.PWR_Q_VARR_UV q.val)
          else if m < g then s.get (F.PWR_Q_VARR_UV q.val) + 5 * s.get F.PWR_VLOOP_UP
          else if m ≤ g + 8 ∨ s.pwr.block.look 0 q.val ≠ 0 then s.get (F.PWR_Q_VARR_UV q.val)
          else max fl (s.get (F.PWR_Q_VARR_UV q.val) - 5 * s.get F.PWR_VLOOP_DOWN))) ∧
        RegsBut [R.PWR_Q_VARR q.val, R.PWR_Q_FLOOR q.val] s t ∧ t.mem = s.mem) ∧
    (∀ (quads : List Nat) (input : Nat), ∃ t, exec (.budgetCompare quads input) s = .next t ∧ (∀ q : Fin 4, t.get (F.PWR_Q_POWER_W q.val) = min 4095 (quads.getD q.val 0)) ∧
      t.get F.PWR_INPUT_P = min 65535 (4 * input) ∧ t.pwr.exc = (if s.powerLimit < input then s.pwr.exc + 1 else s.pwr.exc - 1) ∧
      t.on F.PWR_STATUS_EXCURSION = decide (t.pwr.exc ≠ 0) ∧
      (s.get F.PWR_PEAK_W < input → t.on F.PWR_EVENT_PEAK = true ∧ t.get F.PWR_STATUS_THROT = max 3 (s.get F.PWR_STATUS_THROT)) ∧
      (input ≤ s.get F.PWR_PEAK_W → t.get F.PWR_STATUS_THROT = s.get F.PWR_STATUS_THROT) ∧ (∀ o, o / 0x100000 ≠ 4 → t.reg o = s.reg o) ∧ t.mem = s.mem) ∧
    (∀ l, l = s.get F.PWR_STATUS_THROT →
      ((s.pwr.byExc = true ∧ s.powerLimit < s.pwr.input) ∨ s.pwr.tooHot = true → ∃ t, exec .throttleStep s = .next t ∧
        t.get F.PWR_STATUS_THROT = max l (min 4 (l + 1)) ∧ RegsBut [R.PWR_STATUS, R.PWR_EVENT] s t ∧ t.mem = s.mem) ∧
      (¬ (s.pwr.byExc = true ∧ s.powerLimit < s.pwr.input) → s.pwr.tooHot = false → (s.pwr.byPeak = false ∨ s.pwr.input ≤ s.get F.PWR_PEAK_W) → ∃ t, exec .throttleStep s = .next t ∧
        t.get F.PWR_STATUS_THROT = l - 1 ∧ RegsBut [R.PWR_STATUS] s t ∧ t.mem = s.mem) ∧
      (¬ (s.pwr.byExc = true ∧ s.powerLimit < s.pwr.input) → s.pwr.tooHot = false → s.pwr.byPeak = true → s.get F.PWR_PEAK_W < s.pwr.input → Gives .throttleStep s s)) ∧
    (∀ (temps : List Int) (top : Int), top = temps.foldl max (-273) →
      (top < 110 → ∃ t, exec (.thermalSample temps) s = .next t ∧ t.on F.PWR_STATUS_THERMAL = decide (((min 105 (s.get F.PWR_TJ_THROT) : Nat) : Int) ≤ top) ∧
        t.pwr.tooHot = t.on F.PWR_STATUS_THERMAL ∧ (((s.get F.PWR_TJ_WARN : Nat) : Int) ≤ top → t.on F.PWR_EVENT_TJ_WARN = true) ∧
        RegsBut [R.PWR_TJMAX, R.PWR_STATUS, R.PWR_EVENT] s t ∧ t.mem = s.mem ∧ t.aon = s.aon) ∧
      (110 ≤ top → ∃ t, exec (.thermalSample temps) s = .next t ∧ t.aon.tripped = true ∧ t.aon.ready = false ∧ t.clocked = false))

/-! ## Start-up (15_startup_configuration_security.md) -/

/-- R485, R576, R575: power good starts the device afresh with the straps it sampled, keeping the far tier, the ember store and the NVM; its fall stops every clocked unit and drops
READY; the standby rail keeps the ember store. R500: a ROM test that fails ends start-up with code 1. R497: an image that is good in the active slot is booted, the other slot is the
fallback, and none leaves RECOVERY. R503, R488, R329: the further stages; R350: a stack of another capacity fails its stage. R489: READY rises after the last, and the NVM counters advance where the configuration says so. R506, R507: a
heartbeat of another hob than the token's holder is a false claim, and the token passes to the next hob that runs, clocked or not. R504: changed fields go to the ember store. R578: a read on
the standby bus answers. -/
def Obligations.StartUpRuns : Prop :=
  (∀ (osc : Fin 8) (hobSel nvm : Fin 4) (fab : Bool) (s : State), s.aon.standby = true → s.aon.pg = false →
    ∃ t, exec (.powerGoodRise osc hobSel nvm fab) s = .next t ∧ t.aon.pg = true ∧ t.aon.ready = false ∧ t.clocked = false ∧ t.aon.oscWait = osc.val ∧
      t.get F.SEC_BOOT_STAGE = 1 ∧ t.master = hobSel.val ∧ t.get F.CLK_STATUS_OSCWAIT = osc.val ∧ t.nvm = s.nvm ∧ t.ember = s.ember ∧ t.queues = []) ∧
  (∀ s : State, s.aon.pg = true → ∃ t, exec .powerGoodFall s = .next t ∧ t.aon.pg = false ∧ t.aon.ready = false ∧ t.clocked = false ∧ t.nvm = s.nvm ∧ t.queues = [] ∧ t.flue.injs = []) ∧
  (∀ s : State, Gives .standbyPowerUp s { s with aon := { s.aon with standby := true } }) ∧
  (∀ s : State, s.aon.pg = false → Gives .standbyPowerLoss s { s with ember := Ember.empty, aon := { s.aon with standby := false } }) ∧
  (∀ (seed : Option (List Byte)) (s : State), s.clocked = true → s.get F.SEC_BOOT_STAGE = 3 →
    Gives (.stageRom false seed) s (s.bootMap.stageFail) ∧
    (s.aon.romRan = false → Gives (.stageRom true none) s
      ((({ s with aon := { s.aon with seed := none, romRan := true } }.bootMap.set F.SEC_BOOT_ID_OK 0).raise F.SEC_EVENT_ID_FAIL).setStage 4)) ∧
    (s.aon.romRan = false → ∀ (x : List Byte) (u : State), u = { s with aon := { s.aon with seed := some x, romRan := true } }.bootMap →
      Gives (.stageRom true (some x)) s (((u.each (List.range 16) fun t i =>
        t.setReg (R.SEC_IDHASH i) (BitVec.ofNat 32 (leAt (shake256 (Config.falconPublic (idBytes x)) 64) (4 * i) 4))).set F.SEC_BOOT_ID_OK 1).setStage 4))) ∧
  (∀ s u : State, s.clocked = true → s.get F.SEC_BOOT_STAGE = 4 → u = (s.set F.SEC_SVN0_COUNT s.nvm.count0).set F.SEC_SVN1_COUNT s.nvm.count1 →
    (s.aon.nvmMode = 3 → Gives .stageImage s ((u.set F.SEC_BOOT_SLOT 1).setStage 14)) ∧
    (s.aon.nvmMode ≠ 3 → s.nvm.boot % 2 = 0 → u.imageOld s.nvm.slot0 = false → u.imageOk s.nvm.slot0 = true → Gives .stageImage s ((u.set F.SEC_BOOT_SLOT 0).bootImage s.nvm.slot0)) ∧
    (s.aon.nvmMode ≠ 3 → s.nvm.boot % 2 = 0 → u.imageOld s.nvm.slot0 = false → u.imageOk s.nvm.slot0 = false →
      ∀ v, v = u.raise F.SEC_EVENT_SLOT_FALLBACK → v.imageOld s.nvm.slot1 = false →
      Gives .stageImage s (if v.imageOk s.nvm.slot1 then (v.set F.SEC_BOOT_SLOT 1).bootImage s.nvm.slot1 else (v.set F.SEC_BOOT_SLOT 1).setStage 14))) ∧
  (∀ s : State, s.clocked = true → s.get F.SEC_BOOT_STAGE = 5 → ∃ t, exec .stageRestore s = .next t ∧ t.get F.SEC_BOOT_STAGE = 6 ∧ t.ember.digest = s.confDigest ∧ t.hob = s.hob ∧ t.aon = s.aon) ∧
  (∀ (ports channels slices : List Bool) (cxl gibs : List Nat) (s : State), s.clocked = true → s.get F.SEC_BOOT_STAGE = 6 →
    (gibs.any s.stackRefused = true → Gives (.stageCalib ports channels slices (cxl, gibs)) s s.stageFail) ∧
    (gibs.any s.stackRefused = false → ∃ t, exec (.stageCalib ports channels slices (cxl, gibs)) s = .next t ∧ t.get F.SEC_BOOT_STAGE = 7)) ∧
  (∀ s : State, s.clocked = true → s.get F.SEC_BOOT_STAGE = 7 → Gives .stageInit s (s.clearMemory.setStage 8)) ∧
  (∀ s : State, s.clocked = true → s.get F.SEC_BOOT_STAGE = 8 → s.aon.ready = false → ((s.setReady true).on F.SEC_BOOT_OWNED = false → Gives .ready s (s.setReady true))) ∧
  (∀ (q : Fin 4) (s : State), s.busOn = true → s.isSecure (68 + q.val) = true →
    (q.val = s.master → s.on F.SEC_MASTER_VALID = true → Gives (.heartbeat q) s s) ∧
    ((q.val ≠ s.master ∨ s.on F.SEC_MASTER_VALID = false) →
      Gives (.heartbeat q) s (((s.raise F.SEC_EVENT_FALSE_CLAIM).set F.SEC_MASTER_LASTCLAIM q.val).errRecord .security 0 .hob q.val 3 q.val))) ∧
  (∀ (q : Nat) (s : State), s.aon.standby = true → s.aon.pg = true → s.on F.SEC_MASTER_VALID = true →
    (s.clocked = false ∨ s.get F.CFG_STATE_IMAGE < 2 ∧ 8 ≤ s.get F.SEC_BOOT_STAGE ∧ s.get F.SEC_BOOT_STAGE ≠ 14) →
    ([1, 2, 3].map fun i => (s.master + i) % 4).find? (fun q => !(s.cricket (68 + q)).halted) = some q →
    ∃ t, exec .tokenPass s = .next t ∧ t.master = q ∧ t.on F.SEC_EVENT_TOKEN_PASS = true ∧ t.get F.SEC_MASTER_PASSES = min 7 (s.get F.SEC_MASTER_PASSES + 1) ∧
      RegsBut [R.SEC_MASTER, R.SEC_EVENT] s t ∧ t.mem = s.mem) ∧
  (∀ s : State, s.clocked = true → ∃ t, exec .retainWrite s = .next t ∧ t.hob.changed = [] ∧ t.ember.digest = s.confDigest ∧ t.ember.tagOk = s.on F.SEC_BOOT_ID_OK ∧
    (s.ember.retained = [] → ∀ o, s.hob.changed = [o] → t.ember.retained = [(o, (s.reg o).toNat)]) ∧ t.regs = s.regs ∧ t.mem = s.mem) ∧
  (∀ (reg : Byte) (s : State), s.aon.standby = true → reg.toNat < 6 → (s.aon.pg = false ∨ reg.toNat ≠ 2 ∧ reg.toNat ≠ 3) →
    Gives (.standbyBusRead reg) s { s with aon := { s.aon with mgmtOut := s.mgmtByte reg.toNat } })

/-! ## Host commands (15_startup_configuration_security.md, 12_collectives_and_job_mapping.md) -/

/-- R509: a poll of the control page that finds a command takes it, or ends it with INVALID when it is not known or its arguments are bad. R510: LOAD ends BUSY when an image is
loaded, refuses an image or a job that fails a check, and otherwise loads it; when the load barrier is satisfied it ends OK with the image READY and the job enabled. R511: a load
whose barrier does not release is cleared and ends PEER_TIMEOUT. R512: UNLOAD stops the job, clears the load and ends OK. R513: ATTEST writes the signed report, or ends
DENIED where the identity has failed. R514: CHALLENGE writes a nonce; SUBMIT opens a session for a good token and else ends DENIED. R515: CLOSE ends the session. R492: CONFIG boots
an image that is good. -/
def Obligations.HostCommandsRun : Prop :=
  ∀ s : State, s.clocked = true →
    (∀ (cmd seq a len : Nat) (s1 s2 s3 s4 : State), s.hobListens = true → s.pageRead 8 4 = (cmd, s1) → s1.pageRead 0xC 4 = (seq, s2) → s2.pageRead 0x18 8 = (a, s3) →
      s3.pageRead 0x20 8 = (len, s4) →
      (cmd = 0 → Gives .hostPagePoll s s1) ∧
      (cmd ≠ 0 → ∀ u : State, u = { s4 with hob := { s4.hob with cmd := some (cmd, seq, a, len) } } →
        ((cmdKnown (s.get F.SEC_BOOT_STAGE) cmd = false ∨ argsBad cmd a len = true) → Gives .hostPagePoll s (u.cmdEnd 4)) ∧
        (cmdKnown (s.get F.SEC_BOOT_STAGE) cmd = true → argsBad cmd a len = false →
          (cmd ≠ 1 ∨ s.get F.CFG_STATE_IMAGE ≠ 0 → Gives .hostPagePoll s u) ∧ (cmd = 1 → s.get F.CFG_STATE_IMAGE = 0 → Gives .hostPagePoll s (u.set F.CFG_STATE_IMAGE 1))))) ∧
    (∀ seq a len, s.hob.cmd = some (1, seq, a, len) → s.hob.loading = false →
      (2 ≤ s.get F.CFG_STATE_IMAGE → Gives .load s (s.cmdEnd 2)) ∧
      (s.get F.CFG_STATE_IMAGE < 2 → ∀ (img : List Byte) (s1 : State), s.hobRead a len = (img, s1) →
        (∀ code, s1.imageRefusal img = some code → Gives .load s (s1.refuse code 0 0 0 0)) ∧
        (s1.imageRefusal img = none → ∀ r, recOf ((ctRecords img).getD []) 0x201 = some r →
          (s1.jobRefusal r.body = none → Gives .load s (s1.loadImage a img r.body ((ctRecords img).getD []))) ∧
          (∀ code res need avail, s1.jobRefusal r.body = some (code, res, need, avail) → code ≠ 0x11 → Gives .load s (s1.refuse code res (jobOf r.body 4) need avail))))) ∧
    (s.hob.loading = true → s.satisfied (s.jobf 11 % 4096) = true → 
      Gives .loadComplete s ((((s.loadEnds.stepStart s.job.firstStep).saveIndexes.startWorkers.pageWrite 0x40 (refusalBytes 0 0 0 0 0))).cmdEnd 0) ∧
      s.loadEnds.jobEn = true ∧ s.loadEnds.get F.CFG_STATE_IMAGE = 2 ∧ s.loadEnds.hob.loading = false ∧ s.loadEnds.get F.CFG_NDEV_COUNT = s.jobf 0 % 2 ^ F.CFG_NDEV_COUNT.w) ∧
    (s.hob.loading = true → s.satisfied (s.jobf 11 % 4096) = false → Gives .loadTimeout s (s.clearLoad.cmdEnd 3)) ∧
    (s.hob.loading = true → s.satisfied (s.jobf 11 % 4096) = true → Gives .loadTimeout s s) ∧
    (∀ seq a len, s.hob.cmd = some (2, seq, a, len) → Gives .unload s (((s.stopNow Stop.hostStop.code).clearLoad).cmdEnd 0)) ∧
    (∀ seq a len, s.hob.cmd = some (3, seq, a, len) →
      ((s.on F.SEC_BOOT_ID_OK = false ∨ s.aon.seed = none) → Gives .attest s (s.cmdEnd 5)) ∧
      (∀ (seed nonce : List Byte) (s1 : State), s.on F.SEC_BOOT_ID_OK = true → s.aon.seed = some seed → s.hobRead a 32 = (nonce, s1) →
        ∀ sig, sig = Config.falconSign (idBytes seed) (s1.reportBody nonce) →
        Gives .attest s ((s1.hobWrite (a + 64) (s1.reportBody nonce ++ leBytes 2 (min 1280 sig.length) ++ padTo 1280 sig ++ List.replicate 62 0)).cmdEnd 0))) ∧
    (∀ (nonce : List Byte) (u : State), u = s.pageWrite 0x80 (padTo 32 nonce) → (∃ seq a len, s.hob.cmd = some (4, seq, a, len)) →
      Gives (.challenge nonce) s ({ u with hob := { u.hob with nonce := some (padTo 32 nonce) } }.cmdEnd 0)) ∧
    (∀ (seq a len : Nat) (tok : List Byte) (s1 : State), s.hob.cmd = some (5, seq, a, len) → s.hobRead a 3392 = (tok, s1) →
      ∀ u : State, u = { s1 with hob := { s1.hob with nonce := none } } →
      (s1.tokenOk tok = false → Gives .submit s ((u.raise F.SEC_EVENT_TOKEN_REJECT).cmdEnd 5)) ∧
      (s1.tokenOk tok = true → ∀ v, v = ((u.set F.SEC_SESSION_OPEN 1).set F.SEC_SESSION_SCOPE (leAt tok 4 4)).raise F.SEC_EVENT_SESSION_OPEN →
        Gives .submit s ((v.errRecord .security 0 .hob v.master 5 v.master).cmdEnd 0))) ∧
    (∀ seq a len, s.hob.cmd = some (6, seq, a, len) → Gives .close s (((s.set F.SEC_SESSION_OPEN 0).set F.SEC_SESSION_SCOPE 0).cmdEnd 0)) ∧
    (∀ (seq a len : Nat) (img : List Byte) (s1 : State), s.hob.cmd = some (7, seq, a, len) → s.get F.SEC_BOOT_STAGE = 14 → s.hobRead a len = (img, s1) →
      (s1.imageOk img = true → Gives .config s ((s1.bootImage img).cmdEnd 0)) ∧
      (s1.imageOk img = false → Gives .config s ((if s1.imageOld img then s1.raise F.SEC_EVENT_ROLLBACK else s1).cmdEnd 1)))

/-! ## Resets and host links (16_step_commit_replay_and_errors.md, 18_host_and_far_memory_links.md, 19_module_pins_and_electrical.md) -/

/-- R534: a unit reset, a secure write of 1 to ERR_RESET.UNIT, empties every unit queue, halts and clears every worker cricket and keeps memory, the ember store and
the job's enable; with a job enabled, recovery follows unless a rewind was decided (DEDUCED, log 48). R560, R577: a host reset, or SYS_RST_N held low for 1 µs, goes back to stage OSC with
the clocks stopped, the straps and the NVM as they were and near memory cleared; it does nothing while power is not good or a thermal trip holds. A low on
PERST_N resets the endpoint only. R559: a link that comes up shows its generation and width, and the vectors that were owed are sent; one that goes
down shows zeros. R563, R564, R566: hot-add and hot-remove enumerate and change the devices while no image is loaded; a CXL link that goes down is not trained, and
a job notes it. -/
def Obligations.ResetsAndHostLinksAct : Prop :=
  ∀ s : State,
    (∀ (who : Requester) (val : Word), s.busOn = true → s.isSecure who.val = true →
      (val.getLsbD 0 = false → Gives (.unitReset who val) s (s.set F.ERR_RESET_UNIT 0)) ∧
      (val.getLsbD 0 = true → ∃ u : State, u.queues = [] ∧ u.kln = [] ∧ u.flue.injs = [] ∧ u.mem = s.mem ∧ u.errs = s.errs ∧ u.ember = s.ember ∧ u.hob = s.hob ∧ u.aon = s.aon ∧
        u.jobEn = s.jobEn ∧ (∀ c : Fin 68, (u.cricket c.val).halted = true ∧ (u.cricket c.val).inTrap = false ∧ (u.cricket c.val).g = []) ∧
        Gives (.unitReset who val) s (if s.jobEn && s.job.outcome != 4 then u.recover else u))) ∧
    (∀ i : Instr, ((s.busOn = true ∧ ∃ who, i = .hostReset who 1) ∨ (∃ n, 1000 ≤ n ∧ i = .sysRstN n)) →
      ((s.aon.pg = false ∨ s.aon.tripped = true) → Gives i s s) ∧
      (s.aon.pg = true → s.aon.tripped = false → ∃ u t : State, exec i s = .next t ∧
        Agree t (((u.setStage 1).setReg R.GEN_ID (s.reg R.GEN_ID)).setReg R.GEN_VARIANT (s.reg R.GEN_VARIANT)) ∧
        u.mem = farPart (s.stopNow Stop.hostStop.code).mem farBase ∧ u.jobEn = false ∧ u.nvm = (s.stopNow Stop.hostStop.code).nvm ∧ u.get F.SEC_BOOT_NVM_MODE = s.aon.nvmMode % 2 ^ F.SEC_BOOT_NVM_MODE.w ∧
        u.get F.SEC_BOOT_HOB_SEL = s.aon.hobSel % 2 ^ F.SEC_BOOT_HOB_SEL.w ∧ u.get F.CLK_STATUS_OSCWAIT = s.aon.oscWait % 2 ^ F.CLK_STATUS_OSCWAIT.w ∧
        t.get F.SEC_BOOT_STAGE = 1 ∧ t.clocked = false ∧ t.aon.ready = false ∧ t.queues = [] ∧ t.crk = [] ∧ t.hob.cmd = none ∧
        (s.jobEn = true → t.aon.lastStop = 14))) ∧
    (∀ (who : Requester) (val : Word), s.busOn = true → val ≠ 1 → Gives (.hostReset who val) s s) ∧
    (∀ n, n < 1000 → Gives (.sysRstN n) s s) ∧
    (∀ flr, ∃ t, exec (.perstN flr) s = .next t ∧ Agree t s ∧ t.irq.epResets = s.irq.epResets + 1) ∧
    (∀ (g : Fin 8) (w : Fin 32),
      ((4 ≤ g.val ∧ g.val ≤ 6) → (w = 1 ∨ w = 2 ∨ w = 4) → s.aon.pg = true → ∃ t, exec (.pcieLinkUp g w) s = .next t ∧ t.get F.CXL_STATUS_GEN = g.val ∧ t.get F.CXL_STATUS_WIDTH = w.val ∧
        t.irq.owed = [] ∧ (∃ l, t.irq.msix = s.irq.msix ++ s.irq.owed ++ l) ∧ RegsBut [R.CXL_STATUS] s t ∧ t.mem = s.mem ∧ t.job = s.job ∧ t.hob = s.hob) ∧
      ((g.val < 4 ∨ 6 < g.val ∨ (w ≠ 1 ∧ w ≠ 2 ∧ w ≠ 4) ∨ s.aon.pg = false) → Gives (.pcieLinkUp g w) s s)) ∧
    (∃ t, exec .pcieLinkDown s = .next t ∧ t.get F.CXL_STATUS_GEN = 0 ∧ t.get F.CXL_STATUS_WIDTH = 0 ∧ t.irq.msix = s.irq.msix ∧ RegsBut [R.CXL_STATUS] s t ∧ t.mem = s.mem ∧ t.job = s.job ∧ t.hob = s.hob) ∧
    (∀ (k : Fin 2) (gib : Nat),
      ((s.clocked = false ∨ s.on F.CFG_STATE_IMAGE = true ∨ gib = 0) → Gives (.cxlHotAdd k gib) s s) ∧
      (s.clocked = true → s.on F.CFG_STATE_IMAGE = false → 0 < gib → ∃ u : State, u = { s with cxl := { s.cxl with devs := Sparse.write s.cxl.devs [] k.val (s.cxl.devs.look [] k.val ++ [gib]) } } ∧
        Gives (.cxlHotAdd k gib) s ((u.enumerate).raise F.CXL_EVENT_HOTPLUG))) ∧
    (∀ k : Fin 2,
      (s.get (F.CXL_P_STATUS_STATE k.val) = 0 → Gives (.cxlLinkDown k) s s) ∧
      (s.get (F.CXL_P_STATUS_STATE k.val) ≠ 0 → ∃ t, exec (.cxlLinkDown k) s = .next t ∧ t.get (F.CXL_P_STATUS_STATE k.val) = 0 ∧ t.on F.CXL_EVENT_LINK_DOWN = true ∧
        t.job.faulty = (if s.jobEn then (15, k.val) :: s.job.faulty else s.job.faulty) ∧
        ((s.job.ckDrain = none ∨ s.job.ckEnded = true) → t.job.ckDrain = s.job.ckDrain ∧ RegsBut [R.CXL_P_STATUS k.val, R.CXL_EVENT] s t) ∧
        (t.job.ckDrain = s.job.ckDrain ∨ (t.job.ckDrain = none ∧ t.get F.ERR_STATUS_DRAIN = 0)) ∧
        RegsBut [R.CXL_P_STATUS k.val, R.CXL_EVENT, R.ERR_STATUS] s t ∧ t.mem = s.mem ∧ t.cxl = s.cxl) ∧
      (s.clocked = true → s.on F.CFG_STATE_IMAGE = true → s.cxl.devs.look [] k.val ≠ [] → exec (.cxlHotRemove k) s = exec (.cxlLinkDown k) s) ∧
      ((s.clocked = false ∨ s.cxl.devs.look [] k.val = []) → Gives (.cxlHotRemove k) s s) ∧
      (∀ d ds, s.clocked = true → s.on F.CFG_STATE_IMAGE = false → s.cxl.devs.look [] k.val = ds ++ [d] → ∃ t, exec (.cxlHotRemove k) s = .next t ∧
        t.cxl.devs.look [] k.val = ds ∧ (ds = [] → t.get (F.CXL_P_STATUS_STATE k.val) = 0) ∧ t.on F.CXL_EVENT_HOTPLUG = true ∧
        t.cxl.ranges = s.rangesWithout k.val ∧ RegsBut [R.CXL_P_STATUS 0, R.CXL_P_STATUS 1, R.CXL_FARSIZE_LO, R.CXL_FARSIZE_HI, R.CXL_EVENT] s t ∧ t.mem = s.mem ∧ t.job = s.job))

/-! ## The end of a step (16_step_commit_replay_and_errors.md) -/

/-- R537 with "Stopping a job": a stop records its code, disables the job, shows it stopped and leaves the image FAILED; with no job it does nothing. R519, R198: the verdict goes out when the update
has ended, unless a root is still owed or injections wait (log 123). R520: its result decides, by the first rule that matches, between stop, rewind, replay, skip and commit; R527: a replay past REPLAYMAX stops the job. R521: the watchdog aborts what
runs, records itself and issues the verdict with HW. R524, R525: the close writes half, generators and granule, applies the entries and goes on to the next step; a skip writes no entry and counts. R526:
a replay counts, keeps the step number and the journal, and restores. R532: a drain writes body, region list and header of the other slot. R533: a rewind restores the
confirmed checkpoint and goes on after its step; one that fails its checks stops the job. -/
def Obligations.StepsEnd : Prop :=
  ∀ s : State,
    (∀ code, s.jobEn = true → (s.stopNow code).jobEn = false ∧ (s.stopNow code).get F.ERR_STATUS_JOB = 4 ∧ (s.stopNow code).get F.CFG_STATE_IMAGE = 3 ∧
      (s.stopNow code).get F.ERR_STOP_CODE = code % 2 ^ F.ERR_STOP_CODE.w ∧ (s.stopNow code).on F.ERR_EVENT_STOP = true ∧ (s.stopNow code).job.outcome = 0 ∧ (s.stopNow code).job.result = none ∧ (s.stopNow code).aon.lastStop = code) ∧
    (∀ code, s.jobEn = false → s.stopNow code = s) ∧
    ((s.clocked = false ∨ s.jobEn = false) → ∀ i ∈ [Instr.verdictIssue, .verdictResult, .verdictTimeout, .stepWatchdog, .stepClose, .replay, .rewind], Gives i s s) ∧
    (s.clocked = true → s.jobEn = true →
      ((s.job.issued = true ∨ s.job.outcome ≠ 0 ∨ s.updateEnded = false ∨ s.switchHold = true ∨ (∃ q < 4, s.rootsOwed q = true)) → Gives .verdictIssue s s) ∧
      (s.job.issued = false → s.job.outcome = 0 → s.updateEnded = true → s.switchHold = false → (∀ q < 4, s.rootsOwed q = false) → Gives .verdictIssue s s.issueVerdict) ∧
      ((s.job.issued = false ∨ s.job.outcome ≠ 0 ∨ s.job.result = none) → Gives .verdictResult s s) ∧
      (s.job.issued = true → s.job.outcome = 0 →
        (∀ st sums, s.job.result = some (st, sums) → st ≠ 0 → Gives .verdictResult s (s.stopNow Stop.memberLost.code)) ∧
        (∀ (sums : List Nat) (hw stop nf rwd busy : Nat), s.job.result = some (0, sums) → hw = sums.getD 0 0 → stop = sums.getD 1 0 → nf = sums.getD 2 0 → rwd = sums.getD 3 0 → busy = sums.getD 4 0 →
          ∀ u : State, u = { s.oldFree with job := { s.oldFree.job with ckBusy := busy != 0 } } →
          (0 < stop → Gives .verdictResult s (u.stopNow (if s.job.stop = 0 then Stop.peerStop.code else s.job.stop))) ∧
          (stop = 0 → 0 < rwd → Gives .verdictResult s ((u.set F.ERR_STATUS_JOB 3).decide' 4)) ∧
          (stop = 0 → rwd = 0 → (0 < hw ∨ (0 < nf ∧ nf ≠ s.get (F.COL_NRANKS_COUNT s.master))) →
            (max 1 (s.get F.ERR_LIMITS_REPLAYMAX) ≤ s.job.replays → Gives .verdictResult s (u.stopNow Stop.replayExhausted.code)) ∧
            (s.job.replays < max 1 (s.get F.ERR_LIMITS_REPLAYMAX) → Gives .verdictResult s ((u.set F.ERR_STATUS_JOB 2).decide' 3))) ∧
          (stop = 0 → rwd = 0 → hw = 0 → 0 < nf → nf = s.get (F.COL_NRANKS_COUNT s.master) → Gives .verdictResult s (u.decide' 2)) ∧
          (stop = 0 → rwd = 0 → hw = 0 → nf = 0 → Gives .verdictResult s (u.decide' 1))) ∧
        (s.job.result = none → Gives .verdictTimeout s (s.stopNow Stop.memberLost.code))) ∧
      ((s.job.issued = false ∨ s.job.outcome ≠ 0 ∨ s.job.result ≠ none) → Gives .verdictTimeout s s) ∧
      ((s.on F.ERR_CTRL_WD_EN = false ∨ s.job.issued = true ∨ s.job.outcome ≠ 0) → Gives .stepWatchdog s s) ∧
      (s.on F.ERR_CTRL_WD_EN = true → s.job.issued = false → s.job.outcome = 0 →
        Gives .stepWatchdog s (((s.abortEverything.errRecord .job 1 .hob s.master 5 0).raise F.ERR_EVENT_WATCHDOG).veto.issueVerdict)) ∧
      ((s.job.outcome ≠ 1 ∧ s.job.outcome ≠ 2) → Gives .stepClose s s) ∧
      (∀ (n : Nat) (es : List (Nat × Nat × Nat)) (u v w : State), n = s.job.step → es = s.job.entries →
        u = ((s.hobWrite (s.halfAddr (n % 2) + 16) (es.flatMap entryBytes)).hobWrite (s.halfAddr (n % 2)) (halfHeader n 1 es.length)).saveGens.journalStep (n + 1) →
        v = ((((u.hobWrite u.cbase (granule n 1 (n % 2) es.length)).each es State.applyEntry).each (List.range 4) fun t q => t.blwClose q n true).pushHistories.noteCommit n).checkpointClose →
        w = ((v.setPair R.ERR_STEP_LO n).set F.ERR_STATUS_JOB 1).nextRun (n + 1) 0 [] →
        w.job.step = n + 1 ∧ w.job.replays = 0 ∧ w.job.entries = [] ∧ w.job.issued = false ∧ w.job.outcome = 0 ∧
        (s.job.outcome = 1 → Gives .stepClose s ((w.stepStart (n + 1)).saveIndexes.softRepairs.retrainPlanned.portsAtBoundary).signalStepStart)) ∧
      (∀ (n : Nat) (u v x w : State), n = s.job.step →
        u = ((s.hobWrite (s.halfAddr (n % 2) + 16) []).hobWrite (s.halfAddr (n % 2)) (halfHeader n 2 0)).saveGens.journalStep (n + 1) →
        v = ((u.hobWrite u.cbase (granule n 2 (n % 2) 0)).each (List.range 4) fun t q => t.blwClose q n false).pushHistories →
        x = ((v.count F.ERR_SKIPS_VALUE 1).raise F.ERR_EVENT_SKIP).errRecord .job 1 .hob v.master 1 (v.get (F.COL_VETO_RANK v.master) + 2 ^ 16 * v.get (F.COL_VETOLAYER_LAYER v.master)) →
        w = ((x.checkpointClose.setPair R.ERR_STEP_LO n).set F.ERR_STATUS_JOB 1).nextRun (n + 1) 0 [] →
        s.job.outcome = 2 → Gives .stepClose s ((w.stepStart (n + 1)).saveIndexes.softRepairs.retrainPlanned.portsAtBoundary).signalStepStart) ∧
      (s.job.outcome ≠ 3 → Gives .replay s s) ∧
      (∀ u : State, u = (((s.count F.ERR_REPLAYS_VALUE 1).raise F.ERR_EVENT_REPLAY).errRecord .job 1 .hob s.master 2 0).replayUnits → s.job.outcome = 3 →
        (u.job.stop = 0 → Gives .replay s ((u.nextRun u.job.step (u.job.replays + 1) u.job.faulty).restoreStep)) ∧
        (u.job.stop ≠ 0 → Gives .replay s (u.stopNow u.job.stop))) ∧
      (s.job.outcome ≠ 4 → Gives .rewind s s) ∧
      (∀ u v : State, u = ((s.raise F.ERR_EVENT_REWIND).errRecord .job 3 .hob s.master 3 0).unitsReset →
        v = u.reduceInterleave → s.job.outcome = 4 →
        (v.on F.ERR_STATUS_CONF_VALID = false → Gives .rewind s (v.stopNow Stop.checkpointBad.code)) ∧
        (v.on F.ERR_STATUS_CONF_VALID = true →
          (∀ x, v.slotRead (v.get F.ERR_STATUS_CONF_SLOT) = (none, x) → Gives .rewind s (x.stopNow Stop.checkpointBad.code)) ∧
          (∀ n regs body x, v.slotRead (v.get F.ERR_STATUS_CONF_SLOT) = (some (n, regs, body), x) → Gives .rewind s (((x.slotRestore regs body).resumeAt n).set F.ERR_STATUS_JOB 1).mailStep)))) ∧
    ((s.clocked = false ∨ s.job.ckDrain = none ∨ s.job.ckEnded = true) → Gives .checkpointDrainDone s s) ∧
    (∀ (n len : Nat) (body : List Byte) (x y : State), s.clocked = true → s.job.ckDrain = some n → s.job.ckEnded = false → len = s.drainLen →
      s.hobRead (s.pair R.ERR_CKSTAGE_LO) len = (body, x) → y = x.set F.ERR_STATUS_DRAIN 0 →
      ∀ (slot b : Nat) (h : List Byte), slot = s.drainSlot → b = x.slotBase slot → h = y.slotHeader n y.job.ckRegs body →
        (y.farOk b (4096 + len) = true → ∀ z, z = ((y.hobWrite (b + 4096) body).hobWrite (b + 64) (h.drop 64)).hobWrite b (h.take 64) →
          Gives .checkpointDrainDone s z.endDrain) ∧
        (y.farOk b (4096 + len) = false → Gives .checkpointDrainDone s y.dropDrain))
end

