-- ==== Sys2Proof/Laws/Sparse.lean ====
section
/-! SUPPORT. Sparse tables: what a key reads as after a write, and that a write keeps the canonical form. -/

set_option Elab.async false

namespace Sys2Proof.Machine

variable {α : Type}

theorem Sparse.look_drop (m : Sparse α) (d : α) (k j : Nat) :
    Sparse.look (Sparse.drop m k) d j = if j = k then d else Sparse.look m d j := by
  induction m with
  | nil => simp [Sparse.drop, Sparse.look]
  | cons e t ih =>
    obtain ⟨i, v⟩ := e
    by_cases hi : i = k
    · subst hi
      by_cases hj : j = i
      · subst hj; simp only [Sparse.drop, if_true, ih]
      · simp [Sparse.drop, Sparse.look, ih, hj, Ne.symm hj]
    · by_cases hj : i = j
      · subst hj; simp [Sparse.drop, Sparse.look, hi]
      · simp [Sparse.drop, Sparse.look, ih, hi, hj]

theorem Sparse.look_put (m : Sparse α) (d : α) (k : Nat) (v : α) (j : Nat) :
    Sparse.look (Sparse.put m k v) d j = if j = k then v else Sparse.look m d j := by
  induction m with
  | nil =>
    by_cases hj : j = k
    · simp [Sparse.put, Sparse.look, hj]
    · simp [Sparse.put, Sparse.look, hj, Ne.symm hj]
  | cons e t ih =>
    obtain ⟨i, w⟩ := e
    simp only [Sparse.put]
    split
    · by_cases hj : j = k
      · simp [Sparse.look, hj]
      · simp [Sparse.look, hj, Ne.symm hj]
    · split
      · rename_i h; subst h
        by_cases hj : j = i
        · simp [Sparse.look, hj]
        · simp [Sparse.look, hj, Ne.symm hj]
      · rename_i h
        by_cases hj : i = j
        · subst hj; simp [Sparse.look, h]
        · simp [Sparse.look, hj, ih]

theorem Sparse.look_drop_ne (m : Sparse α) (d : α) {k j : Nat} (h : j ≠ k) : Sparse.look (Sparse.drop m k) d j = Sparse.look m d j := by
  simp [Sparse.look_drop, h]
/-- A write is read back at its key and at no other. -/
theorem Sparse.look_write [DecidableEq α] (m : Sparse α) (d : α) (k : Nat) (v : α) (j : Nat) :
    Sparse.look (Sparse.write m d k v) d j = if j = k then v else Sparse.look m d j := by
  unfold Sparse.write
  split
  · rename_i h; subst h; exact Sparse.look_drop m v k j
  · exact Sparse.look_put m d k v j
@[simp] theorem Sparse.look_write_self [DecidableEq α] (m : Sparse α) (d : α) (k : Nat) (v : α) :
    Sparse.look (Sparse.write m d k v) d k = v := by simp [Sparse.look_write]
theorem Sparse.look_write_ne [DecidableEq α] (m : Sparse α) (d : α) {k j : Nat} (v : α) (h : j ≠ k) :
    Sparse.look (Sparse.write m d k v) d j = Sparse.look m d j := by simp [Sparse.look_write, h]
@[simp] theorem Sparse.look_nil (d : α) (k : Nat) : Sparse.look ([] : Sparse α) d k = d := rfl

/-- A lower bound of the keys of a canonical table may be lowered. -/
theorem Sparse.wfFrom_mono [DecidableEq α] (d : Nat → α) (m : Sparse α) {a b : Nat} (h : a ≤ b)
    (hm : Sparse.wfFrom d (some b) m = true) : Sparse.wfFrom d (some a) m = true := by
  cases m with
  | nil => rfl
  | cons e t =>
    obtain ⟨k, v⟩ := e
    simp only [Sparse.wfFrom, Bool.and_eq_true, decide_eq_true_eq] at hm ⊢
    exact ⟨⟨by omega, hm.1.2⟩, hm.2⟩

theorem Sparse.wfFrom_drop [DecidableEq α] (d : Nat → α) (m : Sparse α) (k : Nat) (lo : Option Nat)
    (hm : Sparse.wfFrom d lo m = true) : Sparse.wfFrom d lo (Sparse.drop m k) = true := by
  induction m generalizing lo with
  | nil => rfl
  | cons e t ih =>
    obtain ⟨i, v⟩ := e
    have ht : Sparse.wfFrom d (some i) t = true := by
      simp only [Sparse.wfFrom, Bool.and_eq_true] at hm; exact hm.2
    simp only [Sparse.drop]
    split
    · cases lo with
      | none =>
        have := ih (some i) ht
        cases h : Sparse.drop t k with
        | nil => rfl
        | cons e' t' =>
          obtain ⟨i', v'⟩ := e'
          rw [h] at this
          simp only [Sparse.wfFrom, Bool.and_eq_true] at this ⊢
          exact ⟨⟨trivial, this.1.2⟩, this.2⟩
      | some l =>
        have hl : l < i := by simp only [Sparse.wfFrom, Bool.and_eq_true, decide_eq_true_eq] at hm; exact hm.1.1
        exact Sparse.wfFrom_mono d _ (Nat.le_of_lt hl) (ih (some i) ht)
    · simp only [Sparse.wfFrom, Bool.and_eq_true] at hm ⊢
      exact ⟨hm.1, ih (some i) ht⟩

theorem Sparse.wfFrom_put [DecidableEq α] (d : Nat → α) (m : Sparse α) (k : Nat) (v : α) (hv : v ≠ d k) (lo : Option Nat)
    (hlo : ∀ l, lo = some l → l < k) (hm : Sparse.wfFrom d lo m = true) : Sparse.wfFrom d lo (Sparse.put m k v) = true := by
  induction m generalizing lo with
  | nil =>
    cases lo with
    | none => simp [Sparse.put, Sparse.wfFrom, hv]
    | some l => simp [Sparse.put, Sparse.wfFrom, hv, hlo l rfl]
  | cons e t ih =>
    obtain ⟨i, w⟩ := e
    simp only [Sparse.wfFrom, Bool.and_eq_true] at hm
    simp only [Sparse.put]
    split
    · rename_i h
      simp only [Sparse.wfFrom, Bool.and_eq_true]
      exact ⟨⟨by cases lo with | none => rfl | some l => simpa using hlo l rfl, by simpa using hv⟩, ⟨by simpa using h, hm.1.2⟩, hm.2⟩
    · split
      · rename_i h; subst h
        simp only [Sparse.wfFrom, Bool.and_eq_true]
        exact ⟨⟨by cases lo with | none => rfl | some l => simpa using hlo l rfl, by simpa using hv⟩, hm.2⟩
      · simp only [Sparse.wfFrom, Bool.and_eq_true]
        exact ⟨hm.1, ih (some i) (by intro l hl; cases hl; omega) hm.2⟩

/-- A write keeps the canonical form. -/
theorem Sparse.wf_write [DecidableEq α] (m : Sparse α) (d : α) (k : Nat) (v : α)
    (hm : Sparse.wf (fun _ => d) m = true) : Sparse.wf (fun _ => d) (Sparse.write m d k v) = true := by
  unfold Sparse.write Sparse.wf at *
  split
  · exact Sparse.wfFrom_drop _ m k none hm
  · rename_i h; exact Sparse.wfFrom_put _ m k v h none (by simp) hm

end Sys2Proof.Machine
end

