-- ==== Sys2Proof/Laws/State.lean ====
section
/-! SUPPORT. One lemma per field per update of State: what an update leaves as it was. -/

set_option Elab.async false

namespace Sys2Proof.Machine

/-! ### State.setReg -/

@[simp] theorem State.setReg_bus (s : State) (off : Nat) (v : Word) : (s.setReg off v).bus = s.bus := rfl
@[simp] theorem State.setReg_mem (s : State) (off : Nat) (v : Word) : (s.setReg off v).mem = s.mem := rfl
@[simp] theorem State.setReg_errs (s : State) (off : Nat) (v : Word) : (s.setReg off v).errs = s.errs := rfl
@[simp] theorem State.setReg_ram (s : State) (off : Nat) (v : Word) : (s.setReg off v).ram = s.ram := rfl
@[simp] theorem State.setReg_queues (s : State) (off : Nat) (v : Word) : (s.setReg off v).queues = s.queues := rfl
@[simp] theorem State.setReg_hrt (s : State) (off : Nat) (v : Word) : (s.setReg off v).hrt = s.hrt := rfl
@[simp] theorem State.setReg_blw (s : State) (off : Nat) (v : Word) : (s.setReg off v).blw = s.blw := rfl
@[simp] theorem State.setReg_kln (s : State) (off : Nat) (v : Word) : (s.setReg off v).kln = s.kln := rfl
@[simp] theorem State.setReg_folded (s : State) (off : Nat) (v : Word) : (s.setReg off v).folded = s.folded := rfl
@[simp] theorem State.setReg_num (s : State) (off : Nat) (v : Word) : (s.setReg off v).num = s.num := rfl
@[simp] theorem State.setReg_syn (s : State) (off : Nat) (v : Word) : (s.setReg off v).syn = s.syn := rfl
@[simp] theorem State.setReg_flue (s : State) (off : Nat) (v : Word) : (s.setReg off v).flue = s.flue := rfl
@[simp] theorem State.setReg_col (s : State) (off : Nat) (v : Word) : (s.setReg off v).col = s.col := rfl
@[simp] theorem State.setReg_ember (s : State) (off : Nat) (v : Word) : (s.setReg off v).ember = s.ember := rfl
@[simp] theorem State.setReg_nvm (s : State) (off : Nat) (v : Word) : (s.setReg off v).nvm = s.nvm := rfl
@[simp] theorem State.setReg_hob (s : State) (off : Nat) (v : Word) : (s.setReg off v).hob = s.hob := rfl
@[simp] theorem State.setReg_crk (s : State) (off : Nat) (v : Word) : (s.setReg off v).crk = s.crk := rfl
@[simp] theorem State.setReg_pwr (s : State) (off : Nat) (v : Word) : (s.setReg off v).pwr = s.pwr := rfl
@[simp] theorem State.setReg_onMarks (s : State) (off : Nat) (v : Word) : (s.setReg off v).onMarks = s.onMarks := rfl
@[simp] theorem State.setReg_goodWins (s : State) (off : Nat) (v : Word) : (s.setReg off v).goodWins = s.goodWins := rfl
@[simp] theorem State.setReg_job (s : State) (off : Nat) (v : Word) : (s.setReg off v).job = s.job := rfl
@[simp] theorem State.setReg_errSeq (s : State) (off : Nat) (v : Word) : (s.setReg off v).errSeq = s.errSeq := rfl
@[simp] theorem State.setReg_cxl (s : State) (off : Nat) (v : Word) : (s.setReg off v).cxl = s.cxl := rfl
@[simp] theorem State.setReg_aon (s : State) (off : Nat) (v : Word) : (s.setReg off v).aon = s.aon := rfl
@[simp] theorem State.setReg_irq (s : State) (off : Nat) (v : Word) : (s.setReg off v).irq = s.irq := rfl
@[simp] theorem State.setReg_padWaves (s : State) (off : Nat) (v : Word) : (s.setReg off v).padWaves = s.padWaves := rfl
@[simp] theorem State.setReg_ffy (s : State) (off : Nat) (v : Word) : (s.setReg off v).ffy = s.ffy := rfl
@[simp] theorem State.setReg_a192 (s : State) (off : Nat) (v : Word) : (s.setReg off v).a192 = s.a192 := rfl
@[simp] theorem State.setReg_cycle (s : State) (off : Nat) (v : Word) : (s.setReg off v).cycle = s.cycle := rfl
@[simp] theorem State.setReg_freeCtr (s : State) (off : Nat) (v : Word) : (s.setReg off v).freeCtr = s.freeCtr := rfl
@[simp] theorem State.setReg_pending (s : State) (off : Nat) (v : Word) : (s.setReg off v).pending = s.pending := rfl

/-! ### State.set -/

@[simp] theorem State.set_bus (s : State) (f : RF) (v : Nat) : (s.set f v).bus = s.bus := rfl
@[simp] theorem State.set_mem (s : State) (f : RF) (v : Nat) : (s.set f v).mem = s.mem := rfl
@[simp] theorem State.set_errs (s : State) (f : RF) (v : Nat) : (s.set f v).errs = s.errs := rfl
@[simp] theorem State.set_ram (s : State) (f : RF) (v : Nat) : (s.set f v).ram = s.ram := rfl
@[simp] theorem State.set_queues (s : State) (f : RF) (v : Nat) : (s.set f v).queues = s.queues := rfl
@[simp] theorem State.set_hrt (s : State) (f : RF) (v : Nat) : (s.set f v).hrt = s.hrt := rfl
@[simp] theorem State.set_blw (s : State) (f : RF) (v : Nat) : (s.set f v).blw = s.blw := rfl
@[simp] theorem State.set_kln (s : State) (f : RF) (v : Nat) : (s.set f v).kln = s.kln := rfl
@[simp] theorem State.set_folded (s : State) (f : RF) (v : Nat) : (s.set f v).folded = s.folded := rfl
@[simp] theorem State.set_num (s : State) (f : RF) (v : Nat) : (s.set f v).num = s.num := rfl
@[simp] theorem State.set_syn (s : State) (f : RF) (v : Nat) : (s.set f v).syn = s.syn := rfl
@[simp] theorem State.set_flue (s : State) (f : RF) (v : Nat) : (s.set f v).flue = s.flue := rfl
@[simp] theorem State.set_col (s : State) (f : RF) (v : Nat) : (s.set f v).col = s.col := rfl
@[simp] theorem State.set_ember (s : State) (f : RF) (v : Nat) : (s.set f v).ember = s.ember := rfl
@[simp] theorem State.set_nvm (s : State) (f : RF) (v : Nat) : (s.set f v).nvm = s.nvm := rfl
@[simp] theorem State.set_hob (s : State) (f : RF) (v : Nat) : (s.set f v).hob = s.hob := rfl
@[simp] theorem State.set_crk (s : State) (f : RF) (v : Nat) : (s.set f v).crk = s.crk := rfl
@[simp] theorem State.set_pwr (s : State) (f : RF) (v : Nat) : (s.set f v).pwr = s.pwr := rfl
@[simp] theorem State.set_onMarks (s : State) (f : RF) (v : Nat) : (s.set f v).onMarks = s.onMarks := rfl
@[simp] theorem State.set_goodWins (s : State) (f : RF) (v : Nat) : (s.set f v).goodWins = s.goodWins := rfl
@[simp] theorem State.set_job (s : State) (f : RF) (v : Nat) : (s.set f v).job = s.job := rfl
@[simp] theorem State.set_errSeq (s : State) (f : RF) (v : Nat) : (s.set f v).errSeq = s.errSeq := rfl
@[simp] theorem State.set_cxl (s : State) (f : RF) (v : Nat) : (s.set f v).cxl = s.cxl := rfl
@[simp] theorem State.set_aon (s : State) (f : RF) (v : Nat) : (s.set f v).aon = s.aon := rfl
@[simp] theorem State.set_irq (s : State) (f : RF) (v : Nat) : (s.set f v).irq = s.irq := rfl
@[simp] theorem State.set_padWaves (s : State) (f : RF) (v : Nat) : (s.set f v).padWaves = s.padWaves := rfl
@[simp] theorem State.set_ffy (s : State) (f : RF) (v : Nat) : (s.set f v).ffy = s.ffy := rfl
@[simp] theorem State.set_a192 (s : State) (f : RF) (v : Nat) : (s.set f v).a192 = s.a192 := rfl
@[simp] theorem State.set_cycle (s : State) (f : RF) (v : Nat) : (s.set f v).cycle = s.cycle := rfl
@[simp] theorem State.set_freeCtr (s : State) (f : RF) (v : Nat) : (s.set f v).freeCtr = s.freeCtr := rfl
@[simp] theorem State.set_pending (s : State) (f : RF) (v : Nat) : (s.set f v).pending = s.pending := rfl

/-! ### State.raise -/

@[simp] theorem State.raise_bus (s : State) (f : RF) : (s.raise f).bus = s.bus := rfl
@[simp] theorem State.raise_mem (s : State) (f : RF) : (s.raise f).mem = s.mem := rfl
@[simp] theorem State.raise_errs (s : State) (f : RF) : (s.raise f).errs = s.errs := rfl
@[simp] theorem State.raise_ram (s : State) (f : RF) : (s.raise f).ram = s.ram := rfl
@[simp] theorem State.raise_queues (s : State) (f : RF) : (s.raise f).queues = s.queues := rfl
@[simp] theorem State.raise_hrt (s : State) (f : RF) : (s.raise f).hrt = s.hrt := rfl
@[simp] theorem State.raise_blw (s : State) (f : RF) : (s.raise f).blw = s.blw := rfl
@[simp] theorem State.raise_kln (s : State) (f : RF) : (s.raise f).kln = s.kln := rfl
@[simp] theorem State.raise_folded (s : State) (f : RF) : (s.raise f).folded = s.folded := rfl
@[simp] theorem State.raise_num (s : State) (f : RF) : (s.raise f).num = s.num := rfl
@[simp] theorem State.raise_syn (s : State) (f : RF) : (s.raise f).syn = s.syn := rfl
@[simp] theorem State.raise_flue (s : State) (f : RF) : (s.raise f).flue = s.flue := rfl
@[simp] theorem State.raise_col (s : State) (f : RF) : (s.raise f).col = s.col := rfl
@[simp] theorem State.raise_ember (s : State) (f : RF) : (s.raise f).ember = s.ember := rfl
@[simp] theorem State.raise_nvm (s : State) (f : RF) : (s.raise f).nvm = s.nvm := rfl
@[simp] theorem State.raise_hob (s : State) (f : RF) : (s.raise f).hob = s.hob := rfl
@[simp] theorem State.raise_crk (s : State) (f : RF) : (s.raise f).crk = s.crk := rfl
@[simp] theorem State.raise_pwr (s : State) (f : RF) : (s.raise f).pwr = s.pwr := rfl
@[simp] theorem State.raise_onMarks (s : State) (f : RF) : (s.raise f).onMarks = s.onMarks := rfl
@[simp] theorem State.raise_goodWins (s : State) (f : RF) : (s.raise f).goodWins = s.goodWins := rfl
@[simp] theorem State.raise_job (s : State) (f : RF) : (s.raise f).job = s.job := rfl
@[simp] theorem State.raise_errSeq (s : State) (f : RF) : (s.raise f).errSeq = s.errSeq := rfl
@[simp] theorem State.raise_cxl (s : State) (f : RF) : (s.raise f).cxl = s.cxl := rfl
@[simp] theorem State.raise_aon (s : State) (f : RF) : (s.raise f).aon = s.aon := rfl
@[simp] theorem State.raise_irq (s : State) (f : RF) : (s.raise f).irq = s.irq := rfl
@[simp] theorem State.raise_padWaves (s : State) (f : RF) : (s.raise f).padWaves = s.padWaves := rfl
@[simp] theorem State.raise_ffy (s : State) (f : RF) : (s.raise f).ffy = s.ffy := rfl
@[simp] theorem State.raise_a192 (s : State) (f : RF) : (s.raise f).a192 = s.a192 := rfl
@[simp] theorem State.raise_cycle (s : State) (f : RF) : (s.raise f).cycle = s.cycle := rfl
@[simp] theorem State.raise_freeCtr (s : State) (f : RF) : (s.raise f).freeCtr = s.freeCtr := rfl
@[simp] theorem State.raise_pending (s : State) (f : RF) : (s.raise f).pending = s.pending := rfl

/-! ### State.clear -/

@[simp] theorem State.clear_bus (s : State) (f : RF) : (s.clear f).bus = s.bus := rfl
@[simp] theorem State.clear_mem (s : State) (f : RF) : (s.clear f).mem = s.mem := rfl
@[simp] theorem State.clear_errs (s : State) (f : RF) : (s.clear f).errs = s.errs := rfl
@[simp] theorem State.clear_ram (s : State) (f : RF) : (s.clear f).ram = s.ram := rfl
@[simp] theorem State.clear_queues (s : State) (f : RF) : (s.clear f).queues = s.queues := rfl
@[simp] theorem State.clear_hrt (s : State) (f : RF) : (s.clear f).hrt = s.hrt := rfl
@[simp] theorem State.clear_blw (s : State) (f : RF) : (s.clear f).blw = s.blw := rfl
@[simp] theorem State.clear_kln (s : State) (f : RF) : (s.clear f).kln = s.kln := rfl
@[simp] theorem State.clear_folded (s : State) (f : RF) : (s.clear f).folded = s.folded := rfl
@[simp] theorem State.clear_num (s : State) (f : RF) : (s.clear f).num = s.num := rfl
@[simp] theorem State.clear_syn (s : State) (f : RF) : (s.clear f).syn = s.syn := rfl
@[simp] theorem State.clear_flue (s : State) (f : RF) : (s.clear f).flue = s.flue := rfl
@[simp] theorem State.clear_col (s : State) (f : RF) : (s.clear f).col = s.col := rfl
@[simp] theorem State.clear_ember (s : State) (f : RF) : (s.clear f).ember = s.ember := rfl
@[simp] theorem State.clear_nvm (s : State) (f : RF) : (s.clear f).nvm = s.nvm := rfl
@[simp] theorem State.clear_hob (s : State) (f : RF) : (s.clear f).hob = s.hob := rfl
@[simp] theorem State.clear_crk (s : State) (f : RF) : (s.clear f).crk = s.crk := rfl
@[simp] theorem State.clear_pwr (s : State) (f : RF) : (s.clear f).pwr = s.pwr := rfl
@[simp] theorem State.clear_onMarks (s : State) (f : RF) : (s.clear f).onMarks = s.onMarks := rfl
@[simp] theorem State.clear_goodWins (s : State) (f : RF) : (s.clear f).goodWins = s.goodWins := rfl
@[simp] theorem State.clear_job (s : State) (f : RF) : (s.clear f).job = s.job := rfl
@[simp] theorem State.clear_errSeq (s : State) (f : RF) : (s.clear f).errSeq = s.errSeq := rfl
@[simp] theorem State.clear_cxl (s : State) (f : RF) : (s.clear f).cxl = s.cxl := rfl
@[simp] theorem State.clear_aon (s : State) (f : RF) : (s.clear f).aon = s.aon := rfl
@[simp] theorem State.clear_irq (s : State) (f : RF) : (s.clear f).irq = s.irq := rfl
@[simp] theorem State.clear_padWaves (s : State) (f : RF) : (s.clear f).padWaves = s.padWaves := rfl
@[simp] theorem State.clear_ffy (s : State) (f : RF) : (s.clear f).ffy = s.ffy := rfl
@[simp] theorem State.clear_a192 (s : State) (f : RF) : (s.clear f).a192 = s.a192 := rfl
@[simp] theorem State.clear_cycle (s : State) (f : RF) : (s.clear f).cycle = s.cycle := rfl
@[simp] theorem State.clear_freeCtr (s : State) (f : RF) : (s.clear f).freeCtr = s.freeCtr := rfl
@[simp] theorem State.clear_pending (s : State) (f : RF) : (s.clear f).pending = s.pending := rfl

/-! ### State.put -/

@[simp] theorem State.put_bus (s : State) (f : RF) (b : Bool) : (s.put f b).bus = s.bus := rfl
@[simp] theorem State.put_mem (s : State) (f : RF) (b : Bool) : (s.put f b).mem = s.mem := rfl
@[simp] theorem State.put_errs (s : State) (f : RF) (b : Bool) : (s.put f b).errs = s.errs := rfl
@[simp] theorem State.put_ram (s : State) (f : RF) (b : Bool) : (s.put f b).ram = s.ram := rfl
@[simp] theorem State.put_queues (s : State) (f : RF) (b : Bool) : (s.put f b).queues = s.queues := rfl
@[simp] theorem State.put_hrt (s : State) (f : RF) (b : Bool) : (s.put f b).hrt = s.hrt := rfl
@[simp] theorem State.put_blw (s : State) (f : RF) (b : Bool) : (s.put f b).blw = s.blw := rfl
@[simp] theorem State.put_kln (s : State) (f : RF) (b : Bool) : (s.put f b).kln = s.kln := rfl
@[simp] theorem State.put_folded (s : State) (f : RF) (b : Bool) : (s.put f b).folded = s.folded := rfl
@[simp] theorem State.put_num (s : State) (f : RF) (b : Bool) : (s.put f b).num = s.num := rfl
@[simp] theorem State.put_syn (s : State) (f : RF) (b : Bool) : (s.put f b).syn = s.syn := rfl
@[simp] theorem State.put_flue (s : State) (f : RF) (b : Bool) : (s.put f b).flue = s.flue := rfl
@[simp] theorem State.put_col (s : State) (f : RF) (b : Bool) : (s.put f b).col = s.col := rfl
@[simp] theorem State.put_ember (s : State) (f : RF) (b : Bool) : (s.put f b).ember = s.ember := rfl
@[simp] theorem State.put_nvm (s : State) (f : RF) (b : Bool) : (s.put f b).nvm = s.nvm := rfl
@[simp] theorem State.put_hob (s : State) (f : RF) (b : Bool) : (s.put f b).hob = s.hob := rfl
@[simp] theorem State.put_crk (s : State) (f : RF) (b : Bool) : (s.put f b).crk = s.crk := rfl
@[simp] theorem State.put_pwr (s : State) (f : RF) (b : Bool) : (s.put f b).pwr = s.pwr := rfl
@[simp] theorem State.put_onMarks (s : State) (f : RF) (b : Bool) : (s.put f b).onMarks = s.onMarks := rfl
@[simp] theorem State.put_goodWins (s : State) (f : RF) (b : Bool) : (s.put f b).goodWins = s.goodWins := rfl
@[simp] theorem State.put_job (s : State) (f : RF) (b : Bool) : (s.put f b).job = s.job := rfl
@[simp] theorem State.put_errSeq (s : State) (f : RF) (b : Bool) : (s.put f b).errSeq = s.errSeq := rfl
@[simp] theorem State.put_cxl (s : State) (f : RF) (b : Bool) : (s.put f b).cxl = s.cxl := rfl
@[simp] theorem State.put_aon (s : State) (f : RF) (b : Bool) : (s.put f b).aon = s.aon := rfl
@[simp] theorem State.put_irq (s : State) (f : RF) (b : Bool) : (s.put f b).irq = s.irq := rfl
@[simp] theorem State.put_padWaves (s : State) (f : RF) (b : Bool) : (s.put f b).padWaves = s.padWaves := rfl
@[simp] theorem State.put_ffy (s : State) (f : RF) (b : Bool) : (s.put f b).ffy = s.ffy := rfl
@[simp] theorem State.put_a192 (s : State) (f : RF) (b : Bool) : (s.put f b).a192 = s.a192 := rfl
@[simp] theorem State.put_cycle (s : State) (f : RF) (b : Bool) : (s.put f b).cycle = s.cycle := rfl
@[simp] theorem State.put_freeCtr (s : State) (f : RF) (b : Bool) : (s.put f b).freeCtr = s.freeCtr := rfl
@[simp] theorem State.put_pending (s : State) (f : RF) (b : Bool) : (s.put f b).pending = s.pending := rfl

/-! ### State.count -/

@[simp] theorem State.count_bus (s : State) (f : RF) (n : Nat) : (s.count f n).bus = s.bus := rfl
@[simp] theorem State.count_mem (s : State) (f : RF) (n : Nat) : (s.count f n).mem = s.mem := rfl
@[simp] theorem State.count_errs (s : State) (f : RF) (n : Nat) : (s.count f n).errs = s.errs := rfl
@[simp] theorem State.count_ram (s : State) (f : RF) (n : Nat) : (s.count f n).ram = s.ram := rfl
@[simp] theorem State.count_queues (s : State) (f : RF) (n : Nat) : (s.count f n).queues = s.queues := rfl
@[simp] theorem State.count_hrt (s : State) (f : RF) (n : Nat) : (s.count f n).hrt = s.hrt := rfl
@[simp] theorem State.count_blw (s : State) (f : RF) (n : Nat) : (s.count f n).blw = s.blw := rfl
@[simp] theorem State.count_kln (s : State) (f : RF) (n : Nat) : (s.count f n).kln = s.kln := rfl
@[simp] theorem State.count_folded (s : State) (f : RF) (n : Nat) : (s.count f n).folded = s.folded := rfl
@[simp] theorem State.count_num (s : State) (f : RF) (n : Nat) : (s.count f n).num = s.num := rfl
@[simp] theorem State.count_syn (s : State) (f : RF) (n : Nat) : (s.count f n).syn = s.syn := rfl
@[simp] theorem State.count_flue (s : State) (f : RF) (n : Nat) : (s.count f n).flue = s.flue := rfl
@[simp] theorem State.count_col (s : State) (f : RF) (n : Nat) : (s.count f n).col = s.col := rfl
@[simp] theorem State.count_ember (s : State) (f : RF) (n : Nat) : (s.count f n).ember = s.ember := rfl
@[simp] theorem State.count_nvm (s : State) (f : RF) (n : Nat) : (s.count f n).nvm = s.nvm := rfl
@[simp] theorem State.count_hob (s : State) (f : RF) (n : Nat) : (s.count f n).hob = s.hob := rfl
@[simp] theorem State.count_crk (s : State) (f : RF) (n : Nat) : (s.count f n).crk = s.crk := rfl
@[simp] theorem State.count_pwr (s : State) (f : RF) (n : Nat) : (s.count f n).pwr = s.pwr := rfl
@[simp] theorem State.count_onMarks (s : State) (f : RF) (n : Nat) : (s.count f n).onMarks = s.onMarks := rfl
@[simp] theorem State.count_goodWins (s : State) (f : RF) (n : Nat) : (s.count f n).goodWins = s.goodWins := rfl
@[simp] theorem State.count_job (s : State) (f : RF) (n : Nat) : (s.count f n).job = s.job := rfl
@[simp] theorem State.count_errSeq (s : State) (f : RF) (n : Nat) : (s.count f n).errSeq = s.errSeq := rfl
@[simp] theorem State.count_cxl (s : State) (f : RF) (n : Nat) : (s.count f n).cxl = s.cxl := rfl
@[simp] theorem State.count_aon (s : State) (f : RF) (n : Nat) : (s.count f n).aon = s.aon := rfl
@[simp] theorem State.count_irq (s : State) (f : RF) (n : Nat) : (s.count f n).irq = s.irq := rfl
@[simp] theorem State.count_padWaves (s : State) (f : RF) (n : Nat) : (s.count f n).padWaves = s.padWaves := rfl
@[simp] theorem State.count_ffy (s : State) (f : RF) (n : Nat) : (s.count f n).ffy = s.ffy := rfl
@[simp] theorem State.count_a192 (s : State) (f : RF) (n : Nat) : (s.count f n).a192 = s.a192 := rfl
@[simp] theorem State.count_cycle (s : State) (f : RF) (n : Nat) : (s.count f n).cycle = s.cycle := rfl
@[simp] theorem State.count_freeCtr (s : State) (f : RF) (n : Nat) : (s.count f n).freeCtr = s.freeCtr := rfl
@[simp] theorem State.count_pending (s : State) (f : RF) (n : Nat) : (s.count f n).pending = s.pending := rfl

/-! ### State.setPair -/

@[simp] theorem State.setPair_bus (s : State) (lo v : Nat) : (s.setPair lo v).bus = s.bus := rfl
@[simp] theorem State.setPair_mem (s : State) (lo v : Nat) : (s.setPair lo v).mem = s.mem := rfl
@[simp] theorem State.setPair_errs (s : State) (lo v : Nat) : (s.setPair lo v).errs = s.errs := rfl
@[simp] theorem State.setPair_ram (s : State) (lo v : Nat) : (s.setPair lo v).ram = s.ram := rfl
@[simp] theorem State.setPair_queues (s : State) (lo v : Nat) : (s.setPair lo v).queues = s.queues := rfl
@[simp] theorem State.setPair_hrt (s : State) (lo v : Nat) : (s.setPair lo v).hrt = s.hrt := rfl
@[simp] theorem State.setPair_blw (s : State) (lo v : Nat) : (s.setPair lo v).blw = s.blw := rfl
@[simp] theorem State.setPair_kln (s : State) (lo v : Nat) : (s.setPair lo v).kln = s.kln := rfl
@[simp] theorem State.setPair_folded (s : State) (lo v : Nat) : (s.setPair lo v).folded = s.folded := rfl
@[simp] theorem State.setPair_num (s : State) (lo v : Nat) : (s.setPair lo v).num = s.num := rfl
@[simp] theorem State.setPair_syn (s : State) (lo v : Nat) : (s.setPair lo v).syn = s.syn := rfl
@[simp] theorem State.setPair_flue (s : State) (lo v : Nat) : (s.setPair lo v).flue = s.flue := rfl
@[simp] theorem State.setPair_col (s : State) (lo v : Nat) : (s.setPair lo v).col = s.col := rfl
@[simp] theorem State.setPair_ember (s : State) (lo v : Nat) : (s.setPair lo v).ember = s.ember := rfl
@[simp] theorem State.setPair_nvm (s : State) (lo v : Nat) : (s.setPair lo v).nvm = s.nvm := rfl
@[simp] theorem State.setPair_hob (s : State) (lo v : Nat) : (s.setPair lo v).hob = s.hob := rfl
@[simp] theorem State.setPair_crk (s : State) (lo v : Nat) : (s.setPair lo v).crk = s.crk := rfl
@[simp] theorem State.setPair_pwr (s : State) (lo v : Nat) : (s.setPair lo v).pwr = s.pwr := rfl
@[simp] theorem State.setPair_onMarks (s : State) (lo v : Nat) : (s.setPair lo v).onMarks = s.onMarks := rfl
@[simp] theorem State.setPair_goodWins (s : State) (lo v : Nat) : (s.setPair lo v).goodWins = s.goodWins := rfl
@[simp] theorem State.setPair_job (s : State) (lo v : Nat) : (s.setPair lo v).job = s.job := rfl
@[simp] theorem State.setPair_errSeq (s : State) (lo v : Nat) : (s.setPair lo v).errSeq = s.errSeq := rfl
@[simp] theorem State.setPair_cxl (s : State) (lo v : Nat) : (s.setPair lo v).cxl = s.cxl := rfl
@[simp] theorem State.setPair_aon (s : State) (lo v : Nat) : (s.setPair lo v).aon = s.aon := rfl
@[simp] theorem State.setPair_irq (s : State) (lo v : Nat) : (s.setPair lo v).irq = s.irq := rfl
@[simp] theorem State.setPair_padWaves (s : State) (lo v : Nat) : (s.setPair lo v).padWaves = s.padWaves := rfl
@[simp] theorem State.setPair_ffy (s : State) (lo v : Nat) : (s.setPair lo v).ffy = s.ffy := rfl
@[simp] theorem State.setPair_a192 (s : State) (lo v : Nat) : (s.setPair lo v).a192 = s.a192 := rfl
@[simp] theorem State.setPair_cycle (s : State) (lo v : Nat) : (s.setPair lo v).cycle = s.cycle := rfl
@[simp] theorem State.setPair_freeCtr (s : State) (lo v : Nat) : (s.setPair lo v).freeCtr = s.freeCtr := rfl
@[simp] theorem State.setPair_pending (s : State) (lo v : Nat) : (s.setPair lo v).pending = s.pending := rfl

/-! ### State.putByte -/

@[simp] theorem State.putByte_regs (s : State) (k : Nat) (b : Byte) : (s.putByte k b).regs = s.regs := rfl
@[simp] theorem State.putByte_bus (s : State) (k : Nat) (b : Byte) : (s.putByte k b).bus = s.bus := rfl
@[simp] theorem State.putByte_errs (s : State) (k : Nat) (b : Byte) : (s.putByte k b).errs = s.errs := rfl
@[simp] theorem State.putByte_ram (s : State) (k : Nat) (b : Byte) : (s.putByte k b).ram = s.ram := rfl
@[simp] theorem State.putByte_queues (s : State) (k : Nat) (b : Byte) : (s.putByte k b).queues = s.queues := rfl
@[simp] theorem State.putByte_hrt (s : State) (k : Nat) (b : Byte) : (s.putByte k b).hrt = s.hrt := rfl
@[simp] theorem State.putByte_blw (s : State) (k : Nat) (b : Byte) : (s.putByte k b).blw = s.blw := rfl
@[simp] theorem State.putByte_kln (s : State) (k : Nat) (b : Byte) : (s.putByte k b).kln = s.kln := rfl
@[simp] theorem State.putByte_folded (s : State) (k : Nat) (b : Byte) : (s.putByte k b).folded = s.folded := rfl
@[simp] theorem State.putByte_num (s : State) (k : Nat) (b : Byte) : (s.putByte k b).num = s.num := rfl
@[simp] theorem State.putByte_syn (s : State) (k : Nat) (b : Byte) : (s.putByte k b).syn = s.syn := rfl
@[simp] theorem State.putByte_flue (s : State) (k : Nat) (b : Byte) : (s.putByte k b).flue = s.flue := rfl
@[simp] theorem State.putByte_col (s : State) (k : Nat) (b : Byte) : (s.putByte k b).col = s.col := rfl
@[simp] theorem State.putByte_ember (s : State) (k : Nat) (b : Byte) : (s.putByte k b).ember = s.ember := rfl
@[simp] theorem State.putByte_nvm (s : State) (k : Nat) (b : Byte) : (s.putByte k b).nvm = s.nvm := rfl
@[simp] theorem State.putByte_hob (s : State) (k : Nat) (b : Byte) : (s.putByte k b).hob = s.hob := rfl
@[simp] theorem State.putByte_crk (s : State) (k : Nat) (b : Byte) : (s.putByte k b).crk = s.crk := rfl
@[simp] theorem State.putByte_pwr (s : State) (k : Nat) (b : Byte) : (s.putByte k b).pwr = s.pwr := rfl
@[simp] theorem State.putByte_onMarks (s : State) (k : Nat) (b : Byte) : (s.putByte k b).onMarks = s.onMarks := rfl
@[simp] theorem State.putByte_goodWins (s : State) (k : Nat) (b : Byte) : (s.putByte k b).goodWins = s.goodWins := rfl
@[simp] theorem State.putByte_job (s : State) (k : Nat) (b : Byte) : (s.putByte k b).job = s.job := rfl
@[simp] theorem State.putByte_errSeq (s : State) (k : Nat) (b : Byte) : (s.putByte k b).errSeq = s.errSeq := rfl
@[simp] theorem State.putByte_cxl (s : State) (k : Nat) (b : Byte) : (s.putByte k b).cxl = s.cxl := rfl
@[simp] theorem State.putByte_aon (s : State) (k : Nat) (b : Byte) : (s.putByte k b).aon = s.aon := rfl
@[simp] theorem State.putByte_irq (s : State) (k : Nat) (b : Byte) : (s.putByte k b).irq = s.irq := rfl
@[simp] theorem State.putByte_padWaves (s : State) (k : Nat) (b : Byte) : (s.putByte k b).padWaves = s.padWaves := rfl
@[simp] theorem State.putByte_ffy (s : State) (k : Nat) (b : Byte) : (s.putByte k b).ffy = s.ffy := rfl
@[simp] theorem State.putByte_a192 (s : State) (k : Nat) (b : Byte) : (s.putByte k b).a192 = s.a192 := rfl
@[simp] theorem State.putByte_cycle (s : State) (k : Nat) (b : Byte) : (s.putByte k b).cycle = s.cycle := rfl
@[simp] theorem State.putByte_freeCtr (s : State) (k : Nat) (b : Byte) : (s.putByte k b).freeCtr = s.freeCtr := rfl
@[simp] theorem State.putByte_pending (s : State) (k : Nat) (b : Byte) : (s.putByte k b).pending = s.pending := rfl

/-! ### State.putErr -/

@[simp] theorem State.putErr_regs (s : State) (g : Nat) (e : BitVec 144) : (s.putErr g e).regs = s.regs := rfl
@[simp] theorem State.putErr_bus (s : State) (g : Nat) (e : BitVec 144) : (s.putErr g e).bus = s.bus := rfl
@[simp] theorem State.putErr_mem (s : State) (g : Nat) (e : BitVec 144) : (s.putErr g e).mem = s.mem := rfl
@[simp] theorem State.putErr_ram (s : State) (g : Nat) (e : BitVec 144) : (s.putErr g e).ram = s.ram := rfl
@[simp] theorem State.putErr_queues (s : State) (g : Nat) (e : BitVec 144) : (s.putErr g e).queues = s.queues := rfl
@[simp] theorem State.putErr_hrt (s : State) (g : Nat) (e : BitVec 144) : (s.putErr g e).hrt = s.hrt := rfl
@[simp] theorem State.putErr_blw (s : State) (g : Nat) (e : BitVec 144) : (s.putErr g e).blw = s.blw := rfl
@[simp] theorem State.putErr_kln (s : State) (g : Nat) (e : BitVec 144) : (s.putErr g e).kln = s.kln := rfl
@[simp] theorem State.putErr_folded (s : State) (g : Nat) (e : BitVec 144) : (s.putErr g e).folded = s.folded := rfl
@[simp] theorem State.putErr_num (s : State) (g : Nat) (e : BitVec 144) : (s.putErr g e).num = s.num := rfl
@[simp] theorem State.putErr_syn (s : State) (g : Nat) (e : BitVec 144) : (s.putErr g e).syn = s.syn := rfl
@[simp] theorem State.putErr_flue (s : State) (g : Nat) (e : BitVec 144) : (s.putErr g e).flue = s.flue := rfl
@[simp] theorem State.putErr_col (s : State) (g : Nat) (e : BitVec 144) : (s.putErr g e).col = s.col := rfl
@[simp] theorem State.putErr_ember (s : State) (g : Nat) (e : BitVec 144) : (s.putErr g e).ember = s.ember := rfl
@[simp] theorem State.putErr_nvm (s : State) (g : Nat) (e : BitVec 144) : (s.putErr g e).nvm = s.nvm := rfl
@[simp] theorem State.putErr_hob (s : State) (g : Nat) (e : BitVec 144) : (s.putErr g e).hob = s.hob := rfl
@[simp] theorem State.putErr_crk (s : State) (g : Nat) (e : BitVec 144) : (s.putErr g e).crk = s.crk := rfl
@[simp] theorem State.putErr_pwr (s : State) (g : Nat) (e : BitVec 144) : (s.putErr g e).pwr = s.pwr := rfl
@[simp] theorem State.putErr_onMarks (s : State) (g : Nat) (e : BitVec 144) : (s.putErr g e).onMarks = s.onMarks := rfl
@[simp] theorem State.putErr_goodWins (s : State) (g : Nat) (e : BitVec 144) : (s.putErr g e).goodWins = s.goodWins := rfl
@[simp] theorem State.putErr_job (s : State) (g : Nat) (e : BitVec 144) : (s.putErr g e).job = s.job := rfl
@[simp] theorem State.putErr_errSeq (s : State) (g : Nat) (e : BitVec 144) : (s.putErr g e).errSeq = s.errSeq := rfl
@[simp] theorem State.putErr_cxl (s : State) (g : Nat) (e : BitVec 144) : (s.putErr g e).cxl = s.cxl := rfl
@[simp] theorem State.putErr_aon (s : State) (g : Nat) (e : BitVec 144) : (s.putErr g e).aon = s.aon := rfl
@[simp] theorem State.putErr_irq (s : State) (g : Nat) (e : BitVec 144) : (s.putErr g e).irq = s.irq := rfl
@[simp] theorem State.putErr_padWaves (s : State) (g : Nat) (e : BitVec 144) : (s.putErr g e).padWaves = s.padWaves := rfl
@[simp] theorem State.putErr_ffy (s : State) (g : Nat) (e : BitVec 144) : (s.putErr g e).ffy = s.ffy := rfl
@[simp] theorem State.putErr_a192 (s : State) (g : Nat) (e : BitVec 144) : (s.putErr g e).a192 = s.a192 := rfl
@[simp] theorem State.putErr_cycle (s : State) (g : Nat) (e : BitVec 144) : (s.putErr g e).cycle = s.cycle := rfl
@[simp] theorem State.putErr_freeCtr (s : State) (g : Nat) (e : BitVec 144) : (s.putErr g e).freeCtr = s.freeCtr := rfl
@[simp] theorem State.putErr_pending (s : State) (g : Nat) (e : BitVec 144) : (s.putErr g e).pending = s.pending := rfl

/-! ### State.modCrk -/

@[simp] theorem State.modCrk_regs (s : State) (c : Nat) (f : Crk → Crk) : (s.modCrk c f).regs = s.regs := rfl
@[simp] theorem State.modCrk_bus (s : State) (c : Nat) (f : Crk → Crk) : (s.modCrk c f).bus = s.bus := rfl
@[simp] theorem State.modCrk_mem (s : State) (c : Nat) (f : Crk → Crk) : (s.modCrk c f).mem = s.mem := rfl
@[simp] theorem State.modCrk_errs (s : State) (c : Nat) (f : Crk → Crk) : (s.modCrk c f).errs = s.errs := rfl
@[simp] theorem State.modCrk_ram (s : State) (c : Nat) (f : Crk → Crk) : (s.modCrk c f).ram = s.ram := rfl
@[simp] theorem State.modCrk_queues (s : State) (c : Nat) (f : Crk → Crk) : (s.modCrk c f).queues = s.queues := rfl
@[simp] theorem State.modCrk_hrt (s : State) (c : Nat) (f : Crk → Crk) : (s.modCrk c f).hrt = s.hrt := rfl
@[simp] theorem State.modCrk_blw (s : State) (c : Nat) (f : Crk → Crk) : (s.modCrk c f).blw = s.blw := rfl
@[simp] theorem State.modCrk_kln (s : State) (c : Nat) (f : Crk → Crk) : (s.modCrk c f).kln = s.kln := rfl
@[simp] theorem State.modCrk_folded (s : State) (c : Nat) (f : Crk → Crk) : (s.modCrk c f).folded = s.folded := rfl
@[simp] theorem State.modCrk_num (s : State) (c : Nat) (f : Crk → Crk) : (s.modCrk c f).num = s.num := rfl
@[simp] theorem State.modCrk_syn (s : State) (c : Nat) (f : Crk → Crk) : (s.modCrk c f).syn = s.syn := rfl
@[simp] theorem State.modCrk_flue (s : State) (c : Nat) (f : Crk → Crk) : (s.modCrk c f).flue = s.flue := rfl
@[simp] theorem State.modCrk_col (s : State) (c : Nat) (f : Crk → Crk) : (s.modCrk c f).col = s.col := rfl
@[simp] theorem State.modCrk_ember (s : State) (c : Nat) (f : Crk → Crk) : (s.modCrk c f).ember = s.ember := rfl
@[simp] theorem State.modCrk_nvm (s : State) (c : Nat) (f : Crk → Crk) : (s.modCrk c f).nvm = s.nvm := rfl
@[simp] theorem State.modCrk_hob (s : State) (c : Nat) (f : Crk → Crk) : (s.modCrk c f).hob = s.hob := rfl
@[simp] theorem State.modCrk_pwr (s : State) (c : Nat) (f : Crk → Crk) : (s.modCrk c f).pwr = s.pwr := rfl
@[simp] theorem State.modCrk_onMarks (s : State) (c : Nat) (f : Crk → Crk) : (s.modCrk c f).onMarks = s.onMarks := rfl
@[simp] theorem State.modCrk_goodWins (s : State) (c : Nat) (f : Crk → Crk) : (s.modCrk c f).goodWins = s.goodWins := rfl
@[simp] theorem State.modCrk_job (s : State) (c : Nat) (f : Crk → Crk) : (s.modCrk c f).job = s.job := rfl
@[simp] theorem State.modCrk_errSeq (s : State) (c : Nat) (f : Crk → Crk) : (s.modCrk c f).errSeq = s.errSeq := rfl
@[simp] theorem State.modCrk_cxl (s : State) (c : Nat) (f : Crk → Crk) : (s.modCrk c f).cxl = s.cxl := rfl
@[simp] theorem State.modCrk_aon (s : State) (c : Nat) (f : Crk → Crk) : (s.modCrk c f).aon = s.aon := rfl
@[simp] theorem State.modCrk_irq (s : State) (c : Nat) (f : Crk → Crk) : (s.modCrk c f).irq = s.irq := rfl
@[simp] theorem State.modCrk_padWaves (s : State) (c : Nat) (f : Crk → Crk) : (s.modCrk c f).padWaves = s.padWaves := rfl
@[simp] theorem State.modCrk_ffy (s : State) (c : Nat) (f : Crk → Crk) : (s.modCrk c f).ffy = s.ffy := rfl
@[simp] theorem State.modCrk_a192 (s : State) (c : Nat) (f : Crk → Crk) : (s.modCrk c f).a192 = s.a192 := rfl
@[simp] theorem State.modCrk_cycle (s : State) (c : Nat) (f : Crk → Crk) : (s.modCrk c f).cycle = s.cycle := rfl
@[simp] theorem State.modCrk_freeCtr (s : State) (c : Nat) (f : Crk → Crk) : (s.modCrk c f).freeCtr = s.freeCtr := rfl
@[simp] theorem State.modCrk_pending (s : State) (c : Nat) (f : Crk → Crk) : (s.modCrk c f).pending = s.pending := rfl

/-! ### State.modPwr -/

@[simp] theorem State.modPwr_regs (s : State) (f : Pwr → Pwr) : (s.modPwr f).regs = s.regs := rfl
@[simp] theorem State.modPwr_bus (s : State) (f : Pwr → Pwr) : (s.modPwr f).bus = s.bus := rfl
@[simp] theorem State.modPwr_mem (s : State) (f : Pwr → Pwr) : (s.modPwr f).mem = s.mem := rfl
@[simp] theorem State.modPwr_errs (s : State) (f : Pwr → Pwr) : (s.modPwr f).errs = s.errs := rfl
@[simp] theorem State.modPwr_ram (s : State) (f : Pwr → Pwr) : (s.modPwr f).ram = s.ram := rfl
@[simp] theorem State.modPwr_queues (s : State) (f : Pwr → Pwr) : (s.modPwr f).queues = s.queues := rfl
@[simp] theorem State.modPwr_hrt (s : State) (f : Pwr → Pwr) : (s.modPwr f).hrt = s.hrt := rfl
@[simp] theorem State.modPwr_blw (s : State) (f : Pwr → Pwr) : (s.modPwr f).blw = s.blw := rfl
@[simp] theorem State.modPwr_kln (s : State) (f : Pwr → Pwr) : (s.modPwr f).kln = s.kln := rfl
@[simp] theorem State.modPwr_folded (s : State) (f : Pwr → Pwr) : (s.modPwr f).folded = s.folded := rfl
@[simp] theorem State.modPwr_num (s : State) (f : Pwr → Pwr) : (s.modPwr f).num = s.num := rfl
@[simp] theorem State.modPwr_syn (s : State) (f : Pwr → Pwr) : (s.modPwr f).syn = s.syn := rfl
@[simp] theorem State.modPwr_flue (s : State) (f : Pwr → Pwr) : (s.modPwr f).flue = s.flue := rfl
@[simp] theorem State.modPwr_col (s : State) (f : Pwr → Pwr) : (s.modPwr f).col = s.col := rfl
@[simp] theorem State.modPwr_ember (s : State) (f : Pwr → Pwr) : (s.modPwr f).ember = s.ember := rfl
@[simp] theorem State.modPwr_nvm (s : State) (f : Pwr → Pwr) : (s.modPwr f).nvm = s.nvm := rfl
@[simp] theorem State.modPwr_hob (s : State) (f : Pwr → Pwr) : (s.modPwr f).hob = s.hob := rfl
@[simp] theorem State.modPwr_crk (s : State) (f : Pwr → Pwr) : (s.modPwr f).crk = s.crk := rfl
@[simp] theorem State.modPwr_onMarks (s : State) (f : Pwr → Pwr) : (s.modPwr f).onMarks = s.onMarks := rfl
@[simp] theorem State.modPwr_goodWins (s : State) (f : Pwr → Pwr) : (s.modPwr f).goodWins = s.goodWins := rfl
@[simp] theorem State.modPwr_job (s : State) (f : Pwr → Pwr) : (s.modPwr f).job = s.job := rfl
@[simp] theorem State.modPwr_errSeq (s : State) (f : Pwr → Pwr) : (s.modPwr f).errSeq = s.errSeq := rfl
@[simp] theorem State.modPwr_cxl (s : State) (f : Pwr → Pwr) : (s.modPwr f).cxl = s.cxl := rfl
@[simp] theorem State.modPwr_aon (s : State) (f : Pwr → Pwr) : (s.modPwr f).aon = s.aon := rfl
@[simp] theorem State.modPwr_irq (s : State) (f : Pwr → Pwr) : (s.modPwr f).irq = s.irq := rfl
@[simp] theorem State.modPwr_padWaves (s : State) (f : Pwr → Pwr) : (s.modPwr f).padWaves = s.padWaves := rfl
@[simp] theorem State.modPwr_ffy (s : State) (f : Pwr → Pwr) : (s.modPwr f).ffy = s.ffy := rfl
@[simp] theorem State.modPwr_a192 (s : State) (f : Pwr → Pwr) : (s.modPwr f).a192 = s.a192 := rfl
@[simp] theorem State.modPwr_cycle (s : State) (f : Pwr → Pwr) : (s.modPwr f).cycle = s.cycle := rfl
@[simp] theorem State.modPwr_freeCtr (s : State) (f : Pwr → Pwr) : (s.modPwr f).freeCtr = s.freeCtr := rfl
@[simp] theorem State.modPwr_pending (s : State) (f : Pwr → Pwr) : (s.modPwr f).pending = s.pending := rfl

/-! ### State.modQueue -/

@[simp] theorem State.modQueue_regs (s : State) (Q : QI) (f : Queue → Queue) : (s.modQueue Q f).regs = s.regs := rfl
@[simp] theorem State.modQueue_bus (s : State) (Q : QI) (f : Queue → Queue) : (s.modQueue Q f).bus = s.bus := rfl
@[simp] theorem State.modQueue_mem (s : State) (Q : QI) (f : Queue → Queue) : (s.modQueue Q f).mem = s.mem := rfl
@[simp] theorem State.modQueue_errs (s : State) (Q : QI) (f : Queue → Queue) : (s.modQueue Q f).errs = s.errs := rfl
@[simp] theorem State.modQueue_ram (s : State) (Q : QI) (f : Queue → Queue) : (s.modQueue Q f).ram = s.ram := rfl
@[simp] theorem State.modQueue_hrt (s : State) (Q : QI) (f : Queue → Queue) : (s.modQueue Q f).hrt = s.hrt := rfl
@[simp] theorem State.modQueue_blw (s : State) (Q : QI) (f : Queue → Queue) : (s.modQueue Q f).blw = s.blw := rfl
@[simp] theorem State.modQueue_kln (s : State) (Q : QI) (f : Queue → Queue) : (s.modQueue Q f).kln = s.kln := rfl
@[simp] theorem State.modQueue_folded (s : State) (Q : QI) (f : Queue → Queue) : (s.modQueue Q f).folded = s.folded := rfl
@[simp] theorem State.modQueue_num (s : State) (Q : QI) (f : Queue → Queue) : (s.modQueue Q f).num = s.num := rfl
@[simp] theorem State.modQueue_syn (s : State) (Q : QI) (f : Queue → Queue) : (s.modQueue Q f).syn = s.syn := rfl
@[simp] theorem State.modQueue_flue (s : State) (Q : QI) (f : Queue → Queue) : (s.modQueue Q f).flue = s.flue := rfl
@[simp] theorem State.modQueue_col (s : State) (Q : QI) (f : Queue → Queue) : (s.modQueue Q f).col = s.col := rfl
@[simp] theorem State.modQueue_ember (s : State) (Q : QI) (f : Queue → Queue) : (s.modQueue Q f).ember = s.ember := rfl
@[simp] theorem State.modQueue_nvm (s : State) (Q : QI) (f : Queue → Queue) : (s.modQueue Q f).nvm = s.nvm := rfl
@[simp] theorem State.modQueue_hob (s : State) (Q : QI) (f : Queue → Queue) : (s.modQueue Q f).hob = s.hob := rfl
@[simp] theorem State.modQueue_crk (s : State) (Q : QI) (f : Queue → Queue) : (s.modQueue Q f).crk = s.crk := rfl
@[simp] theorem State.modQueue_pwr (s : State) (Q : QI) (f : Queue → Queue) : (s.modQueue Q f).pwr = s.pwr := rfl
@[simp] theorem State.modQueue_onMarks (s : State) (Q : QI) (f : Queue → Queue) : (s.modQueue Q f).onMarks = s.onMarks := rfl
@[simp] theorem State.modQueue_goodWins (s : State) (Q : QI) (f : Queue → Queue) : (s.modQueue Q f).goodWins = s.goodWins := rfl
@[simp] theorem State.modQueue_job (s : State) (Q : QI) (f : Queue → Queue) : (s.modQueue Q f).job = s.job := rfl
@[simp] theorem State.modQueue_errSeq (s : State) (Q : QI) (f : Queue → Queue) : (s.modQueue Q f).errSeq = s.errSeq := rfl
@[simp] theorem State.modQueue_cxl (s : State) (Q : QI) (f : Queue → Queue) : (s.modQueue Q f).cxl = s.cxl := rfl
@[simp] theorem State.modQueue_aon (s : State) (Q : QI) (f : Queue → Queue) : (s.modQueue Q f).aon = s.aon := rfl
@[simp] theorem State.modQueue_irq (s : State) (Q : QI) (f : Queue → Queue) : (s.modQueue Q f).irq = s.irq := rfl
@[simp] theorem State.modQueue_padWaves (s : State) (Q : QI) (f : Queue → Queue) : (s.modQueue Q f).padWaves = s.padWaves := rfl
@[simp] theorem State.modQueue_ffy (s : State) (Q : QI) (f : Queue → Queue) : (s.modQueue Q f).ffy = s.ffy := rfl
@[simp] theorem State.modQueue_a192 (s : State) (Q : QI) (f : Queue → Queue) : (s.modQueue Q f).a192 = s.a192 := rfl
@[simp] theorem State.modQueue_cycle (s : State) (Q : QI) (f : Queue → Queue) : (s.modQueue Q f).cycle = s.cycle := rfl
@[simp] theorem State.modQueue_freeCtr (s : State) (Q : QI) (f : Queue → Queue) : (s.modQueue Q f).freeCtr = s.freeCtr := rfl
@[simp] theorem State.modQueue_pending (s : State) (Q : QI) (f : Queue → Queue) : (s.modQueue Q f).pending = s.pending := rfl

/-! ### State.modHearth -/

@[simp] theorem State.modHearth_regs (s : State) (p : Nat) (f : Hearth → Hearth) : (s.modHearth p f).regs = s.regs := rfl
@[simp] theorem State.modHearth_bus (s : State) (p : Nat) (f : Hearth → Hearth) : (s.modHearth p f).bus = s.bus := rfl
@[simp] theorem State.modHearth_mem (s : State) (p : Nat) (f : Hearth → Hearth) : (s.modHearth p f).mem = s.mem := rfl
@[simp] theorem State.modHearth_errs (s : State) (p : Nat) (f : Hearth → Hearth) : (s.modHearth p f).errs = s.errs := rfl
@[simp] theorem State.modHearth_ram (s : State) (p : Nat) (f : Hearth → Hearth) : (s.modHearth p f).ram = s.ram := rfl
@[simp] theorem State.modHearth_queues (s : State) (p : Nat) (f : Hearth → Hearth) : (s.modHearth p f).queues = s.queues := rfl
@[simp] theorem State.modHearth_blw (s : State) (p : Nat) (f : Hearth → Hearth) : (s.modHearth p f).blw = s.blw := rfl
@[simp] theorem State.modHearth_kln (s : State) (p : Nat) (f : Hearth → Hearth) : (s.modHearth p f).kln = s.kln := rfl
@[simp] theorem State.modHearth_folded (s : State) (p : Nat) (f : Hearth → Hearth) : (s.modHearth p f).folded = s.folded := rfl
@[simp] theorem State.modHearth_num (s : State) (p : Nat) (f : Hearth → Hearth) : (s.modHearth p f).num = s.num := rfl
@[simp] theorem State.modHearth_syn (s : State) (p : Nat) (f : Hearth → Hearth) : (s.modHearth p f).syn = s.syn := rfl
@[simp] theorem State.modHearth_flue (s : State) (p : Nat) (f : Hearth → Hearth) : (s.modHearth p f).flue = s.flue := rfl
@[simp] theorem State.modHearth_col (s : State) (p : Nat) (f : Hearth → Hearth) : (s.modHearth p f).col = s.col := rfl
@[simp] theorem State.modHearth_ember (s : State) (p : Nat) (f : Hearth → Hearth) : (s.modHearth p f).ember = s.ember := rfl
@[simp] theorem State.modHearth_nvm (s : State) (p : Nat) (f : Hearth → Hearth) : (s.modHearth p f).nvm = s.nvm := rfl
@[simp] theorem State.modHearth_hob (s : State) (p : Nat) (f : Hearth → Hearth) : (s.modHearth p f).hob = s.hob := rfl
@[simp] theorem State.modHearth_crk (s : State) (p : Nat) (f : Hearth → Hearth) : (s.modHearth p f).crk = s.crk := rfl
@[simp] theorem State.modHearth_pwr (s : State) (p : Nat) (f : Hearth → Hearth) : (s.modHearth p f).pwr = s.pwr := rfl
@[simp] theorem State.modHearth_onMarks (s : State) (p : Nat) (f : Hearth → Hearth) : (s.modHearth p f).onMarks = s.onMarks := rfl
@[simp] theorem State.modHearth_goodWins (s : State) (p : Nat) (f : Hearth → Hearth) : (s.modHearth p f).goodWins = s.goodWins := rfl
@[simp] theorem State.modHearth_job (s : State) (p : Nat) (f : Hearth → Hearth) : (s.modHearth p f).job = s.job := rfl
@[simp] theorem State.modHearth_errSeq (s : State) (p : Nat) (f : Hearth → Hearth) : (s.modHearth p f).errSeq = s.errSeq := rfl
@[simp] theorem State.modHearth_cxl (s : State) (p : Nat) (f : Hearth → Hearth) : (s.modHearth p f).cxl = s.cxl := rfl
@[simp] theorem State.modHearth_aon (s : State) (p : Nat) (f : Hearth → Hearth) : (s.modHearth p f).aon = s.aon := rfl
@[simp] theorem State.modHearth_irq (s : State) (p : Nat) (f : Hearth → Hearth) : (s.modHearth p f).irq = s.irq := rfl
@[simp] theorem State.modHearth_padWaves (s : State) (p : Nat) (f : Hearth → Hearth) : (s.modHearth p f).padWaves = s.padWaves := rfl
@[simp] theorem State.modHearth_ffy (s : State) (p : Nat) (f : Hearth → Hearth) : (s.modHearth p f).ffy = s.ffy := rfl
@[simp] theorem State.modHearth_a192 (s : State) (p : Nat) (f : Hearth → Hearth) : (s.modHearth p f).a192 = s.a192 := rfl
@[simp] theorem State.modHearth_cycle (s : State) (p : Nat) (f : Hearth → Hearth) : (s.modHearth p f).cycle = s.cycle := rfl
@[simp] theorem State.modHearth_freeCtr (s : State) (p : Nat) (f : Hearth → Hearth) : (s.modHearth p f).freeCtr = s.freeCtr := rfl
@[simp] theorem State.modHearth_pending (s : State) (p : Nat) (f : Hearth → Hearth) : (s.modHearth p f).pending = s.pending := rfl

/-! ### State.modKln -/

@[simp] theorem State.modKln_regs (s : State) (q : Nat) (f : Kln → Kln) : (s.modKln q f).regs = s.regs := rfl
@[simp] theorem State.modKln_bus (s : State) (q : Nat) (f : Kln → Kln) : (s.modKln q f).bus = s.bus := rfl
@[simp] theorem State.modKln_mem (s : State) (q : Nat) (f : Kln → Kln) : (s.modKln q f).mem = s.mem := rfl
@[simp] theorem State.modKln_errs (s : State) (q : Nat) (f : Kln → Kln) : (s.modKln q f).errs = s.errs := rfl
@[simp] theorem State.modKln_ram (s : State) (q : Nat) (f : Kln → Kln) : (s.modKln q f).ram = s.ram := rfl
@[simp] theorem State.modKln_queues (s : State) (q : Nat) (f : Kln → Kln) : (s.modKln q f).queues = s.queues := rfl
@[simp] theorem State.modKln_hrt (s : State) (q : Nat) (f : Kln → Kln) : (s.modKln q f).hrt = s.hrt := rfl
@[simp] theorem State.modKln_blw (s : State) (q : Nat) (f : Kln → Kln) : (s.modKln q f).blw = s.blw := rfl
@[simp] theorem State.modKln_folded (s : State) (q : Nat) (f : Kln → Kln) : (s.modKln q f).folded = s.folded := rfl
@[simp] theorem State.modKln_num (s : State) (q : Nat) (f : Kln → Kln) : (s.modKln q f).num = s.num := rfl
@[simp] theorem State.modKln_syn (s : State) (q : Nat) (f : Kln → Kln) : (s.modKln q f).syn = s.syn := rfl
@[simp] theorem State.modKln_flue (s : State) (q : Nat) (f : Kln → Kln) : (s.modKln q f).flue = s.flue := rfl
@[simp] theorem State.modKln_col (s : State) (q : Nat) (f : Kln → Kln) : (s.modKln q f).col = s.col := rfl
@[simp] theorem State.modKln_ember (s : State) (q : Nat) (f : Kln → Kln) : (s.modKln q f).ember = s.ember := rfl
@[simp] theorem State.modKln_nvm (s : State) (q : Nat) (f : Kln → Kln) : (s.modKln q f).nvm = s.nvm := rfl
@[simp] theorem State.modKln_hob (s : State) (q : Nat) (f : Kln → Kln) : (s.modKln q f).hob = s.hob := rfl
@[simp] theorem State.modKln_crk (s : State) (q : Nat) (f : Kln → Kln) : (s.modKln q f).crk = s.crk := rfl
@[simp] theorem State.modKln_pwr (s : State) (q : Nat) (f : Kln → Kln) : (s.modKln q f).pwr = s.pwr := rfl
@[simp] theorem State.modKln_onMarks (s : State) (q : Nat) (f : Kln → Kln) : (s.modKln q f).onMarks = s.onMarks := rfl
@[simp] theorem State.modKln_goodWins (s : State) (q : Nat) (f : Kln → Kln) : (s.modKln q f).goodWins = s.goodWins := rfl
@[simp] theorem State.modKln_job (s : State) (q : Nat) (f : Kln → Kln) : (s.modKln q f).job = s.job := rfl
@[simp] theorem State.modKln_errSeq (s : State) (q : Nat) (f : Kln → Kln) : (s.modKln q f).errSeq = s.errSeq := rfl
@[simp] theorem State.modKln_cxl (s : State) (q : Nat) (f : Kln → Kln) : (s.modKln q f).cxl = s.cxl := rfl
@[simp] theorem State.modKln_aon (s : State) (q : Nat) (f : Kln → Kln) : (s.modKln q f).aon = s.aon := rfl
@[simp] theorem State.modKln_irq (s : State) (q : Nat) (f : Kln → Kln) : (s.modKln q f).irq = s.irq := rfl
@[simp] theorem State.modKln_padWaves (s : State) (q : Nat) (f : Kln → Kln) : (s.modKln q f).padWaves = s.padWaves := rfl
@[simp] theorem State.modKln_ffy (s : State) (q : Nat) (f : Kln → Kln) : (s.modKln q f).ffy = s.ffy := rfl
@[simp] theorem State.modKln_a192 (s : State) (q : Nat) (f : Kln → Kln) : (s.modKln q f).a192 = s.a192 := rfl
@[simp] theorem State.modKln_cycle (s : State) (q : Nat) (f : Kln → Kln) : (s.modKln q f).cycle = s.cycle := rfl
@[simp] theorem State.modKln_freeCtr (s : State) (q : Nat) (f : Kln → Kln) : (s.modKln q f).freeCtr = s.freeCtr := rfl
@[simp] theorem State.modKln_pending (s : State) (q : Nat) (f : Kln → Kln) : (s.modKln q f).pending = s.pending := rfl

/-! ### State.useRelease -/

@[simp] theorem State.useRelease_regs (s : State) (qid : Nat) : (s.useRelease qid).regs = s.regs := rfl
@[simp] theorem State.useRelease_bus (s : State) (qid : Nat) : (s.useRelease qid).bus = s.bus := rfl
@[simp] theorem State.useRelease_mem (s : State) (qid : Nat) : (s.useRelease qid).mem = s.mem := rfl
@[simp] theorem State.useRelease_errs (s : State) (qid : Nat) : (s.useRelease qid).errs = s.errs := rfl
@[simp] theorem State.useRelease_ram (s : State) (qid : Nat) : (s.useRelease qid).ram = s.ram := rfl
@[simp] theorem State.useRelease_queues (s : State) (qid : Nat) : (s.useRelease qid).queues = s.queues := rfl
@[simp] theorem State.useRelease_hrt (s : State) (qid : Nat) : (s.useRelease qid).hrt = s.hrt := rfl
@[simp] theorem State.useRelease_blw (s : State) (qid : Nat) : (s.useRelease qid).blw = s.blw := rfl
@[simp] theorem State.useRelease_kln (s : State) (qid : Nat) : (s.useRelease qid).kln = s.kln := rfl
@[simp] theorem State.useRelease_folded (s : State) (qid : Nat) : (s.useRelease qid).folded = s.folded := rfl
@[simp] theorem State.useRelease_num (s : State) (qid : Nat) : (s.useRelease qid).num = s.num := rfl
@[simp] theorem State.useRelease_flue (s : State) (qid : Nat) : (s.useRelease qid).flue = s.flue := rfl
@[simp] theorem State.useRelease_col (s : State) (qid : Nat) : (s.useRelease qid).col = s.col := rfl
@[simp] theorem State.useRelease_ember (s : State) (qid : Nat) : (s.useRelease qid).ember = s.ember := rfl
@[simp] theorem State.useRelease_nvm (s : State) (qid : Nat) : (s.useRelease qid).nvm = s.nvm := rfl
@[simp] theorem State.useRelease_hob (s : State) (qid : Nat) : (s.useRelease qid).hob = s.hob := rfl
@[simp] theorem State.useRelease_crk (s : State) (qid : Nat) : (s.useRelease qid).crk = s.crk := rfl
@[simp] theorem State.useRelease_pwr (s : State) (qid : Nat) : (s.useRelease qid).pwr = s.pwr := rfl
@[simp] theorem State.useRelease_onMarks (s : State) (qid : Nat) : (s.useRelease qid).onMarks = s.onMarks := rfl
@[simp] theorem State.useRelease_goodWins (s : State) (qid : Nat) : (s.useRelease qid).goodWins = s.goodWins := rfl
@[simp] theorem State.useRelease_job (s : State) (qid : Nat) : (s.useRelease qid).job = s.job := rfl
@[simp] theorem State.useRelease_errSeq (s : State) (qid : Nat) : (s.useRelease qid).errSeq = s.errSeq := rfl
@[simp] theorem State.useRelease_cxl (s : State) (qid : Nat) : (s.useRelease qid).cxl = s.cxl := rfl
@[simp] theorem State.useRelease_aon (s : State) (qid : Nat) : (s.useRelease qid).aon = s.aon := rfl
@[simp] theorem State.useRelease_irq (s : State) (qid : Nat) : (s.useRelease qid).irq = s.irq := rfl
@[simp] theorem State.useRelease_padWaves (s : State) (qid : Nat) : (s.useRelease qid).padWaves = s.padWaves := rfl
@[simp] theorem State.useRelease_ffy (s : State) (qid : Nat) : (s.useRelease qid).ffy = s.ffy := rfl
@[simp] theorem State.useRelease_a192 (s : State) (qid : Nat) : (s.useRelease qid).a192 = s.a192 := rfl
@[simp] theorem State.useRelease_cycle (s : State) (qid : Nat) : (s.useRelease qid).cycle = s.cycle := rfl
@[simp] theorem State.useRelease_freeCtr (s : State) (qid : Nat) : (s.useRelease qid).freeCtr = s.freeCtr := rfl
@[simp] theorem State.useRelease_pending (s : State) (qid : Nat) : (s.useRelease qid).pending = s.pending := rfl

/-! ### State.settle -/

@[simp] theorem State.settle_regs (s : State) : (s.settle).regs = s.regs := rfl
@[simp] theorem State.settle_bus (s : State) : (s.settle).bus = s.bus := rfl
@[simp] theorem State.settle_mem (s : State) : (s.settle).mem = s.mem := rfl
@[simp] theorem State.settle_errs (s : State) : (s.settle).errs = s.errs := rfl
@[simp] theorem State.settle_ram (s : State) : (s.settle).ram = s.ram := rfl
@[simp] theorem State.settle_queues (s : State) : (s.settle).queues = s.queues := rfl
@[simp] theorem State.settle_hrt (s : State) : (s.settle).hrt = s.hrt := rfl
@[simp] theorem State.settle_blw (s : State) : (s.settle).blw = s.blw := rfl
@[simp] theorem State.settle_kln (s : State) : (s.settle).kln = s.kln := rfl
@[simp] theorem State.settle_folded (s : State) : (s.settle).folded = s.folded := rfl
@[simp] theorem State.settle_num (s : State) : (s.settle).num = s.num := rfl
@[simp] theorem State.settle_syn (s : State) : (s.settle).syn = s.syn := rfl
@[simp] theorem State.settle_flue (s : State) : (s.settle).flue = s.flue := rfl
@[simp] theorem State.settle_col (s : State) : (s.settle).col = s.col := rfl
@[simp] theorem State.settle_ember (s : State) : (s.settle).ember = s.ember := rfl
@[simp] theorem State.settle_nvm (s : State) : (s.settle).nvm = s.nvm := rfl
@[simp] theorem State.settle_hob (s : State) : (s.settle).hob = s.hob := rfl
@[simp] theorem State.settle_crk (s : State) : (s.settle).crk = s.crk := rfl
@[simp] theorem State.settle_pwr (s : State) : (s.settle).pwr = s.pwr := rfl
@[simp] theorem State.settle_onMarks (s : State) : (s.settle).onMarks = s.onMarks := rfl
@[simp] theorem State.settle_goodWins (s : State) : (s.settle).goodWins = s.goodWins := rfl
@[simp] theorem State.settle_job (s : State) : (s.settle).job = s.job := rfl
@[simp] theorem State.settle_errSeq (s : State) : (s.settle).errSeq = s.errSeq := rfl
@[simp] theorem State.settle_cxl (s : State) : (s.settle).cxl = s.cxl := rfl
@[simp] theorem State.settle_aon (s : State) : (s.settle).aon = s.aon := rfl
@[simp] theorem State.settle_padWaves (s : State) : (s.settle).padWaves = s.padWaves := rfl
@[simp] theorem State.settle_ffy (s : State) : (s.settle).ffy = s.ffy := rfl
@[simp] theorem State.settle_a192 (s : State) : (s.settle).a192 = s.a192 := rfl
@[simp] theorem State.settle_cycle (s : State) : (s.settle).cycle = s.cycle := rfl
@[simp] theorem State.settle_freeCtr (s : State) : (s.settle).freeCtr = s.freeCtr := rfl
@[simp] theorem State.settle_pending (s : State) : (s.settle).pending = s.pending := rfl

/-! ### State.setHolder -/

@[simp] theorem State.setHolder_regs (s : State) (who : Nat) (h : Option (Nat × Nat)) : (s.setHolder who h).regs = s.regs := rfl
@[simp] theorem State.setHolder_mem (s : State) (who : Nat) (h : Option (Nat × Nat)) : (s.setHolder who h).mem = s.mem := rfl
@[simp] theorem State.setHolder_errs (s : State) (who : Nat) (h : Option (Nat × Nat)) : (s.setHolder who h).errs = s.errs := rfl
@[simp] theorem State.setHolder_ram (s : State) (who : Nat) (h : Option (Nat × Nat)) : (s.setHolder who h).ram = s.ram := rfl
@[simp] theorem State.setHolder_queues (s : State) (who : Nat) (h : Option (Nat × Nat)) : (s.setHolder who h).queues = s.queues := rfl
@[simp] theorem State.setHolder_hrt (s : State) (who : Nat) (h : Option (Nat × Nat)) : (s.setHolder who h).hrt = s.hrt := rfl
@[simp] theorem State.setHolder_blw (s : State) (who : Nat) (h : Option (Nat × Nat)) : (s.setHolder who h).blw = s.blw := rfl
@[simp] theorem State.setHolder_kln (s : State) (who : Nat) (h : Option (Nat × Nat)) : (s.setHolder who h).kln = s.kln := rfl
@[simp] theorem State.setHolder_folded (s : State) (who : Nat) (h : Option (Nat × Nat)) : (s.setHolder who h).folded = s.folded := rfl
@[simp] theorem State.setHolder_num (s : State) (who : Nat) (h : Option (Nat × Nat)) : (s.setHolder who h).num = s.num := rfl
@[simp] theorem State.setHolder_syn (s : State) (who : Nat) (h : Option (Nat × Nat)) : (s.setHolder who h).syn = s.syn := rfl
@[simp] theorem State.setHolder_flue (s : State) (who : Nat) (h : Option (Nat × Nat)) : (s.setHolder who h).flue = s.flue := rfl
@[simp] theorem State.setHolder_col (s : State) (who : Nat) (h : Option (Nat × Nat)) : (s.setHolder who h).col = s.col := rfl
@[simp] theorem State.setHolder_ember (s : State) (who : Nat) (h : Option (Nat × Nat)) : (s.setHolder who h).ember = s.ember := rfl
@[simp] theorem State.setHolder_nvm (s : State) (who : Nat) (h : Option (Nat × Nat)) : (s.setHolder who h).nvm = s.nvm := rfl
@[simp] theorem State.setHolder_hob (s : State) (who : Nat) (h : Option (Nat × Nat)) : (s.setHolder who h).hob = s.hob := rfl
@[simp] theorem State.setHolder_crk (s : State) (who : Nat) (h : Option (Nat × Nat)) : (s.setHolder who h).crk = s.crk := rfl
@[simp] theorem State.setHolder_pwr (s : State) (who : Nat) (h : Option (Nat × Nat)) : (s.setHolder who h).pwr = s.pwr := rfl
@[simp] theorem State.setHolder_onMarks (s : State) (who : Nat) (h : Option (Nat × Nat)) : (s.setHolder who h).onMarks = s.onMarks := rfl
@[simp] theorem State.setHolder_goodWins (s : State) (who : Nat) (h : Option (Nat × Nat)) : (s.setHolder who h).goodWins = s.goodWins := rfl
@[simp] theorem State.setHolder_job (s : State) (who : Nat) (h : Option (Nat × Nat)) : (s.setHolder who h).job = s.job := rfl
@[simp] theorem State.setHolder_errSeq (s : State) (who : Nat) (h : Option (Nat × Nat)) : (s.setHolder who h).errSeq = s.errSeq := rfl
@[simp] theorem State.setHolder_cxl (s : State) (who : Nat) (h : Option (Nat × Nat)) : (s.setHolder who h).cxl = s.cxl := rfl
@[simp] theorem State.setHolder_aon (s : State) (who : Nat) (h : Option (Nat × Nat)) : (s.setHolder who h).aon = s.aon := rfl
@[simp] theorem State.setHolder_irq (s : State) (who : Nat) (h : Option (Nat × Nat)) : (s.setHolder who h).irq = s.irq := rfl
@[simp] theorem State.setHolder_padWaves (s : State) (who : Nat) (h : Option (Nat × Nat)) : (s.setHolder who h).padWaves = s.padWaves := rfl
@[simp] theorem State.setHolder_ffy (s : State) (who : Nat) (h : Option (Nat × Nat)) : (s.setHolder who h).ffy = s.ffy := rfl
@[simp] theorem State.setHolder_a192 (s : State) (who : Nat) (h : Option (Nat × Nat)) : (s.setHolder who h).a192 = s.a192 := rfl
@[simp] theorem State.setHolder_cycle (s : State) (who : Nat) (h : Option (Nat × Nat)) : (s.setHolder who h).cycle = s.cycle := rfl
@[simp] theorem State.setHolder_freeCtr (s : State) (who : Nat) (h : Option (Nat × Nat)) : (s.setHolder who h).freeCtr = s.freeCtr := rfl
@[simp] theorem State.setHolder_pending (s : State) (who : Nat) (h : Option (Nat × Nat)) : (s.setHolder who h).pending = s.pending := rfl

/-! ### State.setShadow -/

@[simp] theorem State.setShadow_regs (s : State) (who : Nat) (h : Option (Nat × Nat)) : (s.setShadow who h).regs = s.regs := rfl
@[simp] theorem State.setShadow_mem (s : State) (who : Nat) (h : Option (Nat × Nat)) : (s.setShadow who h).mem = s.mem := rfl
@[simp] theorem State.setShadow_errs (s : State) (who : Nat) (h : Option (Nat × Nat)) : (s.setShadow who h).errs = s.errs := rfl
@[simp] theorem State.setShadow_ram (s : State) (who : Nat) (h : Option (Nat × Nat)) : (s.setShadow who h).ram = s.ram := rfl
@[simp] theorem State.setShadow_queues (s : State) (who : Nat) (h : Option (Nat × Nat)) : (s.setShadow who h).queues = s.queues := rfl
@[simp] theorem State.setShadow_hrt (s : State) (who : Nat) (h : Option (Nat × Nat)) : (s.setShadow who h).hrt = s.hrt := rfl
@[simp] theorem State.setShadow_blw (s : State) (who : Nat) (h : Option (Nat × Nat)) : (s.setShadow who h).blw = s.blw := rfl
@[simp] theorem State.setShadow_kln (s : State) (who : Nat) (h : Option (Nat × Nat)) : (s.setShadow who h).kln = s.kln := rfl
@[simp] theorem State.setShadow_folded (s : State) (who : Nat) (h : Option (Nat × Nat)) : (s.setShadow who h).folded = s.folded := rfl
@[simp] theorem State.setShadow_num (s : State) (who : Nat) (h : Option (Nat × Nat)) : (s.setShadow who h).num = s.num := rfl
@[simp] theorem State.setShadow_syn (s : State) (who : Nat) (h : Option (Nat × Nat)) : (s.setShadow who h).syn = s.syn := rfl
@[simp] theorem State.setShadow_flue (s : State) (who : Nat) (h : Option (Nat × Nat)) : (s.setShadow who h).flue = s.flue := rfl
@[simp] theorem State.setShadow_col (s : State) (who : Nat) (h : Option (Nat × Nat)) : (s.setShadow who h).col = s.col := rfl
@[simp] theorem State.setShadow_ember (s : State) (who : Nat) (h : Option (Nat × Nat)) : (s.setShadow who h).ember = s.ember := rfl
@[simp] theorem State.setShadow_nvm (s : State) (who : Nat) (h : Option (Nat × Nat)) : (s.setShadow who h).nvm = s.nvm := rfl
@[simp] theorem State.setShadow_hob (s : State) (who : Nat) (h : Option (Nat × Nat)) : (s.setShadow who h).hob = s.hob := rfl
@[simp] theorem State.setShadow_crk (s : State) (who : Nat) (h : Option (Nat × Nat)) : (s.setShadow who h).crk = s.crk := rfl
@[simp] theorem State.setShadow_pwr (s : State) (who : Nat) (h : Option (Nat × Nat)) : (s.setShadow who h).pwr = s.pwr := rfl
@[simp] theorem State.setShadow_onMarks (s : State) (who : Nat) (h : Option (Nat × Nat)) : (s.setShadow who h).onMarks = s.onMarks := rfl
@[simp] theorem State.setShadow_goodWins (s : State) (who : Nat) (h : Option (Nat × Nat)) : (s.setShadow who h).goodWins = s.goodWins := rfl
@[simp] theorem State.setShadow_job (s : State) (who : Nat) (h : Option (Nat × Nat)) : (s.setShadow who h).job = s.job := rfl
@[simp] theorem State.setShadow_errSeq (s : State) (who : Nat) (h : Option (Nat × Nat)) : (s.setShadow who h).errSeq = s.errSeq := rfl
@[simp] theorem State.setShadow_cxl (s : State) (who : Nat) (h : Option (Nat × Nat)) : (s.setShadow who h).cxl = s.cxl := rfl
@[simp] theorem State.setShadow_aon (s : State) (who : Nat) (h : Option (Nat × Nat)) : (s.setShadow who h).aon = s.aon := rfl
@[simp] theorem State.setShadow_irq (s : State) (who : Nat) (h : Option (Nat × Nat)) : (s.setShadow who h).irq = s.irq := rfl
@[simp] theorem State.setShadow_padWaves (s : State) (who : Nat) (h : Option (Nat × Nat)) : (s.setShadow who h).padWaves = s.padWaves := rfl
@[simp] theorem State.setShadow_ffy (s : State) (who : Nat) (h : Option (Nat × Nat)) : (s.setShadow who h).ffy = s.ffy := rfl
@[simp] theorem State.setShadow_a192 (s : State) (who : Nat) (h : Option (Nat × Nat)) : (s.setShadow who h).a192 = s.a192 := rfl
@[simp] theorem State.setShadow_cycle (s : State) (who : Nat) (h : Option (Nat × Nat)) : (s.setShadow who h).cycle = s.cycle := rfl
@[simp] theorem State.setShadow_freeCtr (s : State) (who : Nat) (h : Option (Nat × Nat)) : (s.setShadow who h).freeCtr = s.freeCtr := rfl
@[simp] theorem State.setShadow_pending (s : State) (who : Nat) (h : Option (Nat × Nat)) : (s.setShadow who h).pending = s.pending := rfl

/-! ### State.holdPosted -/

@[simp] theorem State.holdPosted_regs (s : State) (key off v : Nat) (lo : Option Nat) : (s.holdPosted key off v lo).regs = s.regs := rfl
@[simp] theorem State.holdPosted_mem (s : State) (key off v : Nat) (lo : Option Nat) : (s.holdPosted key off v lo).mem = s.mem := rfl
@[simp] theorem State.holdPosted_errs (s : State) (key off v : Nat) (lo : Option Nat) : (s.holdPosted key off v lo).errs = s.errs := rfl
@[simp] theorem State.holdPosted_ram (s : State) (key off v : Nat) (lo : Option Nat) : (s.holdPosted key off v lo).ram = s.ram := rfl
@[simp] theorem State.holdPosted_queues (s : State) (key off v : Nat) (lo : Option Nat) : (s.holdPosted key off v lo).queues = s.queues := rfl
@[simp] theorem State.holdPosted_hrt (s : State) (key off v : Nat) (lo : Option Nat) : (s.holdPosted key off v lo).hrt = s.hrt := rfl
@[simp] theorem State.holdPosted_blw (s : State) (key off v : Nat) (lo : Option Nat) : (s.holdPosted key off v lo).blw = s.blw := rfl
@[simp] theorem State.holdPosted_kln (s : State) (key off v : Nat) (lo : Option Nat) : (s.holdPosted key off v lo).kln = s.kln := rfl
@[simp] theorem State.holdPosted_folded (s : State) (key off v : Nat) (lo : Option Nat) : (s.holdPosted key off v lo).folded = s.folded := rfl
@[simp] theorem State.holdPosted_num (s : State) (key off v : Nat) (lo : Option Nat) : (s.holdPosted key off v lo).num = s.num := rfl
@[simp] theorem State.holdPosted_syn (s : State) (key off v : Nat) (lo : Option Nat) : (s.holdPosted key off v lo).syn = s.syn := rfl
@[simp] theorem State.holdPosted_flue (s : State) (key off v : Nat) (lo : Option Nat) : (s.holdPosted key off v lo).flue = s.flue := rfl
@[simp] theorem State.holdPosted_col (s : State) (key off v : Nat) (lo : Option Nat) : (s.holdPosted key off v lo).col = s.col := rfl
@[simp] theorem State.holdPosted_ember (s : State) (key off v : Nat) (lo : Option Nat) : (s.holdPosted key off v lo).ember = s.ember := rfl
@[simp] theorem State.holdPosted_nvm (s : State) (key off v : Nat) (lo : Option Nat) : (s.holdPosted key off v lo).nvm = s.nvm := rfl
@[simp] theorem State.holdPosted_hob (s : State) (key off v : Nat) (lo : Option Nat) : (s.holdPosted key off v lo).hob = s.hob := rfl
@[simp] theorem State.holdPosted_crk (s : State) (key off v : Nat) (lo : Option Nat) : (s.holdPosted key off v lo).crk = s.crk := rfl
@[simp] theorem State.holdPosted_pwr (s : State) (key off v : Nat) (lo : Option Nat) : (s.holdPosted key off v lo).pwr = s.pwr := rfl
@[simp] theorem State.holdPosted_onMarks (s : State) (key off v : Nat) (lo : Option Nat) : (s.holdPosted key off v lo).onMarks = s.onMarks := rfl
@[simp] theorem State.holdPosted_goodWins (s : State) (key off v : Nat) (lo : Option Nat) : (s.holdPosted key off v lo).goodWins = s.goodWins := rfl
@[simp] theorem State.holdPosted_job (s : State) (key off v : Nat) (lo : Option Nat) : (s.holdPosted key off v lo).job = s.job := rfl
@[simp] theorem State.holdPosted_errSeq (s : State) (key off v : Nat) (lo : Option Nat) : (s.holdPosted key off v lo).errSeq = s.errSeq := rfl
@[simp] theorem State.holdPosted_cxl (s : State) (key off v : Nat) (lo : Option Nat) : (s.holdPosted key off v lo).cxl = s.cxl := rfl
@[simp] theorem State.holdPosted_aon (s : State) (key off v : Nat) (lo : Option Nat) : (s.holdPosted key off v lo).aon = s.aon := rfl
@[simp] theorem State.holdPosted_irq (s : State) (key off v : Nat) (lo : Option Nat) : (s.holdPosted key off v lo).irq = s.irq := rfl
@[simp] theorem State.holdPosted_padWaves (s : State) (key off v : Nat) (lo : Option Nat) : (s.holdPosted key off v lo).padWaves = s.padWaves := rfl
@[simp] theorem State.holdPosted_ffy (s : State) (key off v : Nat) (lo : Option Nat) : (s.holdPosted key off v lo).ffy = s.ffy := rfl
@[simp] theorem State.holdPosted_a192 (s : State) (key off v : Nat) (lo : Option Nat) : (s.holdPosted key off v lo).a192 = s.a192 := rfl
@[simp] theorem State.holdPosted_cycle (s : State) (key off v : Nat) (lo : Option Nat) : (s.holdPosted key off v lo).cycle = s.cycle := rfl
@[simp] theorem State.holdPosted_freeCtr (s : State) (key off v : Nat) (lo : Option Nat) : (s.holdPosted key off v lo).freeCtr = s.freeCtr := rfl
@[simp] theorem State.holdPosted_pending (s : State) (key off v : Nat) (lo : Option Nat) : (s.holdPosted key off v lo).pending = s.pending := rfl

/-! ### State.modPort -/

@[simp] theorem State.modPort_regs (s : State) (p : Nat) (f : Port → Port) : (s.modPort p f).regs = s.regs := rfl
@[simp] theorem State.modPort_bus (s : State) (p : Nat) (f : Port → Port) : (s.modPort p f).bus = s.bus := rfl
@[simp] theorem State.modPort_mem (s : State) (p : Nat) (f : Port → Port) : (s.modPort p f).mem = s.mem := rfl
@[simp] theorem State.modPort_errs (s : State) (p : Nat) (f : Port → Port) : (s.modPort p f).errs = s.errs := rfl
@[simp] theorem State.modPort_ram (s : State) (p : Nat) (f : Port → Port) : (s.modPort p f).ram = s.ram := rfl
@[simp] theorem State.modPort_queues (s : State) (p : Nat) (f : Port → Port) : (s.modPort p f).queues = s.queues := rfl
@[simp] theorem State.modPort_hrt (s : State) (p : Nat) (f : Port → Port) : (s.modPort p f).hrt = s.hrt := rfl
@[simp] theorem State.modPort_blw (s : State) (p : Nat) (f : Port → Port) : (s.modPort p f).blw = s.blw := rfl
@[simp] theorem State.modPort_kln (s : State) (p : Nat) (f : Port → Port) : (s.modPort p f).kln = s.kln := rfl
@[simp] theorem State.modPort_folded (s : State) (p : Nat) (f : Port → Port) : (s.modPort p f).folded = s.folded := rfl
@[simp] theorem State.modPort_num (s : State) (p : Nat) (f : Port → Port) : (s.modPort p f).num = s.num := rfl
@[simp] theorem State.modPort_syn (s : State) (p : Nat) (f : Port → Port) : (s.modPort p f).syn = s.syn := rfl
@[simp] theorem State.modPort_col (s : State) (p : Nat) (f : Port → Port) : (s.modPort p f).col = s.col := rfl
@[simp] theorem State.modPort_ember (s : State) (p : Nat) (f : Port → Port) : (s.modPort p f).ember = s.ember := rfl
@[simp] theorem State.modPort_nvm (s : State) (p : Nat) (f : Port → Port) : (s.modPort p f).nvm = s.nvm := rfl
@[simp] theorem State.modPort_hob (s : State) (p : Nat) (f : Port → Port) : (s.modPort p f).hob = s.hob := rfl
@[simp] theorem State.modPort_crk (s : State) (p : Nat) (f : Port → Port) : (s.modPort p f).crk = s.crk := rfl
@[simp] theorem State.modPort_pwr (s : State) (p : Nat) (f : Port → Port) : (s.modPort p f).pwr = s.pwr := rfl
@[simp] theorem State.modPort_onMarks (s : State) (p : Nat) (f : Port → Port) : (s.modPort p f).onMarks = s.onMarks := rfl
@[simp] theorem State.modPort_goodWins (s : State) (p : Nat) (f : Port → Port) : (s.modPort p f).goodWins = s.goodWins := rfl
@[simp] theorem State.modPort_job (s : State) (p : Nat) (f : Port → Port) : (s.modPort p f).job = s.job := rfl
@[simp] theorem State.modPort_errSeq (s : State) (p : Nat) (f : Port → Port) : (s.modPort p f).errSeq = s.errSeq := rfl
@[simp] theorem State.modPort_cxl (s : State) (p : Nat) (f : Port → Port) : (s.modPort p f).cxl = s.cxl := rfl
@[simp] theorem State.modPort_aon (s : State) (p : Nat) (f : Port → Port) : (s.modPort p f).aon = s.aon := rfl
@[simp] theorem State.modPort_irq (s : State) (p : Nat) (f : Port → Port) : (s.modPort p f).irq = s.irq := rfl
@[simp] theorem State.modPort_padWaves (s : State) (p : Nat) (f : Port → Port) : (s.modPort p f).padWaves = s.padWaves := rfl
@[simp] theorem State.modPort_ffy (s : State) (p : Nat) (f : Port → Port) : (s.modPort p f).ffy = s.ffy := rfl
@[simp] theorem State.modPort_a192 (s : State) (p : Nat) (f : Port → Port) : (s.modPort p f).a192 = s.a192 := rfl
@[simp] theorem State.modPort_cycle (s : State) (p : Nat) (f : Port → Port) : (s.modPort p f).cycle = s.cycle := rfl
@[simp] theorem State.modPort_freeCtr (s : State) (p : Nat) (f : Port → Port) : (s.modPort p f).freeCtr = s.freeCtr := rfl
@[simp] theorem State.modPort_pending (s : State) (p : Nat) (f : Port → Port) : (s.modPort p f).pending = s.pending := rfl

end Sys2Proof.Machine
end

