-- ==== Sys2Proof/Laws/Registers.lean ====
section
/-! SUPPORT. Registers: what a field reads as after a field has been set. -/

set_option Elab.async false

namespace Sys2Proof.Machine

@[simp] theorem State.reg_setReg_self (s : State) (o : Nat) (v : Word) : (s.setReg o v).reg o = v := by
  simp [State.reg, State.setReg]
theorem State.reg_setReg_ne (s : State) {o j : Nat} (v : Word) (h : j ≠ o) : (s.setReg o v).reg j = s.reg j := by
  simp only [State.reg, State.setReg]
  by_cases hd : (BitVec.ofNat 32 (regReset o)) = BitVec.ofNat 32 (regReset j)
  · rw [hd]; exact Sparse.look_write_ne _ _ _ h
  · unfold Sparse.write
    split
    · rw [Sparse.look_drop_ne _ _ h]
    · rw [Sparse.look_put]; simp [h]
theorem State.reg_set_self (s : State) (f : RF) (v : Nat) : (s.set f v).reg f.off = setBits (s.reg f.off) f.lo f.w v := by
  simp [State.set]
theorem State.reg_set_ne (s : State) {f : RF} {o : Nat} (v : Nat) (h : o ≠ f.off) : (s.set f v).reg o = s.reg o :=
  State.reg_setReg_ne s _ h

theorem setBits_getLsbD (x : Word) (lo w v i : Nat) (hi : i < 32) :
    (setBits x lo w v).getLsbD i = if lo ≤ i ∧ i < lo + w then v.testBit (i - lo) else x.getLsbD i := by
  simp only [setBits, BitVec.getLsbD_or, BitVec.getLsbD_and, BitVec.getLsbD_not, BitVec.getLsbD_ofNat, hi, decide_true,
    Bool.true_and, Nat.testBit_shiftLeft, Nat.testBit_two_pow_sub_one, Nat.testBit_mod_two_pow, ge_iff_le]
  by_cases h1 : lo ≤ i
  · by_cases h2 : i < lo + w
    · have h3 : i - lo < w := by omega
      simp [h1, h2, h3]
    · have h3 : ¬ i - lo < w := by omega
      simp [h1, h2, h3]
  · simp [h1]

/-- Bit `i` of a field. -/
theorem State.get_testBit (s : State) (f : RF) (i : Nat) :
    (s.get f).testBit i = (decide (i < f.w) && (s.reg f.off).getLsbD (f.lo + i)) := by
  simp [State.get, Nat.testBit_mod_two_pow, Nat.testBit_shiftRight, BitVec.getLsbD]

/-- A field reads as it was set. -/
theorem State.get_set_self (s : State) (f : RF) (v : Nat) (h : f.lo + f.w ≤ 32) : (s.set f v).get f = v % 2 ^ f.w := by
  apply Nat.eq_of_testBit_eq
  intro i
  rw [State.get_testBit, State.reg_set_self, Nat.testBit_mod_two_pow]
  by_cases hi : i < f.w
  · rw [setBits_getLsbD _ _ _ _ _ (by omega)]
    simp [hi, show f.lo + i < f.lo + f.w by omega]
  · simp [hi]
/-- A field's value is within its width. -/
theorem State.get_lt (s : State) (f : RF) : s.get f < 2 ^ f.w := Nat.mod_lt _ (Nat.two_pow_pos _)
/-- A field takes a value within its width whole. -/
theorem State.get_set_lt (s : State) (f : RF) (v : Nat) (h : f.lo + f.w ≤ 32) (hv : v < 2 ^ f.w) : (s.set f v).get f = v := by
  rw [State.get_set_self s f v h, Nat.mod_eq_of_lt hv]
/-- A field of another register stays. -/
theorem State.get_set_off (s : State) {f g : RF} (v : Nat) (h : g.off ≠ f.off) : (s.set f v).get g = s.get g := by
  simp only [State.get, State.reg_set_ne s v h]
/-- Another field of the same register stays. -/
theorem State.get_set_bits (s : State) {f g : RF} (v : Nat) (hg : g.lo + g.w ≤ 32)
    (h : g.lo + g.w ≤ f.lo ∨ f.lo + f.w ≤ g.lo) : (s.set f v).get g = s.get g := by
  by_cases ho : g.off = f.off
  · apply Nat.eq_of_testBit_eq
    intro i
    rw [State.get_testBit, State.get_testBit, ho, State.reg_set_self]
    by_cases hi : i < g.w
    · rw [setBits_getLsbD _ _ _ _ _ (by omega)]
      simp [show ¬ (f.lo ≤ g.lo + i ∧ g.lo + i < f.lo + f.w) by omega]
    · simp [hi]
  · exact State.get_set_off s v ho

/-- An event flag reads 1 after it has been raised. -/
theorem State.get_raise_self (s : State) (f : RF) (h : f.lo + f.w ≤ 32) (hw : f.w ≠ 0) : (s.raise f).get f = 1 := by
  rw [State.raise, State.get_set_self s f 1 h]
  exact Nat.mod_eq_of_lt (Nat.one_lt_two_pow hw)
theorem State.on_of_get (s : State) (f : RF) {v : Nat} (h : s.get f = v) : s.on f = (v != 0) := by simp [State.on, h]

/-- Fields are those of the registers. -/
theorem State.get_congr {s t : State} (h : s.regs = t.regs) (f : RF) : s.get f = t.get f := by simp [State.get, State.reg, h]
theorem State.on_congr {s t : State} (h : s.regs = t.regs) (f : RF) : s.on f = t.on f := by simp [State.on, State.get_congr h]
theorem State.reg_congr {s t : State} (h : s.regs = t.regs) (o : Nat) : s.reg o = t.reg o := by simp [State.reg, h]

/-- A number chosen from a list is one of the list. -/
theorem pickOne_mem {l : List Nat} (h : l ≠ []) : pickOne l ∈ l := by
  have hp : 0 < l.length := List.length_pos_iff.mpr h
  unfold pickOne
  rw [List.getD_eq_getElem _ _ (Nat.mod_lt _ hp)]
  exact List.getElem_mem _

/-- What every element of a list keeps, the whole list keeps. -/
theorem each_keeps {α : Type} (P : State → Prop) (l : List α) (f : State → α → State) (s : State) (h : P s)
    (hf : ∀ t a, P t → P (f t a)) : P (s.each l f) := by
  unfold State.each
  induction l generalizing s with
  | nil => exact h
  | cons a l ih => exact ih (f s a) (hf s a h)

end Sys2Proof.Machine
end

