-- ==== Sys2Proof/Laws/Answer.lean ====
section
/-! SUPPORT. What the answer of a command is: the state that its effect leaves, with interrupt lines brought up to date and
the queue as it was. -/

set_option Elab.async false

namespace Sys2Proof.Machine

theorem settle_causes (s : State) : s.settle.causes = s.causes := rfl
theorem settle_alertHigh (s : State) : s.settle.alertHigh = s.alertHigh := rfl
theorem settle_current (s : State) : IrqCurrent s.settle := ⟨rfl, rfl⟩
theorem settle_agree (s : State) : Agree s.settle s := rfl

/-- An answer is a next state that agrees with the effect. -/
theorem answer_agree (s u : State) : ∃ t, s.answer u = .next t ∧ Agree t u := ⟨_, rfl, rfl⟩
theorem answer_pending (s u : State) : ∃ t, s.answer u = .next t ∧ t.pending = s.pending ∧ IrqCurrent t := ⟨_, rfl, rfl, rfl, rfl⟩
/-- A clocked unit's command, while the clocks run. -/
theorem ticked_on (s : State) (f : State → State) (h : s.clocked = true) : s.ticked f = s.answer (f s) := by
  simp [State.ticked, h]
/-- A clocked unit's command, while the clocks are stopped. -/
theorem ticked_off (s : State) (f : State → State) (h : s.clocked = false) : s.ticked f = s.answer s := by
  simp [State.ticked, h]

/-! ### States that agree -/

theorem Agree.eq {t u : State} (h : Agree t u) : { t with irq := u.irq, pending := u.pending } = u := h
theorem Agree.regs {t u : State} (h : Agree t u) : t.regs = u.regs := by have e := congrArg State.regs h.eq; exact e
theorem Agree.bus {t u : State} (h : Agree t u) : t.bus = u.bus := by have e := congrArg State.bus h.eq; exact e
theorem Agree.mem {t u : State} (h : Agree t u) : t.mem = u.mem := by have e := congrArg State.mem h.eq; exact e
theorem Agree.errs {t u : State} (h : Agree t u) : t.errs = u.errs := by have e := congrArg State.errs h.eq; exact e
theorem Agree.ram {t u : State} (h : Agree t u) : t.ram = u.ram := by have e := congrArg State.ram h.eq; exact e
theorem Agree.queues {t u : State} (h : Agree t u) : t.queues = u.queues := by have e := congrArg State.queues h.eq; exact e
theorem Agree.hrt {t u : State} (h : Agree t u) : t.hrt = u.hrt := by have e := congrArg State.hrt h.eq; exact e
theorem Agree.blw {t u : State} (h : Agree t u) : t.blw = u.blw := by have e := congrArg State.blw h.eq; exact e
theorem Agree.kln {t u : State} (h : Agree t u) : t.kln = u.kln := by have e := congrArg State.kln h.eq; exact e
theorem Agree.folded {t u : State} (h : Agree t u) : t.folded = u.folded := by have e := congrArg State.folded h.eq; exact e
theorem Agree.num {t u : State} (h : Agree t u) : t.num = u.num := by have e := congrArg State.num h.eq; exact e
theorem Agree.syn {t u : State} (h : Agree t u) : t.syn = u.syn := by have e := congrArg State.syn h.eq; exact e
theorem Agree.flue {t u : State} (h : Agree t u) : t.flue = u.flue := by have e := congrArg State.flue h.eq; exact e
theorem Agree.col {t u : State} (h : Agree t u) : t.col = u.col := by have e := congrArg State.col h.eq; exact e
theorem Agree.ember {t u : State} (h : Agree t u) : t.ember = u.ember := by have e := congrArg State.ember h.eq; exact e
theorem Agree.nvm {t u : State} (h : Agree t u) : t.nvm = u.nvm := by have e := congrArg State.nvm h.eq; exact e
theorem Agree.hob {t u : State} (h : Agree t u) : t.hob = u.hob := by have e := congrArg State.hob h.eq; exact e
theorem Agree.crk {t u : State} (h : Agree t u) : t.crk = u.crk := by have e := congrArg State.crk h.eq; exact e
theorem Agree.pwr {t u : State} (h : Agree t u) : t.pwr = u.pwr := by have e := congrArg State.pwr h.eq; exact e
theorem Agree.onMarks {t u : State} (h : Agree t u) : t.onMarks = u.onMarks := by have e := congrArg State.onMarks h.eq; exact e
theorem Agree.goodWins {t u : State} (h : Agree t u) : t.goodWins = u.goodWins := by have e := congrArg State.goodWins h.eq; exact e
theorem Agree.job {t u : State} (h : Agree t u) : t.job = u.job := by have e := congrArg State.job h.eq; exact e
theorem Agree.errSeq {t u : State} (h : Agree t u) : t.errSeq = u.errSeq := by have e := congrArg State.errSeq h.eq; exact e
theorem Agree.cxl {t u : State} (h : Agree t u) : t.cxl = u.cxl := by have e := congrArg State.cxl h.eq; exact e
theorem Agree.aon {t u : State} (h : Agree t u) : t.aon = u.aon := by have e := congrArg State.aon h.eq; exact e
theorem Agree.padWaves {t u : State} (h : Agree t u) : t.padWaves = u.padWaves := by have e := congrArg State.padWaves h.eq; exact e
theorem Agree.ffy {t u : State} (h : Agree t u) : t.ffy = u.ffy := by have e := congrArg State.ffy h.eq; exact e
theorem Agree.a192 {t u : State} (h : Agree t u) : t.a192 = u.a192 := by have e := congrArg State.a192 h.eq; exact e
theorem Agree.cycle {t u : State} (h : Agree t u) : t.cycle = u.cycle := by have e := congrArg State.cycle h.eq; exact e
theorem Agree.freeCtr {t u : State} (h : Agree t u) : t.freeCtr = u.freeCtr := by have e := congrArg State.freeCtr h.eq; exact e
theorem Agree.reg {t u : State} (h : Agree t u) (o : Nat) : t.reg o = u.reg o := State.reg_congr h.regs o
theorem Agree.get {t u : State} (h : Agree t u) (f : RF) : t.get f = u.get f := State.get_congr h.regs f
theorem Agree.on {t u : State} (h : Agree t u) (f : RF) : t.on f = u.on f := State.on_congr h.regs f

/-- A command that answers u gives u. -/
theorem gives_answer {i : Instr} {s u v : State} (h : exec i s = s.answer v) (hv : v = u) : Gives i s u :=
  ⟨_, h, by subst hv; rfl⟩
/-- A clocked unit's command gives its effect. -/
theorem gives_ticked {i : Instr} {s u : State} {f : State → State} (h : exec i s = s.ticked f) (hc : s.clocked = true)
    (hu : f s = u) : Gives i s u := gives_answer (h.trans (ticked_on s f hc)) hu
/-- Every command answers a next state that keeps the queue and has its interrupt lines up to date. -/
theorem exec_answers (i : Instr) (s : State) : ∃ u, exec i s = s.answer u := by
  cases i <;> exact ⟨_, rfl⟩

/-- An idle unit's cycle changes the idle counters and the waits only. -/
theorem unitCycle_only (s : State) (u : IdleUnit) (l : List Nat) : ∃ m y, s.unitCycle u l = { s with ffy := m, syn := y } := by
  unfold State.unitCycle
  split
  · split
    · exact ⟨_, _, rfl⟩
    · split
      · unfold State.noteDelay
        split
        · exact ⟨_, _, rfl⟩
        · exact ⟨_, _, rfl⟩
      · exact ⟨s.ffy, s.syn, rfl⟩
  · split
    · exact ⟨_, s.syn, rfl⟩
    · exact ⟨s.ffy, s.syn, rfl⟩
/-- Counting idle units changes the idle counters and the waits only, and takes free values. -/
theorem countIdle_only (s : State) : ∃ m y n, s.countIdle = { s with ffy := m, syn := y, freeCtr := n } := by
  have hb : ∃ n, (if s.channelHeld || !s.pwr.overs.isEmpty then s.freshBytes 56 else ([], s)).2 = { s with freeCtr := n } := by
    split
    · exact ⟨_, rfl⟩
    · exact ⟨s.freeCtr, rfl⟩
  obtain ⟨n, hn⟩ := hb
  refine each_keeps (fun t => ∃ m y n, t = { s with ffy := m, syn := y, freeCtr := n }) _ _ _ ⟨s.ffy, s.syn, n, hn⟩ ?_
  rintro t u ⟨m, y, k, rfl⟩
  obtain ⟨m', y', h⟩ := unitCycle_only { s with ffy := m, syn := y, freeCtr := k } u.1 _
  exact ⟨m', y', k, h⟩
theorem tapCycle_quiet {s : State} (h : s.Quiet) : s.tapCycle = s := by
  have : ((List.range 136).filter fun p => (s.hearth p).tapStalled) = [] :=
    List.filter_eq_nil_iff.mpr fun p hp => by simp [h.1 p (List.mem_range.mp hp)]
  unfold State.tapCycle
  rw [this]
  rfl
theorem linkCycle_quiet {s : State} (h : s.Quiet) : s.linkCycle = s := by
  have : ((List.range 12).filter fun p => !(s.port p).held.isEmpty) = [] :=
    List.filter_eq_nil_iff.mpr fun p hp => by simp [h.2 p (List.mem_range.mp hp)]
  unfold State.linkCycle
  rw [this]
  rfl
/-- An engine cycle without a command: while nothing is withheld it changes the cycle count, the interrupt lines and, while the idle
counters run, those counters and the waits. -/
theorem idle_only (s : State) (h : s.clocked = true → s.Quiet) :
    ∃ m y n, s.idle = { { s with ffy := m, syn := y, freeCtr := n, cycle := s.cycle + 1 }.settle with pending := s.pending } ∧
      ((s.clocked && s.on F.FFY_CTRL_EN) = false → m = s.ffy ∧ y = s.syn ∧ n = s.freeCtr) := by
  have h1 : (if s.clocked then s.tapCycle.linkCycle else s) = s := by
    split
    · rename_i hc
      rw [tapCycle_quiet (h hc), linkCycle_quiet (h hc)]
    · rfl
  unfold State.idle
  rw [h1]
  dsimp only
  by_cases hc : (s.clocked && s.on F.FFY_CTRL_EN) = true
  · obtain ⟨m, y, n, hm⟩ := countIdle_only s
    exact ⟨m, y, n, by rw [if_pos hc, hm], fun h' => by rw [hc] at h'; cases h'⟩
  · exact ⟨s.ffy, s.syn, s.freeCtr, by rw [if_neg hc], fun _ => ⟨rfl, rfl, rfl⟩⟩

end Sys2Proof.Machine
end

