-- ==== Sys2Proof/Laws/Bus.lean ====
section
/-! SUPPORT. The register bus: which row of the map a register has, and what a whole write of each register that acts does. -/

set_option Elab.async false
set_option linter.unusedSimpArgs false

namespace Sys2Proof.Machine

/-- R543, R546, R549: a 4-byte write of a register that is no half of a pair, from a requester that may make it. -/
theorem busWrite_whole (s : State) (who off v : Nat) (r : RegRow) (hb : s.busOn = true) (ha : off % 4 = 0) (hr : regRow? off = some r)
    (hs : secureOnly r off = false ∨ s.isSecure who = true) (h1 : r.half = 0) :
    s.busWrite who off 4 v = s.applyWrite r who off (v % 2 ^ 32) none := by
  have hx : (secureOnly r off && !s.isSecure who) = false := by rcases hs with h | h <;> simp [h]
  simp [State.busWrite, hb, busShape, ha, State.write32, hr, hx, h1]

/-- R550: a 4-byte write of the _HI half of a pair by a requester whose write holder holds the _LO half. -/
theorem busWrite_half (s : State) (who off v o l : Nat) (r : RegRow) (hb : s.busOn = true) (ha : off % 4 = 0) (hr : regRow? off = some r)
    (hs : secureOnly r off = false ∨ s.isSecure who = true) (h2 : r.half = 2) (hh : s.bus.holder.look none who = some (o, l)) (ho : o + 4 = off) :
    s.busWrite who off 4 v = (s.setHolder who none).applyWrite r who off (v % 2 ^ 32) (some l) := by
  have hx : (secureOnly r off && !s.isSecure who) = false := by rcases hs with h | h <;> simp [h]
  simp [State.busWrite, hb, busShape, ha, State.write32, hr, hx, h2, hh, ho]

theorem applyWrite_acts (s : State) (r : RegRow) (who off v : Nat) (lo : Option Nat) (h : r.posted = false) :
    s.applyWrite r who off v lo = s.act who off v lo := by simp [State.applyWrite, h]
theorem applyWrite_posts (s : State) (r : RegRow) (who off v : Nat) (lo : Option Nat) (h : r.posted = true) :
    s.applyWrite r who off v lo = s.post off v lo := by simp [State.applyWrite, h]
theorem loadedOff_mid {off : Nat} (h1 : 0x600000 ≤ off) (h2 : off < 0xD80000) : loadedOff off = false := by
  simp only [loadedOff, R.CMB_CTRL, R.HBM_CTRL, R.HBM_ILV, R.FLU_COORD, R.CXL_CTRL, Bool.or_eq_false_iff, Bool.and_eq_false_iff, decide_eq_false_iff_not]
  refine ⟨⟨⟨⟨?_, ?_⟩, ?_⟩, ?_⟩, ?_⟩ <;> try omega
  simp; omega
theorem loadedOff_high {off : Nat} (h1 : 0x131C000 ≤ off) : loadedOff off = false := by
  simp only [loadedOff, R.CMB_CTRL, R.HBM_CTRL, R.HBM_ILV, R.FLU_COORD, R.CXL_CTRL, Bool.or_eq_false_iff, Bool.and_eq_false_iff, decide_eq_false_iff_not]
  refine ⟨⟨⟨⟨?_, ?_⟩, ?_⟩, ?_⟩, ?_⟩ <;> try omega
  simp; omega
theorem noteChange_mid (s : State) {off : Nat} (h1 : 0x600000 ≤ off) (h2 : off < 0xD80000) : s.noteChange off = s := by
  simp [State.noteChange, loadedOff_mid h1 h2]
theorem noteChange_high (s : State) {off : Nat} (h1 : 0x131C000 ≤ off) : s.noteChange off = s := by
  simp [State.noteChange, loadedOff_high h1]

/-- A write of a register that is no ring base, region or margin setting brings nothing more. -/
theorem after_none (t : State) (off : Nat) (h1 : off < 0xE00100 ∨ 0xE00500 ≤ off) (h2 : off ≤ 0x1700000)
    (h3 : 0x800000 ≤ off → off < 0x888000 → off % 0x1000 ≠ 0x10 ∧ off % 0x1000 ≠ 0x14)
    (h4 : (0xB00000 ≤ off ∧ off < 0xD00000) ∨ (0x1400000 ≤ off ∧ off < 0x1500000) → off % 0x10000 ≠ 0x10 ∧ off % 0x10000 ≠ 0x14)
    (h5 : 0xA00000 ≤ off → off < 0xB00000 → off % 0x10000 ≠ 0x38 ∧ off % 0x10000 ≠ 0x3C)
    (h6 : ¬ (0x1300100 ≤ off ∧ off < 0x1300140 ∧ off % 16 < 8)) : t.afterWrite off = t := by
  have m : [R.MGN_TARGET, R.MGN_ADDR_HI, R.MGN_LEN].contains off = false := by
    simp only [List.contains_eq_mem, R.MGN_TARGET, R.MGN_ADDR_HI, R.MGN_LEN, decide_eq_false_iff_not, List.mem_cons, List.not_mem_nil, or_false]
    omega
  have c1 : ¬ (off / 0x10000 % 16 < 4 ∧ [0x0B, 0x0C, 0x14].contains (off / 0x100000) = true ∧ (off % 0x10000 = 0x10 ∨ off % 0x10000 = 0x14)) := by
    simp only [List.contains_eq_mem, decide_eq_true_eq, List.mem_cons, List.not_mem_nil, or_false]
    omega
  have c2 : ¬ (off / 0x10000 % 16 < 4 ∧ off / 0x100000 = 0x0A ∧ (off % 0x10000 = 0x38 ∨ off % 0x10000 = 0x3C)) := by omega
  have b : t.baseQueue off = none := by
    unfold State.baseQueue
    dsimp only
    split
    · rename_i h
      have := h3 h.1 h.2
      rw [if_neg (by omega)]
    · rfl
  unfold State.afterWrite
  rw [if_neg (by omega), m, if_neg Bool.false_ne_true, b]

/-! ### Rows of the map -/

/-- Rows that lie outside a range cover no offset of it. -/
theorem find_out (lo hi off : Nat) (h1 : lo ≤ off) (h2 : off < hi) (l : List RegRow)
    (hl : (l.all fun r => decide (0 < r.s1) && (decide (r.base + r.n1 * r.s1 ≤ lo) || decide (hi ≤ r.base))) = true) :
    l.find? (·.covers off) = none := by
  rw [List.find?_eq_none]
  intro r hr hc
  have hd := List.all_eq_true.mp hl r hr
  simp only [RegRow.covers, Bool.and_eq_true, decide_eq_true_eq, Bool.or_eq_true] at hc hd
  obtain ⟨hb, ⟨hi', -⟩, -⟩ := hc
  obtain ⟨h0, hd | hd⟩ := hd
  · have := (Nat.div_lt_iff_lt_mul h0).mp hi'
    generalize r.n1 * r.s1 = m at *
    omega
  · omega

/-- Rows of other blocks do not cover an offset of the HRT block. -/
theorem regRow_HRT (off : Nat) (h1 : 0x800000 ≤ off) (h2 : off < 0x900000) : regRow? off = regRowsHRT.find? (·.covers off) := by
  unfold regRow? regTable
  simp only [List.find?_append]
  rw [find_out _ _ off h1 h2 regRowsDMP (by decide +kernel), find_out _ _ off h1 h2 regRowsNUM (by decide +kernel), find_out _ _ off h1 h2 regRowsBLW (by decide +kernel), find_out _ _ off h1 h2 regRowsKLN (by decide +kernel), find_out _ _ off h1 h2 regRowsFBX (by decide +kernel), find_out _ _ off h1 h2 regRowsCRK (by decide +kernel), find_out _ _ off h1 h2 regRowsCMB (by decide +kernel), find_out _ _ off h1 h2 regRowsHBM (by decide +kernel), find_out _ _ off h1 h2 regRowsMGN (by decide +kernel), find_out _ _ off h1 h2 regRowsFLU (by decide +kernel), find_out _ _ off h1 h2 regRowsCOL (by decide +kernel), find_out _ _ off h1 h2 regRowsSYN (by decide +kernel), find_out _ _ off h1 h2 regRowsFFY (by decide +kernel), find_out _ _ off h1 h2 regRowsCLK (by decide +kernel), find_out _ _ off h1 h2 regRowsPWR (by decide +kernel), find_out _ _ off h1 h2 regRowsSEC (by decide +kernel), find_out _ _ off h1 h2 regRowsERR (by decide +kernel), find_out _ _ off h1 h2 regRowsGEN (by decide +kernel), find_out _ _ off h1 h2 regRowsCFG (by decide +kernel), find_out _ _ off h1 h2 regRowsCXL (by decide +kernel)]
  simp
/-- Rows of other blocks do not cover an offset of the DMP block. -/
theorem regRow_DMP (off : Nat) (h1 : 0x900000 ≤ off) (h2 : off < 0xa00000) : regRow? off = regRowsDMP.find? (·.covers off) := by
  unfold regRow? regTable
  simp only [List.find?_append]
  rw [find_out _ _ off h1 h2 regRowsHRT (by decide +kernel), find_out _ _ off h1 h2 regRowsNUM (by decide +kernel), find_out _ _ off h1 h2 regRowsBLW (by decide +kernel), find_out _ _ off h1 h2 regRowsKLN (by decide +kernel), find_out _ _ off h1 h2 regRowsFBX (by decide +kernel), find_out _ _ off h1 h2 regRowsCRK (by decide +kernel), find_out _ _ off h1 h2 regRowsCMB (by decide +kernel), find_out _ _ off h1 h2 regRowsHBM (by decide +kernel), find_out _ _ off h1 h2 regRowsMGN (by decide +kernel), find_out _ _ off h1 h2 regRowsFLU (by decide +kernel), find_out _ _ off h1 h2 regRowsCOL (by decide +kernel), find_out _ _ off h1 h2 regRowsSYN (by decide +kernel), find_out _ _ off h1 h2 regRowsFFY (by decide +kernel), find_out _ _ off h1 h2 regRowsCLK (by decide +kernel), find_out _ _ off h1 h2 regRowsPWR (by decide +kernel), find_out _ _ off h1 h2 regRowsSEC (by decide +kernel), find_out _ _ off h1 h2 regRowsERR (by decide +kernel), find_out _ _ off h1 h2 regRowsGEN (by decide +kernel), find_out _ _ off h1 h2 regRowsCFG (by decide +kernel), find_out _ _ off h1 h2 regRowsCXL (by decide +kernel)]
  simp
/-- Rows of other blocks do not cover an offset of the BLW block. -/
theorem regRow_BLW (off : Nat) (h1 : 0xa00000 ≤ off) (h2 : off < 0xb00000) : regRow? off = regRowsBLW.find? (·.covers off) := by
  unfold regRow? regTable
  simp only [List.find?_append]
  rw [find_out _ _ off h1 h2 regRowsHRT (by decide +kernel), find_out _ _ off h1 h2 regRowsDMP (by decide +kernel), find_out _ _ off h1 h2 regRowsNUM (by decide +kernel), find_out _ _ off h1 h2 regRowsKLN (by decide +kernel), find_out _ _ off h1 h2 regRowsFBX (by decide +kernel), find_out _ _ off h1 h2 regRowsCRK (by decide +kernel), find_out _ _ off h1 h2 regRowsCMB (by decide +kernel), find_out _ _ off h1 h2 regRowsHBM (by decide +kernel), find_out _ _ off h1 h2 regRowsMGN (by decide +kernel), find_out _ _ off h1 h2 regRowsFLU (by decide +kernel), find_out _ _ off h1 h2 regRowsCOL (by decide +kernel), find_out _ _ off h1 h2 regRowsSYN (by decide +kernel), find_out _ _ off h1 h2 regRowsFFY (by decide +kernel), find_out _ _ off h1 h2 regRowsCLK (by decide +kernel), find_out _ _ off h1 h2 regRowsPWR (by decide +kernel), find_out _ _ off h1 h2 regRowsSEC (by decide +kernel), find_out _ _ off h1 h2 regRowsERR (by decide +kernel), find_out _ _ off h1 h2 regRowsGEN (by decide +kernel), find_out _ _ off h1 h2 regRowsCFG (by decide +kernel), find_out _ _ off h1 h2 regRowsCXL (by decide +kernel)]
  simp
/-- Rows of other blocks do not cover an offset of the KLN block. -/
theorem regRow_KLN (off : Nat) (h1 : 0xb00000 ≤ off) (h2 : off < 0xc00000) : regRow? off = regRowsKLN.find? (·.covers off) := by
  unfold regRow? regTable
  simp only [List.find?_append]
  rw [find_out _ _ off h1 h2 regRowsHRT (by decide +kernel), find_out _ _ off h1 h2 regRowsDMP (by decide +kernel), find_out _ _ off h1 h2 regRowsNUM (by decide +kernel), find_out _ _ off h1 h2 regRowsBLW (by decide +kernel), find_out _ _ off h1 h2 regRowsFBX (by decide +kernel), find_out _ _ off h1 h2 regRowsCRK (by decide +kernel), find_out _ _ off h1 h2 regRowsCMB (by decide +kernel), find_out _ _ off h1 h2 regRowsHBM (by decide +kernel), find_out _ _ off h1 h2 regRowsMGN (by decide +kernel), find_out _ _ off h1 h2 regRowsFLU (by decide +kernel), find_out _ _ off h1 h2 regRowsCOL (by decide +kernel), find_out _ _ off h1 h2 regRowsSYN (by decide +kernel), find_out _ _ off h1 h2 regRowsFFY (by decide +kernel), find_out _ _ off h1 h2 regRowsCLK (by decide +kernel), find_out _ _ off h1 h2 regRowsPWR (by decide +kernel), find_out _ _ off h1 h2 regRowsSEC (by decide +kernel), find_out _ _ off h1 h2 regRowsERR (by decide +kernel), find_out _ _ off h1 h2 regRowsGEN (by decide +kernel), find_out _ _ off h1 h2 regRowsCFG (by decide +kernel), find_out _ _ off h1 h2 regRowsCXL (by decide +kernel)]
  simp
/-- Rows of other blocks do not cover an offset of the FBX block. -/
theorem regRow_FBX (off : Nat) (h1 : 0xc00000 ≤ off) (h2 : off < 0xd00000) : regRow? off = regRowsFBX.find? (·.covers off) := by
  unfold regRow? regTable
  simp only [List.find?_append]
  rw [find_out _ _ off h1 h2 regRowsHRT (by decide +kernel), find_out _ _ off h1 h2 regRowsDMP (by decide +kernel), find_out _ _ off h1 h2 regRowsNUM (by decide +kernel), find_out _ _ off h1 h2 regRowsBLW (by decide +kernel), find_out _ _ off h1 h2 regRowsKLN (by decide +kernel), find_out _ _ off h1 h2 regRowsCRK (by decide +kernel), find_out _ _ off h1 h2 regRowsCMB (by decide +kernel), find_out _ _ off h1 h2 regRowsHBM (by decide +kernel), find_out _ _ off h1 h2 regRowsMGN (by decide +kernel), find_out _ _ off h1 h2 regRowsFLU (by decide +kernel), find_out _ _ off h1 h2 regRowsCOL (by decide +kernel), find_out _ _ off h1 h2 regRowsSYN (by decide +kernel), find_out _ _ off h1 h2 regRowsFFY (by decide +kernel), find_out _ _ off h1 h2 regRowsCLK (by decide +kernel), find_out _ _ off h1 h2 regRowsPWR (by decide +kernel), find_out _ _ off h1 h2 regRowsSEC (by decide +kernel), find_out _ _ off h1 h2 regRowsERR (by decide +kernel), find_out _ _ off h1 h2 regRowsGEN (by decide +kernel), find_out _ _ off h1 h2 regRowsCFG (by decide +kernel), find_out _ _ off h1 h2 regRowsCXL (by decide +kernel)]
  simp
/-- Rows of other blocks do not cover an offset of the CRK block. -/
theorem regRow_CRK (off : Nat) (h1 : 0xd00000 ≤ off) (h2 : off < 0xe00000) : regRow? off = regRowsCRK.find? (·.covers off) := by
  unfold regRow? regTable
  simp only [List.find?_append]
  rw [find_out _ _ off h1 h2 regRowsHRT (by decide +kernel), find_out _ _ off h1 h2 regRowsDMP (by decide +kernel), find_out _ _ off h1 h2 regRowsNUM (by decide +kernel), find_out _ _ off h1 h2 regRowsBLW (by decide +kernel), find_out _ _ off h1 h2 regRowsKLN (by decide +kernel), find_out _ _ off h1 h2 regRowsFBX (by decide +kernel), find_out _ _ off h1 h2 regRowsCMB (by decide +kernel), find_out _ _ off h1 h2 regRowsHBM (by decide +kernel), find_out _ _ off h1 h2 regRowsMGN (by decide +kernel), find_out _ _ off h1 h2 regRowsFLU (by decide +kernel), find_out _ _ off h1 h2 regRowsCOL (by decide +kernel), find_out _ _ off h1 h2 regRowsSYN (by decide +kernel), find_out _ _ off h1 h2 regRowsFFY (by decide +kernel), find_out _ _ off h1 h2 regRowsCLK (by decide +kernel), find_out _ _ off h1 h2 regRowsPWR (by decide +kernel), find_out _ _ off h1 h2 regRowsSEC (by decide +kernel), find_out _ _ off h1 h2 regRowsERR (by decide +kernel), find_out _ _ off h1 h2 regRowsGEN (by decide +kernel), find_out _ _ off h1 h2 regRowsCFG (by decide +kernel), find_out _ _ off h1 h2 regRowsCXL (by decide +kernel)]
  simp
/-- Rows of other blocks do not cover an offset of the FLU block. -/
theorem regRow_FLU (off : Nat) (h1 : 0x1300000 ≤ off) (h2 : off < 0x1400000) : regRow? off = regRowsFLU.find? (·.covers off) := by
  unfold regRow? regTable
  simp only [List.find?_append]
  rw [find_out _ _ off h1 h2 regRowsHRT (by decide +kernel), find_out _ _ off h1 h2 regRowsDMP (by decide +kernel), find_out _ _ off h1 h2 regRowsNUM (by decide +kernel), find_out _ _ off h1 h2 regRowsBLW (by decide +kernel), find_out _ _ off h1 h2 regRowsKLN (by decide +kernel), find_out _ _ off h1 h2 regRowsFBX (by decide +kernel), find_out _ _ off h1 h2 regRowsCRK (by decide +kernel), find_out _ _ off h1 h2 regRowsCMB (by decide +kernel), find_out _ _ off h1 h2 regRowsHBM (by decide +kernel), find_out _ _ off h1 h2 regRowsMGN (by decide +kernel), find_out _ _ off h1 h2 regRowsCOL (by decide +kernel), find_out _ _ off h1 h2 regRowsSYN (by decide +kernel), find_out _ _ off h1 h2 regRowsFFY (by decide +kernel), find_out _ _ off h1 h2 regRowsCLK (by decide +kernel), find_out _ _ off h1 h2 regRowsPWR (by decide +kernel), find_out _ _ off h1 h2 regRowsSEC (by decide +kernel), find_out _ _ off h1 h2 regRowsERR (by decide +kernel), find_out _ _ off h1 h2 regRowsGEN (by decide +kernel), find_out _ _ off h1 h2 regRowsCFG (by decide +kernel), find_out _ _ off h1 h2 regRowsCXL (by decide +kernel)]
  simp
/-- Rows of other blocks do not cover an offset of the COL block. -/
theorem regRow_COL (off : Nat) (h1 : 0x1400000 ≤ off) (h2 : off < 0x1500000) : regRow? off = regRowsCOL.find? (·.covers off) := by
  unfold regRow? regTable
  simp only [List.find?_append]
  rw [find_out _ _ off h1 h2 regRowsHRT (by decide +kernel), find_out _ _ off h1 h2 regRowsDMP (by decide +kernel), find_out _ _ off h1 h2 regRowsNUM (by decide +kernel), find_out _ _ off h1 h2 regRowsBLW (by decide +kernel), find_out _ _ off h1 h2 regRowsKLN (by decide +kernel), find_out _ _ off h1 h2 regRowsFBX (by decide +kernel), find_out _ _ off h1 h2 regRowsCRK (by decide +kernel), find_out _ _ off h1 h2 regRowsCMB (by decide +kernel), find_out _ _ off h1 h2 regRowsHBM (by decide +kernel), find_out _ _ off h1 h2 regRowsMGN (by decide +kernel), find_out _ _ off h1 h2 regRowsFLU (by decide +kernel), find_out _ _ off h1 h2 regRowsSYN (by decide +kernel), find_out _ _ off h1 h2 regRowsFFY (by decide +kernel), find_out _ _ off h1 h2 regRowsCLK (by decide +kernel), find_out _ _ off h1 h2 regRowsPWR (by decide +kernel), find_out _ _ off h1 h2 regRowsSEC (by decide +kernel), find_out _ _ off h1 h2 regRowsERR (by decide +kernel), find_out _ _ off h1 h2 regRowsGEN (by decide +kernel), find_out _ _ off h1 h2 regRowsCFG (by decide +kernel), find_out _ _ off h1 h2 regRowsCXL (by decide +kernel)]
  simp
/-- Rows of other blocks do not cover an offset of the NUM block. -/
theorem regRow_NUM (off : Nat) (h1 : 0x1500000 ≤ off) (h2 : off < 0x1600000) : regRow? off = regRowsNUM.find? (·.covers off) := by
  unfold regRow? regTable
  simp only [List.find?_append]
  rw [find_out _ _ off h1 h2 regRowsHRT (by decide +kernel), find_out _ _ off h1 h2 regRowsDMP (by decide +kernel), find_out _ _ off h1 h2 regRowsBLW (by decide +kernel), find_out _ _ off h1 h2 regRowsKLN (by decide +kernel), find_out _ _ off h1 h2 regRowsFBX (by decide +kernel), find_out _ _ off h1 h2 regRowsCRK (by decide +kernel), find_out _ _ off h1 h2 regRowsCMB (by decide +kernel), find_out _ _ off h1 h2 regRowsHBM (by decide +kernel), find_out _ _ off h1 h2 regRowsMGN (by decide +kernel), find_out _ _ off h1 h2 regRowsFLU (by decide +kernel), find_out _ _ off h1 h2 regRowsCOL (by decide +kernel), find_out _ _ off h1 h2 regRowsSYN (by decide +kernel), find_out _ _ off h1 h2 regRowsFFY (by decide +kernel), find_out _ _ off h1 h2 regRowsCLK (by decide +kernel), find_out _ _ off h1 h2 regRowsPWR (by decide +kernel), find_out _ _ off h1 h2 regRowsSEC (by decide +kernel), find_out _ _ off h1 h2 regRowsERR (by decide +kernel), find_out _ _ off h1 h2 regRowsGEN (by decide +kernel), find_out _ _ off h1 h2 regRowsCFG (by decide +kernel), find_out _ _ off h1 h2 regRowsCXL (by decide +kernel)]
  simp
/-- Rows of other blocks do not cover an offset of the SYN block. -/
theorem regRow_SYN (off : Nat) (h1 : 0x600000 ≤ off) (h2 : off < 0x700000) : regRow? off = regRowsSYN.find? (·.covers off) := by
  unfold regRow? regTable
  simp only [List.find?_append]
  rw [find_out _ _ off h1 h2 regRowsHRT (by decide +kernel), find_out _ _ off h1 h2 regRowsDMP (by decide +kernel), find_out _ _ off h1 h2 regRowsNUM (by decide +kernel), find_out _ _ off h1 h2 regRowsBLW (by decide +kernel), find_out _ _ off h1 h2 regRowsKLN (by decide +kernel), find_out _ _ off h1 h2 regRowsFBX (by decide +kernel), find_out _ _ off h1 h2 regRowsCRK (by decide +kernel), find_out _ _ off h1 h2 regRowsCMB (by decide +kernel), find_out _ _ off h1 h2 regRowsHBM (by decide +kernel), find_out _ _ off h1 h2 regRowsMGN (by decide +kernel), find_out _ _ off h1 h2 regRowsFLU (by decide +kernel), find_out _ _ off h1 h2 regRowsCOL (by decide +kernel), find_out _ _ off h1 h2 regRowsFFY (by decide +kernel), find_out _ _ off h1 h2 regRowsCLK (by decide +kernel), find_out _ _ off h1 h2 regRowsPWR (by decide +kernel), find_out _ _ off h1 h2 regRowsSEC (by decide +kernel), find_out _ _ off h1 h2 regRowsERR (by decide +kernel), find_out _ _ off h1 h2 regRowsGEN (by decide +kernel), find_out _ _ off h1 h2 regRowsCFG (by decide +kernel), find_out _ _ off h1 h2 regRowsCXL (by decide +kernel)]
  simp

theorem row_HRT_QTAIL (p : Fin 136) : regRow? (R.HRT_QTAIL p.val) = some ⟨0x800020, 136, 0x1000, 1, 0x4, 0xFFF, 0xFFF, 0x0, 0x0, 0x0, false, false, 0⟩ := by
  have hp := p.isLt
  have e : R.HRT_QTAIL p.val = 0x800020 + 0x1000 * p.val := rfl
  rw [regRow_HRT _ (by omega) (by omega)]
  revert p; decide +kernel
theorem row_HRT_ABORT (p : Fin 136) : regRow? (R.HRT_ABORT p.val) = some ⟨0x800048, 136, 0x1000, 1, 0x4, 0xFFFFFFFF, 0xFFFFFFFF, 0x0, 0xFFFFFFFF, 0x0, false, false, 0⟩ := by
  have hp := p.isLt
  have e : R.HRT_ABORT p.val = 0x800048 + 0x1000 * p.val := rfl
  rw [regRow_HRT _ (by omega) (by omega)]
  revert p; decide +kernel
theorem row_HRT_CTRL (p : Fin 136) : regRow? (R.HRT_CTRL p.val) = some ⟨0x800000, 136, 0x1000, 1, 0x4, 0x7, 0x7, 0x0, 0x4, 0x0, false, false, 0⟩ := by
  have hp := p.isLt
  have e : R.HRT_CTRL p.val = 0x800000 + 0x1000 * p.val := rfl
  rw [regRow_HRT _ (by omega) (by omega)]
  revert p; decide +kernel
theorem row_DMP_CTRL (p : Fin 136) : regRow? (R.DMP_CTRL p.val) = some ⟨0x900000, 136, 0x1000, 1, 0x4, 0x1, 0x1, 0x0, 0x1, 0x0, false, false, 0⟩ := by
  have hp := p.isLt
  have e : R.DMP_CTRL p.val = 0x900000 + 0x1000 * p.val := rfl
  rw [regRow_DMP _ (by omega) (by omega)]
  revert p; decide +kernel
theorem row_NUM_POL_CTRL (p : Fin 256) : regRow? (R.NUM_POL_CTRL p.val) = some ⟨0x1501000, 256, 0x10, 1, 0x4, 0x3FFFF7F, 0x3FFFF7F, 0x0, 0x0, 0x4, false, false, 0⟩ := by
  have hp := p.isLt
  have e : R.NUM_POL_CTRL p.val = 0x1501000 + 0x10 * p.val := rfl
  rw [regRow_NUM _ (by omega) (by omega)]
  revert p; decide +kernel
theorem row_BLW_SQTAIL (p : Fin 4) : regRow? (R.BLW_SQTAIL p.val) = some ⟨0xA00048, 4, 0x10000, 1, 0x4, 0xFF, 0xFF, 0x0, 0x0, 0x0, false, false, 0⟩ := by
  have hp := p.isLt
  have e : R.BLW_SQTAIL p.val = 0xa00048 + 0x10000 * p.val := rfl
  rw [regRow_BLW _ (by omega) (by omega)]
  revert p; decide +kernel
theorem row_KLN_QTAIL (p : Fin 4) : regRow? (R.KLN_QTAIL p.val) = some ⟨0xB00020, 4, 0x10000, 1, 0x4, 0xFFF, 0xFFF, 0x0, 0x0, 0x0, false, false, 0⟩ := by
  have hp := p.isLt
  have e : R.KLN_QTAIL p.val = 0xb00020 + 0x10000 * p.val := rfl
  rw [regRow_KLN _ (by omega) (by omega)]
  revert p; decide +kernel
theorem row_KLN_ABORT (p : Fin 4) : regRow? (R.KLN_ABORT p.val) = some ⟨0xB00048, 4, 0x10000, 1, 0x4, 0xFFFFFFFF, 0xFFFFFFFF, 0x0, 0xFFFFFFFF, 0x0, false, false, 0⟩ := by
  have hp := p.isLt
  have e : R.KLN_ABORT p.val = 0xb00048 + 0x10000 * p.val := rfl
  rw [regRow_KLN _ (by omega) (by omega)]
  revert p; decide +kernel
theorem row_KLN_CTRL (p : Fin 4) : regRow? (R.KLN_CTRL p.val) = some ⟨0xB00000, 4, 0x10000, 1, 0x4, 0x7, 0x7, 0x0, 0x4, 0x0, false, false, 0⟩ := by
  have hp := p.isLt
  have e : R.KLN_CTRL p.val = 0xb00000 + 0x10000 * p.val := rfl
  rw [regRow_KLN _ (by omega) (by omega)]
  revert p; decide +kernel
theorem row_FBX_QTAIL (p : Fin 4) : regRow? (R.FBX_QTAIL p.val) = some ⟨0xC00020, 4, 0x10000, 1, 0x4, 0xFFF, 0xFFF, 0x0, 0x0, 0x0, false, false, 0⟩ := by
  have hp := p.isLt
  have e : R.FBX_QTAIL p.val = 0xc00020 + 0x10000 * p.val := rfl
  rw [regRow_FBX _ (by omega) (by omega)]
  revert p; decide +kernel
theorem row_FBX_ABORT (p : Fin 4) : regRow? (R.FBX_ABORT p.val) = some ⟨0xC00060, 4, 0x10000, 1, 0x4, 0xFFFFFFFF, 0xFFFFFFFF, 0x0, 0xFFFFFFFF, 0x0, false, false, 0⟩ := by
  have hp := p.isLt
  have e : R.FBX_ABORT p.val = 0xc00060 + 0x10000 * p.val := rfl
  rw [regRow_FBX _ (by omega) (by omega)]
  revert p; decide +kernel
theorem row_FBX_CTRL (p : Fin 4) : regRow? (R.FBX_CTRL p.val) = some ⟨0xC00000, 4, 0x10000, 1, 0x4, 0x3, 0x3, 0x0, 0x2, 0x0, false, false, 0⟩ := by
  have hp := p.isLt
  have e : R.FBX_CTRL p.val = 0xc00000 + 0x10000 * p.val := rfl
  rw [regRow_FBX _ (by omega) (by omega)]
  revert p; decide +kernel
theorem row_COL_QTAIL (p : Fin 4) : regRow? (R.COL_QTAIL p.val) = some ⟨0x1400020, 4, 0x10000, 1, 0x4, 0xFFF, 0xFFF, 0x0, 0x0, 0x0, false, false, 0⟩ := by
  have hp := p.isLt
  have e : R.COL_QTAIL p.val = 0x1400020 + 0x10000 * p.val := rfl
  rw [regRow_COL _ (by omega) (by omega)]
  revert p; decide +kernel
theorem row_COL_ABORT (p : Fin 4) : regRow? (R.COL_ABORT p.val) = some ⟨0x1400038, 4, 0x10000, 1, 0x4, 0xFFFFFFFF, 0xFFFFFFFF, 0x0, 0xFFFFFFFF, 0x0, false, false, 0⟩ := by
  have hp := p.isLt
  have e : R.COL_ABORT p.val = 0x1400038 + 0x10000 * p.val := rfl
  rw [regRow_COL _ (by omega) (by omega)]
  revert p; decide +kernel
theorem row_COL_CTRL (p : Fin 4) : regRow? (R.COL_CTRL p.val) = some ⟨0x1400000, 4, 0x10000, 1, 0x4, 0x3, 0x3, 0x0, 0x2, 0x0, false, false, 0⟩ := by
  have hp := p.isLt
  have e : R.COL_CTRL p.val = 0x1400000 + 0x10000 * p.val := rfl
  rw [regRow_COL _ (by omega) (by omega)]
  revert p; decide +kernel
theorem row_CRK_CTRL (p : Fin 72) : regRow? (R.CRK_CTRL p.val) = some ⟨0xD00000, 72, 0x1000, 1, 0x4, 0x7, 0x7, 0x0, 0x2, 0x0, false, false, 0⟩ := by
  have hp := p.isLt
  have e : R.CRK_CTRL p.val = 0xd00000 + 0x1000 * p.val := rfl
  rw [regRow_CRK _ (by omega) (by omega)]
  revert p; decide +kernel
theorem row_CRK_MAILBOX (p : Fin 72) : regRow? (R.CRK_MAILBOX p.val) = some ⟨0xD00034, 72, 0x1000, 1, 0x4, 0xFFFFFFFF, 0xFFFFFFFF, 0x0, 0x0, 0x0, false, false, 0⟩ := by
  have hp := p.isLt
  have e : R.CRK_MAILBOX p.val = 0xd00034 + 0x1000 * p.val := rfl
  rw [regRow_CRK _ (by omega) (by omega)]
  revert p; decide +kernel
theorem row_CMB_RETIRE : regRow? R.CMB_RETIRE = some ⟨0xE0002C, 1, 0x4, 1, 0x4, 0x8000FFFF, 0x8000FFFF, 0x0, 0x80000000, 0x0, true, false, 0⟩ := by decide +kernel
theorem row_MGN_CTRL : regRow? R.MGN_CTRL = some ⟨0x1700000, 1, 0x4, 1, 0x4, 0x3, 0x3, 0x0, 0x0, 0x0, true, false, 0⟩ := by decide +kernel
theorem row_FLU_P_CTRL (p : Fin 12) : regRow? (R.FLU_P_CTRL p.val) = some ⟨0x1310000, 12, 0x1000, 1, 0x4, 0x7, 0x7, 0x0, 0x0, 0x0, true, false, 0⟩ := by
  have hp := p.isLt
  have e : R.FLU_P_CTRL p.val = 0x1310000 + 0x1000 * p.val := rfl
  rw [regRow_FLU _ (by omega) (by omega)]
  revert p; decide +kernel
theorem row_FLU_SQTAIL (p : Fin 4) : regRow? (R.FLU_SQTAIL p.val) = some ⟨0x130010C, 4, 0x10, 1, 0x4, 0xFFF, 0xFFF, 0x0, 0x0, 0x0, false, false, 0⟩ := by
  have hp := p.isLt
  have e : R.FLU_SQTAIL p.val = 0x130010c + 0x10 * p.val := rfl
  rw [regRow_FLU _ (by omega) (by omega)]
  revert p; decide +kernel
theorem row_FLU_EPOCH : regRow? R.FLU_EPOCH = some ⟨0x130001C, 1, 0x4, 1, 0x4, 0xFFFFFF07, 0xFFFFFF02, 0x0, 0x0, 0x4, true, false, 0⟩ := by decide +kernel
theorem row_FLU_EMERG : regRow? R.FLU_EMERG = some ⟨0x1300020, 1, 0x4, 1, 0x4, 0xF1FF, 0xF1FF, 0x0, 0x0, 0x20, true, false, 0⟩ := by decide +kernel
theorem row_FLU_FENCE : regRow? R.FLU_FENCE = some ⟨0x1300030, 1, 0x4, 1, 0x4, 0xFFF, 0xFFF, 0x0, 0x0, 0x0, true, false, 0⟩ := by decide +kernel
theorem row_SYN_BAR_SUB (p : Fin 4096) : regRow? (R.SYN_BAR_SUB p.val) = some ⟨0x618000, 4096, 0x4, 1, 0x4, 0xFFFF, 0xFFFF, 0x0, 0xFFFF, 0x0, false, false, 0⟩ := by
  have hp := p.isLt
  have e : R.SYN_BAR_SUB p.val = 0x618000 + 0x4 * p.val := rfl
  rw [regRow_SYN _ (by omega) (by omega)]
  generalize R.SYN_BAR_SUB p.val = off at e
  subst e
  unfold regRowsSYN
  rw [List.find?_cons_of_neg (by simp only [RegRow.covers, Bool.and_eq_true, decide_eq_true_eq]; omega)]
  rw [List.find?_cons_of_neg (by simp only [RegRow.covers, Bool.and_eq_true, decide_eq_true_eq]; omega)]
  rw [List.find?_cons_of_neg (by simp only [RegRow.covers, Bool.and_eq_true, decide_eq_true_eq]; omega)]
  rw [List.find?_cons_of_neg (by simp only [RegRow.covers, Bool.and_eq_true, decide_eq_true_eq]; omega)]
  rw [List.find?_cons_of_neg (by simp only [RegRow.covers, Bool.and_eq_true, decide_eq_true_eq]; omega)]
  rw [List.find?_cons_of_neg (by simp only [RegRow.covers, Bool.and_eq_true, decide_eq_true_eq]; omega)]
  rw [List.find?_cons_of_neg (by simp only [RegRow.covers, Bool.and_eq_true, decide_eq_true_eq]; omega)]
  rw [List.find?_cons_of_neg (by simp only [RegRow.covers, Bool.and_eq_true, decide_eq_true_eq]; omega)]
  rw [List.find?_cons_of_neg (by simp only [RegRow.covers, Bool.and_eq_true, decide_eq_true_eq]; omega)]
  rw [List.find?_cons_of_pos]
  simp only [RegRow.covers, Bool.and_eq_true, decide_eq_true_eq]; omega

theorem row_SYN_SIGNAL : regRow? R.SYN_SIGNAL = some ⟨0x600018, 1, 0x4, 1, 0x4, 0xFFF, 0xFFF, 0x0, 0xFFF, 0x0, false, false, 0⟩ := by decide +kernel
theorem row_SYN_BAR_CNT (p : Fin 4096) : regRow? (R.SYN_BAR_CNT p.val) = some ⟨0x610004, 4096, 0x8, 1, 0x4, 0x3FFFFFF, 0xFFFF, 0x30000, 0x0, 0x0, false, false, 0⟩ := by
  have hp := p.isLt
  have e : R.SYN_BAR_CNT p.val = 0x610004 + 0x8 * p.val := rfl
  rw [regRow_SYN _ (by omega) (by omega)]
  generalize R.SYN_BAR_CNT p.val = off at e
  subst e
  unfold regRowsSYN
  rw [List.find?_cons_of_neg (by simp only [RegRow.covers, Bool.and_eq_true, decide_eq_true_eq]; omega)]
  rw [List.find?_cons_of_neg (by simp only [RegRow.covers, Bool.and_eq_true, decide_eq_true_eq]; omega)]
  rw [List.find?_cons_of_neg (by simp only [RegRow.covers, Bool.and_eq_true, decide_eq_true_eq]; omega)]
  rw [List.find?_cons_of_neg (by simp only [RegRow.covers, Bool.and_eq_true, decide_eq_true_eq]; omega)]
  rw [List.find?_cons_of_neg (by simp only [RegRow.covers, Bool.and_eq_true, decide_eq_true_eq]; omega)]
  rw [List.find?_cons_of_neg (by simp only [RegRow.covers, Bool.and_eq_true, decide_eq_true_eq]; omega)]
  rw [List.find?_cons_of_neg (by simp only [RegRow.covers, Bool.and_eq_true, decide_eq_true_eq]; omega)]
  rw [List.find?_cons_of_neg (by simp only [RegRow.covers, Bool.and_eq_true, decide_eq_true_eq]; omega)]
  rw [List.find?_cons_of_pos]
  simp only [RegRow.covers, Bool.and_eq_true, decide_eq_true_eq]; omega

theorem row_SEC_HEARTBEAT : regRow? R.SEC_HEARTBEAT = some ⟨0x200010, 1, 0x4, 1, 0x4, 0x1, 0x1, 0x0, 0x1, 0x0, true, false, 0⟩ := by decide +kernel
theorem row_ERR_RESET : regRow? R.ERR_RESET = some ⟨0x50006C, 1, 0x4, 1, 0x4, 0x1, 0x1, 0x0, 0x0, 0x0, true, false, 0⟩ := by decide +kernel
theorem row_CXL_HRESET : regRow? R.CXL_HRESET = some ⟨0x1200018, 1, 0x4, 1, 0x4, 0xFFFFFFFF, 0xFFFFFFFF, 0x0, 0xFFFFFFFF, 0x0, false, false, 0⟩ := by decide +kernel
theorem row_DMP_PTADDR_HI (p : Fin 136) : regRow? (R.DMP_PTADDR_HI p.val) = some ⟨0x900028, 136, 0x1000, 1, 0x4, 0xFFFFFFFF, 0xFFFFFFFF, 0x0, 0x0, 0x0, false, true, 2⟩ := by
  have hp := p.isLt
  have e : R.DMP_PTADDR_HI p.val = 0x900028 + 0x1000 * p.val := rfl
  rw [regRow_DMP _ (by omega) (by omega)]
  revert p; decide +kernel
theorem row_NUM_SEED_HI : regRow? R.NUM_SEED_HI = some ⟨0x1500028, 1, 0x4, 1, 0x4, 0xFFFFFFFF, 0xFFFFFFFF, 0x0, 0x0, 0x0, true, true, 2⟩ := by decide +kernel
theorem row_NUM_JCTRL : regRow? R.NUM_JCTRL = some ⟨0x1500034, 1, 0x4, 1, 0x4, 0x3, 0x3, 0x0, 0x0, 0x0, true, true, 0⟩ := by decide +kernel
theorem row_BLW_RELOAD (p : Fin 4) : regRow? (R.BLW_RELOAD p.val) = some ⟨0xA00034, 4, 0x10000, 1, 0x4, 0x800003FF, 0x800003FF, 0x0, 0x0, 0x0, false, true, 0⟩ := by
  have hp := p.isLt
  have e : R.BLW_RELOAD p.val = 0xa00034 + 0x10000 * p.val := rfl
  rw [regRow_BLW _ (by omega) (by omega)]
  revert p; decide +kernel
theorem row_HBM_ILV : regRow? R.HBM_ILV = some ⟨0x1000010, 1, 0x4, 1, 0x4, 0x1FF, 0x1FF, 0x0, 0x0, 0x0, true, true, 0⟩ := by decide +kernel
theorem row_FLU_TBL_COMMIT : regRow? R.FLU_TBL_COMMIT = some ⟨0x130002C, 1, 0x4, 1, 0x4, 0x1, 0x1, 0x0, 0x0, 0x0, true, true, 0⟩ := by decide +kernel
theorem row_ERR_CKCTRL : regRow? R.ERR_CKCTRL = some ⟨0x500060, 1, 0x4, 1, 0x4, 0x13FFFFF, 0x13FFFFF, 0x0, 0x0, 0x280000, true, true, 0⟩ := by decide +kernel
theorem row_FFY_CTRL : regRow? R.FFY_CTRL = some ⟨0x1600000, 1, 0x4, 1, 0x4, 0x3, 0x3, 0x0, 0x0, 0x0, false, true, 0⟩ := by decide +kernel
theorem row_HRT_PACE (p : Fin 136) : regRow? (R.HRT_PACE p.val) = some ⟨0x800028, 136, 0x1000, 1, 0x4, 0xFFFF, 0x0, 0xFF00, 0x0, 0xFF00, false, false, 0⟩ := by
  have hp := p.isLt
  have e : R.HRT_PACE p.val = 0x800028 + 0x1000 * p.val := rfl
  rw [regRow_HRT _ (by omega) (by omega)]
  revert p; decide +kernel
theorem row_NUM_HBIN (p : Fin 64) : regRow? (R.NUM_HBIN p.val) = some ⟨0x1500400, 64, 0x4, 1, 0x4, 0xFFFFFFFF, 0x0, 0xFFFFFFFF, 0x0, 0x0, false, false, 0⟩ := by
  have hp := p.isLt
  have e : R.NUM_HBIN p.val = 0x1500400 + 0x4 * p.val := rfl
  rw [regRow_NUM _ (by omega) (by omega)]
  revert p; decide +kernel

/-! ### What a write does -/

theorem act_HRT_QTAIL (s : State) (who : Nat) (p : Fin 136) (v : Nat) (lo : Option Nat) : s.act who (R.HRT_QTAIL p.val) v lo = s.hearthTail p.val v := by
  have hp := p.isLt
  have e : R.HRT_QTAIL p.val = 0x800020 + 0x1000 * p.val := rfl
  have h1 : 0x800000 ≤ R.HRT_QTAIL p.val ∧ R.HRT_QTAIL p.val < 0x888000 := by omega
  have h2 : (R.HRT_QTAIL p.val - 0x800000) / 0x1000 = p.val := by omega
  have h3 : R.HRT_QTAIL p.val % 0x1000 = 0x20 := by omega
  simp only [State.act, State.actHearth, State.actQuad, Option.orElse, if_pos h1, h2, h3]
  rw [after_none _ (R.HRT_QTAIL p.val) (by omega) (by omega) (by omega) (by omega) (by omega) (by omega)]
  exact noteChange_mid _ (by omega) (by omega)

theorem act_HRT_ABORT (s : State) (who : Nat) (p : Fin 136) (v : Nat) (lo : Option Nat) : s.act who (R.HRT_ABORT p.val) v lo = s.hearthAbort p.val v := by
  have hp := p.isLt
  have e : R.HRT_ABORT p.val = 0x800048 + 0x1000 * p.val := rfl
  have h1 : 0x800000 ≤ R.HRT_ABORT p.val ∧ R.HRT_ABORT p.val < 0x888000 := by omega
  have h2 : (R.HRT_ABORT p.val - 0x800000) / 0x1000 = p.val := by omega
  have h3 : R.HRT_ABORT p.val % 0x1000 = 0x48 := by omega
  simp only [State.act, State.actHearth, State.actQuad, Option.orElse, if_pos h1, h2, h3]
  rw [after_none _ (R.HRT_ABORT p.val) (by omega) (by omega) (by omega) (by omega) (by omega) (by omega)]
  exact noteChange_mid _ (by omega) (by omega)

theorem act_HRT_CTRL (s : State) (who : Nat) (p : Fin 136) (v : Nat) (lo : Option Nat) : s.act who (R.HRT_CTRL p.val) v lo = s.hearthCtrl p.val v := by
  have hp := p.isLt
  have e : R.HRT_CTRL p.val = 0x800000 + 0x1000 * p.val := rfl
  have h1 : 0x800000 ≤ R.HRT_CTRL p.val ∧ R.HRT_CTRL p.val < 0x888000 := by omega
  have h2 : (R.HRT_CTRL p.val - 0x800000) / 0x1000 = p.val := by omega
  have h3 : R.HRT_CTRL p.val % 0x1000 = 0x0 := by omega
  simp only [State.act, State.actHearth, State.actQuad, Option.orElse, if_pos h1, h2, h3]
  rw [after_none _ (R.HRT_CTRL p.val) (by omega) (by omega) (by omega) (by omega) (by omega) (by omega)]
  exact noteChange_mid _ (by omega) (by omega)

theorem act_DMP_CTRL (s : State) (who : Nat) (p : Fin 136) (v : Nat) (lo : Option Nat) : s.act who (R.DMP_CTRL p.val) v lo = (if v.testBit 0 then s.sideReset p.val else s) := by
  have hp := p.isLt
  have e : R.DMP_CTRL p.val = 0x900000 + 0x1000 * p.val := rfl
  have h0 : ¬ (0x800000 ≤ R.DMP_CTRL p.val ∧ R.DMP_CTRL p.val < 0x888000) := by omega
  have h1 : 0x900000 ≤ R.DMP_CTRL p.val ∧ R.DMP_CTRL p.val < 0x988000 ∧ R.DMP_CTRL p.val % 0x1000 = 0 := by omega
  have h2 : (R.DMP_CTRL p.val - 0x900000) / 0x1000 = p.val := by omega
  simp only [State.act, State.actHearth, State.actQuad, Option.orElse, if_neg h0, if_pos h1, h2]
  rw [after_none _ (R.DMP_CTRL p.val) (by omega) (by omega) (by omega) (by omega) (by omega) (by omega)]
  exact noteChange_mid _ (by omega) (by omega)

theorem act_NUM_POL_CTRL (s : State) (who : Nat) (p : Fin 256) (v : Nat) (lo : Option Nat) : s.act who (R.NUM_POL_CTRL p.val) v lo = (s.plainWrite (R.NUM_POL_CTRL p.val) v).clearPolicy p.val := by
  have hp := p.isLt
  have e : R.NUM_POL_CTRL p.val = 0x1501000 + 0x10 * p.val := rfl
  have h0 : ¬ (0x800000 ≤ R.NUM_POL_CTRL p.val ∧ R.NUM_POL_CTRL p.val < 0x888000) := by omega
  have h1 : ¬ (0x900000 ≤ R.NUM_POL_CTRL p.val ∧ R.NUM_POL_CTRL p.val < 0x988000 ∧ R.NUM_POL_CTRL p.val % 0x1000 = 0) := by omega
  have h4 : R.NUM_POL_CTRL p.val / 0x100000 = 0x15 := by omega
  have g1 : ¬ (0xD00000 ≤ R.NUM_POL_CTRL p.val ∧ R.NUM_POL_CTRL p.val < 0xD48000) := by omega
  have g2 : ¬ (0xD80000 ≤ R.NUM_POL_CTRL p.val ∧ R.NUM_POL_CTRL p.val < 0xD80100) := by omega
  have g3 : ¬ R.NUM_POL_CTRL p.val = 0xE0002C := by omega
  have g4 : ¬ (0xE00800 ≤ R.NUM_POL_CTRL p.val ∧ R.NUM_POL_CTRL p.val < 0xE00A00) := by omega
  have g5 : ¬ R.NUM_POL_CTRL p.val = 0x1700000 := by omega
  have k1 : ¬ R.NUM_POL_CTRL p.val = 0x1300000 := by omega
  have k2 : ¬ R.NUM_POL_CTRL p.val = 0x130001C := by omega
  have k3 : ¬ R.NUM_POL_CTRL p.val = 0x1300020 := by omega
  have k4 : ¬ R.NUM_POL_CTRL p.val = 0x1300030 := by omega
  have k7 : ¬ (0x1300100 ≤ R.NUM_POL_CTRL p.val ∧ R.NUM_POL_CTRL p.val < 0x1300140 ∧ R.NUM_POL_CTRL p.val % 16 = 8) := by omega
  have k5 : ¬ (0x1300100 ≤ R.NUM_POL_CTRL p.val ∧ R.NUM_POL_CTRL p.val < 0x1300140 ∧ R.NUM_POL_CTRL p.val % 16 = 12) := by omega
  have k6 : ¬ (0x1310000 ≤ R.NUM_POL_CTRL p.val ∧ R.NUM_POL_CTRL p.val < 0x131C000 ∧ R.NUM_POL_CTRL p.val % 0x1000 = 0) := by omega
  have y1 : ¬ R.NUM_POL_CTRL p.val = 0x600000 := by omega
  have y2 : ¬ R.NUM_POL_CTRL p.val = 0x600018 := by omega
  have y3 : ¬ (0x610000 ≤ R.NUM_POL_CTRL p.val ∧ R.NUM_POL_CTRL p.val < 0x618000) := by omega
  have y4 : ¬ (0x618000 ≤ R.NUM_POL_CTRL p.val ∧ R.NUM_POL_CTRL p.val < 0x61C000) := by omega
  have y5 : ¬ (0x620000 ≤ R.NUM_POL_CTRL p.val ∧ R.NUM_POL_CTRL p.val < 0x628000) := by omega
  have z1 : ¬ R.NUM_POL_CTRL p.val = 0x200010 := by omega
  have z7 : ¬ R.NUM_POL_CTRL p.val = 0x300000 := by omega
  have z2 : ¬ R.NUM_POL_CTRL p.val = 0x500000 := by omega
  have z3 : ¬ R.NUM_POL_CTRL p.val = 0x50006C := by omega
  have z4 : ¬ R.NUM_POL_CTRL p.val = 0x1200018 := by omega
  have z5 : 0x1501000 ≤ R.NUM_POL_CTRL p.val ∧ R.NUM_POL_CTRL p.val < 0x1502000 ∧ R.NUM_POL_CTRL p.val % 16 = 0 := by omega
  have z6 : (R.NUM_POL_CTRL p.val - 0x1501000) / 16 = p.val := by omega
  have a0 : State.actHearth s (R.NUM_POL_CTRL p.val) v = none := by simp only [State.actHearth, if_neg h0, if_neg h1]
  have q0 : State.actQuad s (R.NUM_POL_CTRL p.val) v = none := by
    simp only [State.actQuad, h4]; split <;> rfl
  have c0 : State.actCore s (R.NUM_POL_CTRL p.val) v = none := by simp only [State.actCore, R.CMB_RETIRE, if_neg g1, if_neg g2, if_neg g3, if_neg g4]; exact if_neg g5
  have f0 : State.actFlue s (R.NUM_POL_CTRL p.val) v = none := by simp only [State.actFlue, R.FLU_CTRL, R.FLU_EPOCH, R.FLU_EMERG, R.FLU_FENCE, if_neg k1, if_neg k2, if_neg k3, if_neg k4, if_neg k7, if_neg k5, if_neg k6]
  have y0 : State.actSyn s (R.NUM_POL_CTRL p.val) v = none := by simp only [State.actSyn, R.SYN_CTRL, R.SYN_SIGNAL, if_neg y1, if_neg y2, if_neg y3, if_neg y4, if_neg y5]
  have z0 : State.actSys s who (R.NUM_POL_CTRL p.val) v = some ((s.plainWrite (R.NUM_POL_CTRL p.val) v).clearPolicy p.val) := by simp only [State.actSys, R.SEC_HEARTBEAT, R.CLK_CTRL, R.ERR_CTRL, R.ERR_RESET, R.CXL_HRESET, if_neg z1, if_neg z7, if_neg z2, if_neg z3, if_neg z4, if_pos z5, z6]
  simp only [State.act, a0, q0, c0, f0, y0, z0, Option.orElse]
  rw [after_none _ (R.NUM_POL_CTRL p.val) (by omega) (by omega) (by omega) (by omega) (by omega) (by omega)]
  exact noteChange_high _ (by omega)

theorem act_BLW_SQTAIL (s : State) (who : Nat) (p : Fin 4) (v : Nat) (lo : Option Nat) : s.act who (R.BLW_SQTAIL p.val) v lo = (s.set (F.BLW_SQTAIL_TAIL p.val) v).advance (svcQ p.val) := by
  have hp := p.isLt
  have e : R.BLW_SQTAIL p.val = 0xa00048 + 0x10000 * p.val := rfl
  have h0 : ¬ (0x800000 ≤ R.BLW_SQTAIL p.val ∧ R.BLW_SQTAIL p.val < 0x888000) := by omega
  have h1 : ¬ (0x900000 ≤ R.BLW_SQTAIL p.val ∧ R.BLW_SQTAIL p.val < 0x988000 ∧ R.BLW_SQTAIL p.val % 0x1000 = 0) := by omega
  have h2 : R.BLW_SQTAIL p.val / 0x10000 % 16 = p.val := by omega
  have h3 : R.BLW_SQTAIL p.val % 0x10000 = 0x48 := by omega
  have h4 : R.BLW_SQTAIL p.val / 0x100000 = 0xa := by omega
  have h5 : ¬ 4 ≤ p.val := by omega
  simp only [State.act, State.actHearth, State.actQuad, Option.orElse, if_neg h0, if_neg h1, h2, h3, h4, if_neg h5]
  rw [after_none _ (R.BLW_SQTAIL p.val) (by omega) (by omega) (by omega) (by omega) (by omega) (by omega)]
  exact noteChange_mid _ (by omega) (by omega)

theorem act_KLN_QTAIL (s : State) (who : Nat) (p : Fin 4) (v : Nat) (lo : Option Nat) : s.act who (R.KLN_QTAIL p.val) v lo = s.kilnTail p.val v := by
  have hp := p.isLt
  have e : R.KLN_QTAIL p.val = 0xb00020 + 0x10000 * p.val := rfl
  have h0 : ¬ (0x800000 ≤ R.KLN_QTAIL p.val ∧ R.KLN_QTAIL p.val < 0x888000) := by omega
  have h1 : ¬ (0x900000 ≤ R.KLN_QTAIL p.val ∧ R.KLN_QTAIL p.val < 0x988000 ∧ R.KLN_QTAIL p.val % 0x1000 = 0) := by omega
  have h2 : R.KLN_QTAIL p.val / 0x10000 % 16 = p.val := by omega
  have h3 : R.KLN_QTAIL p.val % 0x10000 = 0x20 := by omega
  have h4 : R.KLN_QTAIL p.val / 0x100000 = 0xb := by omega
  have h5 : ¬ 4 ≤ p.val := by omega
  simp only [State.act, State.actHearth, State.actQuad, Option.orElse, if_neg h0, if_neg h1, h2, h3, h4, if_neg h5]
  rw [after_none _ (R.KLN_QTAIL p.val) (by omega) (by omega) (by omega) (by omega) (by omega) (by omega)]
  exact noteChange_mid _ (by omega) (by omega)

theorem act_KLN_ABORT (s : State) (who : Nat) (p : Fin 4) (v : Nat) (lo : Option Nat) : s.act who (R.KLN_ABORT p.val) v lo = s.kilnAbort p.val v := by
  have hp := p.isLt
  have e : R.KLN_ABORT p.val = 0xb00048 + 0x10000 * p.val := rfl
  have h0 : ¬ (0x800000 ≤ R.KLN_ABORT p.val ∧ R.KLN_ABORT p.val < 0x888000) := by omega
  have h1 : ¬ (0x900000 ≤ R.KLN_ABORT p.val ∧ R.KLN_ABORT p.val < 0x988000 ∧ R.KLN_ABORT p.val % 0x1000 = 0) := by omega
  have h2 : R.KLN_ABORT p.val / 0x10000 % 16 = p.val := by omega
  have h3 : R.KLN_ABORT p.val % 0x10000 = 0x48 := by omega
  have h4 : R.KLN_ABORT p.val / 0x100000 = 0xb := by omega
  have h5 : ¬ 4 ≤ p.val := by omega
  simp only [State.act, State.actHearth, State.actQuad, Option.orElse, if_neg h0, if_neg h1, h2, h3, h4, if_neg h5]
  rw [after_none _ (R.KLN_ABORT p.val) (by omega) (by omega) (by omega) (by omega) (by omega) (by omega)]
  exact noteChange_mid _ (by omega) (by omega)

theorem act_KLN_CTRL (s : State) (who : Nat) (p : Fin 4) (v : Nat) (lo : Option Nat) : s.act who (R.KLN_CTRL p.val) v lo = s.kilnCtrl p.val v := by
  have hp := p.isLt
  have e : R.KLN_CTRL p.val = 0xb00000 + 0x10000 * p.val := rfl
  have h0 : ¬ (0x800000 ≤ R.KLN_CTRL p.val ∧ R.KLN_CTRL p.val < 0x888000) := by omega
  have h1 : ¬ (0x900000 ≤ R.KLN_CTRL p.val ∧ R.KLN_CTRL p.val < 0x988000 ∧ R.KLN_CTRL p.val % 0x1000 = 0) := by omega
  have h2 : R.KLN_CTRL p.val / 0x10000 % 16 = p.val := by omega
  have h3 : R.KLN_CTRL p.val % 0x10000 = 0x0 := by omega
  have h4 : R.KLN_CTRL p.val / 0x100000 = 0xb := by omega
  have h5 : ¬ 4 ≤ p.val := by omega
  simp only [State.act, State.actHearth, State.actQuad, Option.orElse, if_neg h0, if_neg h1, h2, h3, h4, if_neg h5]
  rw [after_none _ (R.KLN_CTRL p.val) (by omega) (by omega) (by omega) (by omega) (by omega) (by omega)]
  exact noteChange_mid _ (by omega) (by omega)

theorem act_FBX_QTAIL (s : State) (who : Nat) (p : Fin 4) (v : Nat) (lo : Option Nat) : s.act who (R.FBX_QTAIL p.val) v lo = s.fbxTail p.val v := by
  have hp := p.isLt
  have e : R.FBX_QTAIL p.val = 0xc00020 + 0x10000 * p.val := rfl
  have h0 : ¬ (0x800000 ≤ R.FBX_QTAIL p.val ∧ R.FBX_QTAIL p.val < 0x888000) := by omega
  have h1 : ¬ (0x900000 ≤ R.FBX_QTAIL p.val ∧ R.FBX_QTAIL p.val < 0x988000 ∧ R.FBX_QTAIL p.val % 0x1000 = 0) := by omega
  have h2 : R.FBX_QTAIL p.val / 0x10000 % 16 = p.val := by omega
  have h3 : R.FBX_QTAIL p.val % 0x10000 = 0x20 := by omega
  have h4 : R.FBX_QTAIL p.val / 0x100000 = 0xc := by omega
  have h5 : ¬ 4 ≤ p.val := by omega
  simp only [State.act, State.actHearth, State.actQuad, Option.orElse, if_neg h0, if_neg h1, h2, h3, h4, if_neg h5]
  rw [after_none _ (R.FBX_QTAIL p.val) (by omega) (by omega) (by omega) (by omega) (by omega) (by omega)]
  exact noteChange_mid _ (by omega) (by omega)

theorem act_FBX_ABORT (s : State) (who : Nat) (p : Fin 4) (v : Nat) (lo : Option Nat) : s.act who (R.FBX_ABORT p.val) v lo = s.fbxAbort p.val v := by
  have hp := p.isLt
  have e : R.FBX_ABORT p.val = 0xc00060 + 0x10000 * p.val := rfl
  have h0 : ¬ (0x800000 ≤ R.FBX_ABORT p.val ∧ R.FBX_ABORT p.val < 0x888000) := by omega
  have h1 : ¬ (0x900000 ≤ R.FBX_ABORT p.val ∧ R.FBX_ABORT p.val < 0x988000 ∧ R.FBX_ABORT p.val % 0x1000 = 0) := by omega
  have h2 : R.FBX_ABORT p.val / 0x10000 % 16 = p.val := by omega
  have h3 : R.FBX_ABORT p.val % 0x10000 = 0x60 := by omega
  have h4 : R.FBX_ABORT p.val / 0x100000 = 0xc := by omega
  have h5 : ¬ 4 ≤ p.val := by omega
  simp only [State.act, State.actHearth, State.actQuad, Option.orElse, if_neg h0, if_neg h1, h2, h3, h4, if_neg h5]
  rw [after_none _ (R.FBX_ABORT p.val) (by omega) (by omega) (by omega) (by omega) (by omega) (by omega)]
  exact noteChange_mid _ (by omega) (by omega)

theorem act_FBX_CTRL (s : State) (who : Nat) (p : Fin 4) (v : Nat) (lo : Option Nat) : s.act who (R.FBX_CTRL p.val) v lo = s.fbxCtrl p.val v := by
  have hp := p.isLt
  have e : R.FBX_CTRL p.val = 0xc00000 + 0x10000 * p.val := rfl
  have h0 : ¬ (0x800000 ≤ R.FBX_CTRL p.val ∧ R.FBX_CTRL p.val < 0x888000) := by omega
  have h1 : ¬ (0x900000 ≤ R.FBX_CTRL p.val ∧ R.FBX_CTRL p.val < 0x988000 ∧ R.FBX_CTRL p.val % 0x1000 = 0) := by omega
  have h2 : R.FBX_CTRL p.val / 0x10000 % 16 = p.val := by omega
  have h3 : R.FBX_CTRL p.val % 0x10000 = 0x0 := by omega
  have h4 : R.FBX_CTRL p.val / 0x100000 = 0xc := by omega
  have h5 : ¬ 4 ≤ p.val := by omega
  simp only [State.act, State.actHearth, State.actQuad, Option.orElse, if_neg h0, if_neg h1, h2, h3, h4, if_neg h5]
  rw [after_none _ (R.FBX_CTRL p.val) (by omega) (by omega) (by omega) (by omega) (by omega) (by omega)]
  exact noteChange_mid _ (by omega) (by omega)

theorem act_COL_QTAIL (s : State) (who : Nat) (p : Fin 4) (v : Nat) (lo : Option Nat) : s.act who (R.COL_QTAIL p.val) v lo = s.colTail p.val v := by
  have hp := p.isLt
  have e : R.COL_QTAIL p.val = 0x1400020 + 0x10000 * p.val := rfl
  have h0 : ¬ (0x800000 ≤ R.COL_QTAIL p.val ∧ R.COL_QTAIL p.val < 0x888000) := by omega
  have h1 : ¬ (0x900000 ≤ R.COL_QTAIL p.val ∧ R.COL_QTAIL p.val < 0x988000 ∧ R.COL_QTAIL p.val % 0x1000 = 0) := by omega
  have h2 : R.COL_QTAIL p.val / 0x10000 % 16 = p.val := by omega
  have h3 : R.COL_QTAIL p.val % 0x10000 = 0x20 := by omega
  have h4 : R.COL_QTAIL p.val / 0x100000 = 0x14 := by omega
  have h5 : ¬ 4 ≤ p.val := by omega
  simp only [State.act, State.actHearth, State.actQuad, Option.orElse, if_neg h0, if_neg h1, h2, h3, h4, if_neg h5]
  rw [after_none _ (R.COL_QTAIL p.val) (by omega) (by omega) (by omega) (by omega) (by omega) (by omega)]
  exact noteChange_high _ (by omega)

theorem act_COL_ABORT (s : State) (who : Nat) (p : Fin 4) (v : Nat) (lo : Option Nat) : s.act who (R.COL_ABORT p.val) v lo = s.colAbort p.val v := by
  have hp := p.isLt
  have e : R.COL_ABORT p.val = 0x1400038 + 0x10000 * p.val := rfl
  have h0 : ¬ (0x800000 ≤ R.COL_ABORT p.val ∧ R.COL_ABORT p.val < 0x888000) := by omega
  have h1 : ¬ (0x900000 ≤ R.COL_ABORT p.val ∧ R.COL_ABORT p.val < 0x988000 ∧ R.COL_ABORT p.val % 0x1000 = 0) := by omega
  have h2 : R.COL_ABORT p.val / 0x10000 % 16 = p.val := by omega
  have h3 : R.COL_ABORT p.val % 0x10000 = 0x38 := by omega
  have h4 : R.COL_ABORT p.val / 0x100000 = 0x14 := by omega
  have h5 : ¬ 4 ≤ p.val := by omega
  simp only [State.act, State.actHearth, State.actQuad, Option.orElse, if_neg h0, if_neg h1, h2, h3, h4, if_neg h5]
  rw [after_none _ (R.COL_ABORT p.val) (by omega) (by omega) (by omega) (by omega) (by omega) (by omega)]
  exact noteChange_high _ (by omega)

theorem act_COL_CTRL (s : State) (who : Nat) (p : Fin 4) (v : Nat) (lo : Option Nat) : s.act who (R.COL_CTRL p.val) v lo = s.colCtrl p.val v := by
  have hp := p.isLt
  have e : R.COL_CTRL p.val = 0x1400000 + 0x10000 * p.val := rfl
  have h0 : ¬ (0x800000 ≤ R.COL_CTRL p.val ∧ R.COL_CTRL p.val < 0x888000) := by omega
  have h1 : ¬ (0x900000 ≤ R.COL_CTRL p.val ∧ R.COL_CTRL p.val < 0x988000 ∧ R.COL_CTRL p.val % 0x1000 = 0) := by omega
  have h2 : R.COL_CTRL p.val / 0x10000 % 16 = p.val := by omega
  have h3 : R.COL_CTRL p.val % 0x10000 = 0x0 := by omega
  have h4 : R.COL_CTRL p.val / 0x100000 = 0x14 := by omega
  have h5 : ¬ 4 ≤ p.val := by omega
  simp only [State.act, State.actHearth, State.actQuad, Option.orElse, if_neg h0, if_neg h1, h2, h3, h4, if_neg h5]
  rw [after_none _ (R.COL_CTRL p.val) (by omega) (by omega) (by omega) (by omega) (by omega) (by omega)]
  exact noteChange_high _ (by omega)

theorem act_CRK_CTRL (s : State) (who : Nat) (p : Fin 72) (v : Nat) (lo : Option Nat) : s.act who (R.CRK_CTRL p.val) v lo = s.crkCtrl p.val v := by
  have hp := p.isLt
  have e : R.CRK_CTRL p.val = 0xd00000 + 0x1000 * p.val := rfl
  have h0 : ¬ (0x800000 ≤ R.CRK_CTRL p.val ∧ R.CRK_CTRL p.val < 0x888000) := by omega
  have h1 : ¬ (0x900000 ≤ R.CRK_CTRL p.val ∧ R.CRK_CTRL p.val < 0x988000 ∧ R.CRK_CTRL p.val % 0x1000 = 0) := by omega
  have h4 : R.CRK_CTRL p.val / 0x100000 = 0xd := by omega
  have h5 : 0xD00000 ≤ R.CRK_CTRL p.val ∧ R.CRK_CTRL p.val < 0xD48000 := by omega
  have h6 : (R.CRK_CTRL p.val - 0xD00000) / 0x1000 = p.val := by omega
  have h7 : R.CRK_CTRL p.val % 0x1000 = 0x0 := by omega
  have a0 : State.actHearth s (R.CRK_CTRL p.val) v = none := by simp only [State.actHearth, if_neg h0, if_neg h1]
  have q0 : State.actQuad s (R.CRK_CTRL p.val) v = none := by
    simp only [State.actQuad, h4]; split <;> rfl
  have c0 : State.actCore s (R.CRK_CTRL p.val) v = some (s.crkCtrl p.val v) := by simp only [State.actCore, if_pos h5, h6, h7]
  simp only [State.act, a0, q0, c0, Option.orElse]
  rw [after_none _ (R.CRK_CTRL p.val) (by omega) (by omega) (by omega) (by omega) (by omega) (by omega)]
  exact noteChange_mid _ (by omega) (by omega)

theorem act_CRK_MAILBOX (s : State) (who : Nat) (p : Fin 72) (v : Nat) (lo : Option Nat) : s.act who (R.CRK_MAILBOX p.val) v lo = s.mailbox p.val v := by
  have hp := p.isLt
  have e : R.CRK_MAILBOX p.val = 0xd00034 + 0x1000 * p.val := rfl
  have h0 : ¬ (0x800000 ≤ R.CRK_MAILBOX p.val ∧ R.CRK_MAILBOX p.val < 0x888000) := by omega
  have h1 : ¬ (0x900000 ≤ R.CRK_MAILBOX p.val ∧ R.CRK_MAILBOX p.val < 0x988000 ∧ R.CRK_MAILBOX p.val % 0x1000 = 0) := by omega
  have h4 : R.CRK_MAILBOX p.val / 0x100000 = 0xd := by omega
  have h5 : 0xD00000 ≤ R.CRK_MAILBOX p.val ∧ R.CRK_MAILBOX p.val < 0xD48000 := by omega
  have h6 : (R.CRK_MAILBOX p.val - 0xD00000) / 0x1000 = p.val := by omega
  have h7 : R.CRK_MAILBOX p.val % 0x1000 = 0x34 := by omega
  have a0 : State.actHearth s (R.CRK_MAILBOX p.val) v = none := by simp only [State.actHearth, if_neg h0, if_neg h1]
  have q0 : State.actQuad s (R.CRK_MAILBOX p.val) v = none := by
    simp only [State.actQuad, h4]; split <;> rfl
  have c0 : State.actCore s (R.CRK_MAILBOX p.val) v = some (s.mailbox p.val v) := by simp only [State.actCore, if_pos h5, h6, h7]
  simp only [State.act, a0, q0, c0, Option.orElse]
  rw [after_none _ (R.CRK_MAILBOX p.val) (by omega) (by omega) (by omega) (by omega) (by omega) (by omega)]
  exact noteChange_mid _ (by omega) (by omega)

theorem act_CMB_RETIRE (s : State) (who : Nat) (v : Nat) (lo : Option Nat) : s.act who R.CMB_RETIRE v lo = s.retireWrite v := by
  simp [State.act, State.actHearth, State.actQuad, State.actCore, State.actFlue, State.actSyn, State.actSys, State.afterWrite, State.baseQueue, R.MGN_TARGET, R.MGN_ADDR_HI, R.MGN_LEN, R.CMB_RETIRE, State.noteChange, loadedOff, R.CMB_RETIRE, R.MGN_CTRL, R.FLU_CTRL, R.FLU_EPOCH, R.FLU_EMERG, R.FLU_FENCE, R.SYN_CTRL, R.SYN_SIGNAL, R.SEC_HEARTBEAT, R.CLK_CTRL, R.ERR_CTRL, R.ERR_RESET, R.CXL_HRESET, R.CMB_CTRL, R.HBM_CTRL, R.HBM_ILV, R.FLU_COORD, R.CXL_CTRL]

theorem act_MGN_CTRL (s : State) (who : Nat) (v : Nat) (lo : Option Nat) : s.act who R.MGN_CTRL v lo = s.marginCtrl v := by
  simp [State.act, State.actHearth, State.actQuad, State.actCore, State.actFlue, State.actSyn, State.actSys, State.afterWrite, State.baseQueue, R.MGN_TARGET, R.MGN_ADDR_HI, R.MGN_LEN, R.MGN_CTRL, State.noteChange, loadedOff, R.CMB_RETIRE, R.MGN_CTRL, R.FLU_CTRL, R.FLU_EPOCH, R.FLU_EMERG, R.FLU_FENCE, R.SYN_CTRL, R.SYN_SIGNAL, R.SEC_HEARTBEAT, R.CLK_CTRL, R.ERR_CTRL, R.ERR_RESET, R.CXL_HRESET, R.CMB_CTRL, R.HBM_CTRL, R.HBM_ILV, R.FLU_COORD, R.CXL_CTRL]

theorem act_FLU_P_CTRL (s : State) (who : Nat) (p : Fin 12) (v : Nat) (lo : Option Nat) : s.act who (R.FLU_P_CTRL p.val) v lo = (s.portCtrl p.val v).noteChange (R.FLU_P_CTRL p.val) := by
  have hp := p.isLt
  have e : R.FLU_P_CTRL p.val = 0x1310000 + 0x1000 * p.val := rfl
  have h0 : ¬ (0x800000 ≤ R.FLU_P_CTRL p.val ∧ R.FLU_P_CTRL p.val < 0x888000) := by omega
  have h1 : ¬ (0x900000 ≤ R.FLU_P_CTRL p.val ∧ R.FLU_P_CTRL p.val < 0x988000 ∧ R.FLU_P_CTRL p.val % 0x1000 = 0) := by omega
  have h4 : R.FLU_P_CTRL p.val / 0x100000 = 0x13 := by omega
  have g1 : ¬ (0xD00000 ≤ R.FLU_P_CTRL p.val ∧ R.FLU_P_CTRL p.val < 0xD48000) := by omega
  have g2 : ¬ (0xD80000 ≤ R.FLU_P_CTRL p.val ∧ R.FLU_P_CTRL p.val < 0xD80100) := by omega
  have g3 : ¬ R.FLU_P_CTRL p.val = 0xE0002C := by omega
  have g4 : ¬ (0xE00800 ≤ R.FLU_P_CTRL p.val ∧ R.FLU_P_CTRL p.val < 0xE00A00) := by omega
  have g5 : ¬ R.FLU_P_CTRL p.val = 0x1700000 := by omega
  have k1 : ¬ R.FLU_P_CTRL p.val = 0x1300000 := by omega
  have k2 : ¬ R.FLU_P_CTRL p.val = 0x130001C := by omega
  have k3 : ¬ R.FLU_P_CTRL p.val = 0x1300020 := by omega
  have k4 : ¬ R.FLU_P_CTRL p.val = 0x1300030 := by omega
  have k7 : ¬ (0x1300100 ≤ R.FLU_P_CTRL p.val ∧ R.FLU_P_CTRL p.val < 0x1300140 ∧ R.FLU_P_CTRL p.val % 16 = 8) := by omega
  have k5 : ¬ (0x1300100 ≤ R.FLU_P_CTRL p.val ∧ R.FLU_P_CTRL p.val < 0x1300140 ∧ R.FLU_P_CTRL p.val % 16 = 12) := by omega
  have k6 : 0x1310000 ≤ R.FLU_P_CTRL p.val ∧ R.FLU_P_CTRL p.val < 0x131C000 ∧ R.FLU_P_CTRL p.val % 0x1000 = 0 := by omega
  have k8 : (R.FLU_P_CTRL p.val - 0x1310000) / 0x1000 = p.val := by omega
  have a0 : State.actHearth s (R.FLU_P_CTRL p.val) v = none := by simp only [State.actHearth, if_neg h0, if_neg h1]
  have q0 : State.actQuad s (R.FLU_P_CTRL p.val) v = none := by
    simp only [State.actQuad, h4]; split <;> rfl
  have c0 : State.actCore s (R.FLU_P_CTRL p.val) v = none := by simp only [State.actCore, R.CMB_RETIRE, if_neg g1, if_neg g2, if_neg g3, if_neg g4]; exact if_neg g5
  have f0 : State.actFlue s (R.FLU_P_CTRL p.val) v = some (s.portCtrl p.val v) := by simp only [State.actFlue, R.FLU_CTRL, R.FLU_EPOCH, R.FLU_EMERG, R.FLU_FENCE, if_neg k1, if_neg k2, if_neg k3, if_neg k4, if_neg k7, if_neg k5, if_pos k6, k8]
  simp only [State.act, a0, q0, c0, f0, Option.orElse]
  rw [after_none _ (R.FLU_P_CTRL p.val) (by omega) (by omega) (by omega) (by omega) (by omega) (by omega)]

theorem act_FLU_SQTAIL (s : State) (who : Nat) (p : Fin 4) (v : Nat) (lo : Option Nat) : s.act who (R.FLU_SQTAIL p.val) v lo = s.sendTail p.val v := by
  have hp := p.isLt
  have e : R.FLU_SQTAIL p.val = 0x130010c + 0x10 * p.val := rfl
  have h0 : ¬ (0x800000 ≤ R.FLU_SQTAIL p.val ∧ R.FLU_SQTAIL p.val < 0x888000) := by omega
  have h1 : ¬ (0x900000 ≤ R.FLU_SQTAIL p.val ∧ R.FLU_SQTAIL p.val < 0x988000 ∧ R.FLU_SQTAIL p.val % 0x1000 = 0) := by omega
  have h4 : R.FLU_SQTAIL p.val / 0x100000 = 0x13 := by omega
  have g1 : ¬ (0xD00000 ≤ R.FLU_SQTAIL p.val ∧ R.FLU_SQTAIL p.val < 0xD48000) := by omega
  have g2 : ¬ (0xD80000 ≤ R.FLU_SQTAIL p.val ∧ R.FLU_SQTAIL p.val < 0xD80100) := by omega
  have g3 : ¬ R.FLU_SQTAIL p.val = 0xE0002C := by omega
  have g4 : ¬ (0xE00800 ≤ R.FLU_SQTAIL p.val ∧ R.FLU_SQTAIL p.val < 0xE00A00) := by omega
  have g5 : ¬ R.FLU_SQTAIL p.val = 0x1700000 := by omega
  have k1 : ¬ R.FLU_SQTAIL p.val = 0x1300000 := by omega
  have k2 : ¬ R.FLU_SQTAIL p.val = 0x130001C := by omega
  have k3 : ¬ R.FLU_SQTAIL p.val = 0x1300020 := by omega
  have k4 : ¬ R.FLU_SQTAIL p.val = 0x1300030 := by omega
  have k7 : ¬ (0x1300100 ≤ R.FLU_SQTAIL p.val ∧ R.FLU_SQTAIL p.val < 0x1300140 ∧ R.FLU_SQTAIL p.val % 16 = 8) := by omega
  have k5 : 0x1300100 ≤ R.FLU_SQTAIL p.val ∧ R.FLU_SQTAIL p.val < 0x1300140 ∧ R.FLU_SQTAIL p.val % 16 = 12 := by omega
  have k6 : (R.FLU_SQTAIL p.val - 0x1300100) / 16 = p.val := by omega
  have a0 : State.actHearth s (R.FLU_SQTAIL p.val) v = none := by simp only [State.actHearth, if_neg h0, if_neg h1]
  have q0 : State.actQuad s (R.FLU_SQTAIL p.val) v = none := by
    simp only [State.actQuad, h4]; split <;> rfl
  have c0 : State.actCore s (R.FLU_SQTAIL p.val) v = none := by simp only [State.actCore, R.CMB_RETIRE, if_neg g1, if_neg g2, if_neg g3, if_neg g4]; exact if_neg g5
  have f0 : State.actFlue s (R.FLU_SQTAIL p.val) v = some (s.sendTail p.val v) := by simp only [State.actFlue, R.FLU_CTRL, R.FLU_EPOCH, R.FLU_EMERG, R.FLU_FENCE, if_neg k1, if_neg k2, if_neg k3, if_neg k4, if_neg k7, if_pos k5, k6]
  simp only [State.act, a0, q0, c0, f0, Option.orElse]
  rw [after_none _ (R.FLU_SQTAIL p.val) (by omega) (by omega) (by omega) (by omega) (by omega) (by omega)]
  have n0 : loadedOff (R.FLU_SQTAIL p.val) = false := by
    simp only [loadedOff, R.CMB_CTRL, R.HBM_CTRL, R.HBM_ILV, R.FLU_COORD, R.CXL_CTRL, Bool.or_eq_false_iff, Bool.and_eq_false_iff, decide_eq_false_iff_not]
    refine ⟨⟨⟨⟨?_, ?_⟩, ?_⟩, ?_⟩, ?_⟩ <;> try omega
    simp; omega
  simp [State.noteChange, n0]

theorem act_FLU_EPOCH (s : State) (who : Nat) (v : Nat) (lo : Option Nat) : s.act who R.FLU_EPOCH v lo = s.epochWrite v := by
  simp [State.act, State.actHearth, State.actQuad, State.actCore, State.actFlue, State.actSyn, State.actSys, State.afterWrite, State.baseQueue, R.MGN_TARGET, R.MGN_ADDR_HI, R.MGN_LEN, R.FLU_EPOCH, State.noteChange, loadedOff, R.CMB_RETIRE, R.MGN_CTRL, R.FLU_CTRL, R.FLU_EPOCH, R.FLU_EMERG, R.FLU_FENCE, R.SYN_CTRL, R.SYN_SIGNAL, R.SEC_HEARTBEAT, R.CLK_CTRL, R.ERR_CTRL, R.ERR_RESET, R.CXL_HRESET, R.CMB_CTRL, R.HBM_CTRL, R.HBM_ILV, R.FLU_COORD, R.CXL_CTRL]

theorem act_FLU_EMERG (s : State) (who : Nat) (v : Nat) (lo : Option Nat) : s.act who R.FLU_EMERG v lo = s.emergWrite v := by
  simp [State.act, State.actHearth, State.actQuad, State.actCore, State.actFlue, State.actSyn, State.actSys, State.afterWrite, State.baseQueue, R.MGN_TARGET, R.MGN_ADDR_HI, R.MGN_LEN, R.FLU_EMERG, State.noteChange, loadedOff, R.CMB_RETIRE, R.MGN_CTRL, R.FLU_CTRL, R.FLU_EPOCH, R.FLU_EMERG, R.FLU_FENCE, R.SYN_CTRL, R.SYN_SIGNAL, R.SEC_HEARTBEAT, R.CLK_CTRL, R.ERR_CTRL, R.ERR_RESET, R.CXL_HRESET, R.CMB_CTRL, R.HBM_CTRL, R.HBM_ILV, R.FLU_COORD, R.CXL_CTRL]

theorem act_FLU_FENCE (s : State) (who : Nat) (v : Nat) (lo : Option Nat) : s.act who R.FLU_FENCE v lo = s.fenceWrite v := by
  simp [State.act, State.actHearth, State.actQuad, State.actCore, State.actFlue, State.actSyn, State.actSys, State.afterWrite, State.baseQueue, R.MGN_TARGET, R.MGN_ADDR_HI, R.MGN_LEN, R.FLU_FENCE, State.noteChange, loadedOff, R.CMB_RETIRE, R.MGN_CTRL, R.FLU_CTRL, R.FLU_EPOCH, R.FLU_EMERG, R.FLU_FENCE, R.SYN_CTRL, R.SYN_SIGNAL, R.SEC_HEARTBEAT, R.CLK_CTRL, R.ERR_CTRL, R.ERR_RESET, R.CXL_HRESET, R.CMB_CTRL, R.HBM_CTRL, R.HBM_ILV, R.FLU_COORD, R.CXL_CTRL]

theorem act_SYN_BAR_SUB (s : State) (who : Nat) (p : Fin 4096) (v : Nat) (lo : Option Nat) : s.act who (R.SYN_BAR_SUB p.val) v lo = s.subtract p.val (v % 2 ^ 16) := by
  have hp := p.isLt
  have e : R.SYN_BAR_SUB p.val = 0x618000 + 0x4 * p.val := rfl
  have h0 : ¬ (0x800000 ≤ R.SYN_BAR_SUB p.val ∧ R.SYN_BAR_SUB p.val < 0x888000) := by omega
  have h1 : ¬ (0x900000 ≤ R.SYN_BAR_SUB p.val ∧ R.SYN_BAR_SUB p.val < 0x988000 ∧ R.SYN_BAR_SUB p.val % 0x1000 = 0) := by omega
  have h4 : R.SYN_BAR_SUB p.val / 0x100000 = 0x6 := by omega
  have g1 : ¬ (0xD00000 ≤ R.SYN_BAR_SUB p.val ∧ R.SYN_BAR_SUB p.val < 0xD48000) := by omega
  have g2 : ¬ (0xD80000 ≤ R.SYN_BAR_SUB p.val ∧ R.SYN_BAR_SUB p.val < 0xD80100) := by omega
  have g3 : ¬ R.SYN_BAR_SUB p.val = 0xE0002C := by omega
  have g4 : ¬ (0xE00800 ≤ R.SYN_BAR_SUB p.val ∧ R.SYN_BAR_SUB p.val < 0xE00A00) := by omega
  have g5 : ¬ R.SYN_BAR_SUB p.val = 0x1700000 := by omega
  have k1 : ¬ R.SYN_BAR_SUB p.val = 0x1300000 := by omega
  have k2 : ¬ R.SYN_BAR_SUB p.val = 0x130001C := by omega
  have k3 : ¬ R.SYN_BAR_SUB p.val = 0x1300020 := by omega
  have k4 : ¬ R.SYN_BAR_SUB p.val = 0x1300030 := by omega
  have k7 : ¬ (0x1300100 ≤ R.SYN_BAR_SUB p.val ∧ R.SYN_BAR_SUB p.val < 0x1300140 ∧ R.SYN_BAR_SUB p.val % 16 = 8) := by omega
  have k5 : ¬ (0x1300100 ≤ R.SYN_BAR_SUB p.val ∧ R.SYN_BAR_SUB p.val < 0x1300140 ∧ R.SYN_BAR_SUB p.val % 16 = 12) := by omega
  have k6 : ¬ (0x1310000 ≤ R.SYN_BAR_SUB p.val ∧ R.SYN_BAR_SUB p.val < 0x131C000 ∧ R.SYN_BAR_SUB p.val % 0x1000 = 0) := by omega
  have y1 : ¬ R.SYN_BAR_SUB p.val = 0x600000 := by omega
  have y2 : ¬ R.SYN_BAR_SUB p.val = 0x600018 := by omega
  have y3 : ¬ (0x610000 ≤ R.SYN_BAR_SUB p.val ∧ R.SYN_BAR_SUB p.val < 0x618000) := by omega
  have y4 : 0x618000 ≤ R.SYN_BAR_SUB p.val ∧ R.SYN_BAR_SUB p.val < 0x61C000 := by omega
  have y5 : (R.SYN_BAR_SUB p.val - 0x618000) / 4 = p.val := by omega
  have a0 : State.actHearth s (R.SYN_BAR_SUB p.val) v = none := by simp only [State.actHearth, if_neg h0, if_neg h1]
  have q0 : State.actQuad s (R.SYN_BAR_SUB p.val) v = none := by
    simp only [State.actQuad, h4]; split <;> rfl
  have c0 : State.actCore s (R.SYN_BAR_SUB p.val) v = none := by simp only [State.actCore, R.CMB_RETIRE, if_neg g1, if_neg g2, if_neg g3, if_neg g4]; exact if_neg g5
  have f0 : State.actFlue s (R.SYN_BAR_SUB p.val) v = none := by simp only [State.actFlue, R.FLU_CTRL, R.FLU_EPOCH, R.FLU_EMERG, R.FLU_FENCE, if_neg k1, if_neg k2, if_neg k3, if_neg k4, if_neg k7, if_neg k5, if_neg k6]
  have y0 : State.actSyn s (R.SYN_BAR_SUB p.val) v = some (s.subtract p.val (v % 2 ^ 16)) := by simp only [State.actSyn, R.SYN_CTRL, R.SYN_SIGNAL, if_neg y1, if_neg y2, if_neg y3, if_pos y4, y5]
  simp only [State.act, a0, q0, c0, f0, y0, Option.orElse]
  rw [after_none _ (R.SYN_BAR_SUB p.val) (by omega) (by omega) (by omega) (by omega) (by omega) (by omega)]
  exact noteChange_mid _ (by omega) (by omega)

theorem act_SYN_SIGNAL (s : State) (who : Nat) (v : Nat) (lo : Option Nat) : s.act who R.SYN_SIGNAL v lo = s.signal (v % 4096) none := by
  simp [State.act, State.actHearth, State.actQuad, State.actCore, State.actFlue, State.actSyn, State.actSys, State.afterWrite, State.baseQueue, R.MGN_TARGET, R.MGN_ADDR_HI, R.MGN_LEN, R.SYN_SIGNAL, State.noteChange, loadedOff, R.CMB_RETIRE, R.MGN_CTRL, R.FLU_CTRL, R.FLU_EPOCH, R.FLU_EMERG, R.FLU_FENCE, R.SYN_CTRL, R.SYN_SIGNAL, R.SEC_HEARTBEAT, R.CLK_CTRL, R.ERR_CTRL, R.ERR_RESET, R.CXL_HRESET, R.CMB_CTRL, R.HBM_CTRL, R.HBM_ILV, R.FLU_COORD, R.CXL_CTRL]

theorem act_SYN_BAR_CNT (s : State) (who : Nat) (p : Fin 4096) (v : Nat) (lo : Option Nat) : s.act who (R.SYN_BAR_CNT p.val) v lo = s.barCount p.val v := by
  have hp := p.isLt
  have e : R.SYN_BAR_CNT p.val = 0x610004 + 0x8 * p.val := rfl
  have h0 : ¬ (0x800000 ≤ R.SYN_BAR_CNT p.val ∧ R.SYN_BAR_CNT p.val < 0x888000) := by omega
  have h1 : ¬ (0x900000 ≤ R.SYN_BAR_CNT p.val ∧ R.SYN_BAR_CNT p.val < 0x988000 ∧ R.SYN_BAR_CNT p.val % 0x1000 = 0) := by omega
  have h4 : R.SYN_BAR_CNT p.val / 0x100000 = 0x6 := by omega
  have g1 : ¬ (0xD00000 ≤ R.SYN_BAR_CNT p.val ∧ R.SYN_BAR_CNT p.val < 0xD48000) := by omega
  have g2 : ¬ (0xD80000 ≤ R.SYN_BAR_CNT p.val ∧ R.SYN_BAR_CNT p.val < 0xD80100) := by omega
  have g3 : ¬ R.SYN_BAR_CNT p.val = 0xE0002C := by omega
  have g4 : ¬ (0xE00800 ≤ R.SYN_BAR_CNT p.val ∧ R.SYN_BAR_CNT p.val < 0xE00A00) := by omega
  have g5 : ¬ R.SYN_BAR_CNT p.val = 0x1700000 := by omega
  have k1 : ¬ R.SYN_BAR_CNT p.val = 0x1300000 := by omega
  have k2 : ¬ R.SYN_BAR_CNT p.val = 0x130001C := by omega
  have k3 : ¬ R.SYN_BAR_CNT p.val = 0x1300020 := by omega
  have k4 : ¬ R.SYN_BAR_CNT p.val = 0x1300030 := by omega
  have k7 : ¬ (0x1300100 ≤ R.SYN_BAR_CNT p.val ∧ R.SYN_BAR_CNT p.val < 0x1300140 ∧ R.SYN_BAR_CNT p.val % 16 = 8) := by omega
  have k5 : ¬ (0x1300100 ≤ R.SYN_BAR_CNT p.val ∧ R.SYN_BAR_CNT p.val < 0x1300140 ∧ R.SYN_BAR_CNT p.val % 16 = 12) := by omega
  have k6 : ¬ (0x1310000 ≤ R.SYN_BAR_CNT p.val ∧ R.SYN_BAR_CNT p.val < 0x131C000 ∧ R.SYN_BAR_CNT p.val % 0x1000 = 0) := by omega
  have y1 : ¬ R.SYN_BAR_CNT p.val = 0x600000 := by omega
  have y2 : ¬ R.SYN_BAR_CNT p.val = 0x600018 := by omega
  have y3 : 0x610000 ≤ R.SYN_BAR_CNT p.val ∧ R.SYN_BAR_CNT p.val < 0x618000 := by omega
  have y4 : (R.SYN_BAR_CNT p.val - 0x610000) / 8 = p.val := by omega
  have y5 : ¬ R.SYN_BAR_CNT p.val % 8 = 0 := by omega
  have a0 : State.actHearth s (R.SYN_BAR_CNT p.val) v = none := by simp only [State.actHearth, if_neg h0, if_neg h1]
  have q0 : State.actQuad s (R.SYN_BAR_CNT p.val) v = none := by
    simp only [State.actQuad, h4]; split <;> rfl
  have c0 : State.actCore s (R.SYN_BAR_CNT p.val) v = none := by simp only [State.actCore, R.CMB_RETIRE, if_neg g1, if_neg g2, if_neg g3, if_neg g4]; exact if_neg g5
  have f0 : State.actFlue s (R.SYN_BAR_CNT p.val) v = none := by simp only [State.actFlue, R.FLU_CTRL, R.FLU_EPOCH, R.FLU_EMERG, R.FLU_FENCE, if_neg k1, if_neg k2, if_neg k3, if_neg k4, if_neg k7, if_neg k5, if_neg k6]
  have y0 : State.actSyn s (R.SYN_BAR_CNT p.val) v = some (s.barCount p.val v) := by simp only [State.actSyn, R.SYN_CTRL, R.SYN_SIGNAL, if_neg y1, if_neg y2, if_pos y3, y4, if_neg y5]
  simp only [State.act, a0, q0, c0, f0, y0, Option.orElse]
  rw [after_none _ (R.SYN_BAR_CNT p.val) (by omega) (by omega) (by omega) (by omega) (by omega) (by omega)]
  exact noteChange_mid _ (by omega) (by omega)

theorem act_SEC_HEARTBEAT (s : State) (who : Nat) (v : Nat) (lo : Option Nat) : s.act who R.SEC_HEARTBEAT v lo = (if v.testBit 0 ∧ 68 ≤ who ∧ who < 72 then (s.set F.SEC_HEARTBEAT_BEAT v).beat (who - 68) else s.set F.SEC_HEARTBEAT_BEAT v) := by
  simp [State.act, State.actHearth, State.actQuad, State.actCore, State.actFlue, State.actSyn, State.actSys, State.afterWrite, State.baseQueue, R.MGN_TARGET, R.MGN_ADDR_HI, R.MGN_LEN, R.SEC_HEARTBEAT, State.noteChange, loadedOff, R.CMB_RETIRE, R.MGN_CTRL, R.FLU_CTRL, R.FLU_EPOCH, R.FLU_EMERG, R.FLU_FENCE, R.SYN_CTRL, R.SYN_SIGNAL, R.SEC_HEARTBEAT, R.CLK_CTRL, R.ERR_CTRL, R.ERR_RESET, R.CXL_HRESET, R.CMB_CTRL, R.HBM_CTRL, R.HBM_ILV, R.FLU_COORD, R.CXL_CTRL]

theorem act_ERR_RESET (s : State) (who : Nat) (v : Nat) (lo : Option Nat) : s.act who R.ERR_RESET v lo = (if v.testBit 0 then (s.set F.ERR_RESET_UNIT v).unitReset else s.set F.ERR_RESET_UNIT v) := by
  simp [State.act, State.actHearth, State.actQuad, State.actCore, State.actFlue, State.actSyn, State.actSys, State.afterWrite, State.baseQueue, R.MGN_TARGET, R.MGN_ADDR_HI, R.MGN_LEN, R.ERR_RESET, State.noteChange, loadedOff, R.CMB_RETIRE, R.MGN_CTRL, R.FLU_CTRL, R.FLU_EPOCH, R.FLU_EMERG, R.FLU_FENCE, R.SYN_CTRL, R.SYN_SIGNAL, R.SEC_HEARTBEAT, R.CLK_CTRL, R.ERR_CTRL, R.ERR_RESET, R.CXL_HRESET, R.CMB_CTRL, R.HBM_CTRL, R.HBM_ILV, R.FLU_COORD, R.CXL_CTRL]

theorem act_CXL_HRESET (s : State) (who : Nat) (v : Nat) (lo : Option Nat) : s.act who R.CXL_HRESET v lo = (if v % 2 ^ 32 = 1 then s.hostReset else s) := by
  simp [State.act, State.actHearth, State.actQuad, State.actCore, State.actFlue, State.actSyn, State.actSys, State.afterWrite, State.baseQueue, R.MGN_TARGET, R.MGN_ADDR_HI, R.MGN_LEN, R.CXL_HRESET, State.noteChange, loadedOff, R.CMB_RETIRE, R.MGN_CTRL, R.FLU_CTRL, R.FLU_EPOCH, R.FLU_EMERG, R.FLU_FENCE, R.SYN_CTRL, R.SYN_SIGNAL, R.SEC_HEARTBEAT, R.CLK_CTRL, R.ERR_CTRL, R.ERR_RESET, R.CXL_HRESET, R.CMB_CTRL, R.HBM_CTRL, R.HBM_ILV, R.FLU_COORD, R.CXL_CTRL]

/-! ### Whole writes -/

theorem write_HRT_QTAIL (s : State) (who : Nat) (p : Fin 136) (v : Nat) (hb : s.busOn = true) : s.busWrite who (R.HRT_QTAIL p.val) 4 v = s.hearthTail p.val (v % 2 ^ 32) := by
  have hp := p.isLt
  have e : R.HRT_QTAIL p.val = 0x800020 + 0x1000 * p.val := rfl
  have so : secureOnly ⟨0x800020, 136, 0x1000, 1, 0x4, 0xFFF, 0xFFF, 0x0, 0x0, 0x0, false, false, 0⟩ (R.HRT_QTAIL p.val) = false := by
    simp only [secureOnly, Bool.false_or, Bool.and_eq_false_iff, decide_eq_false_iff_not]; left; omega
  rw [busWrite_whole s who (R.HRT_QTAIL p.val) v _ hb (by omega) (row_HRT_QTAIL p) (.inl so) rfl]
  rw [applyWrite_acts _ _ _ _ _ _ rfl, act_HRT_QTAIL]
theorem write_HRT_ABORT (s : State) (who : Nat) (p : Fin 136) (v : Nat) (hb : s.busOn = true) : s.busWrite who (R.HRT_ABORT p.val) 4 v = s.hearthAbort p.val (v % 2 ^ 32) := by
  have hp := p.isLt
  have e : R.HRT_ABORT p.val = 0x800048 + 0x1000 * p.val := rfl
  have so : secureOnly ⟨0x800048, 136, 0x1000, 1, 0x4, 0xFFFFFFFF, 0xFFFFFFFF, 0x0, 0xFFFFFFFF, 0x0, false, false, 0⟩ (R.HRT_ABORT p.val) = false := by
    simp only [secureOnly, Bool.false_or, Bool.and_eq_false_iff, decide_eq_false_iff_not]; left; omega
  rw [busWrite_whole s who (R.HRT_ABORT p.val) v _ hb (by omega) (row_HRT_ABORT p) (.inl so) rfl]
  rw [applyWrite_acts _ _ _ _ _ _ rfl, act_HRT_ABORT]
theorem write_HRT_CTRL (s : State) (who : Nat) (p : Fin 136) (v : Nat) (hb : s.busOn = true) : s.busWrite who (R.HRT_CTRL p.val) 4 v = s.hearthCtrl p.val (v % 2 ^ 32) := by
  have hp := p.isLt
  have e : R.HRT_CTRL p.val = 0x800000 + 0x1000 * p.val := rfl
  have so : secureOnly ⟨0x800000, 136, 0x1000, 1, 0x4, 0x7, 0x7, 0x0, 0x4, 0x0, false, false, 0⟩ (R.HRT_CTRL p.val) = false := by
    simp only [secureOnly, Bool.false_or, Bool.and_eq_false_iff, decide_eq_false_iff_not]; left; omega
  rw [busWrite_whole s who (R.HRT_CTRL p.val) v _ hb (by omega) (row_HRT_CTRL p) (.inl so) rfl]
  rw [applyWrite_acts _ _ _ _ _ _ rfl, act_HRT_CTRL]
theorem write_DMP_CTRL (s : State) (who : Nat) (p : Fin 136) (v : Nat) (hb : s.busOn = true) : s.busWrite who (R.DMP_CTRL p.val) 4 v = (if (v % 2 ^ 32).testBit 0 then s.sideReset p.val else s) := by
  have hp := p.isLt
  have e : R.DMP_CTRL p.val = 0x900000 + 0x1000 * p.val := rfl
  have so : secureOnly ⟨0x900000, 136, 0x1000, 1, 0x4, 0x1, 0x1, 0x0, 0x1, 0x0, false, false, 0⟩ (R.DMP_CTRL p.val) = false := by
    simp only [secureOnly, Bool.false_or, Bool.and_eq_false_iff, decide_eq_false_iff_not]; left; omega
  rw [busWrite_whole s who (R.DMP_CTRL p.val) v _ hb (by omega) (row_DMP_CTRL p) (.inl so) rfl]
  rw [applyWrite_acts _ _ _ _ _ _ rfl, act_DMP_CTRL]
theorem write_NUM_POL_CTRL (s : State) (who : Nat) (p : Fin 256) (v : Nat) (hb : s.busOn = true) : s.busWrite who (R.NUM_POL_CTRL p.val) 4 v = (s.plainWrite (R.NUM_POL_CTRL p.val) (v % 2 ^ 32)).clearPolicy p.val := by
  have hp := p.isLt
  have e : R.NUM_POL_CTRL p.val = 0x1501000 + 0x10 * p.val := rfl
  have so : secureOnly ⟨0x1501000, 256, 0x10, 1, 0x4, 0x3FFFF7F, 0x3FFFF7F, 0x0, 0x0, 0x4, false, false, 0⟩ (R.NUM_POL_CTRL p.val) = false := by
    simp only [secureOnly, Bool.false_or, Bool.and_eq_false_iff, decide_eq_false_iff_not]; left; omega
  rw [busWrite_whole s who (R.NUM_POL_CTRL p.val) v _ hb (by omega) (row_NUM_POL_CTRL p) (.inl so) rfl]
  rw [applyWrite_acts _ _ _ _ _ _ rfl, act_NUM_POL_CTRL]
theorem write_BLW_SQTAIL (s : State) (who : Nat) (p : Fin 4) (v : Nat) (hb : s.busOn = true) : s.busWrite who (R.BLW_SQTAIL p.val) 4 v = (s.set (F.BLW_SQTAIL_TAIL p.val) (v % 2 ^ 32)).advance (svcQ p.val) := by
  have hp := p.isLt
  have e : R.BLW_SQTAIL p.val = 0xa00048 + 0x10000 * p.val := rfl
  have so : secureOnly ⟨0xA00048, 4, 0x10000, 1, 0x4, 0xFF, 0xFF, 0x0, 0x0, 0x0, false, false, 0⟩ (R.BLW_SQTAIL p.val) = false := by
    simp only [secureOnly, Bool.false_or, Bool.and_eq_false_iff, decide_eq_false_iff_not]; left; omega
  rw [busWrite_whole s who (R.BLW_SQTAIL p.val) v _ hb (by omega) (row_BLW_SQTAIL p) (.inl so) rfl]
  rw [applyWrite_acts _ _ _ _ _ _ rfl, act_BLW_SQTAIL]
theorem write_KLN_QTAIL (s : State) (who : Nat) (p : Fin 4) (v : Nat) (hb : s.busOn = true) : s.busWrite who (R.KLN_QTAIL p.val) 4 v = s.kilnTail p.val (v % 2 ^ 32) := by
  have hp := p.isLt
  have e : R.KLN_QTAIL p.val = 0xb00020 + 0x10000 * p.val := rfl
  have so : secureOnly ⟨0xB00020, 4, 0x10000, 1, 0x4, 0xFFF, 0xFFF, 0x0, 0x0, 0x0, false, false, 0⟩ (R.KLN_QTAIL p.val) = false := by
    simp only [secureOnly, Bool.false_or, Bool.and_eq_false_iff, decide_eq_false_iff_not]; left; omega
  rw [busWrite_whole s who (R.KLN_QTAIL p.val) v _ hb (by omega) (row_KLN_QTAIL p) (.inl so) rfl]
  rw [applyWrite_acts _ _ _ _ _ _ rfl, act_KLN_QTAIL]
theorem write_KLN_ABORT (s : State) (who : Nat) (p : Fin 4) (v : Nat) (hb : s.busOn = true) : s.busWrite who (R.KLN_ABORT p.val) 4 v = s.kilnAbort p.val (v % 2 ^ 32) := by
  have hp := p.isLt
  have e : R.KLN_ABORT p.val = 0xb00048 + 0x10000 * p.val := rfl
  have so : secureOnly ⟨0xB00048, 4, 0x10000, 1, 0x4, 0xFFFFFFFF, 0xFFFFFFFF, 0x0, 0xFFFFFFFF, 0x0, false, false, 0⟩ (R.KLN_ABORT p.val) = false := by
    simp only [secureOnly, Bool.false_or, Bool.and_eq_false_iff, decide_eq_false_iff_not]; left; omega
  rw [busWrite_whole s who (R.KLN_ABORT p.val) v _ hb (by omega) (row_KLN_ABORT p) (.inl so) rfl]
  rw [applyWrite_acts _ _ _ _ _ _ rfl, act_KLN_ABORT]
theorem write_KLN_CTRL (s : State) (who : Nat) (p : Fin 4) (v : Nat) (hb : s.busOn = true) : s.busWrite who (R.KLN_CTRL p.val) 4 v = s.kilnCtrl p.val (v % 2 ^ 32) := by
  have hp := p.isLt
  have e : R.KLN_CTRL p.val = 0xb00000 + 0x10000 * p.val := rfl
  have so : secureOnly ⟨0xB00000, 4, 0x10000, 1, 0x4, 0x7, 0x7, 0x0, 0x4, 0x0, false, false, 0⟩ (R.KLN_CTRL p.val) = false := by
    simp only [secureOnly, Bool.false_or, Bool.and_eq_false_iff, decide_eq_false_iff_not]; left; omega
  rw [busWrite_whole s who (R.KLN_CTRL p.val) v _ hb (by omega) (row_KLN_CTRL p) (.inl so) rfl]
  rw [applyWrite_acts _ _ _ _ _ _ rfl, act_KLN_CTRL]
theorem write_FBX_QTAIL (s : State) (who : Nat) (p : Fin 4) (v : Nat) (hb : s.busOn = true) : s.busWrite who (R.FBX_QTAIL p.val) 4 v = s.fbxTail p.val (v % 2 ^ 32) := by
  have hp := p.isLt
  have e : R.FBX_QTAIL p.val = 0xc00020 + 0x10000 * p.val := rfl
  have so : secureOnly ⟨0xC00020, 4, 0x10000, 1, 0x4, 0xFFF, 0xFFF, 0x0, 0x0, 0x0, false, false, 0⟩ (R.FBX_QTAIL p.val) = false := by
    simp only [secureOnly, Bool.false_or, Bool.and_eq_false_iff, decide_eq_false_iff_not]; left; omega
  rw [busWrite_whole s who (R.FBX_QTAIL p.val) v _ hb (by omega) (row_FBX_QTAIL p) (.inl so) rfl]
  rw [applyWrite_acts _ _ _ _ _ _ rfl, act_FBX_QTAIL]
theorem write_FBX_ABORT (s : State) (who : Nat) (p : Fin 4) (v : Nat) (hb : s.busOn = true) : s.busWrite who (R.FBX_ABORT p.val) 4 v = s.fbxAbort p.val (v % 2 ^ 32) := by
  have hp := p.isLt
  have e : R.FBX_ABORT p.val = 0xc00060 + 0x10000 * p.val := rfl
  have so : secureOnly ⟨0xC00060, 4, 0x10000, 1, 0x4, 0xFFFFFFFF, 0xFFFFFFFF, 0x0, 0xFFFFFFFF, 0x0, false, false, 0⟩ (R.FBX_ABORT p.val) = false := by
    simp only [secureOnly, Bool.false_or, Bool.and_eq_false_iff, decide_eq_false_iff_not]; left; omega
  rw [busWrite_whole s who (R.FBX_ABORT p.val) v _ hb (by omega) (row_FBX_ABORT p) (.inl so) rfl]
  rw [applyWrite_acts _ _ _ _ _ _ rfl, act_FBX_ABORT]
theorem write_FBX_CTRL (s : State) (who : Nat) (p : Fin 4) (v : Nat) (hb : s.busOn = true) : s.busWrite who (R.FBX_CTRL p.val) 4 v = s.fbxCtrl p.val (v % 2 ^ 32) := by
  have hp := p.isLt
  have e : R.FBX_CTRL p.val = 0xc00000 + 0x10000 * p.val := rfl
  have so : secureOnly ⟨0xC00000, 4, 0x10000, 1, 0x4, 0x3, 0x3, 0x0, 0x2, 0x0, false, false, 0⟩ (R.FBX_CTRL p.val) = false := by
    simp only [secureOnly, Bool.false_or, Bool.and_eq_false_iff, decide_eq_false_iff_not]; left; omega
  rw [busWrite_whole s who (R.FBX_CTRL p.val) v _ hb (by omega) (row_FBX_CTRL p) (.inl so) rfl]
  rw [applyWrite_acts _ _ _ _ _ _ rfl, act_FBX_CTRL]
theorem write_COL_QTAIL (s : State) (who : Nat) (p : Fin 4) (v : Nat) (hb : s.busOn = true) : s.busWrite who (R.COL_QTAIL p.val) 4 v = s.colTail p.val (v % 2 ^ 32) := by
  have hp := p.isLt
  have e : R.COL_QTAIL p.val = 0x1400020 + 0x10000 * p.val := rfl
  have so : secureOnly ⟨0x1400020, 4, 0x10000, 1, 0x4, 0xFFF, 0xFFF, 0x0, 0x0, 0x0, false, false, 0⟩ (R.COL_QTAIL p.val) = false := by
    simp only [secureOnly, Bool.false_or, Bool.and_eq_false_iff, decide_eq_false_iff_not]; left; omega
  rw [busWrite_whole s who (R.COL_QTAIL p.val) v _ hb (by omega) (row_COL_QTAIL p) (.inl so) rfl]
  rw [applyWrite_acts _ _ _ _ _ _ rfl, act_COL_QTAIL]
theorem write_COL_ABORT (s : State) (who : Nat) (p : Fin 4) (v : Nat) (hb : s.busOn = true) : s.busWrite who (R.COL_ABORT p.val) 4 v = s.colAbort p.val (v % 2 ^ 32) := by
  have hp := p.isLt
  have e : R.COL_ABORT p.val = 0x1400038 + 0x10000 * p.val := rfl
  have so : secureOnly ⟨0x1400038, 4, 0x10000, 1, 0x4, 0xFFFFFFFF, 0xFFFFFFFF, 0x0, 0xFFFFFFFF, 0x0, false, false, 0⟩ (R.COL_ABORT p.val) = false := by
    simp only [secureOnly, Bool.false_or, Bool.and_eq_false_iff, decide_eq_false_iff_not]; left; omega
  rw [busWrite_whole s who (R.COL_ABORT p.val) v _ hb (by omega) (row_COL_ABORT p) (.inl so) rfl]
  rw [applyWrite_acts _ _ _ _ _ _ rfl, act_COL_ABORT]
theorem write_COL_CTRL (s : State) (who : Nat) (p : Fin 4) (v : Nat) (hb : s.busOn = true) : s.busWrite who (R.COL_CTRL p.val) 4 v = s.colCtrl p.val (v % 2 ^ 32) := by
  have hp := p.isLt
  have e : R.COL_CTRL p.val = 0x1400000 + 0x10000 * p.val := rfl
  have so : secureOnly ⟨0x1400000, 4, 0x10000, 1, 0x4, 0x3, 0x3, 0x0, 0x2, 0x0, false, false, 0⟩ (R.COL_CTRL p.val) = false := by
    simp only [secureOnly, Bool.false_or, Bool.and_eq_false_iff, decide_eq_false_iff_not]; left; omega
  rw [busWrite_whole s who (R.COL_CTRL p.val) v _ hb (by omega) (row_COL_CTRL p) (.inl so) rfl]
  rw [applyWrite_acts _ _ _ _ _ _ rfl, act_COL_CTRL]
theorem write_CRK_CTRL (s : State) (who : Nat) (p : Fin 72) (v : Nat) (hb : s.busOn = true) (hs : p.val < 68 ∨ s.isSecure who = true) : s.busWrite who (R.CRK_CTRL p.val) 4 v = s.crkCtrl p.val (v % 2 ^ 32) := by
  have hp := p.isLt
  have e : R.CRK_CTRL p.val = 0xd00000 + 0x1000 * p.val := rfl
  have so : secureOnly ⟨0xD00000, 72, 0x1000, 1, 0x4, 0x7, 0x7, 0x0, 0x2, 0x0, false, false, 0⟩ (R.CRK_CTRL p.val) = false ∨ s.isSecure who = true := by
    rcases hs with h | h
    · left; simp only [secureOnly, Bool.false_or, Bool.and_eq_false_iff, decide_eq_false_iff_not]; left; left; omega
    · exact .inr h
  rw [busWrite_whole s who (R.CRK_CTRL p.val) v _ hb (by omega) (row_CRK_CTRL p) so rfl]
  rw [applyWrite_acts _ _ _ _ _ _ rfl, act_CRK_CTRL]
theorem write_CRK_MAILBOX (s : State) (who : Nat) (p : Fin 72) (v : Nat) (hb : s.busOn = true) (hs : p.val < 68 ∨ s.isSecure who = true) : s.busWrite who (R.CRK_MAILBOX p.val) 4 v = s.mailbox p.val (v % 2 ^ 32) := by
  have hp := p.isLt
  have e : R.CRK_MAILBOX p.val = 0xd00034 + 0x1000 * p.val := rfl
  have so : secureOnly ⟨0xD00034, 72, 0x1000, 1, 0x4, 0xFFFFFFFF, 0xFFFFFFFF, 0x0, 0x0, 0x0, false, false, 0⟩ (R.CRK_MAILBOX p.val) = false ∨ s.isSecure who = true := by
    rcases hs with h | h
    · left; simp only [secureOnly, Bool.false_or, Bool.and_eq_false_iff, decide_eq_false_iff_not]; left; left; omega
    · exact .inr h
  rw [busWrite_whole s who (R.CRK_MAILBOX p.val) v _ hb (by omega) (row_CRK_MAILBOX p) so rfl]
  rw [applyWrite_acts _ _ _ _ _ _ rfl, act_CRK_MAILBOX]
theorem write_CMB_RETIRE (s : State) (who : Nat) (v : Nat) (hb : s.busOn = true) (hs : s.isSecure who = true) : s.busWrite who R.CMB_RETIRE 4 v = s.retireWrite (v % 2 ^ 32) := by
  rw [busWrite_whole s who R.CMB_RETIRE v _ hb (by decide) row_CMB_RETIRE (.inr hs) rfl]
  rw [applyWrite_acts _ _ _ _ _ _ rfl, act_CMB_RETIRE]
theorem write_MGN_CTRL (s : State) (who : Nat) (v : Nat) (hb : s.busOn = true) (hs : s.isSecure who = true) : s.busWrite who R.MGN_CTRL 4 v = s.marginCtrl (v % 2 ^ 32) := by
  rw [busWrite_whole s who R.MGN_CTRL v _ hb (by decide) row_MGN_CTRL (.inr hs) rfl]
  rw [applyWrite_acts _ _ _ _ _ _ rfl, act_MGN_CTRL]
theorem write_FLU_P_CTRL (s : State) (who : Nat) (p : Fin 12) (v : Nat) (hb : s.busOn = true) (hs : s.isSecure who = true) : s.busWrite who (R.FLU_P_CTRL p.val) 4 v = (s.portCtrl p.val (v % 2 ^ 32)).noteChange (R.FLU_P_CTRL p.val) := by
  have hp := p.isLt
  have e : R.FLU_P_CTRL p.val = 0x1310000 + 0x1000 * p.val := rfl
  rw [busWrite_whole s who (R.FLU_P_CTRL p.val) v _ hb (by omega) (row_FLU_P_CTRL p) (.inr hs) rfl]
  rw [applyWrite_acts _ _ _ _ _ _ rfl, act_FLU_P_CTRL]
theorem write_FLU_SQTAIL (s : State) (who : Nat) (p : Fin 4) (v : Nat) (hb : s.busOn = true) : s.busWrite who (R.FLU_SQTAIL p.val) 4 v = s.sendTail p.val (v % 2 ^ 32) := by
  have hp := p.isLt
  have e : R.FLU_SQTAIL p.val = 0x130010c + 0x10 * p.val := rfl
  have so : secureOnly ⟨0x130010C, 4, 0x10, 1, 0x4, 0xFFF, 0xFFF, 0x0, 0x0, 0x0, false, false, 0⟩ (R.FLU_SQTAIL p.val) = false := by
    simp only [secureOnly, Bool.false_or, Bool.and_eq_false_iff, decide_eq_false_iff_not]; left; omega
  rw [busWrite_whole s who (R.FLU_SQTAIL p.val) v _ hb (by omega) (row_FLU_SQTAIL p) (.inl so) rfl]
  rw [applyWrite_acts _ _ _ _ _ _ rfl, act_FLU_SQTAIL]
theorem write_FLU_EPOCH (s : State) (who : Nat) (v : Nat) (hb : s.busOn = true) (hs : s.isSecure who = true) : s.busWrite who R.FLU_EPOCH 4 v = s.epochWrite (v % 2 ^ 32) := by
  rw [busWrite_whole s who R.FLU_EPOCH v _ hb (by decide) row_FLU_EPOCH (.inr hs) rfl]
  rw [applyWrite_acts _ _ _ _ _ _ rfl, act_FLU_EPOCH]
theorem write_FLU_EMERG (s : State) (who : Nat) (v : Nat) (hb : s.busOn = true) (hs : s.isSecure who = true) : s.busWrite who R.FLU_EMERG 4 v = s.emergWrite (v % 2 ^ 32) := by
  rw [busWrite_whole s who R.FLU_EMERG v _ hb (by decide) row_FLU_EMERG (.inr hs) rfl]
  rw [applyWrite_acts _ _ _ _ _ _ rfl, act_FLU_EMERG]
theorem write_FLU_FENCE (s : State) (who : Nat) (v : Nat) (hb : s.busOn = true) (hs : s.isSecure who = true) : s.busWrite who R.FLU_FENCE 4 v = s.fenceWrite (v % 2 ^ 32) := by
  rw [busWrite_whole s who R.FLU_FENCE v _ hb (by decide) row_FLU_FENCE (.inr hs) rfl]
  rw [applyWrite_acts _ _ _ _ _ _ rfl, act_FLU_FENCE]
theorem write_SYN_BAR_SUB (s : State) (who : Nat) (p : Fin 4096) (v : Nat) (hb : s.busOn = true) : s.busWrite who (R.SYN_BAR_SUB p.val) 4 v = s.subtract p.val ((v % 2 ^ 32) % 2 ^ 16) := by
  have hp := p.isLt
  have e : R.SYN_BAR_SUB p.val = 0x618000 + 0x4 * p.val := rfl
  have so : secureOnly ⟨0x618000, 4096, 0x4, 1, 0x4, 0xFFFF, 0xFFFF, 0x0, 0xFFFF, 0x0, false, false, 0⟩ (R.SYN_BAR_SUB p.val) = false := by
    simp only [secureOnly, Bool.false_or, Bool.and_eq_false_iff, decide_eq_false_iff_not]; left; omega
  rw [busWrite_whole s who (R.SYN_BAR_SUB p.val) v _ hb (by omega) (row_SYN_BAR_SUB p) (.inl so) rfl]
  rw [applyWrite_acts _ _ _ _ _ _ rfl, act_SYN_BAR_SUB]
theorem write_SYN_SIGNAL (s : State) (who : Nat) (v : Nat) (hb : s.busOn = true) : s.busWrite who R.SYN_SIGNAL 4 v = s.signal ((v % 2 ^ 32) % 4096) none := by
  have so : secureOnly ⟨0x600018, 1, 0x4, 1, 0x4, 0xFFF, 0xFFF, 0x0, 0xFFF, 0x0, false, false, 0⟩ R.SYN_SIGNAL = false := by decide
  rw [busWrite_whole s who R.SYN_SIGNAL v _ hb (by decide) row_SYN_SIGNAL (.inl so) rfl]
  rw [applyWrite_acts _ _ _ _ _ _ rfl, act_SYN_SIGNAL]
theorem write_SYN_BAR_CNT (s : State) (who : Nat) (p : Fin 4096) (v : Nat) (hb : s.busOn = true) : s.busWrite who (R.SYN_BAR_CNT p.val) 4 v = s.barCount p.val (v % 2 ^ 32) := by
  have hp := p.isLt
  have e : R.SYN_BAR_CNT p.val = 0x610004 + 0x8 * p.val := rfl
  have so : secureOnly ⟨0x610004, 4096, 0x8, 1, 0x4, 0x3FFFFFF, 0xFFFF, 0x30000, 0x0, 0x0, false, false, 0⟩ (R.SYN_BAR_CNT p.val) = false := by
    simp only [secureOnly, Bool.false_or, Bool.and_eq_false_iff, decide_eq_false_iff_not]; left; omega
  rw [busWrite_whole s who (R.SYN_BAR_CNT p.val) v _ hb (by omega) (row_SYN_BAR_CNT p) (.inl so) rfl]
  rw [applyWrite_acts _ _ _ _ _ _ rfl, act_SYN_BAR_CNT]
theorem write_SEC_HEARTBEAT (s : State) (who : Nat) (v : Nat) (hb : s.busOn = true) (hs : s.isSecure who = true) : s.busWrite who R.SEC_HEARTBEAT 4 v = (if (v % 2 ^ 32).testBit 0 ∧ 68 ≤ who ∧ who < 72 then (s.set F.SEC_HEARTBEAT_BEAT (v % 2 ^ 32)).beat (who - 68) else s.set F.SEC_HEARTBEAT_BEAT (v % 2 ^ 32)) := by
  rw [busWrite_whole s who R.SEC_HEARTBEAT v _ hb (by decide) row_SEC_HEARTBEAT (.inr hs) rfl]
  rw [applyWrite_acts _ _ _ _ _ _ rfl, act_SEC_HEARTBEAT]
theorem write_ERR_RESET (s : State) (who : Nat) (v : Nat) (hb : s.busOn = true) (hs : s.isSecure who = true) : s.busWrite who R.ERR_RESET 4 v = (if (v % 2 ^ 32).testBit 0 then (s.set F.ERR_RESET_UNIT (v % 2 ^ 32)).unitReset else s.set F.ERR_RESET_UNIT (v % 2 ^ 32)) := by
  rw [busWrite_whole s who R.ERR_RESET v _ hb (by decide) row_ERR_RESET (.inr hs) rfl]
  rw [applyWrite_acts _ _ _ _ _ _ rfl, act_ERR_RESET]
theorem write_CXL_HRESET (s : State) (who : Nat) (v : Nat) (hb : s.busOn = true) : s.busWrite who R.CXL_HRESET 4 v = (if (v % 2 ^ 32) % 2 ^ 32 = 1 then s.hostReset else s) := by
  have so : secureOnly ⟨0x1200018, 1, 0x4, 1, 0x4, 0xFFFFFFFF, 0xFFFFFFFF, 0x0, 0xFFFFFFFF, 0x0, false, false, 0⟩ R.CXL_HRESET = false := by decide
  rw [busWrite_whole s who R.CXL_HRESET v _ hb (by decide) row_CXL_HRESET (.inl so) rfl]
  rw [applyWrite_acts _ _ _ _ _ _ rfl, act_CXL_HRESET]
theorem write_NUM_JCTRL (s : State) (who : Nat) (v : Nat) (hb : s.busOn = true) (hs : s.isSecure who = true) : s.busWrite who R.NUM_JCTRL 4 v = s.post R.NUM_JCTRL (v % 2 ^ 32) none := by
  rw [busWrite_whole s who R.NUM_JCTRL v _ hb (by decide) row_NUM_JCTRL (.inr hs) rfl]
  exact applyWrite_posts _ _ _ _ _ _ rfl
theorem write_BLW_RELOAD (s : State) (who : Nat) (p : Fin 4) (v : Nat) (hb : s.busOn = true) : s.busWrite who (R.BLW_RELOAD p.val) 4 v = s.post (R.BLW_RELOAD p.val) (v % 2 ^ 32) none := by
  have hp := p.isLt
  have e : R.BLW_RELOAD p.val = 0xa00034 + 0x10000 * p.val := rfl
  have so : secureOnly ⟨0xA00034, 4, 0x10000, 1, 0x4, 0x800003FF, 0x800003FF, 0x0, 0x0, 0x0, false, true, 0⟩ (R.BLW_RELOAD p.val) = false := by
    simp only [secureOnly, Bool.false_or, Bool.and_eq_false_iff, decide_eq_false_iff_not]; left; omega
  rw [busWrite_whole s who (R.BLW_RELOAD p.val) v _ hb (by omega) (row_BLW_RELOAD p) (.inl so) rfl]
  exact applyWrite_posts _ _ _ _ _ _ rfl
theorem write_HBM_ILV (s : State) (who : Nat) (v : Nat) (hb : s.busOn = true) (hs : s.isSecure who = true) : s.busWrite who R.HBM_ILV 4 v = s.post R.HBM_ILV (v % 2 ^ 32) none := by
  rw [busWrite_whole s who R.HBM_ILV v _ hb (by decide) row_HBM_ILV (.inr hs) rfl]
  exact applyWrite_posts _ _ _ _ _ _ rfl
theorem write_FLU_TBL_COMMIT (s : State) (who : Nat) (v : Nat) (hb : s.busOn = true) (hs : s.isSecure who = true) : s.busWrite who R.FLU_TBL_COMMIT 4 v = s.post R.FLU_TBL_COMMIT (v % 2 ^ 32) none := by
  rw [busWrite_whole s who R.FLU_TBL_COMMIT v _ hb (by decide) row_FLU_TBL_COMMIT (.inr hs) rfl]
  exact applyWrite_posts _ _ _ _ _ _ rfl
theorem write_ERR_CKCTRL (s : State) (who : Nat) (v : Nat) (hb : s.busOn = true) (hs : s.isSecure who = true) : s.busWrite who R.ERR_CKCTRL 4 v = s.post R.ERR_CKCTRL (v % 2 ^ 32) none := by
  rw [busWrite_whole s who R.ERR_CKCTRL v _ hb (by decide) row_ERR_CKCTRL (.inr hs) rfl]
  exact applyWrite_posts _ _ _ _ _ _ rfl
theorem write_FFY_CTRL (s : State) (who : Nat) (v : Nat) (hb : s.busOn = true) : s.busWrite who R.FFY_CTRL 4 v = s.post R.FFY_CTRL (v % 2 ^ 32) none := by
  have so : secureOnly ⟨0x1600000, 1, 0x4, 1, 0x4, 0x3, 0x3, 0x0, 0x0, 0x0, false, true, 0⟩ R.FFY_CTRL = false := by decide
  rw [busWrite_whole s who R.FFY_CTRL v _ hb (by decide) row_FFY_CTRL (.inl so) rfl]
  exact applyWrite_posts _ _ _ _ _ _ rfl

end Sys2Proof.Machine
end

