-- ==== Sys2Proof/Laws/Memory.lean ====
section
/-! SUPPORT. Memory: every memory operation keeps the canonical form of memory, and a memory access, with the errors it finds
and the records it writes, changes memory, error patterns, the repair state, the step's vetoes and registers of the CMB, HBM, CXL and ERR
blocks, and nothing else. -/

set_option Elab.async false

namespace Sys2Proof.Machine

/-! ### Bytes -/

theorem putByte_wf (s : State) (k : Nat) (b : Byte) (h : Memory.wf s.mem = true) : Memory.wf (s.putByte k b).mem = true :=
  Sparse.wf_write _ _ _ _ h
theorem putBytes_wf (s : State) (k : Nat) (bs : List Byte) (h : Memory.wf s.mem = true) : Memory.wf (s.putBytes k bs).mem = true := by
  induction bs generalizing s k with
  | nil => exact h
  | cons b t ih => exact ih _ _ (putByte_wf s k b h)

/-- What a place reads as after consecutive bytes have been written. -/
theorem byteAt_putBytes (s : State) (k : Nat) (bs : List Byte) (j : Nat) :
    (s.putBytes k bs).byteAt j = if k ≤ j then (bs[j - k]?).getD (s.byteAt j) else s.byteAt j := by
  induction bs generalizing s k with
  | nil => simp [State.putBytes]
  | cons b t ih =>
    have h1 : ∀ i, (s.putByte k b).byteAt i = if i = k then b else s.byteAt i := fun i => Sparse.look_write _ _ _ _ _
    simp only [State.putBytes, ih, h1]
    by_cases h2 : k + 1 ≤ j
    · have h3 : ¬ j = k := by omega
      rw [if_pos h2, if_pos (show k ≤ j by omega), if_neg h3, show j - k = (j - (k + 1)) + 1 by omega, List.getElem?_cons_succ]
    · rw [if_neg h2]
      by_cases h3 : j = k
      · subst h3; simp
      · rw [if_neg h3, if_neg (by omega)]
/-- Places outside the bytes written keep their byte. -/
theorem byteAt_putBytes_ne (s : State) (k : Nat) (bs : List Byte) (j : Nat) (h : j < k ∨ k + bs.length ≤ j) :
    (s.putBytes k bs).byteAt j = s.byteAt j := by
  rw [byteAt_putBytes]
  split
  · rw [List.getElem?_eq_none (by omega)]; rfl
  · rfl
theorem putBytes_only (s : State) (k : Nat) (bs : List Byte) : s.putBytes k bs = { s with mem := (s.putBytes k bs).mem } := by
  induction bs generalizing s k with
  | nil => rfl
  | cons b t ih => rw [State.putBytes, ih]; rfl

/-! ### What a memory access may change -/

/-- From s to t, a memory access has changed no more than it may. -/
def MemStep (s t : State) : Prop :=
  { t with regs := s.regs, mem := s.mem, errs := s.errs, ram := s.ram, job := s.job, errSeq := s.errSeq, freeCtr := s.freeCtr } = s ∧
    (∀ o, memReg o = false → t.reg o = s.reg o) ∧ (Memory.wf s.mem = true → Memory.wf t.mem = true)

theorem MemStep.rfl' (s : State) : MemStep s s := ⟨rfl, fun _ _ => rfl, fun h => h⟩
theorem MemStep.trans {s t u : State} (h : MemStep s t) (k : MemStep t u) : MemStep s u := by
  refine ⟨?_, fun o ho => (k.2.1 o ho).trans (h.2.1 o ho), fun w => k.2.2 (h.2.2 w)⟩
  have h1 := h.1
  rw [← k.1] at h1
  exact h1
theorem MemStep.each {α : Type} (l : List α) (f : State → α → State) (s : State) (hf : ∀ t a, MemStep t (f t a)) : MemStep s (s.each l f) := by
  unfold State.each
  induction l generalizing s with
  | nil => exact MemStep.rfl' s
  | cons a l ih => exact (hf s a).trans (ih (f s a))

/-! What a memory access leaves alone, field by field. -/

theorem MemStep.bus {s t : State} (h : MemStep s t) : t.bus = s.bus := by have e := congrArg State.bus h.1; exact e
theorem MemStep.queues {s t : State} (h : MemStep s t) : t.queues = s.queues := by have e := congrArg State.queues h.1; exact e
theorem MemStep.hrt {s t : State} (h : MemStep s t) : t.hrt = s.hrt := by have e := congrArg State.hrt h.1; exact e
theorem MemStep.blw {s t : State} (h : MemStep s t) : t.blw = s.blw := by have e := congrArg State.blw h.1; exact e
theorem MemStep.kln {s t : State} (h : MemStep s t) : t.kln = s.kln := by have e := congrArg State.kln h.1; exact e
theorem MemStep.folded {s t : State} (h : MemStep s t) : t.folded = s.folded := by have e := congrArg State.folded h.1; exact e
theorem MemStep.num {s t : State} (h : MemStep s t) : t.num = s.num := by have e := congrArg State.num h.1; exact e
theorem MemStep.syn {s t : State} (h : MemStep s t) : t.syn = s.syn := by have e := congrArg State.syn h.1; exact e
theorem MemStep.flue {s t : State} (h : MemStep s t) : t.flue = s.flue := by have e := congrArg State.flue h.1; exact e
theorem MemStep.col {s t : State} (h : MemStep s t) : t.col = s.col := by have e := congrArg State.col h.1; exact e
theorem MemStep.ember {s t : State} (h : MemStep s t) : t.ember = s.ember := by have e := congrArg State.ember h.1; exact e
theorem MemStep.nvm {s t : State} (h : MemStep s t) : t.nvm = s.nvm := by have e := congrArg State.nvm h.1; exact e
theorem MemStep.hob {s t : State} (h : MemStep s t) : t.hob = s.hob := by have e := congrArg State.hob h.1; exact e
theorem MemStep.crk {s t : State} (h : MemStep s t) : t.crk = s.crk := by have e := congrArg State.crk h.1; exact e
theorem MemStep.pwr {s t : State} (h : MemStep s t) : t.pwr = s.pwr := by have e := congrArg State.pwr h.1; exact e
theorem MemStep.onMarks {s t : State} (h : MemStep s t) : t.onMarks = s.onMarks := by have e := congrArg State.onMarks h.1; exact e
theorem MemStep.goodWins {s t : State} (h : MemStep s t) : t.goodWins = s.goodWins := by have e := congrArg State.goodWins h.1; exact e
theorem MemStep.cxl {s t : State} (h : MemStep s t) : t.cxl = s.cxl := by have e := congrArg State.cxl h.1; exact e
theorem MemStep.aon {s t : State} (h : MemStep s t) : t.aon = s.aon := by have e := congrArg State.aon h.1; exact e
theorem MemStep.padWaves {s t : State} (h : MemStep s t) : t.padWaves = s.padWaves := by have e := congrArg State.padWaves h.1; exact e
theorem MemStep.ffy {s t : State} (h : MemStep s t) : t.ffy = s.ffy := by have e := congrArg State.ffy h.1; exact e
theorem MemStep.a192 {s t : State} (h : MemStep s t) : t.a192 = s.a192 := by have e := congrArg State.a192 h.1; exact e
theorem MemStep.cycle {s t : State} (h : MemStep s t) : t.cycle = s.cycle := by have e := congrArg State.cycle h.1; exact e

theorem step_setReg (s : State) (o : Nat) (v : Word) (h : memReg o = true) : MemStep s (s.setReg o v) := by
  refine ⟨rfl, fun j hj => State.reg_setReg_ne s v ?_, fun w => w⟩
  rintro rfl; rw [h] at hj; cases hj
theorem step_set (s : State) (f : RF) (v : Nat) (h : memReg f.off = true) : MemStep s (s.set f v) := step_setReg s _ _ h
theorem step_raise (s : State) (f : RF) (h : memReg f.off = true) : MemStep s (s.raise f) := step_set s f 1 h
theorem step_count (s : State) (f : RF) (n : Nat) (h : memReg f.off = true) : MemStep s (s.count f n) := step_set s f _ h
theorem step_fresh (s : State) (w : Nat) : MemStep s (s.fresh w).2 := ⟨rfl, fun _ _ => rfl, fun h => h⟩
theorem step_putBytes (s : State) (k : Nat) (bs : List Byte) : MemStep s (s.putBytes k bs) := by
  refine ⟨?_, fun o _ => ?_, putBytes_wf s k bs⟩
  · rw [putBytes_only]
  · rw [putBytes_only]; rfl
theorem step_putErr (s : State) (g : Nat) (e : BitVec 144) : MemStep s (s.putErr g e) := ⟨rfl, fun _ _ => rfl, fun h => h⟩
theorem step_put (s : State) (k : Nat) (bs : List Byte) (g : Nat) (e : BitVec 144) : MemStep s ((s.putBytes k bs).putErr g e) :=
  (step_putBytes s k bs).trans (step_putErr _ g e)
theorem step_ram (s : State) (r : Ram) : MemStep s { s with ram := r } := ⟨rfl, fun _ _ => rfl, fun h => h⟩
theorem step_job (s : State) (j : Job) : MemStep s { s with job := j } := ⟨rfl, fun _ _ => rfl, fun h => h⟩
theorem step_seq (s : State) (n : Nat) : MemStep s { s with errSeq := n } := ⟨rfl, fun _ _ => rfl, fun h => h⟩

theorem step_putGranule (s : State) (a : Nat) (bs : List Byte) : MemStep s (s.putGranule a bs).2 := by
  unfold State.putGranule
  split
  · exact step_put s _ _ _ _
  · exact MemStep.rfl' s
theorem step_noteDecode (s : State) (a : Nat) : MemStep s (s.noteDecode a) := by
  unfold State.noteDecode
  split <;> exact ((step_raise s _ (by decide)).trans (step_setReg _ _ _ (by decide))).trans (step_setReg _ _ _ (by decide))

/-- R535: a record changes the ring, its registers and the sequence number. -/
theorem step_errRecord (s : State) (cls : ECls) (action : Nat) (kind : UKind) (unit d0 d1 : Nat) :
    MemStep s (s.errRecord cls action kind unit d0 d1) := by
  unfold State.errRecord
  dsimp only
  generalize recordBytes s.errSeq cls.code action kind.code unit s.job.step d0 d1 s.timebase = bs
  generalize hs1 : ({ s with errSeq := (s.errSeq + 1) % 2 ^ 32 } : State) = s1
  have h1 : MemStep s s1 := by rw [← hs1]; exact step_seq s _
  split
  · exact (h1.trans (step_count _ _ _ (by decide))).trans (step_raise _ _ (by decide))
  · split
    · exact ((((h1.trans (step_putGranule _ _ _)).trans (step_putGranule _ _ _)).trans (step_set _ _ _ (by decide))).trans (step_raise _ _ (by decide)))
    · exact (h1.trans (step_noteDecode _ _)).trans (step_count _ _ _ (by decide))

theorem step_vetoNf (s : State) : MemStep s s.vetoNf := by unfold State.vetoNf; split <;> [exact MemStep.rfl' s; split] <;> exact step_job s _
theorem step_veto (s : State) : MemStep s s.veto := by unfold State.veto; split <;> [exact MemStep.rfl' s; split] <;> exact step_job s _
theorem step_vetoStop (s : State) (c : Nat) : MemStep s (s.vetoStop c) := by
  unfold State.vetoStop; split <;> [exact MemStep.rfl' s; split] <;> exact step_job s _
theorem step_vetoRewind (s : State) : MemStep s s.vetoRewind := by
  unfold State.vetoRewind; split <;> [exact MemStep.rfl' s; split] <;> exact step_job s _
theorem step_vetoRecord (s : State) (cls : ECls) (kind : UKind) (unit d0 d1 : Nat) : MemStep s (s.vetoRecord cls kind unit d0 d1) :=
  (step_errRecord s _ _ _ _ _ _).trans (step_veto _)
/-- R528: a hardware fault is a memory access of its record. -/
theorem step_hwFault (s : State) (cls : ECls) (kind : UKind) (unit d0 d1 : Nat) : MemStep s (s.hwFault cls kind unit d0 d1) :=
  (step_vetoRecord s _ _ _ _ _).trans (step_job _ _)
theorem step_stopRecord (s : State) (cls : ECls) (kind : UKind) (unit d0 d1 : Nat) (c : Stop) : MemStep s (s.stopRecord cls kind unit d0 d1 c) :=
  (step_errRecord s _ _ _ _ _ _).trans (step_vetoStop _ _)
theorem step_descRecord (s : State) (kind : UKind) (unit addr tag : Nat) : MemStep s (s.descRecord kind unit addr tag) :=
  step_stopRecord s _ _ _ _ _ _
theorem step_memFault (s : State) (kind : UKind) (unit addr dec : Nat) : MemStep s (s.memFault kind unit addr dec) := by
  unfold State.memFault
  split
  · exact step_vetoRecord s _ _ _ _ _
  · split
    · exact step_hwFault s _ _ _ _ _
    · exact step_vetoRecord s _ _ _ _ _
theorem step_cleanGranule (s : State) (g : Nat) : MemStep s (s.cleanGranule g) := by
  unfold State.cleanGranule
  split
  · exact step_put s _ _ _ _
  · exact MemStep.rfl' s

/-- R345, R347: sparing a row of a slice. -/
theorem step_spareRow (s : State) (p sub row : Nat) (hp : p < 136) : MemStep s (s.spareRow p sub row) := by
  have m1 : memReg (F.CMB_S_SPARED_TOTAL p).off = true := by interval_cases p <;> decide
  have m2 : memReg (F.CMB_S_SPARED_MAXSUB p).off = true := by interval_cases p <;> decide
  have m3 : memReg (F.CMB_S_STATE_STATE p).off = true := by interval_cases p <;> decide
  unfold State.spareRow
  dsimp only
  split
  · exact MemStep.rfl' s
  · split
    · exact ((((MemStep.each _ _ s step_cleanGranule).trans (step_ram _ _)).trans (step_set _ _ _ m1)).trans (step_set _ _ _ m2)).trans (step_raise _ _ (by decide))
    · exact (((step_set s _ _ m3).trans (step_raise _ _ (by decide))).trans (step_fresh _ 64)).trans (step_vetoRecord _ _ _ _ _ _)

/-- Places of the comb are those of its 136 slices, and places of HBM those of its 256 channels. -/
def placeOk (k : Nat) : Prop := (keyComb k = true → keyPair k < 136) ∧ (keyComb k = false → keyFar k = false → keyChan k < 256)

/-- A located place is a place. -/
theorem locate_ok (s : State) (a k : Nat) (h : s.locate a = some k) : placeOk k := by
  have eh : hbmBase = 1099511627776 := rfl
  have ep : physBase = 68719476736 := rfl
  have ef : farBase = 17592186044416 := rfl
  unfold State.locate at h
  unfold placeOk keyComb keyPair keyFar keyChan
  simp only [decide_eq_true_eq, decide_eq_false_iff_not]
  split at h
  · cases hp : s.physOf (a / 2 ^ 28) with
    | none => rw [hp] at h; cases h
    | some p =>
      rw [hp] at h; dsimp only at h
      split at h
      · cases h
        constructor <;> intros <;> omega
      · cases h
  · split at h
    · rename_i hin
      cases h
      simp only [inPhys, Bool.and_eq_true, decide_eq_true_eq] at hin
      constructor <;> intros <;> omega
    · split at h
      · dsimp only at h
        cases h
        have hc : (s.hbmSplit (a - hbmBase)).1 < 256 ∧ (s.hbmSplit (a - hbmBase)).2 < s.chCap := by
          rename_i hr
          obtain ⟨c, hcap⟩ : ∃ c, s.chCap = 256 * c := by unfold State.chCap; split <;> [exact ⟨0x300000, rfl⟩; exact ⟨0x600000, rfl⟩]
          have hl : (a - hbmBase) / 256 < s.nch * c := by
            rw [Nat.div_lt_iff_lt_mul (by decide)]
            have : s.nch * c * 256 = s.nch * s.chCap := by rw [hcap]; ring
            omega
          have hn : 0 < s.nch := by
            rcases Nat.eq_zero_or_pos s.nch with h0 | h0
            · rw [h0] at hl; omega
            · exact h0
          have hq : (a - hbmBase) / 256 / s.nch < c := (Nat.div_lt_iff_lt_mul hn).mpr (by rw [Nat.mul_comm]; exact hl)
          unfold State.hbmSplit
          dsimp only
          split
          · rename_i h6
            rw [h6] at hq
            exact ⟨Nat.mod_lt _ (by decide), by rw [hcap]; omega⟩
          · refine ⟨?_, by rw [hcap]; dsimp only; omega⟩
            dsimp only
            rw [List.getD_eq_getElem?_getD]
            cases hx : s.live[(a - hbmBase) / 256 % s.nch]? with
            | none => simp
            | some v =>
              have := List.mem_of_getElem? hx
              simp only [State.live, List.mem_filter, List.mem_range] at this
              simpa using this.1
        have hcap : s.chCap ≤ 0x60000000 := by unfold State.chCap; split <;> decide
        generalize s.hbmSplit (a - hbmBase) = x at hc
        constructor <;> intros <;> omega
      · split at h
        · rename_i hf
          cases hr : s.farRange a with
          | none => rw [hr] at h; cases h
          | some r =>
            rw [hr] at h; cases h
            simp only [inFar, Bool.and_eq_true, decide_eq_true_eq] at hf
            dsimp only
            constructor <;> intros <;> omega
        · cases h

/-! ### Reads and writes -/

theorem memReg_hbm (c o : Nat) (hc : c < 256) (ho : 0x1010000 ≤ o) (ho' : o < 0x1011000) : memReg (o + 0x40 * c) = true := by
  have : (o + 0x40 * c) / 0x100000 = 0x10 := by omega
  simp [memReg, this]
theorem memReg_comb (p o : Nat) (hp : p < 136) (ho : 0xE10000 ≤ o) (ho' : o < 0xE11000) : memReg (o + 0x100 * p) = true := by
  have : (o + 0x100 * p) / 0x100000 = 0xE := by omega
  simp [memReg, this]

theorem step_noteRow (s : State) (k kind : Nat) (h : placeOk k) : MemStep s (s.noteRow k kind) := by
  unfold State.noteRow
  split
  · rename_i hc
    dsimp only
    generalize (if kind = 2 then s.ram.trackers.look [] (keyPair k) else _) = t
    split
    · exact (step_ram s _).trans (step_spareRow _ _ _ _ (h.1 hc))
    · exact step_ram s _
  · dsimp only
    generalize (if kind = 2 then s.ram.trackers.look [] (256 + keyChan k) else _) = t
    split
    · exact (step_ram s _).trans (step_ram _ _)
    · exact step_ram s _

/-- R364, R366: an error found, once its place is one of the comb or of HBM. -/
theorem step_noteErr (s : State) (a k kind : Nat) (h : placeOk k) (hf : keyFar k = false) : MemStep s (s.noteErr a k kind) := by
  unfold State.noteErr
  dsimp only
  refine MemStep.trans ?_ (step_noteRow _ _ _ h)
  split
  · rename_i hc
    have hp := h.1 hc
    have m1 : memReg (F.CMB_S_CE_VALUE (keyPair k)).off = true := memReg_comb _ _ hp (by decide) (by decide)
    have m2 : memReg (F.CMB_S_UE_VALUE (keyPair k)).off = true := memReg_comb _ _ hp (by decide) (by decide)
    have e := (step_setReg s R.CMB_LASTERR_LO (BitVec.ofNat 32 a) (by decide)).trans (step_setReg _ R.CMB_LASTERR_HI (BitVec.ofNat 32 (a / 2 ^ 32 % 2 ^ 16 + kind * 2 ^ 16 + 2 ^ 31)) (by decide))
    refine e.trans ?_
    split
    · exact ((step_raise _ _ (by decide)).trans (step_count _ _ _ (by decide))).trans (step_count _ _ _ m1)
    · split
      · exact ((step_raise _ _ (by decide)).trans (step_count _ _ _ (by decide))).trans (step_count _ _ _ m2)
      · exact step_raise _ _ (by decide)
  · rename_i hc
    have hp := h.2 (by simpa using hc) hf
    have m1 : memReg (F.HBM_C_CE_VALUE (keyChan k)).off = true := memReg_hbm _ _ hp (by decide) (by decide)
    have m2 : memReg (F.HBM_C_UE_VALUE (keyChan k)).off = true := memReg_hbm _ _ hp (by decide) (by decide)
    have e := (step_setReg s R.HBM_LASTERR_LO (BitVec.ofNat 32 a) (by decide)).trans (step_setReg _ R.HBM_LASTERR_HI (BitVec.ofNat 32 (a / 2 ^ 32 % 2 ^ 16 + kind * 2 ^ 16 + 2 ^ 31)) (by decide))
    refine e.trans ?_
    split
    · exact (step_raise _ _ (by decide)).trans (step_count _ _ _ m1)
    · split
      · exact (step_raise _ _ (by decide)).trans (step_count _ _ _ m2)
      · exact step_raise _ _ (by decide)

/-- A far-tier address is one of port 0 or 1. -/
theorem farPort_lt (s : State) (a : Nat) : s.farPort a < 2 := by
  unfold State.farPort
  split
  · unfold FarRange.portOf; split <;> omega
  · decide
/-- R360: a read of the far tier. -/
theorem step_readFar (s : State) (a k p : Nat) (raw : List Byte) (hp : p < 2) : MemStep s (s.readFar a k p raw).st := by
  have m1 : memReg (F.CXL_P_ERR_UNCORR p).off = true := by interval_cases p <;> decide
  have m2 : memReg (F.CXL_P_ERR_REPLAY p).off = true := by interval_cases p <;> decide
  unfold State.readFar
  split
  · exact (step_fresh s 4).trans (step_count _ _ _ m2)
  · exact (step_count _ _ _ m1).trans (step_raise _ _ (by decide))

/-- R334, R336: what a read of a granule may change. -/
theorem step_readGranule (s : State) (sec : Bool) (a : Nat) : MemStep s (s.readGranule sec a).st := by
  unfold State.readGranule
  dsimp only
  split
  · exact step_raise _ _ (by decide)
  · split
    · exact step_noteDecode _ _
    · rename_i k hk
      have hok := locate_ok _ _ _ hk
      split
      · exact step_readFar _ _ _ _ _ (farPort_lt _ _)
      · rename_i hf
        have hf : keyFar k = false := by simpa using hf
        split
        · exact MemStep.rfl' s
        · split
          · exact MemStep.rfl' s
          · exact step_noteErr _ _ _ _ hok hf
          · exact step_noteErr _ _ _ _ hok hf

theorem step_readGranules (s : State) (sec : Bool) (g n : Nat) : MemStep s (s.readGranules sec g n).st := by
  induction n generalizing s g with
  | zero => exact MemStep.rfl' s
  | succ n ih => exact (step_readGranule s sec _).trans (ih _ _)
/-- A read of memory changes no more than the errors it finds bring. -/
theorem step_readAt (s : State) (sec : Bool) (a n : Nat) : MemStep s (s.readAt sec a n).st := by
  unfold State.readAt
  split
  · exact MemStep.rfl' s
  · exact step_readGranules _ _ _ _
theorem step_read (s : State) (a n : Nat) : MemStep s (s.read a n).st := step_readAt s false a n

theorem step_writeGranule (s : State) (sec : Bool) (a o : Nat) (bs : List Byte) : MemStep s (s.writeGranule sec a o bs).2 := by
  unfold State.writeGranule
  split
  · exact step_raise _ _ (by decide)
  · split
    · exact step_noteDecode _ _
    · split
      · exact step_put s _ _ _ _
      · dsimp only
        refine (step_readGranule s sec a).trans ?_
        split
        · dsimp only
          split
          · exact step_memFault _ _ _ _ _
          · split <;> exact step_memFault _ _ _ _ _
        · exact step_put _ _ _ _ _
theorem step_writeFrom (s : State) (sec : Bool) (n a : Nat) (bs : List Byte) : MemStep s (s.writeFrom sec n a bs).2 := by
  induction n generalizing s a bs with
  | zero => exact MemStep.rfl' s
  | succ n ih =>
    unfold State.writeFrom
    split
    · exact MemStep.rfl' s
    · exact (step_writeGranule s sec _ _ _).trans (ih _ _ _)
/-- A write of memory changes memory, error patterns and what the errors it finds bring. -/
theorem step_writeAt (s : State) (sec : Bool) (a : Nat) (bs : List Byte) : MemStep s (s.writeAt sec a bs).2 := step_writeFrom s sec _ a bs
theorem step_write (s : State) (a : Nat) (bs : List Byte) : MemStep s (s.write a bs).2 := step_writeAt s false a bs
/-- R328: a unit's write does what a write does; for a unit whose commands end with a status it also keeps, with the unit's queue, that a
write was not made. -/
theorem step_unitWrite (s : State) (kind : UKind) (unit a : Nat) (bs : List Byte) : ∃ t, MemStep s t ∧
    (s.unitWrite kind unit a bs = t ∨ (kind.queued = true ∧ s.unitWrite kind unit a bs = t.noteWriteFault kind unit true)) := by
  unfold State.unitWrite
  dsimp only
  split
  · refine ⟨_, (step_write s a bs).trans (step_memFault _ kind unit a 3), ?_⟩
    split
    · rename_i hk
      exact .inr ⟨hk, rfl⟩
    · exact .inl rfl
  · exact ⟨_, step_write s a bs, .inl rfl⟩
/-- A write of a unit without such a queue. -/
theorem step_unitWrite_plain (s : State) (kind : UKind) (unit a : Nat) (bs : List Byte) (h : kind.queued = false) :
    MemStep s (s.unitWrite kind unit a bs) := by
  obtain ⟨t, ht, rfl | ⟨hk, -⟩⟩ := step_unitWrite s kind unit a bs
  · exact ht
  · rw [h] at hk; cases hk

end Sys2Proof.Machine
end

