-- ==== Sys2Proof/Laws/Crickets.lean ====
section
/-! SUPPORT. Crickets: updating one leaves the others alone; what halting one and recording a machine check of one change. -/

set_option Elab.async false

namespace Sys2Proof.Machine

/-- A write under any key leaves the other keys alone, whatever unlisted keys read as. -/
theorem Sparse.look_write_other {α : Type} [DecidableEq α] (m : Sparse α) (d e : α) {k j : Nat} (v : α) (h : j ≠ k) :
    Sparse.look (Sparse.write m d k v) e j = Sparse.look m e j := by
  unfold Sparse.write
  split
  · rw [Sparse.look_drop, if_neg h]
  · rw [Sparse.look_put, if_neg h]

theorem crk_mod (s : State) (c : Nat) (f : Crk → Crk) : (s.modCrk c f).cricket c = f (s.cricket c) := by
  simp [State.cricket, State.modCrk]
theorem crk_mod_ne (s : State) (c d : Nat) (f : Crk → Crk) (h : d ≠ c) : (s.modCrk c f).cricket d = s.cricket d :=
  Sparse.look_write_other _ _ _ _ h
theorem crk_eq {s t : State} (h : s.crk = t.crk) (c : Nat) : s.cricket c = t.cricket c := by simp [State.cricket, h]


/-- R435: counting the idle cycles of a wait changes the idle counters only. -/
theorem countWait_only (s : State) (w : Waiter) (c : Nat) : ∃ m, s.countWait w c = { s with ffy := m } := by
  unfold State.countWait
  split
  · refine each_keeps (fun t => ∃ m, t = { s with ffy := m }) _ _ s ⟨s.ffy, rfl⟩ ?_
    rintro t e ⟨m, rfl⟩
    exact ⟨_, rfl⟩
  · exact ⟨s.ffy, rfl⟩
/-- What the end of a list of waits leaves. -/
theorem each_endWait (l : List Waiter) (f : State → Waiter → State)
    (hf : f = fun t w => (t.noteWaiters w.ctr).countWait w w.cause) (s : State) :
    (s.each l f).crk = s.crk ∧ (s.each l f).mem = s.mem ∧ (s.each l f).syn = s.syn ∧
      ∀ o, (∀ w ∈ l, o ≠ R.SYN_BAR_CNT w.ctr) → (s.each l f).reg o = s.reg o := by
  subst hf
  unfold State.each
  induction l generalizing s with
  | nil => exact ⟨rfl, rfl, rfl, fun _ _ => rfl⟩
  | cons b l ih =>
    obtain ⟨m, hm⟩ := countWait_only (s.noteWaiters b.ctr) b b.cause
    obtain ⟨h1, h2, h3, h4⟩ := ih ((s.noteWaiters b.ctr).countWait b b.cause)
    rw [List.foldl_cons]
    refine ⟨h1.trans (by rw [hm]; rfl), h2.trans (by rw [hm]; rfl), h3.trans (by rw [hm]; rfl), fun o ho => ?_⟩
    refine (h4 o fun c hc => ho c (List.mem_cons_of_mem _ hc)).trans ?_
    rw [hm]
    exact State.reg_set_ne _ _ (ho b List.mem_cons_self)
/-- R456: withdrawing a wait changes the waits and the WAITERS fields of their barriers. -/
theorem withdraw_only (s : State) (k : Nat) :
    (s.withdraw k).crk = s.crk ∧ (s.withdraw k).mem = s.mem ∧ (s.withdraw k).syn.waiters = s.syn.waiters.filter (·.qid != k) ∧
      ∀ o, (∀ w ∈ s.syn.waiters, w.qid = k → o ≠ R.SYN_BAR_CNT w.ctr) → (s.withdraw k).reg o = s.reg o := by
  unfold State.withdraw
  dsimp only
  obtain ⟨h1, h2, h3, h4⟩ := each_endWait (s.syn.waiters.filter (·.qid == k)) _ rfl
    { s with syn := { s.syn with waiters := s.syn.waiters.filter (·.qid != k), released := s.syn.released.filter (· != k), lent := s.syn.lent.filter (· != k) } }
  refine ⟨h1, h2, by rw [h3], fun o ho => ?_⟩
  refine (h4 o ?_).trans rfl
  intro w hw
  simp only [List.mem_filter, beq_iff_eq] at hw
  exact ho w hw.1 hw.2

/-- R322, R324: what a stop of cricket c does. -/
theorem crkRest_only (s : State) (c : Nat) :
    (s.crkRest c).cricket c = { s.cricket c with halted := true, waiting := false, syncing := false } ∧
      (∀ d, d ≠ c → (s.crkRest c).cricket d = s.cricket d) ∧ (s.crkRest c).mem = s.mem ∧
      ((s.cricket c).waiting = false → ∀ o, (s.crkRest c).reg o = s.reg o) ∧
      ((s.cricket c).waiting = true → (s.crkRest c).syn.waiters = s.syn.waiters.filter (·.qid != s.crkQid c)) := by
  obtain ⟨u, hu⟩ : ∃ u, u = if (s.cricket c).waiting then s.withdraw (s.crkQid c) else s := ⟨_, rfl⟩
  have hw := withdraw_only s (s.crkQid c)
  have huc : u.crk = s.crk := by rw [hu]; split <;> [exact hw.1; rfl]
  have hum : u.mem = s.mem := by rw [hu]; split <;> [exact hw.2.1; rfl]
  have e : s.crkRest c = u.modCrk c fun k => { k with halted := true, waiting := false, syncing := false } := by
    unfold State.crkRest; rw [← hu]
  rw [e]
  refine ⟨by rw [crk_mod, crk_eq huc], fun d hd => by rw [crk_mod_ne _ _ _ _ hd, crk_eq huc], hum, fun hwt o => ?_, fun hwt => ?_⟩
  · show u.reg o = _
    rw [hu, hwt]; rfl
  · show u.syn.waiters = _
    rw [hu, hwt]
    exact hw.2.2.1
/-- R322, R324: what halting a running cricket does. -/
theorem crkHalt_only (s : State) (c : Nat) (h : (s.cricket c).halted = false) :
    (s.crkHalt c).cricket c = { s.cricket c with halted := true, waiting := false, syncing := false } ∧
      (s.crkHalt c).on (F.CRK_EVENT_HALTED c) = true ∧
      (∀ d, d ≠ c → (s.crkHalt c).cricket d = s.cricket d) ∧ (s.crkHalt c).mem = s.mem ∧
      ((s.cricket c).waiting = false → ∀ o, o ≠ R.CRK_EVENT c → (s.crkHalt c).reg o = s.reg o) ∧
      ((s.cricket c).waiting = true → (s.crkHalt c).syn.waiters = s.syn.waiters.filter (·.qid != s.crkQid c)) := by
  obtain ⟨h1, h2, h3, h4, h5⟩ := crkRest_only s c
  have e : s.crkHalt c = (s.crkRest c).raise (F.CRK_EVENT_HALTED c) := by
    unfold State.crkHalt; rw [if_neg (by rw [h]; decide)]
  rw [e]
  refine ⟨h1, ?_, h2, h3, fun hw o ho => ?_, h5⟩
  · rw [State.on, State.get_raise_self _ _ (by change 4 + 1 ≤ 32; decide) (by change 1 ≠ 0; decide)]; rfl
  · rw [State.raise, State.reg_set_ne _ _ ho, h4 hw]
/-- R322: RUN = 0 halts a running cricket, and reads 0. -/
theorem crkOff_only (s : State) (c : Nat) (h : (s.cricket c).halted = false) :
    (s.crkOff c).cricket c = { s.cricket c with halted := true, waiting := false, syncing := false } ∧
      (s.crkOff c).on (F.CRK_CTRL_RUN c) = false ∧ (s.crkOff c).on (F.CRK_EVENT_HALTED c) = true ∧
      (∀ d, d ≠ c → (s.crkOff c).cricket d = s.cricket d) ∧ (s.crkOff c).mem = s.mem ∧
      ((s.cricket c).waiting = false → ∀ o, o ≠ R.CRK_CTRL c → o ≠ R.CRK_EVENT c → (s.crkOff c).reg o = s.reg o) ∧
      ((s.cricket c).waiting = true → (s.crkOff c).syn.waiters = s.syn.waiters.filter (·.qid != s.crkQid c)) := by
  have ne : R.CRK_EVENT c ≠ R.CRK_CTRL c := by simp only [R.CRK_CTRL, R.CRK_EVENT]; omega
  obtain ⟨h1, h2, h3, h4, h5, h6⟩ := crkHalt_only s c h
  unfold State.crkOff
  refine ⟨h1, ?_, ?_, h3, h4, fun hw o a b => ?_, h6⟩
  · rw [State.on, State.get_set_lt _ _ _ (by change 0 + 1 ≤ 32; decide) (by change 0 < 2 ^ 1; decide)]
    rfl
  · rw [State.on, State.get_set_off _ _ ne]
    exact h2
  · rw [State.reg_set_ne _ _ a, h5 hw o b]
/-- R322: starting a halted cricket. -/
theorem crkRun_only (s : State) (c : Nat) (h : (s.cricket c).halted = true) :
    (s.crkRun c).cricket c = { s.cricket c with halted := false, rom := false, level := 1, pc := BitVec.ofNat 64 (s.pair (R.CRK_ENTRY_LO c)) } ∧
      (s.crkRun c).on (F.CRK_CTRL_RUN c) = true ∧ (∀ d, d ≠ c → (s.crkRun c).cricket d = s.cricket d) ∧ (s.crkRun c).mem = s.mem ∧
      ∀ o, o ≠ R.CRK_CTRL c → (s.crkRun c).reg o = s.reg o := by
  obtain ⟨u, hu⟩ : ∃ u, u = s.set (F.CRK_CTRL_RUN c) 1 := ⟨_, rfl⟩
  have hc2 : ∀ d, u.cricket d = s.cricket d := fun d => crk_eq (by rw [hu]; rfl) d
  have e : s.crkRun c = u.modCrk c fun k => { k with halted := false, rom := false, level := 1, pc := BitVec.ofNat 64 (u.pair (R.CRK_ENTRY_LO c)) } := by
    unfold State.crkRun
    dsimp only
    rw [← hu, hc2, if_pos h]
  have hr : ∀ o, o ≠ R.CRK_CTRL c → u.reg o = s.reg o := fun o ho => by rw [hu, State.reg_set_ne _ _ ho]
  have hp : u.pair (R.CRK_ENTRY_LO c) = s.pair (R.CRK_ENTRY_LO c) := by
    unfold State.pair
    rw [hr _ (by simp only [R.CRK_ENTRY_LO, R.CRK_CTRL]; omega), hr _ (by simp only [R.CRK_ENTRY_LO, R.CRK_CTRL]; omega)]
  rw [e]
  refine ⟨by rw [crk_mod, hc2, hp], ?_, fun d hd => by rw [crk_mod_ne _ _ _ _ hd, hc2], by rw [hu]; rfl, fun o ho => hr o ho⟩
  show u.on _ = true
  rw [State.on, hu, State.get_set_lt _ _ _ (by change 0 + 1 ≤ 32; decide) (by change 1 < 2 ^ 1; decide)]
  rfl

end Sys2Proof.Machine
end

