-- ==== Sys2Proof/Laws/Frames.lean ====
section
/-! SUPPORT. Frames: which registers an update may change, composed update by update. -/

set_option Elab.async false

namespace Sys2Proof.Machine

theorem regsBut_refl (L : List Nat) (s : State) : RegsBut L s s := fun _ _ => rfl
theorem regsBut_of_regs (L : List Nat) {s t : State} (h : t.regs = s.regs) : RegsBut L s t := fun o _ => State.reg_congr h o
theorem RegsBut.trans {L : List Nat} {s t u : State} (h : RegsBut L s t) (k : RegsBut L t u) : RegsBut L s u :=
  fun o ho => (k o ho).trans (h o ho)
theorem regsBut_set {L : List Nat} (s : State) (f : RF) (v : Nat) (h : f.off ∈ L) : RegsBut L s (s.set f v) :=
  fun _ ho => State.reg_set_ne _ _ (fun e => ho (e ▸ h))
theorem regsBut_setReg {L : List Nat} (s : State) {o : Nat} (v : Word) (h : o ∈ L) : RegsBut L s (s.setReg o v) :=
  fun _ hq => State.reg_setReg_ne _ _ (fun e => hq (e ▸ h))
theorem RegsBut.mono {L M : List Nat} {s t : State} (h : RegsBut L s t) (k : ∀ o ∈ L, o ∈ M) : RegsBut M s t :=
  fun o ho => h o (fun e => ho (k o e))
theorem RegsBut.agree {L : List Nat} {s t u : State} (k : RegsBut L s u) (h : Agree t u) : RegsBut L s t :=
  fun o ho => (h.reg o).trans (k o ho)
/-- A field of a register outside the frame's list. -/
theorem RegsBut.get {L : List Nat} {s t : State} (h : RegsBut L s t) {f : RF} (hf : f.off ∉ L) : t.get f = s.get f := by
  rw [State.get, State.get, h _ hf]
theorem RegsBut.on {L : List Nat} {s t : State} (h : RegsBut L s t) {f : RF} (hf : f.off ∉ L) : t.on f = s.on f := by
  rw [State.on, State.on, h.get hf]
/-- A field of another register than the one that is written whole. -/
theorem State.get_setReg_off (s : State) {o : Nat} (v : Word) {f : RF} (h : f.off ≠ o) : (s.setReg o v).get f = s.get f := by
  rw [State.get, State.get, State.reg_setReg_ne _ _ h]
theorem State.on_setReg_off (s : State) {o : Nat} (v : Word) {f : RF} (h : f.off ≠ o) : (s.setReg o v).on f = s.on f := by
  rw [State.on, State.on, State.get_setReg_off _ _ h]
theorem State.on_set_off (s : State) {f g : RF} (v : Nat) (h : g.off ≠ f.off) : (s.set f v).on g = s.on g := by
  rw [State.on, State.on, State.get_set_off _ _ h]
theorem State.on_set_bits (s : State) {f g : RF} (v : Nat) (hg : g.lo + g.w ≤ 32) (h : g.lo + g.w ≤ f.lo ∨ f.lo + f.w ≤ g.lo) :
    (s.set f v).on g = s.on g := by
  rw [State.on, State.on, State.get_set_bits _ _ hg h]
/-- A bit that is set to 1 or to 0. -/
theorem State.on_set_one (s : State) (f : RF) (h : f.lo + f.w ≤ 32) (hw : 0 < f.w) : (s.set f 1).on f = true := by
  rw [State.on, State.get_set_self _ _ _ h, Nat.mod_eq_of_lt (by calc 1 < 2 ^ 1 := by decide
        _ ≤ 2 ^ f.w := Nat.pow_le_pow_right (by decide) hw)]; rfl
theorem State.on_set_zero (s : State) (f : RF) (h : f.lo + f.w ≤ 32) : (s.set f 0).on f = false := by
  rw [State.on, State.get_set_self _ _ _ h]; simp
/-- What every element of a list's work keeps out of a list of registers, the whole work does. -/
theorem regsBut_each {α : Type} {L : List Nat} (l : List α) (f : State → α → State) (s : State)
    (hf : ∀ t a, RegsBut L t (f t a)) : RegsBut L s (s.each l f) :=
  each_keeps (RegsBut L s) l f s (regsBut_refl L s) (fun _ _ h => h.trans (hf _ _))

end Sys2Proof.Machine
end

