-- ==== Sys2Proof/Laws/Operands.lean ====
section
/-! SUPPORT. Operand reads of hearths: loading strips and scales changes no more than the errors that the reads find bring. -/

set_option Elab.async false

namespace Sys2Proof.Machine

/-- What a hearth is after its update. -/
theorem hearth_mod (s : State) (p : Nat) (f : Hearth → Hearth) : (s.modHearth p f).hearth p = f (s.hearth p) := by
  simp [State.hearth, State.modHearth]
/-- Hearths stand in one field of the state. -/
theorem hearth_hrt {s t : State} (h : s.hrt = t.hrt) (p : Nat) : s.hearth p = t.hearth p := by simp [State.hearth, h]

/-- A fold whose every step is a memory access is one. -/
theorem MemStep.fold {α β : Type} (st : β → State) (l : List α) (f : β → α → β) (b : β) (s : State) (h : MemStep s (st b))
    (hf : ∀ c a, MemStep (st c) (st (f c a))) : MemStep s (st (l.foldl f b)) := by
  induction l generalizing b with
  | nil => exact h
  | cons a l ih => exact ih _ (h.trans (hf b a))

theorem step_loadStrip (o : Operand) (l : Load) (b0 r0 cnt k0 len : Nat) : MemStep l.st (o.loadStrip l b0 r0 cnt k0 len).st := by
  unfold Operand.loadStrip
  split <;> exact MemStep.fold Load.st _ _ _ _ (MemStep.rfl' l.st) fun c a => step_read c.st _ _
theorem step_loadScales (o : Operand) (l : Load) (r0 cnt k0 len : Nat) : MemStep l.st (o.loadScales l r0 cnt k0 len).st := by
  unfold Operand.loadScales
  split
  · exact MemStep.rfl' l.st
  · exact MemStep.fold Load.st _ _ _ _ (MemStep.rfl' l.st) fun c a => MemStep.fold Load.st _ _ _ _ (MemStep.rfl' c.st) fun d b => step_read d.st _ _
/-- R126, R127: filling a bank. -/
theorem step_fill (o : Operand) (s : State) (c : PClass) (kk r0 cnt k : Nat) (start : Bool) (p : BankPair) :
    MemStep s (o.fill s c kk r0 cnt k start p).st :=
  MemStep.fold (fun l : Load × Load => l.2.st) _ _ _ _ (MemStep.rfl' s) fun l _ =>
    (step_loadStrip o { l.1 with st := l.2.st } _ _ _ _ _).trans (step_loadScales o { l.2 with st := _ } _ _ _ _)
/-- R126, R127: loading the strips that a wave needs. -/
theorem step_loadBanks (x : MM) (s : State) (t k pass : Nat) (a b : BankPair) : MemStep s (x.loadBanks s t k pass a b).st :=
  (step_fill _ _ _ _ _ _ _ _ _).trans (step_fill _ _ _ _ _ _ _ _ _)

end Sys2Proof.Machine
end

