-- ==== Sys2Proof/Laws/Fabric.lean ====
section
/-! SUPPORT. What port, frame, epoch and fence operations leave (11). -/

set_option Elab.async false

namespace Sys2Proof.Machine

theorem noteChange_regs (s : State) (o : Nat) : (s.noteChange o).regs = s.regs ∧ (s.noteChange o).flue = s.flue ∧ (s.noteChange o).mem = s.mem := by
  unfold State.noteChange; split <;> exact ⟨rfl, rfl, rfl⟩
theorem modPort_get (s : State) (p : Nat) (f : Port → Port) (g : RF) : (s.modPort p f).get g = s.get g := rfl
theorem modPort_reg (s : State) (p : Nat) (f : Port → Port) (o : Nat) : (s.modPort p f).reg o = s.reg o := rfl
theorem modPort_mem (s : State) (p : Nat) (f : Port → Port) : (s.modPort p f).mem = s.mem := rfl
theorem count_mem (s : State) (f : RF) (n : Nat) : (s.count f n).mem = s.mem := rfl
theorem count_port (s : State) (f : RF) (n q : Nat) : (s.count f n).port q = s.port q := rfl
theorem set_port (s : State) (f : RF) (n q : Nat) : (s.set f n).port q = s.port q := rfl
/-- A port reads what was put there. -/
theorem port_mod (s : State) (p : Nat) (f : Port → Port) : (s.modPort p f).port p = f (s.port p) := by
  unfold State.modPort State.port; exact Sparse.look_write_self _ _ _ _
theorem port_mod_ne (s : State) {p q : Nat} (f : Port → Port) (h : q ≠ p) : (s.modPort p f).port q = s.port q := by
  unfold State.modPort State.port; exact Sparse.look_write_ne _ _ _ h
theorem each_id {α : Type} (l : List α) (f : State → α → State) (s : State) (h : ∀ a ∈ l, f s a = s) : s.each l f = s := by
  unfold State.each
  induction l with
  | nil => rfl
  | cons a l ih => rw [List.foldl_cons, h a (by simp)]; exact ih (fun b hb => h b (by simp [hb]))
theorem modPort_on (s : State) (p : Nat) (f : Port → Port) (g : RF) : (s.modPort p f).on g = s.on g := rfl
theorem modPort_regs (s : State) (p : Nat) (f : Port → Port) : (s.modPort p f).regs = s.regs := rfl
theorem count_flue (s : State) (f : RF) (n : Nat) : (s.count f n).flue = s.flue := rfl
theorem raise_port (s : State) (f : RF) (q : Nat) : (s.raise f).port q = s.port q := rfl
theorem port_agree {t u : State} (h : Agree t u) (q : Nat) : t.port q = u.port q := by unfold State.port; rw [h.flue]
/-- A counter adds and saturates. -/
theorem get_count (s : State) (f : RF) (n : Nat) (h : f.lo + f.w ≤ 32) : (s.count f n).get f = min (s.get f + n) (2 ^ f.w - 1) := by
  unfold State.count; rw [State.get_set_self _ _ _ h, Nat.mod_eq_of_lt]
  have := Nat.two_pow_pos f.w
  omega
theorem portState_live (s : State) (p : Nat) (h : s.portLive p = true) : s.portState p = 2 ∨ s.portState p = 3 := by
  unfold State.portLive at h; simpa using h
theorem leBytes_leNat (l : List Byte) : leBytes l.length (leNat l) = l := by
  induction l with
  | nil => rfl
  | cons b t ih =>
    have := b.isLt
    simp only [List.length_cons, leBytes, leNat]
    congr 1
    · apply BitVec.eq_of_toNat_eq; rw [BitVec.toNat_ofNat]; omega
    · rw [show (b.toNat + 256 * leNat t) / 256 = leNat t by omega]; exact ih
/-- R379: a packet without errors passes its check. -/
theorem clean_codewords (pkt : List Byte) (errs : List (BitVec 144)) (h : pkt.length = 64) (he : ∀ e ∈ errs, e = 0) : checkCodewords pkt errs = some pkt := by
  have hz : ∀ i, errs.getD i 0 = 0 := by
    intro i; rw [List.getD_eq_getElem?_getD]
    cases hi : errs[i]? with
    | none => rfl
    | some e => exact he e (List.mem_of_getElem? hi)
  have hg : ∀ i < 4, leBytes 16 (leNat ((pkt.drop (16 * i)).take 16)) = (pkt.drop (16 * i)).take 16 := by
    intro i hi
    have : ((pkt.drop (16 * i)).take 16).length = 16 := by simp [h]; omega
    conv_lhs => rw [← this]
    rw [this]
    have e := leBytes_leNat ((pkt.drop (16 * i)).take 16)
    rw [this] at e; exact e
  have hd : ∀ b, decodeErr b (0 : BitVec 144).toNat = .clean := by 
    intro b
    have h0 : (0 : BitVec 144).toNat = 0 := rfl
    have hs : syndrome 0 = 0 := by decide +kernel
    unfold decodeErr; dsimp only; rw [h0, hs, if_pos rfl]
  unfold checkCodewords
  simp only [hz, hd]
  simp only [show List.range 4 = [0, 1, 2, 3] from rfl, List.foldl_cons, List.foldl_nil]
  have hx : (0 : BitVec 144).toNat / 2 ^ 16 = 0 := by decide
  simp only [hx, Nat.xor_zero]
  rw [hg 0 (by omega), hg 1 (by omega), hg 2 (by omega), hg 3 (by omega)]
  simp only [List.nil_append]
  congr 1
  have a : ∀ n, (pkt.drop n).take 16 ++ pkt.drop (n + 16) = pkt.drop n := fun n => by
    conv_rhs => rw [← List.take_append_drop 16 (pkt.drop n)]
    rw [List.drop_drop]
  have h3 : (pkt.drop 48).take 16 = pkt.drop 48 := List.take_of_length_le (by simp [h])
  rw [show 16 * 3 = 48 from rfl, h3, List.append_assoc, List.append_assoc]
  have a0 := a 0
  have a1 := a 16
  have a2 := a 32
  rw [show 16 * 2 = 32 from rfl, show 16 * 1 = 16 from rfl, show 16 * 0 = 0 from rfl]
  simp only [Nat.zero_add, Nat.reduceAdd] at a0 a1 a2
  rw [a2, a1, a0]; rfl
/-- Where only one element of a list acts, the list does what it does. -/
theorem each_one (l : List Nat) (f : State → Nat → State) (s : State) (p : Nat) (hn : l.Nodup) (hp : p ∈ l)
    (h1 : ∀ q ∈ l, q ≠ p → f s q = s) (h2 : ∀ q ∈ l, q ≠ p → f (f s p) q = f s p) : s.each l f = f s p := by
  induction l with
  | nil => cases hp
  | cons a l ih =>
    have e : s.each (a :: l) f = (f s a).each l f := rfl
    rw [e]
    rw [List.nodup_cons] at hn
    by_cases ha : a = p
    · subst ha
      exact each_id l f _ (fun q hq => h2 q (by simp [hq]) (by rintro rfl; exact hn.1 hq))
    · rw [h1 a (by simp) ha]
      exact ih hn.2 (by rcases List.mem_cons.1 hp with h | h; exact absurd h.symm ha; exact h) (fun q hq => h1 q (by simp [hq])) (fun q hq => h2 q (by simp [hq]))
theorem frame_agree {t u : State} (h : Agree t u) : t.frame = u.frame := by unfold State.frame State.pair; rw [h.reg, h.reg]
/-- The frame counter is 48 bits. -/
theorem frame_set (s : State) (n : Nat) : (s.setFrame n).frame = n % 2 ^ 48 := by
  unfold State.setFrame State.setPair State.frame State.pair
  rw [State.reg_setReg_ne _ _ (by decide), State.reg_setReg_self, State.reg_setReg_self]
  simp only [BitVec.toNat_ofNat]; omega
theorem frame_rb (s : State) (n : Nat) (L : List Nat) (h1 : R.FLU_FRAME_LO ∈ L) (h2 : R.FLU_FRAME_HI ∈ L) : RegsBut L s (s.setFrame n) := by
  unfold State.setFrame State.setPair
  exact (regsBut_setReg _ _ h1).trans (regsBut_setReg _ _ (by exact h2))
theorem frame_flue (s : State) (n : Nat) : (s.setFrame n).flue = s.flue ∧ (s.setFrame n).mem = s.mem := ⟨rfl, rfl⟩
theorem get_setFrame (s : State) (n : Nat) (f : RF) (h1 : f.off ≠ R.FLU_FRAME_LO) (h2 : f.off ≠ R.FLU_FRAME_HI) : (s.setFrame n).get f = s.get f := by
  unfold State.setFrame State.setPair
  rw [State.get_setReg_off _ _ (by exact h2), State.get_setReg_off _ _ h1]
theorem flip_rb (s : State) : RegsBut [R.FLU_EPOCH, R.FLU_EVENT, R.FLU_STATUS] s s.flip := by
  unfold State.flip State.put State.raise; dsimp only
  exact ((regsBut_set _ _ _ (by decide)).trans (regsBut_set _ _ _ (by decide))).trans (regsBut_set _ _ _ (by decide))
theorem flip_flue (s : State) : s.flip.flue = s.flue ∧ s.flip.mem = s.mem := ⟨rfl, rfl⟩
theorem epoch_lt (s : State) : s.epoch < 2 := by unfold State.epoch; exact State.get_lt s F.FLU_EPOCH_CUR
/-- R388: a switch takes the other epoch. -/
theorem flip_epoch (s : State) : s.flip.epoch = 1 - s.epoch := by
  have := epoch_lt s
  unfold State.flip State.put State.raise State.epoch; dsimp only
  rw [State.get_set_off _ _ (by decide), State.get_set_off _ _ (by decide), State.get_set_self _ _ _ (by decide)]
  unfold State.epoch at this
  exact Nat.mod_eq_of_lt (by change _ < 2; omega)
theorem flip_get (s : State) (f : RF) (h : f.off = R.FLU_EPOCH) (h1 : f.lo + f.w ≤ 32) (h2 : 1 ≤ f.lo) : s.flip.get f = s.get f := by
  unfold State.flip State.put State.raise; dsimp only
  rw [State.get_set_off _ _ (by rw [h]; decide), State.get_set_off _ _ (by rw [h]; decide), State.get_set_bits _ _ h1 (Or.inr (by change 0 + 1 ≤ f.lo; omega))]
theorem flip_event (s : State) : s.flip.on F.FLU_EVENT_SWITCHED = true := by
  unfold State.flip State.put State.raise; dsimp only
  rw [State.on_set_off _ _ (by decide)]; exact State.on_set_one _ _ (by decide) (by decide)
theorem put_on (s : State) (f : RF) (b : Bool) (h : f.lo + f.w ≤ 32) (hw : 0 < f.w) : (s.put f b).on f = b := by
  unfold State.put; cases b
  · exact State.on_set_zero _ _ h
  · exact State.on_set_one _ _ h hw
theorem flip_valid (s : State) : s.flip.on F.FLU_STATUS_INACT_VALID = s.flip.verValid s.flip.inactive := by
  have e : ∃ u : State, s.flip = u.put F.FLU_STATUS_INACT_VALID (u.verValid u.inactive) ∧ u.flue = s.flue := ⟨_, rfl, rfl⟩
  obtain ⟨u, hu, hf⟩ := e
  rw [hu, put_on _ _ _ (by decide) (by decide)]
  have : (u.put F.FLU_STATUS_INACT_VALID (u.verValid u.inactive)).inactive = u.inactive := by
    unfold State.inactive State.epoch State.put; rw [State.get_set_off _ _ (by decide)]
  rw [this]; rfl
/-- R386: restarting an idle engine changes nothing but its own entry. -/
theorem restart_quiet (s : State) (q : Nat) (h : (s.colOf q).nodes = [] ∧ (s.colOf q).run = none ∧ (s.colOf q).verdict = none) :
    ∃ c, s.colRestart q = { s with col := c } ∧ ∀ q', ({ s with col := c } : State).colOf q' = s.colOf q' := by
  obtain ⟨h1, h2, h3⟩ := h
  refine ⟨s.col.write Col.reset q (s.colOf q), ?_, ?_⟩
  · unfold State.colRestart; dsimp only
    rw [h1, h2, h3, if_neg (by decide)]
    unfold State.modCol State.each; dsimp only
    rw [List.foldl_nil]
    have hx : ∃ c : Col, s.colOf q = c := ⟨_, rfl⟩
    obtain ⟨⟨r, v, n⟩, hcx⟩ := hx
    rw [hcx] at h1 h2 h3 ⊢
    simp only at h1 h2 h3
    subst h1 h2 h3
    rfl
  · intro q'
    show Sparse.look _ _ _ = _
    rw [Sparse.look_write]; split
    · rename_i h; rw [h]
    · rfl
theorem restarts_quiet (l : List Nat) (s : State) (h : ∀ q ∈ l, (s.colOf q).nodes = [] ∧ (s.colOf q).run = none ∧ (s.colOf q).verdict = none) :
    ∃ c, s.each l State.colRestart = { s with col := c } := by
  induction l generalizing s with
  | nil => exact ⟨s.col, rfl⟩
  | cons a l ih =>
    obtain ⟨c, e, hq⟩ := restart_quiet s a (h a (by simp))
    obtain ⟨d, e2⟩ := ih { s with col := c } (fun q hm => by rw [hq]; exact h q (by simp [hm]))
    refine ⟨d, ?_⟩
    rw [show s.each (a :: l) State.colRestart = (s.colRestart a).each l State.colRestart from rfl, e, e2]
theorem portLive_set (s : State) (f : RF) (v p : Nat) (h : (F.FLU_P_STATUS_STATE p).off ≠ f.off) : (s.set f v).portLive p = s.portLive p ∧ (s.set f v).portState p = s.portState p := by
  unfold State.portLive State.portState; rw [State.get_set_off _ _ h]; exact ⟨rfl, rfl⟩

end Sys2Proof.Machine
end

