-- ==== Sys2Proof/Laws/LocalStore.lean ====
section
/-! SUPPORT. A cricket's local store, byte by byte, and what halting and stepping leave of a cricket (09). -/

set_option Elab.async false

namespace Sys2Proof.Machine

/-- A stop keeps the local store, the registers and the pc. -/
theorem crkRest_store (s : State) (c : Nat) : ((s.crkRest c).cricket c).store = (s.cricket c).store ∧ ((s.crkRest c).cricket c).g = (s.cricket c).g ∧
    ((s.crkRest c).cricket c).pc = (s.cricket c).pc ∧ (s.crkRest c).mem = s.mem := by
  have := crkRest_only s c; rw [this.1]; exact ⟨rfl, rfl, rfl, this.2.2.1⟩
/-- So does halting. -/
theorem crkHalt_store (s : State) (c : Nat) : ((s.crkHalt c).cricket c).store = (s.cricket c).store ∧ ((s.crkHalt c).cricket c).g = (s.cricket c).g ∧
    ((s.crkHalt c).cricket c).pc = (s.cricket c).pc ∧ (s.crkHalt c).mem = s.mem := by
  unfold State.crkHalt
  split
  · exact ⟨rfl, rfl, rfl, rfl⟩
  · exact crkRest_store s c
theorem stepped_store (s : State) (c : Nat) : ((s.crkStepped c).cricket c).store = (s.cricket c).store ∧ ((s.crkStepped c).cricket c).g = (s.cricket c).g ∧
    ((s.crkStepped c).cricket c).pc = (s.cricket c).pc ∧ (s.crkStepped c).mem = s.mem := by
  unfold State.crkStepped
  split
  · exact crkRest_store s c
  · exact ⟨rfl, rfl, rfl, rfl⟩
/-- A run of bytes written reads back, and the rest is as before. -/
theorem put_look (bs : List Byte) (m : Sparse Byte) (o k : Nat) (j : Nat) :
    ((bs.zipIdx k).foldl (fun (m : Sparse Byte) (p : Byte × Nat) => Sparse.write m 0 (o + p.2) p.1) m).look 0 j =
      if o + k ≤ j ∧ j < o + k + bs.length then bs.getD (j - (o + k)) 0 else m.look 0 j := by
  induction bs generalizing m k with
  | nil => simp
  | cons b t ih =>
    rw [List.zipIdx_cons, List.foldl_cons, ih]
    dsimp only
    rw [Sparse.look_write]
    simp only [List.length_cons]
    by_cases h1 : j = o + k
    · subst h1; simp
    · by_cases h2 : o + (k + 1) ≤ j ∧ j < o + (k + 1) + t.length
      · rw [if_pos h2, if_pos (by omega), show j - (o + k) = (j - (o + (k + 1))) + 1 by omega]; rfl
      · rw [if_neg h2, if_neg h1, if_neg (by omega)]
theorem leBytes_getD (n v i : Nat) (h : i < n) : (leBytes n v).getD i 0 = BitVec.ofNat 8 (v / 256 ^ i) := by
  induction n generalizing v i with
  | zero => omega
  | succ n ih =>
    cases i with
    | zero => simp [leBytes]
    | succ i =>
      have := ih (v / 256) i (by omega)
      rw [leBytes, List.getD_cons_succ, this, Nat.div_div_eq_div_mul, Nat.pow_succ, Nat.mul_comm]
theorem leBytes_length (n v : Nat) : (leBytes n v).length = n := by
  induction n generalizing v with
  | zero => rfl
  | succ n ih => simp [leBytes, ih]
/-- R299: n bytes of a value, least significant first. -/
theorem store_look (m : Sparse Byte) (o n v j : Nat) :
    (((leBytes n v).zipIdx).foldl (fun (m : Sparse Byte) (p : Byte × Nat) => Sparse.write m 0 (o + p.2) p.1) m).look 0 j =
      if o ≤ j ∧ j < o + n then BitVec.ofNat 8 (v / 256 ^ (j - o)) else m.look 0 j := by
  rw [put_look _ _ _ 0, leBytes_length, Nat.add_zero]
  by_cases hj : o ≤ j ∧ j < o + n
  · rw [if_pos hj, if_pos hj, leBytes_getD _ _ _ (by omega)]
  · rw [if_neg hj, if_neg hj]

end Sys2Proof.Machine
end

