-- ==== Sys2Proof/Laws/Machine.lean ====
section
/-! SUPPORT. What memory units, clock trim, power sums, start-up stages and resets leave (10, 14, 15, 16). -/

set_option Elab.async false

namespace Sys2Proof.Machine

theorem fresh_only (s : State) (w : Nat) : ∃ n, (s.fresh w).2 = { s with freeCtr := n } := ⟨_, rfl⟩
theorem freshBytes_only (s : State) (n : Nat) : ∃ m, (s.freshBytes n).2 = { s with freeCtr := m } :=
  ⟨_, rfl⟩
theorem retries_regs (s : State) (c w n : Nat) (x : Bool) : (s.setRetries c w n x).regs = s.regs := rfl
theorem retries_mem (s : State) (c w n : Nat) (x : Bool) : (s.setRetries c w n x).mem = s.mem := rfl
theorem retries_look (s : State) (c w n : Nat) (x : Bool) : (s.setRetries c w n x).ram.retries.look 0 c = n := Sparse.look_write_self s.ram.retries 0 c n
theorem ram_get (u : State) (r : Ram) (f : RF) : ({ u with ram := r } : State).get f = u.get f := rfl
theorem clean_only (s : State) (g : Nat) : ∃ m e, s.cleanGranule g = { s with mem := m, errs := e } := by
  unfold State.cleanGranule; split
  · dsimp only; rw [putBytes_only]; exact ⟨_, _, rfl⟩
  · exact ⟨_, _, rfl⟩
theorem cleans_only (s : State) (l : List Nat) : ∃ m e, s.each l State.cleanGranule = { s with mem := m, errs := e } := by
  refine each_keeps (fun t => ∃ m e, t = { s with mem := m, errs := e }) _ _ s ⟨_, _, rfl⟩ ?_
  rintro t a ⟨m, e, rfl⟩
  obtain ⟨m', e', h⟩ := clean_only { s with mem := m, errs := e } a
  exact ⟨m', e', h⟩
theorem count_off (s : State) {f : RF} (n : Nat) {g : RF} (h : g.off ≠ f.off) : (s.count f n).get g = s.get g := State.get_set_off _ _ h
theorem repairRow_only (s : State) (c : Nat) (r : Nat × Nat) : (s.repairRow c r).regs = s.regs ∧ (s.repairRow c r).ember = { s.ember with repair := (s.ember.repair ++ [r]).take 512 } ∧
    (s.repairRow c r).ram.repairing = s.ram.repairing.filter (· != r) := by
  unfold State.repairRow; dsimp only
  obtain ⟨m, e, h⟩ := cleans_only s ((s.errs.map (·.1)).filter fun g => !keyComb (g * 16) && !keyFar (g * 16) && keyChan (g * 16) == c && (Config.hbmRow (g * 16 % 2 ^ 31)).toNat == r.2)
  rw [h]; exact ⟨rfl, rfl, rfl⟩
/-- R356: what a soft repair leaves. -/
theorem repair_done (s : State) (c : Nat) (r : Nat × Nat) (hr : s.ram.repairing.find? (fun r => r.1 == c) = some r) :
    (s.softRepairDone c).get (F.HBM_C_STATE_STATE c) = (if (s.ram.repairing.filter (· != r)).any (fun x => x.1 == c) then 2 else 0) ∧ (s.softRepairDone c).on F.HBM_EVENT_PPR_DONE = true ∧
    (s.softRepairDone c).ember = { s.ember with repair := (s.ember.repair ++ [r]).take 512 } ∧ (s.softRepairDone c).ram.repairing = s.ram.repairing.filter (· != r) ∧
    (c < 256 → RegsBut [R.HBM_C_STATE c, R.HBM_C_HOLD c, R.HBM_C_PPR c, R.HBM_EVENT] s (s.softRepairDone c)) := by
  obtain ⟨u, hu⟩ : ∃ u, u = s.repairRow c r := ⟨_, rfl⟩
  obtain ⟨e3, e1, e2⟩ := repairRow_only s c r
  rw [← hu] at e1 e2 e3
  have eu : s.softRepairDone c = (((if u.ram.repairing.any (fun x => x.1 == c) then (u.holdEnds c).set (F.HBM_C_STATE_STATE c) 2 else u.holdEnds c).count
      (F.HBM_C_PPR_SOFT c) 1).count (F.HBM_C_PPR_PENDING c) 1).raise F.HBM_EVENT_PPR_DONE := by
    unfold State.softRepairDone; rw [hr, hu]
  rw [eu, e2]
  obtain ⟨n, hn⟩ := fresh_only u 32
  obtain ⟨v, hv⟩ : ∃ v, v = u.holdEnds c := ⟨_, rfl⟩
  obtain ⟨k, hk⟩ : ∃ k, v = (({ u with freeCtr := n } : State).set (F.HBM_C_STATE_STATE c) 0).count (F.HBM_C_HOLD_VALUE c) k := by
    refine ⟨(u.fresh 32).1 % 88001, ?_⟩
    rw [hv]; unfold State.holdEnds; dsimp only; rw [hn]
  rw [← hv]
  have v0 : v.get (F.HBM_C_STATE_STATE c) = 0 := by
    rw [hk, count_off _ _ (by simp only [F.HBM_C_STATE_STATE, F.HBM_C_HOLD_VALUE]; omega), State.get_set_self _ _ _ (by change 0 + 3 ≤ 32; decide)]; rfl
  have v1 : v.ember = u.ember := by rw [hk]; rfl
  have v2 : v.ram = u.ram := by rw [hk]; rfl
  have v3 : c < 256 → RegsBut [R.HBM_C_STATE c, R.HBM_C_HOLD c, R.HBM_C_PPR c, R.HBM_EVENT] s v := by
    intro _
    rw [hk]
    refine RegsBut.trans (regsBut_of_regs _ (show ({ u with freeCtr := n } : State).regs = s.regs from e3)) ?_
    refine (regsBut_set _ _ _ ?_).trans (regsBut_set _ _ _ ?_)
    · simp [F.HBM_C_STATE_STATE, R.HBM_C_STATE]
    · simp [F.HBM_C_HOLD_VALUE, R.HBM_C_HOLD]
  generalize (s.ram.repairing.filter (· != r)).any (fun x => x.1 == c) = b
  obtain ⟨w, hw⟩ : ∃ w, w = if b = true then v.set (F.HBM_C_STATE_STATE c) 2 else v := ⟨_, rfl⟩
  rw [← hw]
  have w0 : w.get (F.HBM_C_STATE_STATE c) = if b = true then 2 else 0 := by
    rw [hw]; split
    · rw [State.get_set_self _ _ _ (by change 0 + 3 ≤ 32; decide)]; rfl
    · exact v0
  refine ⟨?_, ?_, ?_, ?_, ?_⟩
  · unfold State.raise
    rw [State.get_set_off _ _ (by simp only [F.HBM_C_STATE_STATE, F.HBM_EVENT_PPR_DONE]; omega), count_off _ _ (by simp only [F.HBM_C_STATE_STATE, F.HBM_C_PPR_PENDING]; omega), count_off _ _ (by simp only [F.HBM_C_STATE_STATE, F.HBM_C_PPR_SOFT]; omega), w0]
  · exact State.on_set_one _ _ (by decide) (by decide)
  · rw [← e1, ← v1]; change w.ember = _; rw [hw]; split <;> rfl
  · rw [← e2, ← v2]; change w.ram.repairing = _; rw [hw]; split <;> rfl
  · intro hc
    refine (v3 hc).trans (RegsBut.trans (t := w) ?_ ?_)
    · rw [hw]; split
      · exact regsBut_set _ _ _ (by simp [F.HBM_C_STATE_STATE, R.HBM_C_STATE])
      · exact regsBut_of_regs _ rfl
    · refine ((regsBut_set _ _ _ ?_).trans (regsBut_set _ _ _ ?_)).trans (regsBut_set _ _ _ ?_)
      · simp [F.HBM_C_PPR_SOFT, R.HBM_C_PPR]
      · simp [F.HBM_C_PPR_PENDING, R.HBM_C_PPR]
      · simp [F.HBM_EVENT_PPR_DONE, R.HBM_EVENT]
/-- R461: a trim in range reads back. -/
theorem trim_set (s : State) (t : Int) (h : -32768 ≤ t) (h2 : t < 32768) : (s.setTrim t).trim = t := by
  unfold State.setTrim State.trim
  rw [State.get_set_self _ _ _ (by decide)]
  rw [show (BitVec.ofInt 16 t).toNat % 2 ^ F.CLK_TRIM_TRIM.w = (BitVec.ofInt 16 t).toNat from Nat.mod_eq_of_lt (BitVec.ofInt 16 t).isLt]
  rw [BitVec.ofNat_toNat, BitVec.setWidth_eq, BitVec.toInt_ofInt]
  rw [Int.bmod_eq_of_le] <;> omega
theorem trim_cong {s t : State} (h : t.reg R.CLK_TRIM = s.reg R.CLK_TRIM) : t.trim = s.trim := by
  unfold State.trim State.get; rw [show F.CLK_TRIM_TRIM.off = R.CLK_TRIM from rfl, h]
theorem get_goodWins (s : State) (n : Nat) (f : RF) : ({ s with goodWins := n } : State).get f = s.get f := rfl
theorem each_reg {α : Type} (l : List α) (f : State → α → State) (s : State) (P : Nat → Prop) (h : ∀ t a, a ∈ l → ∀ o, P o → (f t a).reg o = t.reg o) :
    ∀ o, P o → (s.each l f).reg o = s.reg o := by
  unfold State.each
  induction l generalizing s with
  | nil => intro o _; rfl
  | cons a l ih => intro o ho; rw [List.foldl_cons, ih (f s a) (fun t b hb => h t b (by simp [hb])) o ho, h s a (by simp) o ho]
theorem each_same {α β : Type} (l : List α) (f : State → α → State) (s : State) (g : State → β) (h : ∀ t a, g (f t a) = g t) : g (s.each l f) = g s :=
  each_keeps (fun t => g t = g s) l f s rfl (fun t a ht => (h t a).trans ht)
theorem foldl_min_mem (l : List Nat) (a : Nat) (h : l.foldl min a < a) : ∃ x ∈ l, x = l.foldl min a := by
  induction l generalizing a with
  | nil => exact absurd h (lt_irrefl _)
  | cons b l ih =>
    rw [List.foldl_cons] at h ⊢
    by_cases hb : l.foldl min (min a b) < min a b
    · obtain ⟨x, hx, e⟩ := ih _ hb; exact ⟨x, by simp [hx], e⟩
    · have hle : ∀ (l : List Nat) c, l.foldl min c ≤ c := by
        intro l; induction l with
        | nil => intro c; exact le_refl _
        | cons d l ih => intro c; rw [List.foldl_cons]; exact (ih _).trans (Nat.min_le_left _ _)
      have := hle l (min a b)
      refine ⟨b, by simp, ?_⟩; omega
/-- R472: each quadrant has its own power reading. -/
theorem powers_set (s : State) (quads : List Nat) (n q : Nat) (h : q < n) :
    (s.each (List.range n) fun t q => t.set (F.PWR_Q_POWER_W q) (min 4095 (quads.getD q 0))).get (F.PWR_Q_POWER_W q) = min 4095 (quads.getD q 0) := by
  induction n with
  | zero => omega
  | succ n ih =>
    unfold State.each at ih ⊢
    rw [List.range_succ, List.foldl_append, List.foldl_cons, List.foldl_nil]
    by_cases e : q = n
    · rw [e, State.get_set_self _ _ _ (by change 0 + 12 ≤ 32; decide)]; exact Nat.mod_eq_of_lt (by change _ < 2 ^ 12; omega)
    · rw [State.get_set_off _ _ (by simp only [F.PWR_Q_POWER_W]; omega)]; exact ih (by omega)
theorem ember_nvm (s : State) (cls : ECls) (kind : UKind) (unit d0 d1 : Nat) : (s.emberRecord cls kind unit d0 d1).nvm = s.nvm := by dsimp only [State.emberRecord]
theorem fresh_nvm (s : State) (n : Nat) : (s.fresh n).2.nvm = s.nvm := rfl
/-- A write of the control page is a memory access. -/
theorem step_page (s : State) (o : Nat) (bs : List Byte) : MemStep s (s.pageWrite o bs) := by
  unfold State.pageWrite; split
  · exact step_unitWrite_plain _ _ _ _ _ rfl
  · exact MemStep.rfl' s
theorem memstep_get {s t : State} (h : MemStep s t) {f : RF} (hf : memReg f.off = false) : t.get f = s.get f := by
  rw [State.get, State.get, h.2.1 _ hf]
/-- R488: the stage shows. -/
theorem stage_get (s : State) (c : Nat) (hc : c < 16) : (s.setStage c).get F.SEC_BOOT_STAGE = c := by
  unfold State.setStage; split
  · rename_i h; exact h
  · unfold State.raise
    rw [State.get_set_off _ _ (by decide), memstep_get (step_page _ _ _) (by decide), State.get_set_self _ _ _ (by decide)]; exact Nat.mod_eq_of_lt hc
theorem stage_keeps (s : State) (c : Nat) : (∀ f : RF, f.off ≠ R.SEC_BOOT → memReg f.off = false → (s.setStage c).get f = s.get f) ∧
    (s.setStage c).hob = s.hob ∧ (s.setStage c).aon = s.aon ∧ (s.setStage c).ember = s.ember ∧ (s.setStage c).nvm = s.nvm ∧ (s.setStage c).queues = s.queues := by
  unfold State.setStage; split
  · exact ⟨fun _ _ _ => rfl, rfl, rfl, rfl, rfl, rfl⟩
  · have h := step_page (s.set F.SEC_BOOT_STAGE c) 4 (leBytes 4 c)
    refine ⟨fun f h1 h2 => ?_, h.hob, h.aon, h.ember, h.nvm, h.queues⟩
    unfold State.raise
    rw [State.get_set_off _ _ (by intro e; rw [e] at h2; exact absurd h2 (by decide)), memstep_get h h2, State.get_set_off _ _ h1]
theorem stage_master (s : State) (c : Nat) : (s.setStage c).master = s.master := (stage_keeps s c).1 F.SEC_MASTER_HOLDER (by decide) (by decide)
theorem clocked_of {t : State} (h : t.aon.locked = false) : t.clocked = false := by
  show (t.aon.pg && t.aon.locked && !t.aon.tripped) = false; rw [h]; cases t.aon.pg <;> rfl
theorem clocked_pg {t : State} (h : t.aon.pg = false) : t.clocked = false := by
  show (t.aon.pg && t.aon.locked && !t.aon.tripped) = false; rw [h]; rfl
/-- What resets and halts of units keep. -/
structure Kept (s t : State) : Prop where
  mem : t.mem = s.mem
  errs : t.errs = s.errs
  ember : t.ember = s.ember
  hob : t.hob = s.hob
  aon : t.aon = s.aon
  ctrl : t.reg R.ERR_CTRL = s.reg R.ERR_CTRL
theorem Kept.rfl' (s : State) : Kept s s := ⟨rfl, rfl, rfl, rfl, rfl, rfl⟩
theorem Kept.trans {s t u : State} (h : Kept s t) (k : Kept t u) : Kept s u :=
  ⟨k.mem.trans h.mem, k.errs.trans h.errs, k.ember.trans h.ember, k.hob.trans h.hob, k.aon.trans h.aon, k.ctrl.trans h.ctrl⟩
theorem kept_set (s : State) (f : RF) (v : Nat) (h : R.ERR_CTRL ≠ f.off) : Kept s (s.set f v) := ⟨rfl, rfl, rfl, rfl, rfl, State.reg_set_ne _ _ h⟩
theorem kept_each {α : Type} (l : List α) (f : State → α → State) (s : State) (h : ∀ t a, Kept t (f t a)) : Kept s (s.each l f) :=
  each_keeps (fun t => Kept s t) l f s (Kept.rfl' s) (fun t a k => k.trans (h t a))
theorem kept_notes (s : State) (b : Nat) : Kept s (s.noteWaiters b) := kept_set _ _ _ (by show (0x500000 : Nat) ≠ 0x610004 + 0x8 * b; omega)
theorem kept_withdraw (s : State) (k : Nat) : Kept s (s.withdraw k) := by
  unfold State.withdraw; dsimp only
  refine Kept.trans (t := { s with syn := { s.syn with waiters := s.syn.waiters.filter (·.qid != k), released := s.syn.released.filter (· != k), lent := s.syn.lent.filter (· != k) } }) ⟨rfl, rfl, rfl, rfl, rfl, rfl⟩ ?_
  refine kept_each _ _ _ fun t b => (kept_notes t b.ctr).trans ?_
  obtain ⟨m, h⟩ := countWait_only (t.noteWaiters b.ctr) b b.cause
  rw [h]; exact ⟨rfl, rfl, rfl, rfl, rfl, rfl⟩
theorem kept_modH (s : State) (p : Nat) (f : Hearth → Hearth) : Kept s (s.modHearth p f) := ⟨rfl, rfl, rfl, rfl, rfl, rfl⟩
theorem kept_off1 (s : State) (c : Nat) : Kept s (s.crkOff c) := by
  refine Kept.trans (t := s.crkHalt c) ?_ (kept_set _ _ _ (by show (0x500000 : Nat) ≠ 0xD00000 + 0x1000 * c; omega))
  unfold State.crkHalt
  split
  · exact Kept.rfl' s
  · refine Kept.trans (t := s.crkRest c) ?_ (kept_set _ _ _ (by show (0x500000 : Nat) ≠ 0xD00008 + 0x1000 * c; omega))
    refine Kept.trans (t := if (s.cricket c).waiting then s.withdraw (s.crkQid c) else s) ?_ ⟨rfl, rfl, rfl, rfl, rfl, rfl⟩
    split
    · exact kept_withdraw _ _
    · exact Kept.rfl' s
theorem kept_reset (s : State) (c : Nat) : Kept s (s.crkReset c) := by
  unfold State.crkReset; split
  · exact ⟨rfl, rfl, rfl, rfl, rfl, rfl⟩
  · exact Kept.rfl' s
theorem kept_queuesOff (s : State) : Kept s s.queuesOff := by
  unfold State.queuesOff; dsimp only
  refine Kept.trans ?_ (kept_set _ _ _ (by decide))
  refine Kept.trans (kept_each _ _ _ fun t p => kept_set _ _ _ ?_) (kept_each _ _ _ fun t q => ?_)
  · simp [F.HRT_CTRL_EN, R.ERR_CTRL]; omega
  · repeat' refine Kept.trans ?_ (kept_set _ _ _ (by simp [F.BLW_CTRL_SVC_EN, F.KLN_CTRL_EN, F.FBX_CTRL_EN, F.COL_CTRL_EN, R.ERR_CTRL]; try omega))
    exact Kept.rfl' t
theorem kept_off (s : State) : Kept s s.unitsOff :=
  (kept_queuesOff s).trans (kept_each _ _ _ fun t q => (kept_set _ _ _ (by simp [F.BLW_CTRL_EN, R.ERR_CTRL]; omega)).trans
    (kept_set _ _ _ (by simp [F.BLW_CTRL_ROOT_EN, R.ERR_CTRL]; omega)))
/-- What a unit reset empties. -/
structure Emptied (t : State) : Prop where
  q : t.queues = []
  k : t.kln = []
  i : t.flue.injs = []
theorem empt_of {s t : State} (h : Emptied s) (e : t.queues = s.queues) (f : t.kln = s.kln) (g : t.flue = s.flue) : Emptied t :=
  ⟨e.trans h.q, f.trans h.k, by rw [g]; exact h.i⟩
theorem emp_withdraw (s : State) (k : Nat) : (s.withdraw k).queues = s.queues ∧ (s.withdraw k).kln = s.kln ∧ (s.withdraw k).flue = s.flue := by
  unfold State.withdraw; dsimp only
  have h (t : State) (w : Waiter) : ((t.noteWaiters w.ctr).countWait w w.cause).queues = t.queues ∧
      ((t.noteWaiters w.ctr).countWait w w.cause).kln = t.kln ∧ ((t.noteWaiters w.ctr).countWait w w.cause).flue = t.flue := by
    obtain ⟨m, h⟩ := countWait_only (t.noteWaiters w.ctr) w w.cause
    rw [h]; exact ⟨rfl, rfl, rfl⟩
  exact ⟨each_same _ _ _ (fun t : State => t.queues) fun t w => (h t w).1, each_same _ _ _ (fun t : State => t.kln) fun t w => (h t w).2.1,
    each_same _ _ _ (fun t : State => t.flue) fun t w => (h t w).2.2⟩
theorem emp_off (s : State) (c : Nat) (h : Emptied s) : Emptied (s.crkOff c) := by
  unfold State.crkOff State.crkHalt
  split
  · exact empt_of h rfl rfl rfl
  · unfold State.crkRest; dsimp only
    split
    · obtain ⟨a, b, d⟩ := emp_withdraw s (s.crkQid c)
      exact empt_of h a b d
    · exact empt_of h rfl rfl rfl
theorem emp_reset (s : State) (c : Nat) (h : Emptied s) : Emptied (s.crkReset c) := by
  unfold State.crkReset; split
  · exact empt_of h rfl rfl rfl
  · exact h
/-- A reset of units keeps memory and empties every queue. -/
theorem unitsReset_does (s : State) : Kept s s.unitsReset ∧ Emptied s.unitsReset := by
  unfold State.unitsReset; dsimp only
  obtain ⟨s1, e1⟩ : ∃ s1, s1 = s.queuesOff := ⟨_, rfl⟩
  rw [← e1]
  have k1 : Kept s s1 := e1 ▸ kept_queuesOff s
  obtain ⟨s2, e2⟩ : ∃ s2, s2 = s1.each (List.range 136) fun t p => ((t.set (F.HRT_QHEAD_HEAD p) 0).set (F.HRT_QTAIL_TAIL p) 0).set (F.DMP_SHEAD_HEAD p) 0 := ⟨_, rfl⟩
  rw [← e2]
  have k2 : Kept s s2 := by
    rw [e2]; refine k1.trans (kept_each _ _ _ fun t q => ?_)
    repeat' refine Kept.trans ?_ (kept_set _ _ _ (by simp [F.HRT_QHEAD_HEAD, F.HRT_QTAIL_TAIL, F.DMP_SHEAD_HEAD, R.ERR_CTRL]; try omega))
    exact Kept.rfl' t
  obtain ⟨s3, e3⟩ : ∃ s3, s3 = s2.each (List.range 4) fun t q =>
    ((((((((((t.set (F.KLN_QHEAD_HEAD q) 0).set (F.KLN_QTAIL_TAIL q) 0).set (F.FBX_QHEAD_HEAD q) 0).set (F.FBX_QTAIL_TAIL q) 0).set
      (F.COL_QHEAD_HEAD q) 0).set (F.COL_QTAIL_TAIL q) 0).set (F.BLW_SQHEAD_HEAD q) 0).set (F.BLW_SQTAIL_TAIL q) 0).set
      (F.FLU_SQHEAD_VALUE q) 0).set (F.FLU_SQTAIL_VALUE q) 0) := ⟨_, rfl⟩
  rw [← e3]
  have k3 : Kept s s3 := by
    rw [e3]; refine k2.trans (kept_each _ _ _ fun t q => ?_)
    repeat' refine Kept.trans ?_ (kept_set _ _ _ (by simp [F.KLN_QHEAD_HEAD, F.KLN_QTAIL_TAIL, F.FBX_QHEAD_HEAD, F.FBX_QTAIL_TAIL, F.COL_QHEAD_HEAD, F.COL_QTAIL_TAIL, F.BLW_SQHEAD_HEAD, F.BLW_SQTAIL_TAIL, F.FLU_SQHEAD_VALUE, F.FLU_SQTAIL_VALUE, R.ERR_CTRL]; try omega))
    exact Kept.rfl' t
  obtain ⟨sy, hsy⟩ : ∃ sy : Syn, sy = { s3.syn with waiters := s3.syn.waiters.filter (fun w => !(s.crkOfQid w.qid).isNone), released := s3.syn.released.filter (fun k => !(s.crkOfQid k).isNone) } := ⟨_, rfl⟩
  rw [← hsy]
  obtain ⟨s4, e4⟩ : ∃ s4 : State, s4 = { s3 with queues := [], kln := [], col := [], folded := [], flue := { s3.flue with injs := [], waiting := [] }, syn := sy } := ⟨_, rfl⟩
  rw [← e4]
  have k4 : Kept s s4 := k3.trans (by rw [e4]; exact ⟨rfl, rfl, rfl, rfl, rfl, rfl⟩)
  have m4 : Emptied s4 := by rw [e4]; exact ⟨rfl, rfl, rfl⟩
  refine ⟨k4.trans (Kept.trans (kept_each _ _ _ fun t p => kept_modH t p _) (kept_each _ _ _ fun t b => kept_notes t b)), ?_⟩
  refine each_keeps Emptied _ _ _ (each_keeps Emptied _ _ _ m4 ?_) ?_
  · intro t a h; exact empt_of h rfl rfl rfl
  · intro t a h; exact empt_of h rfl rfl rfl
theorem off_reset (s : State) (c : Nat) : (((s.crkOff c).crkReset c).cricket c).halted = true ∧ (((s.crkOff c).crkReset c).cricket c).inTrap = false ∧
    (((s.crkOff c).crkReset c).cricket c).g = [] ∧ ∀ d, d ≠ c → ((s.crkOff c).crkReset c).cricket d = s.cricket d := by
  have hh : ((s.crkOff c).cricket c).halted = true ∧ ∀ d, d ≠ c → (s.crkOff c).cricket d = s.cricket d := by
    cases h : (s.cricket c).halted with
    | true =>
      have e : s.crkOff c = s.set (F.CRK_CTRL_RUN c) 0 := by unfold State.crkOff State.crkHalt; rw [if_pos h]
      rw [e]; exact ⟨h, fun _ _ => rfl⟩
    | false => obtain ⟨a, _, _, b, _⟩ := crkOff_only s c h; rw [a]; exact ⟨rfl, b⟩
  unfold State.crkReset; rw [if_pos hh.1, crk_mod]
  exact ⟨hh.1, rfl, rfl, fun d hd => (crk_mod_ne _ _ _ _ hd).trans (hh.2 d hd)⟩
/-- What each index of a range gets, and no other takes away, the range leaves. -/
theorem each_range_get (n : Nat) (f : State → Nat → State) (s : State) (P : Nat → State → Prop) (own : ∀ t c, c < n → P c (f t c)) (keep : ∀ t c d, c < n → d ≠ c → P d t → P d (f t c)) :
    ∀ c < n, P c (s.each (List.range n) f) := by
  suffices h : ∀ m, m ≤ n → ∀ c < m, P c (s.each (List.range m) f) from h n (Nat.le_refl n)
  intro m
  induction m with
  | zero => intro _ c hc; omega
  | succ m ih =>
    intro hm c hc
    unfold State.each; rw [List.range_succ, List.foldl_append]
    by_cases e : c = m
    · subst e; exact own _ _ (by omega)
    · exact keep _ _ _ (by omega) e (ih (by omega) c (by omega))
theorem on_congr_reg {s t : State} (f : RF) (h : t.reg f.off = s.reg f.off) : t.on f = s.on f := by unfold State.on State.get; rw [h]
/-- R534: a unit reset. A replay already decided stays so; else a step in progress is recovered. -/
theorem unitReset_does (s : State) : ∃ u : State, s.unitReset = (if u.jobEn && !(s.unitsOff.unitsReset.job.outcome == 4) then u.recover else u) ∧ Kept s u ∧ Emptied u ∧
    ∀ c < 68, (u.cricket c).halted = true ∧ (u.cricket c).inTrap = false ∧ (u.cricket c).g = [] := by
  obtain ⟨k0, m0⟩ := unitsReset_does s.unitsOff
  obtain ⟨v, hv⟩ : ∃ v, v = s.unitsOff.unitsReset := ⟨_, rfl⟩
  rw [← hv] at k0 m0 ⊢
  obtain ⟨w, hw⟩ : ∃ w, w = ({ v with job := { v.job with ckDrain := none, ckEnded := false, outcome := if (v.job.outcome == 4) = true then 4 else 0 } } : State).set F.ERR_STATUS_DRAIN 0 := ⟨_, rfl⟩
  have kw : Kept s w := (kept_off s).trans (k0.trans (by
    rw [hw]
    refine Kept.trans (t := { v with job := { v.job with ckDrain := none, ckEnded := false, outcome := if (v.job.outcome == 4) = true then 4 else 0 } }) ⟨rfl, rfl, rfl, rfl, rfl, rfl⟩ (kept_set _ _ _ (by decide))))
  have mw : Emptied w := by rw [hw]; exact empt_of m0 rfl rfl rfl
  refine ⟨w.each (List.range 68) fun t c => (t.crkOff c).crkReset c, ?_, kw.trans (kept_each _ _ _ fun t c => (kept_off1 t c).trans (kept_reset _ c)), ?_, ?_⟩
  · unfold State.unitReset; dsimp only; rw [← hv, ← hw]
  · exact each_keeps Emptied _ _ _ mw fun t c h => emp_reset _ _ (emp_off _ _ h)
  · refine each_range_get 68 _ w (fun c t => (t.cricket c).halted = true ∧ (t.cricket c).inTrap = false ∧ (t.cricket c).g = []) ?_ ?_
    · intro t c hc; obtain ⟨a, b, d, _⟩ := off_reset t c; exact ⟨a, b, d⟩
    · intro t c d hc hd h; obtain ⟨_, _, _, e⟩ := off_reset t c; rw [e d hd]; exact h
theorem setStage_parts (u : State) (c : Nat) (hc : c < 16) (h : u.get F.SEC_BOOT_STAGE ≠ c) : (u.setStage c).get F.SEC_BOOT_STAGE = c ∧ (u.setStage c).aon = u.aon ∧ (u.setStage c).queues = u.queues ∧
    (u.setStage c).crk = u.crk ∧ (u.setStage c).hob = u.hob := by
  unfold State.setStage; rw [if_neg h]
  obtain ⟨v, hv⟩ : ∃ v, v = u.set F.SEC_BOOT_STAGE c := ⟨_, rfl⟩
  have hs : MemStep v (v.pageWrite 4 (leBytes 4 c)) := by
    unfold State.pageWrite; split
    · exact step_unitWrite_plain _ _ _ _ _ rfl
    · exact MemStep.rfl' v
  rw [← hv]
  obtain ⟨w, hw⟩ : ∃ w, w = v.pageWrite 4 (leBytes 4 c) := ⟨_, rfl⟩
  rw [← hw] at hs ⊢
  have hg : v.get F.SEC_BOOT_STAGE = c := by rw [hv, State.get_set_self _ _ _ (by decide)]; exact Nat.mod_eq_of_lt hc
  have e := hs.1
  refine ⟨?_, ?_, ?_, ?_, ?_⟩
  · unfold State.raise; rw [State.get_set_off _ _ (by decide)]
    unfold State.get; rw [hs.2.1 _ (by decide)]; exact hg
  · have := congrArg State.aon e; exact this.trans (by rw [hv]; rfl)
  · have := congrArg State.queues e; exact this.trans (by rw [hv]; rfl)
  · have := congrArg State.crk e; exact this.trans (by rw [hv]; rfl)
  · have := congrArg State.hob e; exact this.trans (by rw [hv]; rfl)
theorem afresh_reg (s : State) (m : Sparse Byte) (e : Sparse (BitVec 144)) (o : Nat) : (s.afreshFrom m e).reg o = State.reset.reg o := rfl
theorem stopNow_last (s : State) (code : Nat) (h : s.jobEn = true) : (s.stopNow code).aon.lastStop = code := by
  unfold State.stopNow; rw [if_neg (by rw [h]; decide)]; rfl
/-- R560: a host reset. -/
theorem hostReset_does (s : State) (hp : s.aon.pg = true) (ht : s.aon.tripped = false) : ∃ u : State,
    s.hostReset = (((u.setStage 1).setReg R.GEN_ID (s.reg R.GEN_ID)).setReg R.GEN_VARIANT (s.reg R.GEN_VARIANT)) ∧
        u.mem = farPart (s.stopNow Stop.hostStop.code).mem farBase ∧ u.jobEn = false ∧ u.nvm = (s.stopNow Stop.hostStop.code).nvm ∧ u.get F.SEC_BOOT_NVM_MODE = s.aon.nvmMode % 2 ^ F.SEC_BOOT_NVM_MODE.w ∧
        u.get F.SEC_BOOT_HOB_SEL = s.aon.hobSel % 2 ^ F.SEC_BOOT_HOB_SEL.w ∧ u.get F.CLK_STATUS_OSCWAIT = s.aon.oscWait % 2 ^ F.CLK_STATUS_OSCWAIT.w ∧ u.get F.SEC_BOOT_STAGE = 0 ∧
        u.aon.locked = false ∧ u.aon.ready = false ∧ u.queues = [] ∧ u.crk = [] ∧ u.hob.cmd = none ∧ (s.jobEn = true → u.aon.lastStop = 14) := by
  obtain ⟨s1, h1⟩ : ∃ s1, s1 = s.stopNow Stop.hostStop.code := ⟨_, rfl⟩
  obtain ⟨a, ha⟩ : ∃ a, a = s1.afreshFrom (farPart s1.mem farBase) (farPart s1.errs (farBase / 16)) := ⟨_, rfl⟩
  obtain ⟨s3, h3⟩ : ∃ s3 : State, s3 = { a.keepLink s1 with aon := { (a.keepLink s1).aon with ready := false, locked := false }, cycle := s1.cycle, errSeq := s1.errSeq } := ⟨_, rfl⟩
  obtain ⟨u, hu⟩ : ∃ u : State, u = (((((s3.set F.SEC_BOOT_NVM_MODE s.aon.nvmMode).set F.SEC_BOOT_HOB_SEL s.aon.hobSel).put F.SEC_BOOT_FAB_MASTER s.aon.fabMaster).setReg R.SEC_MASTER (s.reg R.SEC_MASTER)).set F.CLK_STATUS_OSCWAIT s.aon.oscWait).set F.SEC_BOOTCNT_COUNT (s.get F.SEC_BOOTCNT_COUNT) := ⟨_, rfl⟩
  have r3 : ∀ f : RF, f.off ≠ R.CXL_STATUS → s3.get f = State.reset.get f := by
    intro f hf
    have : s3.reg f.off = a.reg f.off := by rw [h3]; exact State.reg_setReg_ne _ _ hf
    unfold State.get; rw [this, ha, afresh_reg]
  have z : State.reset.get F.SEC_BOOT_STAGE = 0 := by decide
  have z2 : State.reset.get F.ERR_CTRL_JOB_EN = 0 := by decide
  refine ⟨u, ?_, ?_, ?_, ?_, ?_, ?_, ?_, ?_, ?_, ?_, ?_, ?_, ?_, ?_⟩
  · unfold State.hostReset; rw [if_neg (by rw [hp, ht]; decide)]; dsimp only; rw [← h1, ← ha, ← h3, ← hu]
  · rw [hu, h3, ha, h1]; rfl
  · unfold State.jobEn State.on
    rw [hu, State.get_set_off _ _ (by decide), State.get_set_off _ _ (by decide), State.get_setReg_off _ _ (by decide)]
    unfold State.put; rw [State.get_set_off _ _ (by decide), State.get_set_off _ _ (by decide), State.get_set_off _ _ (by decide), r3 _ (by decide), z2]; rfl
  · rw [hu, h3, ha, h1]; rfl
  · rw [hu, State.get_set_off _ _ (by decide), State.get_set_off _ _ (by decide), State.get_setReg_off _ _ (by decide)]
    unfold State.put; rw [State.get_set_bits _ _ (by decide), State.get_set_bits _ _ (by decide), State.get_set_self _ _ _ (by decide)]
    all_goals decide
  · rw [hu, State.get_set_off _ _ (by decide), State.get_set_off _ _ (by decide), State.get_setReg_off _ _ (by decide)]
    unfold State.put; rw [State.get_set_bits _ _ (by decide), State.get_set_self _ _ _ (by decide)]
    all_goals decide
  · rw [hu, State.get_set_off _ _ (by decide), State.get_set_self _ _ _ (by decide)]
  · rw [hu, State.get_set_off _ _ (by decide), State.get_set_off _ _ (by decide), State.get_setReg_off _ _ (by decide)]
    unfold State.put; rw [State.get_set_bits _ _ (by decide), State.get_set_bits _ _ (by decide), State.get_set_bits _ _ (by decide), r3 _ (by decide), z]
    all_goals decide
  · rw [hu, h3]; rfl
  · rw [hu, h3]; rfl
  · rw [hu, h3, ha]; rfl
  · rw [hu, h3, ha]; rfl
  · rw [hu, h3, ha]; rfl
  · intro hj; rw [hu, h3, ha, h1]; exact stopNow_last s _ hj
/-- R560, R479: no host reset while power is not good or a thermal trip holds. -/
theorem hostReset_off (s : State) (h : s.aon.pg = false ∨ s.aon.tripped = true) : s.hostReset = s := by
  unfold State.hostReset; rw [if_pos (by rcases h with h | h <;> rw [h] <;> simp)]
theorem gives_off {i : Instr} {s : State} {f : State → State} (h : exec i s = s.ticked f) (hc : s.clocked = false) : Gives i s s :=
  gives_answer (h.trans (ticked_off s f hc)) rfl
theorem gives_same {i : Instr} {s : State} {f : State → State} (h : exec i s = s.ticked f) (hu : f s = s) : Gives i s s := by
  cases hc : s.clocked with
  | false => exact gives_off h hc
  | true => exact gives_ticked h hc hu

end Sys2Proof.Machine
end

