-- ==== Sys2Proof/WellFormed.lean ====
section
/-! DEFINITION. Well-formed commands: what a command's operands must satisfy beside their types, each check under a name.
A register access of any width and offset is well-formed: R543 says what a wrong one does. -/

namespace Sys2Proof

/-- The checks of a command, by name. -/
def checks (i : Instr) : List (String × Bool) :=
  match i with
  | .registerWrite _ _ len val => [("data wider than the access", decide (val.toNat < 2 ^ (8 * len)))]
  | .readClear _ _ _ => []
  | .pairLoRead _ _ => []
  | .hearthQtailWrite _ _ _ => []
  | .hearthPrefetch _ => []
  | .matmul _ => []
  | .bubble _ => []
  | .hearthNop _ => []
  | .wave _ _ => []
  | .paceMiss _ => []
  | .tileDrain _ => []
  | .reDrain _ => []
  | .reRun _ => []
  | .bubbleEnd _ => []
  | .holdBubble _ => []
  | .holdBubbleEnd _ => []
  | .borrowSubmit _ => []
  | .hrtAbort _ _ _ => []
  | .hearthQreset _ _ => []
  | .paceMinRead _ _ => []
  | .sideRingReset _ _ => []
  | .ptabLoad _ _ _ => []
  | .ptabLoadDone _ => []
  | .watchRecheck _ => []
  | .watchCompare _ => []
  | .seeding _ _ => []
  | .seedingDone => []
  | .journalSave _ => []
  | .journalRestore _ => []
  | .journalOpDone => []
  | .policyWrite _ _ _ => []
  | .hbinRead _ _ => []
  | .tapRecord _ => []
  | .matrixSampleStart _ _ => []
  | .rowAccumulate _ _ => []
  | .factorFold _ _ => []
  | .lambdaRequestSubmit _ => []
  | .lambdaRequest _ => []
  | .lambdaBudgetReached _ => []
  | .rootPreparation _ _ => []
  | .rootIteration _ _ => []
  | .rootHold _ => []
  | .blwSqtailWrite _ _ _ => []
  | .ortho _ => []
  | .blwReload _ _ _ => []
  | .blwReloadDone _ => []
  | .klnQtailWrite _ _ _ => []
  | .solve _ => []
  | .solveIteration _ => []
  | .deadline _ => []
  | .factor _ => []
  | .kilnNop _ => []
  | .klnAbort _ _ _ => []
  | .kilnQreset _ _ => []
  | .fbxQtailWrite _ _ _ => []
  | .norm _ => []
  | .fold _ => []
  | .update _ => []
  | .dwrite _ => []
  | .fireboxNop _ => []
  | .fbxAbort _ _ _ => []
  | .fireboxQreset _ _ => []
  | .scalarInteger _ => []
  | .scalarLoadStore _ => []
  | .branch _ => []
  | .shortVectorArithmetic _ => []
  | .shortVectorMemory _ => []
  | .longVectorArithmetic _ => []
  | .longVectorMemory _ => []
  | .maskOperation _ => []
  | .conversion _ => []
  | .hash _ => []
  | .setvl _ => []
  | .setwl _ => []
  | .crd _ => []
  | .cwr _ => []
  | .trap _ => []
  | .tret _ => []
  | .fence _ => []
  | .syncw _ => []
  | .syncwDone _ => []
  | .iflush _ => []
  | .spk _ => []
  | .wait _ => []
  | .waitt _ => []
  | .senter _ => []
  | .halt _ => []
  | .cricketRun _ _ => []
  | .cricketHalt _ _ => []
  | .creset _ _ => []
  | .mailboxWrite _ _ _ => []
  | .weevilRead hbm idx => [("no such slice", hbm || decide (idx.val < 136))]
  | .pairRetire _ _ => []
  | .pairRetireDone => []
  | .parityRetry _ _ => []
  | .emergencyRetrain _ => []
  | .retrainDone _ => []
  | .channelLost _ => []
  | .interleaveReform _ _ => []
  | .interleaveReformDone => []
  | .marginStart _ _ => []
  | .marginAbort _ => []
  | .marginRunDone _ _ => []
  | .portModeWrite _ _ _ => []
  | .portRetrainRequest _ _ _ => []
  | .portTrainingDone _ _ _ _ => []
  | .portTrainingTimeout _ => []
  | .laneLost _ _ => []
  | .laneRetire _ _ => []
  | .codewordUncorrectable _ seqs => [("a packet named twice", decide seqs.Nodup)]
  | .nak _ _ => []
  | .portDeadTimeout _ => []
  | .packetArrival _ _ pkt errs => [("packet of another size", pkt.length == 64), ("error patterns of other than four codewords", errs.length == 4)]
  | .holdLimitExpiry _ => []
  | .dataReceive => []
  | .sparkReceive => []
  | .streamAck => []
  | .treeAck => []
  | .mcastReceive => []
  | .blockCombine _ => []
  | .send _ => []
  | .fluSqtailWrite _ _ _ => []
  | .frameMark => []
  | .frameMarkReceive _ _ => []
  | .tableCommit _ _ => []
  | .tableCommitDone => []
  | .plannedSwitchRequest _ _ => []
  | .epochSwitch => []
  | .emergencyNotice _ _ => []
  | .noticeReceive _ pkt => [("packet of another size", pkt.length == 64)]
  | .emergencySwitch => []
  | .fenceWrite _ _ => []
  | .cartridgeInsert _ _ => []
  | .cartridgeRemove _ => []
  | .cartridgeOverpower _ => []
  | .cartridgeMonitor readings => [("readings of more than twelve ports", decide (readings.length ≤ 12)), ("other than four readings of a port", readings.all fun (l : List Nat) => l.length == 4)]
  | .cartridgeHours => []
  | .colQtailWrite _ _ _ => []
  | .allreduce _ => []
  | .reduce _ => []
  | .collectiveNorm _ => []
  | .collectiveNop _ => []
  | .colAbort _ _ _ => []
  | .collectiveQreset _ _ => []
  | .barrierSignal _ _ => []
  | .waitTakeRelease _ => []
  | .barrierSubtract _ _ _ => []
  | .synSignal _ _ => []
  | .barrierCountWrite _ _ _ => []
  | .powerLend _ => []
  | .trimWindow _ => []
  | .trimSave => []
  | .refLost => []
  | .holdLimit => []
  | .oscWaitEnd _ => []
  | .pllLock => []
  | .pllUnlock => []
  | .pllRelock => []
  | .pllRelockTimeout => []
  | .monitorInterval counts => [("other than six domains", counts.length == 6)]
  | .railFault _ _ _ _ => []
  | .vloopPeriod _ => []
  | .budgetCompare quads _ => [("other than four quadrants", quads.length == 4)]
  | .throttleStep => []
  | .thermalSample temps => [("other than 64 sensors", temps.length == 64)]
  | .powerGoodRise _ _ _ _ => []
  | .powerGoodFall => []
  | .stageRom _ _ => []
  | .stageImage => []
  | .stageRestore => []
  | .stageCalib portsUp channelsUp slicesOk gib => [("neither no stacks nor eight", gib.2.length == 0 || gib.2.length == 8), ("other than twelve ports", portsUp.length == 12), ("other than 256 channels", channelsUp.length == 256), ("other than 136 slices", slicesOk.length == 136), ("more than two CXL ports", decide (gib.1.length ≤ 2))]
  | .stageInit => []
  | .ready => []
  | .heartbeat _ => []
  | .tokenPass => []
  | .hostPagePoll => []
  | .load => []
  | .loadComplete => []
  | .loadTimeout => []
  | .unload => []
  | .attest => []
  | .challenge nonce => [("nonce of another size", nonce.length == 32)]
  | .submit => []
  | .close => []
  | .config => []
  | .retainWrite => []
  | .standbyBusRead _ => []
  | .verdictIssue => []
  | .verdictResult => []
  | .verdictTimeout => []
  | .stepWatchdog => []
  | .stepClose => []
  | .checkpointDrainDone => []
  | .replay => []
  | .rewind => []
  | .unitReset _ _ => []
  | .checkpointControlWrite _ _ => []
  | .ffySnapshot _ _ => []
  | .hostWindowWrite off bytes => [("outside the window", decide (off + bytes.length ≤ 2 ^ 30))]
  | .hostReset _ _ => []
  | .sysRstN _ => []
  | .perstN _ => []
  | .pcieLinkUp gen width => [("no such rate", [4, 5, 6].contains gen.val), ("no such width", [1, 2, 4].contains width.val)]
  | .cxlHotAdd _ gib => [("an empty device", decide (gib ≠ 0))]
  | .cxlLinkDown _ => []
  | .pcieLinkDown => []
  | .cxlHotRemove _ => []
  | .railRestoreDone _ => []
  | .postedWriteApplied _ => []
  | .referenceReturn _ => []
  | .softRepairDone _ => []
  | .standbyPowerUp => []
  | .standbyPowerLoss => []

/-- The name of the first check that refuses a command. -/
def refusedBy (i : Instr) : Option String := ((checks i).find? fun (c : String × Bool) => !c.2).map (·.1)
/-- Whether a command is well-formed. -/
def WellFormed (i : Instr) : Bool := (checks i).all (·.2)

end Sys2Proof
end

