-- ==== Sys2Proof/Laws/PerInstr.lean ====
section
/-! SUPPORT. The statement of every command as syntax: a command that is not well-formed is refused by the name of one of its
own checks, and a well-formed one by none. -/

set_option Elab.async false

namespace Sys2Proof.Laws

/-- A list of checks holds throughout, or the first one that fails names itself. -/
theorem checks_named (l : List (String × Bool)) :
    (l.all (·.2) = true ∧ (l.find? fun (c : String × Bool) => !c.2).map (·.1) = none) ∨
    (l.all (·.2) = false ∧ ∃ n ∈ l.map (·.1), (l.find? fun (c : String × Bool) => !c.2).map (·.1) = some n) := by
  induction l with
  | nil => exact .inl ⟨rfl, rfl⟩
  | cons c t ih =>
    obtain ⟨n, b⟩ := c
    cases b with
    | false => exact .inr ⟨rfl, n, by simp, by simp⟩
    | true =>
      rcases ih with ⟨h1, h2⟩ | ⟨h1, m, h2, h3⟩
      · exact .inl ⟨by simpa using h1, by simpa using h2⟩
      · exact .inr ⟨by simpa using h1, m, by simp only [List.map_cons, List.mem_cons]; exact .inr h2, by simpa using h3⟩

/-- A command is well-formed and refused by no check, or refused by one of its own checks by name. -/
def WellFormedNamed.Statement (i : Instr) : Prop :=
  (WellFormed i = true ∧ refusedBy i = none) ∨ (WellFormed i = false ∧ ∃ n ∈ (checks i).map (·.1), refusedBy i = some n)

theorem WellFormedNamed.registerWrite (who : Requester) (off : BitVec 26) (len : Nat) (val : DWord) : WellFormedNamed.Statement (.registerWrite who off len val) := checks_named _
theorem WellFormedNamed.readClear (who : Requester) (off : BitVec 26) (len : Nat) : WellFormedNamed.Statement (.readClear who off len) := checks_named _
theorem WellFormedNamed.pairLoRead (who : Requester) (off : BitVec 26) : WellFormedNamed.Statement (.pairLoRead who off) := checks_named _
theorem WellFormedNamed.hearthQtailWrite (who : Requester) (p : Fin 136) (val : Word) : WellFormedNamed.Statement (.hearthQtailWrite who p val) := checks_named _
theorem WellFormedNamed.hearthPrefetch (p : Fin 136) : WellFormedNamed.Statement (.hearthPrefetch p) := checks_named _
theorem WellFormedNamed.matmul (p : Fin 136) : WellFormedNamed.Statement (.matmul p) := checks_named _
theorem WellFormedNamed.bubble (p : Fin 136) : WellFormedNamed.Statement (.bubble p) := checks_named _
theorem WellFormedNamed.hearthNop (p : Fin 136) : WellFormedNamed.Statement (.hearthNop p) := checks_named _
theorem WellFormedNamed.wave (p : Fin 136) (slack : Byte) : WellFormedNamed.Statement (.wave p slack) := checks_named _
theorem WellFormedNamed.paceMiss (p : Fin 136) : WellFormedNamed.Statement (.paceMiss p) := checks_named _
theorem WellFormedNamed.tileDrain (p : Fin 136) : WellFormedNamed.Statement (.tileDrain p) := checks_named _
theorem WellFormedNamed.reDrain (p : Fin 136) : WellFormedNamed.Statement (.reDrain p) := checks_named _
theorem WellFormedNamed.reRun (p : Fin 136) : WellFormedNamed.Statement (.reRun p) := checks_named _
theorem WellFormedNamed.bubbleEnd (p : Fin 136) : WellFormedNamed.Statement (.bubbleEnd p) := checks_named _
theorem WellFormedNamed.holdBubble (p : Fin 136) : WellFormedNamed.Statement (.holdBubble p) := checks_named _
theorem WellFormedNamed.holdBubbleEnd (p : Fin 136) : WellFormedNamed.Statement (.holdBubbleEnd p) := checks_named _
theorem WellFormedNamed.borrowSubmit (q : Fin 4) : WellFormedNamed.Statement (.borrowSubmit q) := checks_named _
theorem WellFormedNamed.hrtAbort (who : Requester) (p : Fin 136) (tag : Word) : WellFormedNamed.Statement (.hrtAbort who p tag) := checks_named _
theorem WellFormedNamed.hearthQreset (who : Requester) (p : Fin 136) : WellFormedNamed.Statement (.hearthQreset who p) := checks_named _
theorem WellFormedNamed.paceMinRead (who : Requester) (p : Fin 136) : WellFormedNamed.Statement (.paceMinRead who p) := checks_named _
theorem WellFormedNamed.sideRingReset (who : Requester) (p : Fin 136) : WellFormedNamed.Statement (.sideRingReset who p) := checks_named _
theorem WellFormedNamed.ptabLoad (who : Requester) (p : Fin 136) (val : Word) : WellFormedNamed.Statement (.ptabLoad who p val) := checks_named _
theorem WellFormedNamed.ptabLoadDone (p : Fin 136) : WellFormedNamed.Statement (.ptabLoadDone p) := checks_named _
theorem WellFormedNamed.watchRecheck (p : Fin 136) : WellFormedNamed.Statement (.watchRecheck p) := checks_named _
theorem WellFormedNamed.watchCompare (p : Fin 136) : WellFormedNamed.Statement (.watchCompare p) := checks_named _
theorem WellFormedNamed.seeding (who : Requester) (val : Word) : WellFormedNamed.Statement (.seeding who val) := checks_named _
theorem WellFormedNamed.seedingDone : WellFormedNamed.Statement (.seedingDone) := checks_named _
theorem WellFormedNamed.journalSave (who : Requester) : WellFormedNamed.Statement (.journalSave who) := checks_named _
theorem WellFormedNamed.journalRestore (who : Requester) : WellFormedNamed.Statement (.journalRestore who) := checks_named _
theorem WellFormedNamed.journalOpDone : WellFormedNamed.Statement (.journalOpDone) := checks_named _
theorem WellFormedNamed.policyWrite (who : Requester) (e : Fin 256) (val : Word) : WellFormedNamed.Statement (.policyWrite who e val) := checks_named _
theorem WellFormedNamed.hbinRead (who : Requester) (b : Fin 64) : WellFormedNamed.Statement (.hbinRead who b) := checks_named _
theorem WellFormedNamed.tapRecord (p : Fin 136) : WellFormedNamed.Statement (.tapRecord p) := checks_named _
theorem WellFormedNamed.matrixSampleStart (q : Fin 4) (f : Fin 1024) : WellFormedNamed.Statement (.matrixSampleStart q f) := checks_named _
theorem WellFormedNamed.rowAccumulate (q : Fin 4) (f : Fin 1024) : WellFormedNamed.Statement (.rowAccumulate q f) := checks_named _
theorem WellFormedNamed.factorFold (q : Fin 4) (f : Fin 1024) : WellFormedNamed.Statement (.factorFold q f) := checks_named _
theorem WellFormedNamed.lambdaRequestSubmit (q : Fin 4) : WellFormedNamed.Statement (.lambdaRequestSubmit q) := checks_named _
theorem WellFormedNamed.lambdaRequest (q : Fin 4) : WellFormedNamed.Statement (.lambdaRequest q) := checks_named _
theorem WellFormedNamed.lambdaBudgetReached (q : Fin 4) : WellFormedNamed.Statement (.lambdaBudgetReached q) := checks_named _
theorem WellFormedNamed.rootPreparation (q : Fin 4) (f : Fin 1024) : WellFormedNamed.Statement (.rootPreparation q f) := checks_named _
theorem WellFormedNamed.rootIteration (q : Fin 4) (f : Fin 1024) : WellFormedNamed.Statement (.rootIteration q f) := checks_named _
theorem WellFormedNamed.rootHold (q : Fin 4) : WellFormedNamed.Statement (.rootHold q) := checks_named _
theorem WellFormedNamed.blwSqtailWrite (who : Requester) (q : Fin 4) (val : Word) : WellFormedNamed.Statement (.blwSqtailWrite who q val) := checks_named _
theorem WellFormedNamed.ortho (q : Fin 4) : WellFormedNamed.Statement (.ortho q) := checks_named _
theorem WellFormedNamed.blwReload (who : Requester) (q : Fin 4) (val : Word) : WellFormedNamed.Statement (.blwReload who q val) := checks_named _
theorem WellFormedNamed.blwReloadDone (q : Fin 4) : WellFormedNamed.Statement (.blwReloadDone q) := checks_named _
theorem WellFormedNamed.klnQtailWrite (who : Requester) (q : Fin 4) (val : Word) : WellFormedNamed.Statement (.klnQtailWrite who q val) := checks_named _
theorem WellFormedNamed.solve (q : Fin 4) : WellFormedNamed.Statement (.solve q) := checks_named _
theorem WellFormedNamed.solveIteration (q : Fin 4) : WellFormedNamed.Statement (.solveIteration q) := checks_named _
theorem WellFormedNamed.deadline (q : Fin 4) : WellFormedNamed.Statement (.deadline q) := checks_named _
theorem WellFormedNamed.factor (q : Fin 4) : WellFormedNamed.Statement (.factor q) := checks_named _
theorem WellFormedNamed.kilnNop (q : Fin 4) : WellFormedNamed.Statement (.kilnNop q) := checks_named _
theorem WellFormedNamed.klnAbort (who : Requester) (q : Fin 4) (tag : Word) : WellFormedNamed.Statement (.klnAbort who q tag) := checks_named _
theorem WellFormedNamed.kilnQreset (who : Requester) (q : Fin 4) : WellFormedNamed.Statement (.kilnQreset who q) := checks_named _
theorem WellFormedNamed.fbxQtailWrite (who : Requester) (q : Fin 4) (val : Word) : WellFormedNamed.Statement (.fbxQtailWrite who q val) := checks_named _
theorem WellFormedNamed.norm (q : Fin 4) : WellFormedNamed.Statement (.norm q) := checks_named _
theorem WellFormedNamed.fold (q : Fin 4) : WellFormedNamed.Statement (.fold q) := checks_named _
theorem WellFormedNamed.update (q : Fin 4) : WellFormedNamed.Statement (.update q) := checks_named _
theorem WellFormedNamed.dwrite (q : Fin 4) : WellFormedNamed.Statement (.dwrite q) := checks_named _
theorem WellFormedNamed.fireboxNop (q : Fin 4) : WellFormedNamed.Statement (.fireboxNop q) := checks_named _
theorem WellFormedNamed.fbxAbort (who : Requester) (q : Fin 4) (tag : Word) : WellFormedNamed.Statement (.fbxAbort who q tag) := checks_named _
theorem WellFormedNamed.fireboxQreset (who : Requester) (q : Fin 4) : WellFormedNamed.Statement (.fireboxQreset who q) := checks_named _
theorem WellFormedNamed.scalarInteger (c : Fin 72) : WellFormedNamed.Statement (.scalarInteger c) := checks_named _
theorem WellFormedNamed.scalarLoadStore (c : Fin 72) : WellFormedNamed.Statement (.scalarLoadStore c) := checks_named _
theorem WellFormedNamed.branch (c : Fin 72) : WellFormedNamed.Statement (.branch c) := checks_named _
theorem WellFormedNamed.shortVectorArithmetic (c : Fin 72) : WellFormedNamed.Statement (.shortVectorArithmetic c) := checks_named _
theorem WellFormedNamed.shortVectorMemory (c : Fin 72) : WellFormedNamed.Statement (.shortVectorMemory c) := checks_named _
theorem WellFormedNamed.longVectorArithmetic (c : Fin 72) : WellFormedNamed.Statement (.longVectorArithmetic c) := checks_named _
theorem WellFormedNamed.longVectorMemory (c : Fin 72) : WellFormedNamed.Statement (.longVectorMemory c) := checks_named _
theorem WellFormedNamed.maskOperation (c : Fin 72) : WellFormedNamed.Statement (.maskOperation c) := checks_named _
theorem WellFormedNamed.conversion (c : Fin 72) : WellFormedNamed.Statement (.conversion c) := checks_named _
theorem WellFormedNamed.hash (c : Fin 72) : WellFormedNamed.Statement (.hash c) := checks_named _
theorem WellFormedNamed.setvl (c : Fin 72) : WellFormedNamed.Statement (.setvl c) := checks_named _
theorem WellFormedNamed.setwl (c : Fin 72) : WellFormedNamed.Statement (.setwl c) := checks_named _
theorem WellFormedNamed.crd (c : Fin 72) : WellFormedNamed.Statement (.crd c) := checks_named _
theorem WellFormedNamed.cwr (c : Fin 72) : WellFormedNamed.Statement (.cwr c) := checks_named _
theorem WellFormedNamed.trap (c : Fin 72) : WellFormedNamed.Statement (.trap c) := checks_named _
theorem WellFormedNamed.tret (c : Fin 72) : WellFormedNamed.Statement (.tret c) := checks_named _
theorem WellFormedNamed.fence (c : Fin 72) : WellFormedNamed.Statement (.fence c) := checks_named _
theorem WellFormedNamed.syncw (c : Fin 72) : WellFormedNamed.Statement (.syncw c) := checks_named _
theorem WellFormedNamed.syncwDone (c : Fin 72) : WellFormedNamed.Statement (.syncwDone c) := checks_named _
theorem WellFormedNamed.iflush (c : Fin 72) : WellFormedNamed.Statement (.iflush c) := checks_named _
theorem WellFormedNamed.spk (c : Fin 72) : WellFormedNamed.Statement (.spk c) := checks_named _
theorem WellFormedNamed.wait (c : Fin 72) : WellFormedNamed.Statement (.wait c) := checks_named _
theorem WellFormedNamed.waitt (c : Fin 72) : WellFormedNamed.Statement (.waitt c) := checks_named _
theorem WellFormedNamed.senter (c : Fin 72) : WellFormedNamed.Statement (.senter c) := checks_named _
theorem WellFormedNamed.halt (c : Fin 72) : WellFormedNamed.Statement (.halt c) := checks_named _
theorem WellFormedNamed.cricketRun (who : Requester) (c : Fin 72) : WellFormedNamed.Statement (.cricketRun who c) := checks_named _
theorem WellFormedNamed.cricketHalt (who : Requester) (c : Fin 72) : WellFormedNamed.Statement (.cricketHalt who c) := checks_named _
theorem WellFormedNamed.creset (who : Requester) (c : Fin 72) : WellFormedNamed.Statement (.creset who c) := checks_named _
theorem WellFormedNamed.mailboxWrite (who : Requester) (c : Fin 72) (val : Word) : WellFormedNamed.Statement (.mailboxWrite who c val) := checks_named _
theorem WellFormedNamed.weevilRead (hbm : Bool) (idx : Fin 256) : WellFormedNamed.Statement (.weevilRead hbm idx) := checks_named _
theorem WellFormedNamed.pairRetire (who : Requester) (val : Word) : WellFormedNamed.Statement (.pairRetire who val) := checks_named _
theorem WellFormedNamed.pairRetireDone : WellFormedNamed.Statement (.pairRetireDone) := checks_named _
theorem WellFormedNamed.parityRetry (ch : Fin 256) (ok : Bool) : WellFormedNamed.Statement (.parityRetry ch ok) := checks_named _
theorem WellFormedNamed.emergencyRetrain (ch : Fin 256 × BitVec 8) : WellFormedNamed.Statement (.emergencyRetrain ch) := checks_named _
theorem WellFormedNamed.retrainDone (ch : Fin 256) : WellFormedNamed.Statement (.retrainDone ch) := checks_named _
theorem WellFormedNamed.channelLost (ch : Fin 256) : WellFormedNamed.Statement (.channelLost ch) := checks_named _
theorem WellFormedNamed.interleaveReform (who : Requester) (val : Word) : WellFormedNamed.Statement (.interleaveReform who val) := checks_named _
theorem WellFormedNamed.interleaveReformDone : WellFormedNamed.Statement (.interleaveReformDone) := checks_named _
theorem WellFormedNamed.marginStart (who : Requester) (val : Word) : WellFormedNamed.Statement (.marginStart who val) := checks_named _
theorem WellFormedNamed.marginAbort (who : Requester) : WellFormedNamed.Statement (.marginAbort who) := checks_named _
theorem WellFormedNamed.marginRunDone (ce ue : Word) : WellFormedNamed.Statement (.marginRunDone ce ue) := checks_named _
theorem WellFormedNamed.portModeWrite (who : Requester) (p : Fin 12) (val : Word) : WellFormedNamed.Statement (.portModeWrite who p val) := checks_named _
theorem WellFormedNamed.portRetrainRequest (who : Requester) (p : Fin 12) (val : Word) : WellFormedNamed.Statement (.portRetrainRequest who p val) := checks_named _
theorem WellFormedNamed.portTrainingDone (p : Fin 12) (lanes : BitVec 9) (rtt hop : BitVec 8) : WellFormedNamed.Statement (.portTrainingDone p lanes rtt hop) := checks_named _
theorem WellFormedNamed.portTrainingTimeout (p : Fin 12) : WellFormedNamed.Statement (.portTrainingTimeout p) := checks_named _
theorem WellFormedNamed.laneLost (p : Fin 12) (l : Fin 9) : WellFormedNamed.Statement (.laneLost p l) := checks_named _
theorem WellFormedNamed.laneRetire (p : Fin 12) (l : Fin 9) : WellFormedNamed.Statement (.laneRetire p l) := checks_named _
theorem WellFormedNamed.codewordUncorrectable (p : Fin 12) (seqs : List (BitVec 6)) : WellFormedNamed.Statement (.codewordUncorrectable p seqs) := checks_named _
theorem WellFormedNamed.nak (p : Fin 12) (seq : BitVec 6) : WellFormedNamed.Statement (.nak p seq) := checks_named _
theorem WellFormedNamed.portDeadTimeout (p : Fin 12) : WellFormedNamed.Statement (.portDeadTimeout p) := checks_named _
theorem WellFormedNamed.packetArrival (p : Fin 12) (seq : BitVec 6) (pkt : List Byte) (errs : List (BitVec 144)) : WellFormedNamed.Statement (.packetArrival p seq pkt errs) := checks_named _
theorem WellFormedNamed.holdLimitExpiry (p : Fin 12) : WellFormedNamed.Statement (.holdLimitExpiry p) := checks_named _
theorem WellFormedNamed.dataReceive : WellFormedNamed.Statement (.dataReceive) := checks_named _
theorem WellFormedNamed.sparkReceive : WellFormedNamed.Statement (.sparkReceive) := checks_named _
theorem WellFormedNamed.streamAck : WellFormedNamed.Statement (.streamAck) := checks_named _
theorem WellFormedNamed.treeAck : WellFormedNamed.Statement (.treeAck) := checks_named _
theorem WellFormedNamed.mcastReceive : WellFormedNamed.Statement (.mcastReceive) := checks_named _
theorem WellFormedNamed.blockCombine (q : Fin 4) : WellFormedNamed.Statement (.blockCombine q) := checks_named _
theorem WellFormedNamed.send (q : Fin 4) : WellFormedNamed.Statement (.send q) := checks_named _
theorem WellFormedNamed.fluSqtailWrite (who : Requester) (q : Fin 4) (val : Word) : WellFormedNamed.Statement (.fluSqtailWrite who q val) := checks_named _
theorem WellFormedNamed.frameMark : WellFormedNamed.Statement (.frameMark) := checks_named _
theorem WellFormedNamed.frameMarkReceive (p : Fin 12) (frame : BitVec 48) : WellFormedNamed.Statement (.frameMarkReceive p frame) := checks_named _
theorem WellFormedNamed.tableCommit (who : Requester) (val : Word) : WellFormedNamed.Statement (.tableCommit who val) := checks_named _
theorem WellFormedNamed.tableCommitDone : WellFormedNamed.Statement (.tableCommitDone) := checks_named _
theorem WellFormedNamed.plannedSwitchRequest (who : Requester) (val : Word) : WellFormedNamed.Statement (.plannedSwitchRequest who val) := checks_named _
theorem WellFormedNamed.epochSwitch : WellFormedNamed.Statement (.epochSwitch) := checks_named _
theorem WellFormedNamed.emergencyNotice (who : Requester) (val : Word) : WellFormedNamed.Statement (.emergencyNotice who val) := checks_named _
theorem WellFormedNamed.noticeReceive (p : Fin 12) (pkt : List Byte) : WellFormedNamed.Statement (.noticeReceive p pkt) := checks_named _
theorem WellFormedNamed.emergencySwitch : WellFormedNamed.Statement (.emergencySwitch) := checks_named _
theorem WellFormedNamed.fenceWrite (who : Requester) (val : Word) : WellFormedNamed.Statement (.fenceWrite who val) := checks_named _
theorem WellFormedNamed.cartridgeInsert (p : Fin 12) (record : List Byte) : WellFormedNamed.Statement (.cartridgeInsert p record) := checks_named _
theorem WellFormedNamed.cartridgeRemove (p : Fin 12) : WellFormedNamed.Statement (.cartridgeRemove p) := checks_named _
theorem WellFormedNamed.cartridgeOverpower (p : Fin 12) : WellFormedNamed.Statement (.cartridgeOverpower p) := checks_named _
theorem WellFormedNamed.cartridgeMonitor (readings : List (List Nat)) : WellFormedNamed.Statement (.cartridgeMonitor readings) := checks_named _
theorem WellFormedNamed.cartridgeHours : WellFormedNamed.Statement (.cartridgeHours) := checks_named _
theorem WellFormedNamed.colQtailWrite (who : Requester) (q : Fin 4) (val : Word) : WellFormedNamed.Statement (.colQtailWrite who q val) := checks_named _
theorem WellFormedNamed.allreduce (q : Fin 4) : WellFormedNamed.Statement (.allreduce q) := checks_named _
theorem WellFormedNamed.reduce (q : Fin 4) : WellFormedNamed.Statement (.reduce q) := checks_named _
theorem WellFormedNamed.collectiveNorm (q : Fin 4) : WellFormedNamed.Statement (.collectiveNorm q) := checks_named _
theorem WellFormedNamed.collectiveNop (q : Fin 4) : WellFormedNamed.Statement (.collectiveNop q) := checks_named _
theorem WellFormedNamed.colAbort (who : Requester) (q : Fin 4) (tag : Word) : WellFormedNamed.Statement (.colAbort who q tag) := checks_named _
theorem WellFormedNamed.collectiveQreset (who : Requester) (q : Fin 4) : WellFormedNamed.Statement (.collectiveQreset who q) := checks_named _
theorem WellFormedNamed.barrierSignal (b : Fin 4096) (qid : Option (BitVec 9)) : WellFormedNamed.Statement (.barrierSignal b qid) := checks_named _
theorem WellFormedNamed.waitTakeRelease (b : Fin 4096) : WellFormedNamed.Statement (.waitTakeRelease b) := checks_named _
theorem WellFormedNamed.barrierSubtract (who : Requester) (b : Fin 4096) (val : Word) : WellFormedNamed.Statement (.barrierSubtract who b val) := checks_named _
theorem WellFormedNamed.synSignal (who : Requester) (val : Word) : WellFormedNamed.Statement (.synSignal who val) := checks_named _
theorem WellFormedNamed.barrierCountWrite (who : Requester) (b : Fin 4096) (val : Word) : WellFormedNamed.Statement (.barrierCountWrite who b val) := checks_named _
theorem WellFormedNamed.powerLend (qid : BitVec 9) : WellFormedNamed.Statement (.powerLend qid) := checks_named _
theorem WellFormedNamed.trimWindow (count : Nat) : WellFormedNamed.Statement (.trimWindow count) := checks_named _
theorem WellFormedNamed.trimSave : WellFormedNamed.Statement (.trimSave) := checks_named _
theorem WellFormedNamed.refLost : WellFormedNamed.Statement (.refLost) := checks_named _
theorem WellFormedNamed.holdLimit : WellFormedNamed.Statement (.holdLimit) := checks_named _
theorem WellFormedNamed.oscWaitEnd (present : Bool) : WellFormedNamed.Statement (.oscWaitEnd present) := checks_named _
theorem WellFormedNamed.pllLock : WellFormedNamed.Statement (.pllLock) := checks_named _
theorem WellFormedNamed.pllUnlock : WellFormedNamed.Statement (.pllUnlock) := checks_named _
theorem WellFormedNamed.pllRelock : WellFormedNamed.Statement (.pllRelock) := checks_named _
theorem WellFormedNamed.pllRelockTimeout : WellFormedNamed.Statement (.pllRelockTimeout) := checks_named _
theorem WellFormedNamed.monitorInterval (counts : List Nat) : WellFormedNamed.Statement (.monitorInterval counts) := checks_named _
theorem WellFormedNamed.railFault (r : Fin 16) (ov uv oc : Bool) : WellFormedNamed.Statement (.railFault r ov uv oc) := checks_named _
theorem WellFormedNamed.vloopPeriod (q : Fin 4) : WellFormedNamed.Statement (.vloopPeriod q) := checks_named _
theorem WellFormedNamed.budgetCompare (quads : List Nat) (input : Nat) : WellFormedNamed.Statement (.budgetCompare quads input) := checks_named _
theorem WellFormedNamed.throttleStep : WellFormedNamed.Statement (.throttleStep) := checks_named _
theorem WellFormedNamed.thermalSample (temps : List Int) : WellFormedNamed.Statement (.thermalSample temps) := checks_named _
theorem WellFormedNamed.powerGoodRise (oscWait : Fin 8) (hobSel : Fin 4) (nvmMode : Fin 4) (fabMaster : Bool) : WellFormedNamed.Statement (.powerGoodRise oscWait hobSel nvmMode fabMaster) := checks_named _
theorem WellFormedNamed.powerGoodFall : WellFormedNamed.Statement (.powerGoodFall) := checks_named _
theorem WellFormedNamed.stageRom (ok : Bool) (seed : Option (List Byte)) : WellFormedNamed.Statement (.stageRom ok seed) := checks_named _
theorem WellFormedNamed.stageImage : WellFormedNamed.Statement (.stageImage) := checks_named _
theorem WellFormedNamed.stageRestore : WellFormedNamed.Statement (.stageRestore) := checks_named _
theorem WellFormedNamed.stageCalib (portsUp : List Bool) (channelsUp : List Bool) (slicesOk : List Bool) (gib : List Nat × List Nat) : WellFormedNamed.Statement (.stageCalib portsUp channelsUp slicesOk gib) := checks_named _
theorem WellFormedNamed.stageInit : WellFormedNamed.Statement (.stageInit) := checks_named _
theorem WellFormedNamed.ready : WellFormedNamed.Statement (.ready) := checks_named _
theorem WellFormedNamed.heartbeat (q : Fin 4) : WellFormedNamed.Statement (.heartbeat q) := checks_named _
theorem WellFormedNamed.tokenPass : WellFormedNamed.Statement (.tokenPass) := checks_named _
theorem WellFormedNamed.hostPagePoll : WellFormedNamed.Statement (.hostPagePoll) := checks_named _
theorem WellFormedNamed.load : WellFormedNamed.Statement (.load) := checks_named _
theorem WellFormedNamed.loadComplete : WellFormedNamed.Statement (.loadComplete) := checks_named _
theorem WellFormedNamed.loadTimeout : WellFormedNamed.Statement (.loadTimeout) := checks_named _
theorem WellFormedNamed.unload : WellFormedNamed.Statement (.unload) := checks_named _
theorem WellFormedNamed.attest : WellFormedNamed.Statement (.attest) := checks_named _
theorem WellFormedNamed.challenge (nonce : List Byte) : WellFormedNamed.Statement (.challenge nonce) := checks_named _
theorem WellFormedNamed.submit : WellFormedNamed.Statement (.submit) := checks_named _
theorem WellFormedNamed.close : WellFormedNamed.Statement (.close) := checks_named _
theorem WellFormedNamed.config : WellFormedNamed.Statement (.config) := checks_named _
theorem WellFormedNamed.retainWrite : WellFormedNamed.Statement (.retainWrite) := checks_named _
theorem WellFormedNamed.standbyBusRead (reg : Byte) : WellFormedNamed.Statement (.standbyBusRead reg) := checks_named _
theorem WellFormedNamed.verdictIssue : WellFormedNamed.Statement (.verdictIssue) := checks_named _
theorem WellFormedNamed.verdictResult : WellFormedNamed.Statement (.verdictResult) := checks_named _
theorem WellFormedNamed.verdictTimeout : WellFormedNamed.Statement (.verdictTimeout) := checks_named _
theorem WellFormedNamed.stepWatchdog : WellFormedNamed.Statement (.stepWatchdog) := checks_named _
theorem WellFormedNamed.stepClose : WellFormedNamed.Statement (.stepClose) := checks_named _
theorem WellFormedNamed.checkpointDrainDone : WellFormedNamed.Statement (.checkpointDrainDone) := checks_named _
theorem WellFormedNamed.replay : WellFormedNamed.Statement (.replay) := checks_named _
theorem WellFormedNamed.rewind : WellFormedNamed.Statement (.rewind) := checks_named _
theorem WellFormedNamed.unitReset (who : Requester) (val : Word) : WellFormedNamed.Statement (.unitReset who val) := checks_named _
theorem WellFormedNamed.checkpointControlWrite (who : Requester) (val : Word) : WellFormedNamed.Statement (.checkpointControlWrite who val) := checks_named _
theorem WellFormedNamed.ffySnapshot (who : Requester) (val : Word) : WellFormedNamed.Statement (.ffySnapshot who val) := checks_named _
theorem WellFormedNamed.hostWindowWrite (off : Nat) (bytes : List Byte) : WellFormedNamed.Statement (.hostWindowWrite off bytes) := checks_named _
theorem WellFormedNamed.hostReset (who : Requester) (val : Word) : WellFormedNamed.Statement (.hostReset who val) := checks_named _
theorem WellFormedNamed.sysRstN (lowNs : Nat) : WellFormedNamed.Statement (.sysRstN lowNs) := checks_named _
theorem WellFormedNamed.perstN (flr : Bool) : WellFormedNamed.Statement (.perstN flr) := checks_named _
theorem WellFormedNamed.pcieLinkUp (gen : Fin 8) (width : Fin 32) : WellFormedNamed.Statement (.pcieLinkUp gen width) := checks_named _
theorem WellFormedNamed.cxlHotAdd (k : Fin 2) (gib : Nat) : WellFormedNamed.Statement (.cxlHotAdd k gib) := checks_named _
theorem WellFormedNamed.cxlLinkDown (k : Fin 2) : WellFormedNamed.Statement (.cxlLinkDown k) := checks_named _
theorem WellFormedNamed.pcieLinkDown : WellFormedNamed.Statement (.pcieLinkDown) := checks_named _
theorem WellFormedNamed.cxlHotRemove (k : Fin 2) : WellFormedNamed.Statement (.cxlHotRemove k) := checks_named _
theorem WellFormedNamed.railRestoreDone (ok : Bool) : WellFormedNamed.Statement (.railRestoreDone ok) := checks_named _
theorem WellFormedNamed.postedWriteApplied (blk : BitVec 26) : WellFormedNamed.Statement (.postedWriteApplied blk) := checks_named _
theorem WellFormedNamed.referenceReturn (mark : Bool) : WellFormedNamed.Statement (.referenceReturn mark) := checks_named _
theorem WellFormedNamed.softRepairDone (ch : Fin 256) : WellFormedNamed.Statement (.softRepairDone ch) := checks_named _
theorem WellFormedNamed.standbyPowerUp : WellFormedNamed.Statement (.standbyPowerUp) := checks_named _
theorem WellFormedNamed.standbyPowerLoss : WellFormedNamed.Statement (.standbyPowerLoss) := checks_named _

end Sys2Proof.Laws
end

