-- ==== Sys2Proof/Laws/Queues.lean ====
section
/-! SUPPORT. What the queue, abort, posted-write and barrier operations leave (12, 13, 17). -/

set_option Elab.async false

namespace Sys2Proof.Machine

/-- R547: a plain read clears the RC bits of its row. -/
theorem clears_plain (s : State) (r : RegRow) (who off : Nat) (h : ClearsPlainly who off) :
    s.readClears r who off = if r.rc = 0 then s else s.setReg off (s.reg off &&& ~~~(BitVec.ofNat 32 r.rc)) := by
  obtain ⟨h1, h2, h3⟩ := h
  rw [State.readClears, if_neg h1, if_neg h2, if_neg h3]
/-- A queue reads what was put there; no register changes. -/
theorem queue_modQueue (s : State) (Q : QI) (f : Queue → Queue) : (s.modQueue Q f).queue Q = f (s.queue Q) := by
  simp [State.queue, State.modQueue]
theorem get_modQueue (s : State) (Q : QI) (f : Queue → Queue) (g : RF) : (s.modQueue Q f).get g = s.get g := rfl
/-- R96: one slot is fetched into an empty queue. -/
theorem fetch_one (Q : QI) (s : State) (hd : Q.depth = 1) (hg : Q.grab = plainGrab) (h1 : Q.head.off ≠ Q.size.off) (h2 : Q.head.lo + Q.head.w ≤ 32)
    (hc : Q.cap ≤ 2 ^ Q.head.w)
    (he : s.qOn Q = true) (hz : s.qsizeOk Q = true) (hne : s.get Q.head ≠ s.qtail Q) (hq : (s.queue Q).cmds = [])
    (hb : (s.read (s.slotAddr Q (s.get Q.head)) Q.slotBytes).bad = none) (hs : (s.read (s.slotAddr Q (s.get Q.head)) Q.slotBytes).st = s) (n : Nat) :
    let t := s.fetchSlots Q (n + 1)
    t.get Q.head = (s.get Q.head + 1) % s.get Q.size ∧ RegsBut [Q.head.off] s t ∧ t.mem = s.mem ∧
        ∃ c, (t.queue Q).cmds = [c] ∧ c.slot = s.get Q.head ∧ c.addr = s.slotAddr Q (s.get Q.head) ∧
          c.bytes = (s.read (s.slotAddr Q (s.get Q.head)) Q.slotBytes).bytes := by
  intro t
  set h := s.get Q.head with hh
  set a := s.slotAddr Q h with haa
  set ab := (s.queue Q).abortedSlots.contains h with hab
  set c : QCmd := { slot := h, addr := a, bytes := (s.read a Q.slotBytes).bytes, side := [], policy := [], sideBad := false, aborted := ab } with hcc
  have hx : ¬ (h = s.qtail Q ∨ Q.depth ≤ (s.queue Q).cmds.length) := by
    rw [hd, hq]; simp; exact hne
  have ht : t = (State.modQueue (s.set Q.head ((h + 1) % s.get Q.size)) Q fun q => { q with cmds := q.cmds ++ [c], abortedSlots := q.abortedSlots.filter (· != h) }).fetchSlots Q n := by
    show s.fetchSlots Q (n + 1) = _
    rw [State.fetchSlots]
    simp only [he, hz, Bool.not_true, Bool.false_eq_true, if_false, ← hh, if_neg hx, ← haa, hb, hs, hg, plainGrab]
    rfl
  set u := (State.modQueue (s.set Q.head ((h + 1) % s.get Q.size)) Q fun q => { q with cmds := q.cmds ++ [c], abortedSlots := q.abortedSlots.filter (· != h) }) with hu
  have huq : (u.queue Q).cmds = [c] := by
    rw [hu, queue_modQueue]; show (s.queue Q).cmds ++ [c] = [c]; rw [hq]; rfl
  have hsz : u.get Q.size = s.get Q.size := by rw [hu, get_modQueue, State.get_set_off s _ (Ne.symm h1)]
  have hstop : u.fetchSlots Q n = u := by
    cases n with
    | zero => rfl
    | succ n =>
      rw [State.fetchSlots]
      have hz' : u.qsizeOk Q = true := by rw [State.qsizeOk, hsz]; exact hz
      rw [hz', hd]
      simp [huq]
  rw [ht, hstop]
  have hw : (h + 1) % s.get Q.size % 2 ^ Q.head.w = (h + 1) % s.get Q.size := by
    apply Nat.mod_eq_of_lt
    simp only [State.qsizeOk, Bool.and_eq_true, decide_eq_true_eq] at hz
    have := Nat.mod_lt (h + 1) (show 0 < s.get Q.size by omega)
    omega
  refine ⟨?_, ?_, rfl, c, huq, rfl, rfl, rfl⟩
  · rw [hu, get_modQueue, State.get_set_self s _ _ h2, hw]
  · intro o ho
    show (s.set Q.head _).reg o = _
    exact State.reg_set_ne s _ (by simpa using ho)
/-- R455 to R457: a write of an ABORT register is the abort of its queue. -/
theorem abort_write (who : Requester) (tag : Word) (s : State) (Q : QI) (c : Instr) (hb : s.busOn = true)
    (hc : (∃ p : Fin 136, Q = hearthQ s p.val 1 ∧ c = .hrtAbort who p tag) ∨ (∃ q : Fin 4, Q = kilnQ q.val ∧ c = .klnAbort who q tag) ∨
      (∃ q : Fin 4, Q = fireboxQ q.val ∧ c = .fbxAbort who q tag) ∨ (∃ q : Fin 4, Q = colQ q.val ∧ c = .colAbort who q tag)) :
    ∃ stop, exec c s = s.answer (s.abortTag Q tag.toNat stop) := by
  have hv : tag.toNat % 2 ^ 32 = tag.toNat := Nat.mod_eq_of_lt tag.isLt
  rcases hc with ⟨p, rfl, rfl⟩ | ⟨p, rfl, rfl⟩ | ⟨p, rfl, rfl⟩ | ⟨p, rfl, rfl⟩
  · exact ⟨_, congrArg s.answer (by rw [write_HRT_ABORT _ _ _ _ hb, hv]; rfl)⟩
  · exact ⟨_, congrArg s.answer (by rw [write_KLN_ABORT _ _ _ _ hb, hv]; rfl)⟩
  · exact ⟨_, congrArg s.answer (by rw [write_FBX_ABORT _ _ _ _ hb, hv]; rfl)⟩
  · exact ⟨_, congrArg s.answer (by rw [write_COL_ABORT _ _ _ _ hb, hv]; rfl)⟩
/-- Clearing the reading of a delay bin touches nothing else. -/
theorem bin_clear (s : State) (i : Nat) : ∃ m, (s.binClear i) = { s with num := m } ∧ (∀ q < 4, m.bins.look 0 (binKey q (s.get F.NUM_HSEL_SET) (s.get F.NUM_HSEL_KIND) i) = 0) ∧
    (∀ k, (∀ q < 4, k ≠ binKey q (s.get F.NUM_HSEL_SET) (s.get F.NUM_HSEL_KIND) i) → m.bins.look 0 k = s.num.bins.look 0 k) := by
  refine ⟨_, rfl, ?_, ?_⟩
  · intro q hq
    have hk : ∀ a b, binKey a (s.get F.NUM_HSEL_SET) (s.get F.NUM_HSEL_KIND) i = binKey b (s.get F.NUM_HSEL_SET) (s.get F.NUM_HSEL_KIND) i ↔ a = b := by
      intro a b; simp only [binKey]; omega
    simp only [Sparse.look_write, hk]
    have : q = 0 ∨ q = 1 ∨ q = 2 ∨ q = 3 := by omega
    rcases this with rfl | rfl | rfl | rfl <;> simp
  · intro k hk
    simp only [Sparse.look_write]
    rw [if_neg (hk 3 (by omega)), if_neg (hk 2 (by omega)), if_neg (hk 1 (by omega)), if_neg (hk 0 (by omega))]
/-- R456: withdrawing where nothing waits only drops leases. -/
theorem withdraw_free (s : State) (k : Nat) (h : ∀ w ∈ s.syn.waiters, w.qid ≠ k) :
    ∃ y, s.withdraw k = { s with syn := y } := by
  have : s.syn.waiters.filter (·.qid == k) = [] := by
    rw [List.filter_eq_nil_iff]; intro w hw; simpa using h w hw
  exact ⟨(s.withdraw k).syn, by simp [State.withdraw, this, State.each]⟩
/-- R96: a disabled queue does not move. -/
theorem advance_off (s : State) (Q : QI) (h : Q.en s = false) (hq : (s.queue Q).cmds = []) : s.advance Q = s := by
  have ho : s.qOn Q = false := by unfold State.qOn; rw [h, Bool.and_false]
  have hf : ∀ n, s.fetchSlots Q n = s := by
    intro n
    cases n with
    | zero => rfl
    | succ n => unfold State.fetchSlots; rw [ho]; rfl
  unfold State.advance
  dsimp only
  rw [hf, hq]
  rfl
/-- A queue reset empties the queue and zeroes its indexes. -/
theorem reset_queue (s : State) (Q Q' : QI) (idle : Bool) (he : Q.en s = false) (hi : idle = true) (hw : ∀ k, Q.qid = some k → ∀ w ∈ s.syn.waiters, w.qid ≠ k)
    (hk : Q'.key = Q.key) (he' : ∀ t : State, t.aon = s.aon → (∀ o, o ≠ Q.head.off → o ≠ Q.tail.off → t.reg o = s.reg o) → Q'.en t = false)
    (h1 : Q.head.off ≠ Q.tail.off) (h2 : Q.head.lo + Q.head.w ≤ 32) (h3 : Q.tail.lo + Q.tail.w ≤ 32) :
    let t := (s.queueReset Q idle).advance Q'
    t.get Q.head = 0 ∧ t.get Q.tail = 0 ∧ t.queue Q = Queue.empty ∧ RegsBut [Q.head.off, Q.tail.off] s t ∧ t.mem = s.mem := by
  subst hi
  obtain ⟨u, hu⟩ : ∃ u, u = (s.set Q.head 0).set Q.tail 0 := ⟨_, rfl⟩
  have hum : u.mem = s.mem ∧ u.aon = s.aon ∧ u.syn = s.syn := by subst hu; exact ⟨rfl, rfl, rfl⟩
  have hr : ∃ y, s.queueReset Q true = State.modQueue { u with syn := y } Q fun _ => Queue.empty := by
    unfold State.queueReset
    simp only [he, Bool.not_true, Bool.or_false, Bool.false_eq_true, if_false, ← hu]
    cases hq : Q.qid with
    | none => exact ⟨u.syn, rfl⟩
    | some k =>
      obtain ⟨y, hy⟩ := withdraw_free u k (by rw [hum.2.2]; exact hw k hq)
      exact ⟨y, by dsimp only; rw [hy]⟩
  obtain ⟨y, hy⟩ := hr
  have hreg0 : ∀ o, (s.queueReset Q true).reg o = u.reg o := by intro o; rw [hy]; rfl
  have hget0 : ∀ o, (s.queueReset Q true).get o = u.get o := by intro o; rw [hy]; rfl
  have hregs : ∀ o, o ≠ Q.head.off → o ≠ Q.tail.off → (s.queueReset Q true).reg o = s.reg o := by
    intro o a b
    rw [hreg0, hu, State.reg_set_ne _ _ b, State.reg_set_ne _ _ a]
  have hqq : (s.queueReset Q true).queue Q = Queue.empty := by rw [hy]; exact queue_modQueue _ _ _
  have ht : (s.queueReset Q true).advance Q' = s.queueReset Q true := by
    apply advance_off
    · exact he' _ (by rw [hy]; exact hum.2.1) hregs
    · have : (s.queueReset Q true).queue Q' = (s.queueReset Q true).queue Q := by simp [State.queue, hk]
      rw [this, hqq]; rfl
  intro t
  rw [show t = s.queueReset Q true from ht]
  refine ⟨?_, ?_, hqq, ?_, ?_⟩
  · rw [hget0, hu]
    rw [State.get_set_off _ _ h1, State.get_set_self _ _ _ h2, Nat.zero_mod]
  · rw [hget0, hu]
    rw [State.get_set_self _ _ _ h3, Nat.zero_mod]
  · intro o ho; simp only [List.mem_cons, List.not_mem_nil, or_false, not_or] at ho; exact hregs o ho.1 ho.2
  · rw [hy]; exact hum.1
theorem logicalOf_congr (s t : State) (p : Nat) (h : ∀ l < 128, t.reg (R.CMB_PAIRMAP l) = s.reg (R.CMB_PAIRMAP l)) : t.logicalOf p = s.logicalOf p := by
  unfold State.logicalOf
  have : ∀ l ∈ List.range 128, (t.physOf l == some p) = (s.physOf l == some p) := by
    intro l hl
    have hl := h l (List.mem_range.mp hl)
    have e : t.physOf l = s.physOf l := by
      have e1 : t.on (F.CMB_PAIRMAP_VALID l) = s.on (F.CMB_PAIRMAP_VALID l) := by
        simp only [State.on, State.get]; rw [show (F.CMB_PAIRMAP_VALID l).off = R.CMB_PAIRMAP l from rfl, hl]
      have e2 : t.get (F.CMB_PAIRMAP_PHYS l) = s.get (F.CMB_PAIRMAP_PHYS l) := by
        simp only [State.get]; rw [show (F.CMB_PAIRMAP_PHYS l).off = R.CMB_PAIRMAP l from rfl, hl]
      simp only [State.physOf, e1, e2]
    rw [e]
  generalize List.range 128 = l at this
  induction l with
  | nil => rfl
  | cons a l ih =>
    rw [List.find?_cons, List.find?_cons, this a (by simp), ih (fun b hb => this b (by simp [hb]))]
theorem pb_dmp (p : Fin 136) : postBusy (R.DMP_PTADDR_HI p.val) = (F.DMP_STATUS_BUSY p.val, 0x900000 + 0x1000 * p.val) := by
  revert p; decide +kernel
theorem pb_blw (p : Fin 4) : postBusy (R.BLW_RELOAD p.val) = (F.BLW_STATUS_BUSY p.val, 0xA00000 + 0x10000 * p.val) := by
  revert p; decide +kernel
theorem post_save (s : State) (v : Nat) (hv : v % 4 = 1) (hbz : s.on F.NUM_STATUS_BUSY = false) (u : State) (hu : u = ((s.set F.NUM_JCTRL_SAVE 1).set F.NUM_STATUS_BUSY 1).saveGens) (n : Sys2Proof.Machine.Num) (hn : n = s.saveGens.num) :
    s.post R.NUM_JCTRL v none = { u with num := { n with op := 2 } } := by
  have hpb : postBusy R.NUM_JCTRL = (F.NUM_STATUS_BUSY, 0x1500000) := by decide
  unfold State.post
  rw [hpb]
  dsimp only
  rw [← hu, ← hn, hbz, if_neg Bool.false_ne_true, if_neg (by decide : R.NUM_JCTRL ≠ R.NUM_SEED_HI), if_pos rfl, if_pos hv]
theorem post_restore (s : State) (v : Nat) (hv : v % 4 = 2) (hbz : s.on F.NUM_STATUS_BUSY = false) (u : State) (hu : u = ((s.set F.NUM_JCTRL_RESTORE 1).set F.NUM_STATUS_BUSY 1).restoreGens) :
    s.post R.NUM_JCTRL v none = { u with num := { u.num with op := 3 } } := by
  have hpb : postBusy R.NUM_JCTRL = (F.NUM_STATUS_BUSY, 0x1500000) := by decide
  unfold State.post
  rw [hpb]
  dsimp only
  rw [← hu, hbz, if_neg Bool.false_ne_true, if_neg (by decide : R.NUM_JCTRL ≠ R.NUM_SEED_HI), if_pos rfl, if_neg (by omega), if_pos hv]
theorem setValid_regs (s : State) (v : Nat) (b : Bool) : ∃ x, s.setValid v b = x := ⟨_, rfl⟩
theorem commitDone_eq (s : State) (a : Nat) (ha : s.flue.commit = some a) (r : Rd) (hr : s.read a 131072 = r) (hbad : r.bad = none)
    (es : List Nat) (hes : codesOf 16 r.bytes 8192 = es) (tb : Sparse Nat)
    (htb : es.zipIdx.foldl (fun t (e, i) => Sparse.write t 0 (s.inactive * 8192 + i) e) (r.st.flue.tables.filter fun e => e.1 / 8192 != s.inactive) = tb)
    (u : State) (hu : u = { r.st with flue := { r.st.flue with commit := none } }.set F.FLU_STATUS_BUSY 0) (huf : u.flue.tables = r.st.flue.tables) :
    s.commitDone = if (es.take 4096).any routeBad || (es.drop 4096).any treeBad
      then (State.setValid { u with flue := { u.flue with tables := tb } } s.inactive (!((es.take 4096).any routeBad || (es.drop 4096).any treeBad))).raise F.FLU_EVENT_TBL_BAD
      else State.setValid { u with flue := { u.flue with tables := tb } } s.inactive (!((es.take 4096).any routeBad || (es.drop 4096).any treeBad)) := by
  unfold State.commitDone
  rw [ha]
  dsimp only
  rw [hr, hbad]
  dsimp only
  rw [hes, ← hu, huf, htb]
/-- What a release of waits on barrier b keeps: other registers, the count and its flags, memory. -/
def RelKeeps (b : Nat) (s t : State) : Prop :=
  (∀ o, o ≠ R.SYN_BAR_CNT b → t.reg o = s.reg o) ∧ (∀ i < 18, (t.reg (R.SYN_BAR_CNT b)).getLsbD i = (s.reg (R.SYN_BAR_CNT b)).getLsbD i) ∧ t.mem = s.mem
theorem relKeeps_refl (b : Nat) (s : State) : RelKeeps b s s := ⟨fun _ _ => rfl, fun _ _ => rfl, rfl⟩
theorem relKeeps_trans {b : Nat} {s t u : State} (h : RelKeeps b s t) (k : RelKeeps b t u) : RelKeeps b s u :=
  ⟨fun o ho => (k.1 o ho).trans (h.1 o ho), fun i hi => (k.2.1 i hi).trans (h.2.1 i hi), k.2.2.trans h.2.2⟩
/-- R435, R444: a release takes the wait from the list, marks its queue and updates WAITERS; beside that it counts and notes delays. -/
theorem releaseQ_is (s : State) (w : Waiter) : ∃ (y : Syn) (m : Sparse Nat),
    s.releaseQ w = { s.set (F.SYN_BAR_CNT_WAITERS w.ctr) (min 255 ((s.syn.waiters.filter (· != w)).filter (·.ctr == w.ctr)).length) with syn := y, ffy := m } ∧
      y.waiters = s.syn.waiters.filter (· != w) ∧ y.released = s.syn.released ++ [w.qid] := by
  unfold State.releaseQ
  dsimp only
  generalize (if s.syn.lent.contains w.qid then s.syn.recalled ++ [w.qid] else s.syn.recalled) = rc
  generalize s.waitCause w = c
  obtain ⟨u, hu⟩ : ∃ u : State, u = State.noteWaiters { s with syn := { s.syn with waiters := s.syn.waiters.filter (· != w), released := s.syn.released ++ [w.qid], lent := s.syn.lent.filter (· != w.qid), recalled := rc } } w.ctr := ⟨_, rfl⟩
  rw [← hu]
  obtain ⟨m, hm⟩ := countWait_only u w c
  rw [hm]
  unfold State.noteDelay
  split
  · exact ⟨u.syn, m, by rw [hu]; rfl, by rw [hu]; rfl, by rw [hu]; rfl⟩
  · exact ⟨{ u.syn with delays := u.syn.delays.write [] w.qid (u.syn.delays.look [] w.qid ++ [c]) }, m, by rw [hu]; rfl, by rw [hu]; rfl, by rw [hu]; rfl⟩
theorem releaseQ_keeps (s : State) (w : Waiter) (b : Nat) (hw : w.ctr = b) : RelKeeps b s (s.releaseQ w) := by
  obtain ⟨y, m, e, -, -⟩ := releaseQ_is s w
  rw [e, hw]
  refine ⟨fun o ho => State.reg_set_ne _ _ ho, fun i hi => ?_, rfl⟩
  have := State.reg_set_self s (F.SYN_BAR_CNT_WAITERS b) (min 255 ((s.syn.waiters.filter (· != w)).filter (·.ctr == b)).length)
  have h2 : (F.SYN_BAR_CNT_WAITERS b).off = R.SYN_BAR_CNT b := rfl
  rw [h2] at this
  change ((s.set (F.SYN_BAR_CNT_WAITERS b) _).reg (R.SYN_BAR_CNT b)).getLsbD i = _
  rw [this, setBits_getLsbD _ _ _ _ _ (by omega), if_neg (by change ¬ (18 ≤ i ∧ _); omega)]
theorem each_releases (l : List Waiter) (s : State) (b : Nat) (h : ∀ w ∈ l, w.ctr = b) : RelKeeps b s (s.each l State.releaseQ) := by
  unfold State.each
  induction l generalizing s with
  | nil => exact relKeeps_refl b s
  | cons a l ih => exact relKeeps_trans (releaseQ_keeps s a b (h a (by simp))) (ih _ fun w hw => h w (by simp [hw]))
theorem retest_keeps (s : State) (b : Nat) : RelKeeps b s (s.retest b) := by
  unfold State.retest
  split
  · apply each_releases; intro w hw; rw [List.mem_filter] at hw; simp at hw; exact hw.2.1
  · exact relKeeps_refl b s
theorem getW_of {s t : State} {b : Nat} (h : RelKeeps b s t) (f : RF) (ho : f.off = R.SYN_BAR_CNT b) (hw : f.lo + f.w ≤ 18) : t.get f = s.get f := by
  apply Nat.eq_of_testBit_eq; intro i
  rw [State.get_testBit, State.get_testBit, ho]
  by_cases hi : i < f.w
  · rw [h.2.1 _ (by omega)]
  · simp [hi]
theorem onW_of {s t : State} {b : Nat} (h : RelKeeps b s t) (f : RF) (ho : f.off = R.SYN_BAR_CNT b) (hw : f.lo + f.w ≤ 18) : t.on f = s.on f := by
  rw [State.on, State.on, getW_of h f ho hw]
theorem getO_of {s t : State} {b : Nat} (h : RelKeeps b s t) (f : RF) (ho : f.off ≠ R.SYN_BAR_CNT b) : t.get f = s.get f := by
  rw [State.get, State.get, h.1 _ ho]
/-- R441: a signal adds one, and a full count stays. -/
theorem bump_count (s : State) (b : Nat) (hb : b < 4096) :
    (s.bump b).get (F.SYN_BAR_CNT_COUNT b) = min (s.get (F.SYN_BAR_CNT_COUNT b) + 1) 0xFFFF := by
  have hlt : s.get (F.SYN_BAR_CNT_COUNT b) < 2 ^ 16 := Nat.mod_lt _ (Nat.two_pow_pos 16)
  have hne : R.SYN_BAR_CNT b ≠ R.SYN_EVENT := by simp only [R.SYN_BAR_CNT, R.SYN_EVENT]; omega
  unfold State.bump
  dsimp only
  split
  · rename_i h
    rw [State.raise, State.get_set_off _ _ hne, State.raise, State.get_set_bits _ _ (by change 0 + 16 ≤ 32; decide) (.inl (by change 0 + 16 ≤ 16; decide)), h]
    rfl
  · rename_i h
    rw [State.get_set_self _ _ _ (by change 0 + 16 ≤ 32; decide)]
    show _ % 2 ^ 16 = _
    omega
/-- R441, R444: a signal of a count barrier counts and tests its waits again. -/
theorem signal_count (s : State) (b : Nat) (k : Option Nat) (he : s.on F.SYN_CTRL_EN = true) (hv : s.ctrValid b = true) (hg : s.isGroup b = false) :
    s.signal b k = ((s.carry b k).bump b).retest b := by
  unfold State.signal
  rw [he, hv, hg]
  rfl
/-- R444: the released waits leave the list and their queues are marked. -/
theorem each_syn (l : List Waiter) (s : State) : (s.each l State.releaseQ).syn.waiters = s.syn.waiters.filter (fun v => !l.contains v) ∧
    (s.each l State.releaseQ).syn.released = s.syn.released ++ l.map (·.qid) := by
  unfold State.each
  induction l generalizing s with
  | nil => simp
  | cons a l ih =>
    obtain ⟨y, m, e, w1, w2⟩ := releaseQ_is s a
    have h1 : (s.releaseQ a).syn.waiters = s.syn.waiters.filter (· != a) := by rw [e]; exact w1
    have h2 : (s.releaseQ a).syn.released = s.syn.released ++ [a.qid] := by rw [e]; exact w2
    obtain ⟨i1, i2⟩ := ih (s.releaseQ a)
    refine ⟨?_, ?_⟩
    · rw [List.foldl_cons, i1, h1, List.filter_filter]
      congr 1; funext v
      simp only [List.contains_cons, Bool.not_or]
      rw [Bool.and_comm]; rfl
    · rw [List.foldl_cons, i2, h2]; simp
theorem bump_regs (s : State) (b : Nat) : ∀ o, o ≠ R.SYN_BAR_CNT b → o ≠ R.SYN_EVENT → (s.bump b).reg o = s.reg o := by
  intro o h1 h2
  unfold State.bump; dsimp only; split
  · rw [State.raise, State.reg_set_ne _ _ h2, State.raise, State.reg_set_ne _ _ h1]
  · rw [State.reg_set_ne _ _ h1]
theorem bump_syn (s : State) (b : Nat) : (s.bump b).syn = s.syn := by unfold State.bump; dsimp only; split <;> rfl
theorem cfg_congr {s t : State} (b : Nat) (h : t.reg (R.SYN_BAR_CFG b) = s.reg (R.SYN_BAR_CFG b)) :
    t.isGroup b = s.isGroup b ∧ t.get (F.SYN_BAR_CFG_P b) = s.get (F.SYN_BAR_CFG_P b) ∧ t.on (F.SYN_BAR_CFG_VALID b) = s.on (F.SYN_BAR_CFG_VALID b) := by
  have : ∀ f : RF, f.off = R.SYN_BAR_CFG b → t.get f = s.get f := by intro f hf; rw [State.get, State.get, hf, h]
  refine ⟨?_, this _ rfl, ?_⟩
  · rw [State.isGroup, State.isGroup, State.on, State.on, this _ rfl]
  · rw [State.on, State.on, this _ rfl]
/-- R449: the end of a round changes the slot only. -/
theorem endRound_keeps (s : State) (b : Nat) :
    (∀ o, o ≠ R.SYN_GRP_CTRL (s.gslot b) → (s.endRound b).reg o = s.reg o) ∧ (s.endRound b).mem = s.mem := by
  unfold State.endRound
  split
  · refine ⟨fun o ho => ?_, rfl⟩
    dsimp only
    refine (State.reg_congr (t := s.set (F.SYN_GRP_CTRL_PHASE (s.gslot b)) 0) rfl o).trans ?_
    exact State.reg_set_ne _ _ ho
  · exact ⟨fun _ _ => rfl, rfl⟩

end Sys2Proof.Machine
end

