-- ==== Sys2Proof/Tests/Slice0.lean ====
section
/-! SUPPORT. Tests: each well-formedness check refuses an ill-formed command; for each statement, states and operands that meet
its hypotheses, clause by clause; and a few results worked out by hand from the spec. -/

set_option Elab.async false
set_option maxRecDepth 20000

namespace Sys2Proof.Tests
open Sys2Proof Sys2Proof.Machine

/-! ## Well-formedness -/

theorem test_wf_data : refusedBy (.registerWrite 0 0 4 0x100000000) = some "data wider than the access" := by decide
theorem test_wf_slice : refusedBy (.weevilRead false 136) = some "no such slice" := by decide
theorem test_wf_named_twice : refusedBy (.codewordUncorrectable 0 [1, 1]) = some "a packet named twice" := by decide
theorem test_wf_packet_size : refusedBy (.packetArrival 0 0 [] [0, 0, 0, 0]) = some "packet of another size" := by decide
theorem test_wf_codewords : refusedBy (.packetArrival 0 0 (List.replicate 64 0) []) = some "error patterns of other than four codewords" := by decide
theorem test_wf_notice : refusedBy (.noticeReceive 0 []) = some "packet of another size" := by decide
theorem test_wf_monitor_ports : refusedBy (.cartridgeMonitor (List.replicate 13 [0, 0, 0, 0])) = some "readings of more than twelve ports" := by decide
theorem test_wf_monitor_readings : refusedBy (.cartridgeMonitor [[0]]) = some "other than four readings of a port" := by decide
theorem test_wf_domains : refusedBy (.monitorInterval []) = some "other than six domains" := by decide
theorem test_wf_quadrants : refusedBy (.budgetCompare [] 0) = some "other than four quadrants" := by decide
theorem test_wf_sensors : refusedBy (.thermalSample []) = some "other than 64 sensors" := by decide
theorem test_wf_calib_ports : refusedBy (.stageCalib [] (List.replicate 256 true) (List.replicate 136 true) ([], [])) = some "other than twelve ports" := by decide
theorem test_wf_calib_channels : refusedBy (.stageCalib (List.replicate 12 true) [] (List.replicate 136 true) ([], [])) = some "other than 256 channels" := by decide
theorem test_wf_calib_slices : refusedBy (.stageCalib (List.replicate 12 true) (List.replicate 256 true) [] ([], [])) = some "other than 136 slices" := by decide
theorem test_wf_calib_cxl : refusedBy (.stageCalib (List.replicate 12 true) (List.replicate 256 true) (List.replicate 136 true) ([0, 0, 0], [])) = some "more than two CXL ports" := by decide
theorem test_wf_calib_stacks : refusedBy (.stageCalib (List.replicate 12 true) (List.replicate 256 true) (List.replicate 136 true) ([], [48])) = some "neither no stacks nor eight" := by decide
theorem test_wf_nonce : refusedBy (.challenge []) = some "nonce of another size" := by decide
theorem test_wf_window : refusedBy (.hostWindowWrite (2 ^ 30) [0]) = some "outside the window" := by decide
theorem test_wf_rate : refusedBy (.pcieLinkUp 3 1) = some "no such rate" := by decide
theorem test_wf_width : refusedBy (.pcieLinkUp 4 3) = some "no such width" := by decide
theorem test_wf_device : refusedBy (.cxlHotAdd 0 0) = some "an empty device" := by decide
theorem test_wf_good : WellFormed (.pcieLinkUp 6 4) = true ∧ WellFormed (.registerWrite 72 0 4 0xFFFFFFFF) = true := by decide

/-! ## States to test on -/

/-- Register fields set on a state. -/
def withRegs (s : State) (l : List (RF × Nat)) : State := l.foldl (fun t p => t.set p.1 p.2) s
/-- The device with its clocks running, comb pairs 0 to 3 mapped to logical slices 0 to 3, and hob cricket 68 at the secure level. -/
def onState : State :=
  withRegs { State.reset with aon := { State.reset.aon with standby := true, pg := true, locked := true }, crk := [(68, { Crk.reset 68 with level := 2 })] }
    [(F.CMB_PAIRMAP_VALID 0, 1), (F.CMB_PAIRMAP_PHYS 1, 1), (F.CMB_PAIRMAP_VALID 1, 1), (F.CMB_PAIRMAP_PHYS 2, 2), (F.CMB_PAIRMAP_VALID 2, 1), (F.CMB_PAIRMAP_PHYS 3, 3), (F.CMB_PAIRMAP_VALID 3, 1)]
/-- Bytes put at a device address. -/
def poke (s : State) (a : Nat) (bs : List Byte) : State := s.putBytes ((s.locate a).getD 0) bs
/-- Bytes of a descriptor: zero but for the parts given by offset, width and value. -/
def desc (n : Nat) (l : List (Nat × Nat × Nat)) : List Byte :=
  l.foldl (fun b p => b.take p.1 ++ leBytes p.2.1 p.2.2 ++ b.drop (p.1 + p.2.1)) (List.replicate n 0)
/-- A fetched command with these bytes. -/
def cmdOf (bytes : List Byte) : QCmd := { slot := 0, addr := 0x10000, bytes := bytes, side := [], policy := [], sideBad := false, aborted := false }
/-- A state whose queue Q holds copies, the first started or not. -/
def queued (s : State) (Q : QI) (l : List QCmd) (started : Bool) : State := s.modQueue Q fun _ => { cmds := l, abortedSlots := [], started := started, ahead := false, last := none, wfault := false }
/-- Memory without error patterns reads without an uncorrectable granule. -/
theorem clean_granules (s : State) (he : s.errs = []) (n g : Nat) (h : ∀ i < n, ∃ k, s.locate ((g + i) * 16) = some k ∧ keyFar k = false ∧ inPhys ((g + i) * 16) = false) :
    (s.readGranules false g n).bad = none ∧ (s.readGranules false g n).st = s := by
  induction n generalizing g with
  | zero => exact ⟨rfl, rfl⟩
  | succ n ih =>
    obtain ⟨k, h1, h2, h3⟩ := h 0 (by omega)
    have e : (s.readGranule false (g * 16)).bad = none ∧ (s.readGranule false (g * 16)).st = s := by
      unfold State.readGranule
      have hz : (s.errAt (k / 16)).toNat = 0 := by unfold State.errAt; rw [he]; rfl
      have ha : g * 16 / 16 * 16 = (g + 0) * 16 := by omega
      simp only [ha, h1, h2, h3, hz, Bool.false_and, Bool.false_eq_true, if_false, if_true]
      exact ⟨trivial, trivial⟩
    have ih' := ih (g + 1) (fun i hi => by obtain ⟨k, a, b, c⟩ := h (i + 1) (by omega); exact ⟨k, by rw [show g + 1 + i = g + (i + 1) by omega]; exact a, b, by rw [show g + 1 + i = g + (i + 1) by omega]; exact c⟩)
    unfold State.readGranules
    dsimp only
    rw [e.1, e.2, ih'.1, ih'.2]
    exact ⟨rfl, rfl⟩
/-! ## The machine as a whole -/

theorem wit_StepRunsFront : ({ onState with pending := [.pllUnlock, .hostReset 72 1] } : State).pending = .pllUnlock :: [.hostReset 72 1] := rfl
theorem wit_EmptyQueueIdles : onState.pending = [] ∧ onState.clocked = true ∧ onState.Quiet ∧ onState.on F.FFY_CTRL_EN = false ∧ State.reset.pending = [] ∧ State.reset.clocked = false :=
  ⟨by decide +kernel, by decide +kernel, ⟨fun _ _ => rfl, fun _ _ => rfl⟩, by decide +kernel, by decide +kernel, by decide +kernel⟩
theorem wit_StepKeepsIrqCurrent : IrqCurrent State.reset ∧ ∃ t, step { State.reset with pending := [.standbyPowerUp] } = .next t :=
  ⟨⟨by decide +kernel, by decide +kernel⟩, _, rfl⟩
theorem wit_QueueIsFifo : ({ onState with pending := [.pllUnlock, .pllRelock, .refLost] } : State).pending = [.pllUnlock, .pllRelock] ++ [.refLost] := rfl

/-! ## The register bus -/

/-- A register that only stores: CMB_WVINT. -/
def wvint : BitVec 26 := BitVec.ofNat 26 R.CMB_WVINT
theorem inert_wvint : Inert wvint.toNat := ⟨fun _ _ _ => ⟨rfl, rfl, rfl, rfl, rfl, rfl, rfl⟩, by decide, by decide⟩
theorem wit_RegisterWriteStores : onState.busOn = true ∧ wvint.toNat % 4 = 0 ∧ ∃ r, regRow? wvint.toNat = some r ∧ secureOnly r wvint.toNat = false ∧ r.half = 0 ∧ r.posted = false :=
  ⟨by decide +kernel, by decide, _, rfl, by decide +kernel, by decide +kernel, by decide +kernel⟩
theorem wit_BadAccessIsRefused : onState.busOn = true ∧ ¬ ((2 : BitVec 26).toNat % 4 = 0 ∧ (4 = 4 ∨ 4 = 8)) ∧ ¬ ((4 : BitVec 26).toNat % 4 = 0 ∧ (12 = 4 ∨ 12 = 8)) := by decide +kernel
def pwrLimit : BitVec 26 := BitVec.ofNat 26 R.PWR_LIMIT
theorem wit_DeniedAccess : onState.busOn = true ∧ pwrLimit.toNat % 4 = 0 ∧ (∃ r, regRow? pwrLimit.toNat = some r ∧ secureOnly r pwrLimit.toNat = true) ∧ onState.isSecure 72 = false ∧ onState.isSecure 0 = false :=
  ⟨by decide +kernel, by decide, ⟨_, rfl, by decide +kernel⟩, by decide +kernel, by decide +kernel⟩
theorem wit_ReadClears : onState.busOn = true ∧ (∃ r, regRow? R.CMB_EVENT = some r ∧ secureOnly r R.CMB_EVENT = false ∧ r.half = 0 ∧ r.rc ≠ 0) ∧ ClearsPlainly 0 R.CMB_EVENT :=
  ⟨by decide +kernel, ⟨_, rfl, by decide +kernel, by decide +kernel, by decide +kernel⟩, by unfold ClearsPlainly; decide⟩
theorem wit_PairReadIsOneMoment : onState.busOn = true ∧ (∃ r h, regRow? (R.HRT_WAVES_LO 135) = some r ∧ regRow? (R.HRT_WAVES_LO 135 + 4) = some h ∧ r.half = 1 ∧ h.half = 2 ∧ r.rc = 0 ∧ h.rc = 0 ∧
      secureOnly r (R.HRT_WAVES_LO 135) = false) ∧ ClearsPlainly 0 (R.HRT_WAVES_LO 135) ∧ ClearsPlainly 0 (R.HRT_WAVES_LO 135 + 4) ∧
    (onState.latched 0 (R.HRT_WAVES_LO 135) 7 9).bus.shadow.look none 0 = some (R.HRT_WAVES_LO 135, 9) :=
  ⟨by decide +kernel, ⟨_, _, rfl, rfl, by decide +kernel, by decide +kernel, by decide +kernel, by decide +kernel, by decide +kernel⟩,
    by unfold ClearsPlainly; decide, by unfold ClearsPlainly; decide, by decide +kernel⟩
theorem wit_ReadsThatClear : onState.busOn = true ∧ onState.binSum 63 = 0 := by decide +kernel

/-! ## Command queues -/

theorem wit_TailWriteAndPrefetchFetch : onState.busOn = true ∧ onState.clocked = true := by decide +kernel
/-- A ring of 16 slots at the start of comb memory, with one command waiting, for each kind of queue with one copy. -/
def ringState : State :=
  withRegs onState [(F.BLW_CTRL_SVC_EN 3, 1), (F.KLN_CTRL_EN 3, 1), (F.FBX_CTRL_EN 3, 1), (F.COL_CTRL_EN 3, 1), (F.FLU_CTRL_INJ_EN, 15),
    (F.BLW_SQSIZE_ENTRIES 3, 16), (F.KLN_QSIZE_ENTRIES 3, 16), (F.FBX_QSIZE_ENTRIES 3, 16), (F.COL_QSIZE_ENTRIES 3, 16), (F.FLU_SQSIZE_VALUE 3, 16),
    (F.BLW_SQTAIL_TAIL 3, 15), (F.KLN_QTAIL_TAIL 3, 15), (F.FBX_QTAIL_TAIL 3, 15), (F.COL_QTAIL_TAIL 3, 15), (F.FLU_SQTAIL_VALUE 3, 15),
    (⟨R.BLW_SQBASE_LO 3, 0, 32⟩, 0x10000), (⟨R.KLN_QBASE_LO 3, 0, 32⟩, 0x10000), (⟨R.FBX_QBASE_LO 3, 0, 32⟩, 0x10000), (⟨R.COL_QBASE_LO 3, 0, 32⟩, 0x10000), (⟨R.FLU_SQBASE_LO 3, 0, 32⟩, 0x10000)]
theorem wit_FetchTakesTheSlot : (∀ Q ∈ [svcQ 3, kilnQ 3, fireboxQ 3, colQ 3, injQ 3], onState.qOn Q = false ∧ ringState.qOn Q = true ∧ ringState.qsizeOk Q = true ∧ ringState.get Q.head ≠ ringState.qtail Q ∧
    (ringState.queue Q).cmds = [] ∧ (ringState.read (ringState.slotAddr Q (ringState.get Q.head)) Q.slotBytes).bad = none) := by decide +kernel
theorem wit_FetchTakesTheSlot_read : ∀ Q ∈ [svcQ 3, kilnQ 3, fireboxQ 3, colQ 3, injQ 3],
    (ringState.read (ringState.slotAddr Q (ringState.get Q.head)) Q.slotBytes).st = ringState := by decide +kernel
def tagged (t : Nat) : QCmd := cmdOf (desc 192 [(0, 1, 3), (4, 4, t)])
theorem wit_AbortAnswers : onState.busOn = true ∧ (∀ Q ∈ [hearthQ onState 135 1, kilnQ 3, fireboxQ 3, colQ 3],
    (withRegs onState [(Q.res, 1)]).get Q.res ≠ 0 ∧ onState.get Q.res = 0 ∧ (onState.queue Q).last ≠ some 7 ∧ (onState.queue Q).cmds = [] ∧ onState.waitingSlots Q = []) := by decide +kernel
theorem wit_AbortAnswers_queued : ∀ Q ∈ [hearthQ onState 135 1, kilnQ 3, fireboxQ 3, colQ 3],
    let s := queued onState Q [tagged 1, tagged 7] false
    s.busOn = true ∧ s.get Q.res = 0 ∧ (s.queue Q).last ≠ some 7 ∧ (s.queue Q).started = false ∧ (s.queue Q).ahead = false ∧ (s.queue Q).cmds[0 + 1]? = some (tagged 7) ∧ (tagged 7).tag = (7 : Word).toNat ∧ (tagged 7).aborted = false ∧
      (∀ y ∈ (s.queue Q).cmds[0]?, y.tag ≠ 7) := by decide +kernel
theorem wit_AbortAnswers_running : ∀ Q ∈ [hearthQ onState 135 1, kilnQ 3, fireboxQ 3, colQ 3],
    let s := queued onState Q [tagged 7] true
    s.get Q.res = 0 ∧ (s.queue Q).last ≠ some 7 ∧ s.startedHead Q = some (tagged 7) ∧ (tagged 7).tag = 7 := by decide +kernel
theorem wit_QueueResetEmpties : onState.busOn = true ∧ onState.syn.waiters = [] ∧ onState.on (F.HRT_CTRL_EN 135) = false ∧ onState.hearthIdle 135 = true ∧ onState.on (F.KLN_CTRL_EN 3) = false ∧
    onState.kilnIdle 3 = true ∧ onState.on (F.FBX_CTRL_EN 3) = false ∧ (onState.queue (fireboxQ 3)).started = false ∧ onState.on (F.COL_CTRL_EN 3) = false ∧ onState.colIdle 3 = true := by decide +kernel
theorem wit_SideRingResets : onState.busOn = true ∧ onState.on (F.HRT_CTRL_EN 135) = false ∧ onState.hearthIdle 135 = true ∧ (withRegs onState [(F.HRT_CTRL_EN 135, 1)]).on (F.HRT_CTRL_EN 135) = true ∧
    (queued onState (hearthQ onState 135 1) [tagged 1] true).hearthIdle 135 = false := by decide +kernel

/-! ## Posted writes -/

theorem wit_PostedWritesStart : onState.busOn = true ∧ onState.isSecure 68 = true ∧ onState.on (F.DMP_STATUS_BUSY 135) = false ∧ (onState.setHolder 68 (some (R.DMP_PTADDR_LO 135, 5))).bus.holder.look none 68 = some (R.DMP_PTADDR_LO 135, 5) ∧
    onState.on F.NUM_STATUS_BUSY = false ∧ (onState.setHolder 68 (some (R.NUM_SEED_LO, 5))).bus.holder.look none 68 = some (R.NUM_SEED_LO, 5) ∧ onState.on (F.BLW_STATUS_BUSY 3) = false ∧ onState.on F.ERR_STATUS_BUSY = false ∧
    onState.on F.FFY_STATUS_BUSY = false := by decide +kernel
theorem wit_PostedWritesStart_reform : onState.on F.HBM_STATUS_BUSY = false ∧ onState.on F.CFG_STATE_IMAGE = false ∧ 248 ≤ (256 : Word).toNat % 512 ∧ (256 : Word).toNat % 512 ≤ 256 ∧ (256 : Word).toNat % 512 ≤ onState.inService.length ∧
    248 ≤ (248 : Word).toNat % 512 ∧ onState.on F.FLU_STATUS_BUSY = false ∧ (1 : Word).getLsbD 0 = true := by decide +kernel
def busyState : State := withRegs onState [(F.BLW_STATUS_BUSY 3, 1), (F.FFY_STATUS_BUSY, 1), (F.ERR_STATUS_BUSY, 1), (F.HBM_STATUS_BUSY, 1), (F.FLU_STATUS_BUSY, 1), (F.NUM_STATUS_BUSY, 1)]
theorem wit_PostedWriteOverruns : busyState.busOn = true ∧ busyState.isSecure 68 = true ∧ busyState.on (F.BLW_STATUS_BUSY 3) = true ∧ busyState.on F.FFY_STATUS_BUSY = true ∧ busyState.on F.ERR_STATUS_BUSY = true ∧
    busyState.on F.HBM_STATUS_BUSY = true ∧ busyState.on F.FLU_STATUS_BUSY = true ∧ busyState.on F.NUM_STATUS_BUSY = true := by decide +kernel
def seedState : State := let s := onState.holdPosted 0x1500000 R.NUM_SEED_HI 1 (some 2); { s with num := { s.num with op := 1 } }
theorem wit_PostedWritesEnd : onState.clocked = true ∧ (onState.holdPosted (0x900000 + 0x1000 * 135) (R.DMP_PTADDR_HI 135) 1 none).bus.posted.look none (0x900000 + 0x1000 * 135) = some (R.DMP_PTADDR_HI 135, 1, none) ∧
    seedState.num.op = 1 ∧ seedState.bus.posted.look none 0x1500000 = some (R.NUM_SEED_HI, 1, some 2) ∧
    (onState.holdPosted (0xA00000 + 0x10000 * 3) (R.BLW_RELOAD 3) 1 none).bus.posted.look none (0xA00000 + 0x10000 * 3) = some (R.BLW_RELOAD 3, 1, none) ∧
    (0x1600000 : BitVec 26).toNat ∈ [0x400000, 0x500000, 0x1600000] ∧ (onState.holdPosted 0x1600000 R.FFY_CTRL 1 none).bus.posted.look none 0x1600000 = some (R.FFY_CTRL, 1, none) := by decide +kernel
theorem wit_PostedWritesEnd_ops : ({ onState with num := { onState.num with op := 2 } } : State).num.op = 2 ∧ ({ onState with ram := { onState.ram with reform := some 256 } } : State).ram.reform = some 256 ∧
    ({ onState with flue := { onState.flue with commit := some 0x10000 } } : State).flue.commit = some 0x10000 := by decide +kernel
theorem onState_locate (a : Nat) (h : a < 2 ^ 28) : onState.locate a = some (physBase + a) := by
  have h0 : a / 2 ^ 28 = 0 := Nat.div_eq_of_lt h
  have e : onState.physOf 0 = some 0 := by decide +kernel
  unfold State.locate; rw [if_pos (by omega), h0, e]
  simp only [Nat.mod_eq_of_lt h]; rfl
theorem read_bad (s : State) (a n g k : Nat) (hn : n ≠ 0) (hg : a / 16 = g) (hk : (a + n - 1) / 16 + 1 - g = k) : (s.read a n).bad = (s.readGranules false g k).bad := by
  subst hg hk
  unfold State.read State.readAt
  rw [if_neg hn]
theorem wit_PostedWritesEnd_table : (onState.read 0x10000 131072).bad = none := by
  rw [read_bad onState 0x10000 131072 4096 8192 (by omega) (by omega) (by omega)]
  refine (clean_granules onState (by decide +kernel) 8192 4096 ?_).1
  intro i hi
  refine ⟨_, onState_locate _ (by omega), ?_, ?_⟩
  · unfold keyFar physBase farBase; simp; omega
  · unfold inPhys physBase; simp; omega

/-! ## Barriers and sparks -/

/-- Barrier 4095 counts to 2; barrier 4094 is a group barrier of slot 255, with queue 8 in its mask. -/
def barState : State :=
  withRegs onState [(F.SYN_CTRL_EN, 1), (F.SYN_CTRL_LEND_EN, 1), (F.SYN_BAR_CFG_VALID 4095, 1), (F.SYN_BAR_CFG_P 4095, 2), (F.SYN_BAR_CFG_VALID 4094, 1), (F.SYN_BAR_CFG_GROUP 4094, 1), (F.SYN_BAR_CFG_GSLOT 4094, 255),
    (F.SYN_GRP_MASK_MASK 255 0, 256), (F.SYN_GRP_CTRL_COUNTER 255, 4094), (F.SYN_GRP_CTRL_VALID 255, 1)]
def fullBar : State := withRegs barState [(F.SYN_BAR_CNT_COUNT 4095, 0xFFFF)]
theorem wit_SignalsAndSubtractionsCount : barState.on F.SYN_CTRL_EN = true ∧ barState.ctrValid 4095 = true ∧ barState.isGroup 4095 = false ∧ barState.clocked = true ∧ barState.busOn = true ∧
    (0xFFF : Word).toNat % 4096 = 4095 ∧ barState.get (F.SYN_BAR_CNT_COUNT 4095) ≠ 0xFFFF ∧ fullBar.get (F.SYN_BAR_CNT_COUNT 4095) = 0xFFFF ∧ fullBar.ctrValid 4095 = true ∧
    barState.get (F.SYN_BAR_CNT_COUNT 4095) < (1 : Word).toNat % 2 ^ 16 ∧ (0 : Word).toNat % 2 ^ 16 ≤ barState.get (F.SYN_BAR_CNT_COUNT 4095) := by decide +kernel
/-- A register of a part of the map where no table gives a reset value reads zero at reset. -/
theorem reset_zero (off lo hi : Nat) (h1 : lo ≤ off) (h2 : off < hi) (hd : hi ≤ 0xD44000) (hr : ∀ r ∈ resetRows, 0 < r.s1 ∧ (r.base + r.n1 * r.s1 ≤ lo ∨ hi ≤ r.base)) : regReset off = 0 := by
  unfold regReset
  rw [if_neg (by omega), if_neg (by omega)]
  have : resetRows.find? (·.covers off) = none := by
    rw [List.find?_eq_none]
    intro r hm hc
    unfold RegRow.covers at hc
    simp only [Bool.and_eq_true, decide_eq_true_eq] at hc
    obtain ⟨hb, ⟨hi', _⟩, _⟩ := hc
    obtain ⟨hs, h⟩ := hr r hm
    rcases h with h | h
    · have : r.base + r.n1 * r.s1 ≤ off := by omega
      have : r.n1 * r.s1 ≤ off - r.base := by omega
      exact absurd hi' (by rw [Nat.not_lt, Nat.le_div_iff_mul_le hs]; exact this)
    · omega
  rw [this]; rfl
theorem withRegs_reg (s : State) (l : List (RF × Nat)) (o : Nat) (h : ∀ p ∈ l, o ≠ p.1.off) : (withRegs s l).reg o = s.reg o := by
  unfold withRegs
  induction l generalizing s with
  | nil => rfl
  | cons p l ih => rw [List.foldl_cons, ih _ (fun q hq => h q (List.mem_cons_of_mem _ hq)), State.reg_set_ne _ _ (h p List.mem_cons_self)]
theorem barState_group (c : Nat) (h : c < 4096) (hn : c ≠ 4094) : barState.isGroup c = false := by
  by_cases h5 : c = 4095
  · subst h5; decide +kernel
  have e : barState.reg (R.SYN_BAR_CFG c) = 0 := by
    unfold barState
    rw [withRegs_reg]
    · unfold onState
      rw [withRegs_reg]
      · show BitVec.ofNat 32 (regReset (R.SYN_BAR_CFG c)) = 0
        rw [reset_zero _ 0x610000 0x618000 (by unfold R.SYN_BAR_CFG; omega) (by unfold R.SYN_BAR_CFG; omega) (by omega) (by decide +kernel)]; rfl
      · intro p hp
        simp only [List.mem_cons, List.not_mem_nil, or_false] at hp
        rcases hp with rfl | rfl | rfl | rfl | rfl | rfl | rfl <;> simp only [R.SYN_BAR_CFG, F.CMB_PAIRMAP_VALID, F.CMB_PAIRMAP_PHYS] <;> omega
    · intro p hp
      simp only [List.mem_cons, List.not_mem_nil, or_false] at hp
      rcases hp with rfl | rfl | rfl | rfl | rfl | rfl | rfl | rfl | rfl | rfl <;>
        simp only [R.SYN_BAR_CFG, F.SYN_CTRL_EN, F.SYN_CTRL_LEND_EN, F.SYN_BAR_CFG_VALID, F.SYN_BAR_CFG_P, F.SYN_BAR_CFG_GROUP, F.SYN_BAR_CFG_GSLOT, F.SYN_GRP_MASK_MASK, F.SYN_GRP_CTRL_COUNTER, F.SYN_GRP_CTRL_VALID] <;> omega
  unfold State.isGroup State.on State.get
  rw [show (F.SYN_BAR_CFG_GROUP c).off = R.SYN_BAR_CFG c from rfl, e]; rfl
theorem wit_SignalsAndSubtractionsCount_group : barState.ctrValid 4094 = true ∧ barState.isGroup 4094 = true ∧ barState.gslot 4094 = 255 ∧ barState.inMask 255 (8 : BitVec 9).toNat = true ∧
    (8 : BitVec 9).toNat ∉ barState.syn.arrived.look [] 255 ∧ barState.on (F.SYN_GRP_CTRL_TREE 255) = false := by
  refine ⟨?_, by decide +kernel, by decide +kernel, by decide +kernel, by decide +kernel, by decide +kernel⟩
  have g : barState.gslot 4094 = 255 := by decide +kernel
  have a1 : barState.on (F.SYN_BAR_CFG_VALID 4094) = true := by decide +kernel
  have a2 : barState.isGroup 4094 = true := by decide +kernel
  have a3 : barState.on (F.SYN_GRP_CTRL_VALID 255) = true := by decide +kernel
  have a4 : barState.get (F.SYN_GRP_CTRL_COUNTER 255) = 4094 := by decide +kernel
  have a5 : ((List.range 296).any fun k => barState.inMask 255 (216 + k)) = false := by decide +kernel
  have a6 : ((List.range 4096).any fun c => c != 4094 && barState.on (F.SYN_BAR_CFG_VALID c) && barState.isGroup c && barState.gslot c == 255) = false := by
    rw [List.any_eq_false]
    intro c hc
    by_cases h : c = 4094
    · subst h; simp
    · rw [barState_group c (List.mem_range.1 hc) h]; simp
  unfold State.ctrValid
  rw [a1, a2]
  unfold State.groupBad
  dsimp only
  rw [g, a3, a4, a5, a6]; rfl
/-- The example of R446: two crickets take on barrier 4095 and hearth queue 12 waits on it. -/
def takeState : State :=
  { withRegs barState [(F.SYN_BAR_CNT_COUNT 4095, 2)] with syn := { barState.syn with waiters := [⟨12, 4095, false, 0, []⟩, ⟨135, 4095, true, 0, []⟩, ⟨130, 4095, true, 0, []⟩] } }
theorem wit_CountWritesAndReleases : takeState.busOn = true ∧ takeState.clocked = true ∧ takeState.on F.SYN_CTRL_EN = true ∧ takeState.ctrValid 4095 = true ∧ takeState.isGroup 4095 = false ∧
    takeState.get (F.SYN_BAR_CFG_P 4095) ≤ min (takeState.get (F.SYN_BAR_CNT_COUNT 4095) + 1) 0xFFFF ∧ min (barState.get (F.SYN_BAR_CNT_COUNT 4095) + 1) 0xFFFF < barState.get (F.SYN_BAR_CFG_P 4095) := by decide +kernel
theorem wit_TakeReleasesOne : takeState.satisfied 4095 = true ∧ (⟨130, 4095, true, 0, []⟩ : Waiter) ∈ takeState.syn.waiters ∧
    (∀ v ∈ takeState.syn.waiters, v.ctr = 4095 → v.take = true → v = ⟨130, 4095, true, 0, []⟩ ∨ 130 < v.qid) := by decide +kernel
theorem wit_WaitsLendPowerAndMisuseIsNoted : takeState.clocked = true ∧ takeState.on F.SYN_CTRL_LEND_EN = true ∧ takeState.stalled (12 : BitVec 9).toNat = true ∧ (12 : BitVec 9).toNat ∉ takeState.syn.lent ∧
    takeState.on F.SYN_CTRL_EN = true ∧ takeState.ctrValid 0 = false ∧ (withRegs barState [(F.SYN_GRP_CTRL_COUNTER 255, 0)]).ctrValid 4094 = false := by decide +kernel

/-! ## Hearths -/

/-- A MATMUL of 1 by 1 by 2 elements in FP32, without a side entry: A at 0x20000, B at 0x20040, D at 0x20080. -/
def mmCmd : QCmd :=
  { cmdOf (desc 192 [(0, 1, 1), (4, 4, 7), (8, 4, 1), (12, 4, 1), (16, 4, 2), (24, 8, 0x20000), (32, 8, 0x20040), (48, 8, 0x20080), (72, 4, 64), (76, 4, 64), (84, 4, 64), (92, 4, 0x3F800000),
      (96, 4, 1), (112, 4, 1), (144, 4, 1)]) with policy := onState.policyCopy 0 }
def hrtState (c : QCmd) (started : Bool) : State := withRegs (queued onState (hearthQ onState 3 1) [c] started) [(F.HRT_CTRL_EN 3, 1)]
theorem wit_PaceMissRaisesSupply : onState.clocked = true ∧ onState.on F.PWR_CTRL_VLOOP_EN = true ∧ (withRegs onState [(F.PWR_CTRL_VLOOP_EN, 0)]).clocked = true ∧ (withRegs onState [(F.PWR_CTRL_VLOOP_EN, 0)]).on F.PWR_CTRL_VLOOP_EN = false := by decide +kernel
theorem wit_MatmulRunsOut : (hrtState mmCmd false).hearthHead 3 1 mmCmd ∧ mmCmd.sideBad = false ∧ ((hrtState mmCmd false).mmReject 3 mmCmd).isNone = true :=
  ⟨⟨by decide +kernel, by decide +kernel, by decide +kernel, by decide +kernel, by decide +kernel, by decide +kernel⟩, by decide +kernel, by decide +kernel⟩
/-- That MATMUL in progress. -/
def mmRun : HRun := HRun.new mmCmd false
def runState (r : HRun) : State := (hrtState mmCmd true).modHearth 3 fun h => { h with run := some r }
def bankNow (s : State) (r : HRun) : Banks := (mmOf r.cmd.bytes).loadBanks s r.tile (r.wave / (mmOf r.cmd.bytes).cls.passes) (r.wave % (mmOf r.cmd.bytes).cls.passes) r.bankA r.bankB
theorem wit_WaveAccumulates : let s := runState mmRun; let x := mmOf mmCmd.bytes
    s.clocked = true ∧ (s.hearth 3).run = some mmRun ∧ (s.hearth 3).withheld mmRun x = false ∧ (s.hearth 3).tapStalled = false ∧ (bankNow s mmRun).bad = none ∧
    (x.loadSide (bankNow s mmRun).st mmCmd.side 0 0 (mmRun.sideBank 0)).bad = none ∧ mmRun.wave + 1 < x.waves := by decide +kernel
def finTile (need : Nat) : FinTile := { idx := 0, attempt := 0, shift := 0, lanes := [], base := [], sel := false, marked := false, need := need }
def watchOf (ran notChecked : Bool) : Watch := { idx := 0, attempt := 0, ran := ran, notChecked := notChecked, lanes := [], codes := [], scales := [], c := [], bias := [] }
theorem wit_TileIsDrainedRecomputedWatched_drain : ∀ need ∈ [0, 1], ((runState { mmRun with fin := some (finTile need) }).hearth 3).old = some { mmRun with fin := some (finTile need) } ∧ (finTile need).need = need ∧
    (((runState mmRun).modHearth 3 fun h => { h with prev := some { mmRun with fin := some (finTile need) } }).hearth 3).old = some { mmRun with fin := some (finTile need) } := by decide +kernel
def rerunAt : State := (runState { mmRun with fin := some (finTile 2) }).countAttempt 3 (mmOf mmCmd.bytes).policy 1
theorem wit_TileIsDrainedRecomputedWatched_rerun : ((runState { mmRun with fin := some (finTile 2) }).hearth 3).old = some { mmRun with fin := some (finTile 2) } ∧ (finTile 2).need = 2 ∧
    (State.rerunWaves 3 (mmOf mmCmd.bytes) 0 (polStep mmCmd.policy) (mmOf mmCmd.bytes).waves 0 ⟨mmRun.bankA, mmRun.bankB, [], none, rerunAt⟩).bad = none := by decide +kernel
/-- A holds 1.0 and -2.0; `nanA` holds a NaN in its place. -/
def watchState (w : Watch) (a : Nat) : State := poke (runState { mmRun with watch := some w }) 0x20000 (leBytes 4 a ++ leBytes 4 0xC0000000)
theorem wit_TileIsDrainedRecomputedWatched_watch : ((watchState (watchOf false false) 0x3F800000).hearth 3).old = some { mmRun with watch := some (watchOf false false) } ∧
    (∀ a ∈ [0x3F800000, 0x7FC00000], let x := mmOf mmCmd.bytes; let s := watchState (watchOf false false) a; let p := x.a.decodeRows s (x.row0 0) (x.rows 0) x.k; let q := x.b.decodeRows p.2.2 (x.col0 0) (x.cols 0) x.k;
      p.2.1 = none ∧ q.2.1 = none ∧ (p.1 ++ q.1).all (fun l => l.all fun e => e.isFin && fmt32.holds e) = (a == 0x3F800000)) ∧
    ((watchState (watchOf true true) 0).hearth 3).old = some { mmRun with watch := some (watchOf true true) } := by decide +kernel
def nopCmd : QCmd := cmdOf (desc 192 [(0, 1, 3), (4, 4, 1)])
def bubbleCmd : QCmd := cmdOf (desc 192 [(0, 1, 2), (4, 4, 1), (8, 4, 1), (176, 8, 0x30000)])
theorem wit_NopAndBubblesRun_nop : (hrtState nopCmd false).hearthHead 3 3 nopCmd ∧ bitsOf (leAt nopCmd.bytes 0 4) 31 9 = 0 ∧ zeroAt nopCmd.bytes 8 160 = true ∧ bitsOf (leAt nopCmd.bytes 168 2) 14 12 = 0 ∧
    zeroAt nopCmd.bytes 170 6 = true ∧ zeroAt nopCmd.bytes 184 8 = true ∧ leAt nopCmd.bytes 176 8 = 0 :=
  ⟨⟨by decide +kernel, by decide +kernel, by decide +kernel, by decide +kernel, by decide +kernel, by decide +kernel⟩, by decide +kernel⟩
theorem wit_NopAndBubblesRun_bubble : (hrtState bubbleCmd false).hearthHead 3 2 bubbleCmd ∧ bitsOf (leAt bubbleCmd.bytes 0 4) 31 9 = 0 ∧ leAt bubbleCmd.bytes 8 4 ≠ 0 ∧ zeroAt bubbleCmd.bytes 12 164 = true ∧
    zeroAt bubbleCmd.bytes 184 8 = true ∧ (hrtState bubbleCmd false).recAddrOk (leAt bubbleCmd.bytes 176 8) = true :=
  ⟨⟨by decide +kernel, by decide +kernel, by decide +kernel, by decide +kernel, by decide +kernel, by decide +kernel⟩, by decide +kernel⟩
def bubbleState (n : Nat) (c : QCmd) : State := (hrtState c true).modHearth 3 fun h => { h with bubble := n }
/-- The bellows of quadrant 0 holds the step, and names hearth 3 for its borrowed work. -/
def holdState (l : List QCmd) (n : Nat) : State :=
  withRegs ({ (queued onState (hearthQ onState 3 1) l false) with blw := [(0, { Blw.reset with hold := some 0 })] }.modHearth 3 fun h => { h with bubble := n }) [(F.BLW_BORROW_MASK 0, 8)]
theorem wit_NopAndBubblesRun_end : (bubbleState 1 bubbleCmd).bubbleLeft 3 = 1 ∧ ({ bubbleState 1 bubbleCmd with cycle := 1 } : State).bubbleLeft 3 = 0 ∧ (bubbleState 1 bubbleCmd).cycle = ((bubbleState 1 bubbleCmd).hearth 3).bubbleAt ∧
    ((bubbleState 1 bubbleCmd).queue (hearthQ (bubbleState 1 bubbleCmd) 3 1)).cmds.head? = some bubbleCmd ∧ ((bubbleState 1 bubbleCmd).hearth 3).bubble = 1 ∧ ((bubbleState 1 bubbleCmd).hearth 3).run = none ∧ (bubbleState 1 bubbleCmd).startedHead (hearthQ (bubbleState 1 bubbleCmd) 3 1) = some bubbleCmd ∧
    (bubbleState 1 bubbleCmd).clocked = true := by decide +kernel
theorem wit_NopAndBubblesRun_hold : ((holdState [] 0).hearth 3).run = none ∧ ((holdState [] 0).hearth 3).bubble = 0 ∧ (holdState [] 0).heldHearth 3 = true ∧ (holdState [] 0).mainEmpty 3 = true ∧
    (holdState [] 0).on (F.HRT_CTRL_BORROW_EN 3) = false ∧ ((holdState [nopCmd] 2).hearth 3).bubble = 2 ∧ (holdState [nopCmd] 2).mainEmpty 3 = false ∧ (bubbleState 2 nopCmd).heldHearth 3 = false ∧
    (holdState [] 0).clocked = true := by decide +kernel

/-! ## Bellows -/

/-- A factor of one element: kind k, root as its flags say, one row of eight in the window, copies at 0x40000 and 0x48000, roots at 0x50000 and 0x58000,
work region at 0x60000, certificate at 0x70000, matrix at 0x78000. -/
def factDesc (flags : Nat) : List Byte :=
  desc 128 [(0, 4, flags), (4, 2, 1), (6, 1, 1), (8, 4, 1), (12, 2, 8), (16, 4, 0x3F000000), (20, 4, 0x3F000000), (24, 8, 0x40000), (32, 8, 0x48000), (40, 8, 0x50000), (48, 8, 0x58000), (56, 8, 0x60000),
    (64, 8, 0x70000), (80, 4, 0x40000000), (84, 4, 0x3A83126F), (88, 4, 0), (92, 1, 1), (96, 8, 0x78000), (104, 4, 64), (108, 4, 1)]
def blwState (x : Fact) : State :=
  withRegs { onState with blw := [(0, { Blw.reset with facts := [(1023, x)] })] } [(F.BLW_CTRL_EN 0, 1), (F.BLW_CTRL_ROOT_EN 0, 1), (F.BLW_LAMSPK_VALID 0, 1), (F.BLW_NFACT_COUNT 0, 1024), (⟨R.BLW_FEBASE_LO 0, 0, 32⟩, 0x80000),
    (F.BLW_BORROW_MASK 0, 10)]
/-- A tap record of hearth 3: stream 0, entry 1, FP32, row 0. -/
def tapRec : List Byte := desc 1040 [(4, 2, 1), (6, 1, 1), (16, 4, 0x3F800000)]
/-- The tap entry 1 names factor 1023, valid or not. -/
def tapState (valid : Nat) : State :=
  poke ((blwState { Fact.none with desc := factDesc 0x40 }).modHearth 3 fun h => { h with tapBuf := [(1, tapRec)] }) 0x80010 (desc 16 [(0, 2, 1023), (2, 1, valid)])
theorem wit_CurvatureIsAccumulated_tap : ∀ v ∈ [0, 1], (tapState v).clocked = true ∧ ((tapState v).hearth 3).tapBuf = (1, tapRec) :: [] ∧ (tapState v).logicalOf 3 = some 3 ∧ (tapState v).blwOn 0 = true ∧
    ((tapState v).read ((tapState v).tapEntry 0 tapRec) 16).bad = none ∧ ((tapState v).tapPlace 0 tapRec ((tapState v).read ((tapState v).tapEntry 0 tapRec) 16).bytes).2.2 = 1 - v := by decide +kernel
theorem wit_CurvatureIsAccumulated_sample : let s := blwState { Fact.none with desc := factDesc 0x42 }
    s.clocked = true ∧ s.blwOn 0 = true ∧ (s.fact 0 1023).desc ≠ [] ∧ 1023 < s.get (F.BLW_NFACT_COUNT 0) ∧ 2 ≤ fdKind (s.fact 0 1023).desc ∧ (s.fact 0 1023).reading = false ∧ (s.fact 0 1023).vec = 0 ∧
    (fdBar (s.fact 0 1023).desc).testBit 15 = false := by decide +kernel
def rowState (e : Nat) : State := poke (blwState { Fact.none with desc := factDesc 0x40, got := [(0, 1)] }) 0x60000 (leBytes 4 e)
theorem wit_CurvatureIsAccumulated_row : ∀ e ∈ [0x3F800000, 0x7F800000], let s := rowState e; let x := s.fact 0 1023; let r := s.read (rowChunk x.desc x.jo 0) (fdChunks x.desc * 1024)
    s.blwOn 0 = true ∧ x.desc ≠ [] ∧ x.jo < fdRows x.desc ∧ x.got.look 0 x.jo = fullMask (fdChunks x.desc) ∧ r.bad = none ∧ ((codesOf 4 r.bytes (fdDim x.desc)).map val32).all (·.isFin) = (e == 0x3F800000) := by decide +kernel
theorem wit_CurvatureIsAccumulated_fold : let s := blwState { Fact.none with desc := factDesc 0x40, jo := 1, acc := true }
    s.blwOn 0 = true ∧ (s.fact 0 1023).desc ≠ [] ∧ fdRows (s.fact 0 1023).desc ≤ (s.fact 0 1023).jo ∧ (s.fact 0 1023).folded = false := by decide +kernel
def askState : State := { (blwState { Fact.none with desc := factDesc 0x44, job := { RootJob.none with st := 1 } }) with blw := [(0, { Blw.reset with facts := [(1023, { Fact.none with desc := factDesc 0x44, job := { RootJob.none with st := 1 } })], order := [1023] })] }
theorem wit_RootJobsProceed_request : askState.clocked = true ∧ askState.rootOn 0 = true ∧ askState.on (F.BLW_LAMSPK_VALID 0) = true ∧ (askState.bellows 0).asked = none ∧
    (askState.bellows 0).order = 1023 :: [] := by decide +kernel
/-- The eigenvalue request of the factor has been answered with 1.0, without a flag; the matrix is 1.0. -/
def prepState : State :=
  poke (poke (blwState { Fact.none with desc := factDesc 0x44, job := { RootJob.none with st := 1, req := 2 } }) (fdBuf (factDesc 0x44) 0) (leBytes 4 0x3F800000)) (fdReq (factDesc 0x44) + 32) (leBytes 8 0x3FF0000000000000)
theorem wit_RootJobsProceed_preparation : let s := prepState; let x := s.fact 0 1023; let n := fdSize x.desc x.job.block
    let m := s.readMat (fdBuf x.desc 0) (fdPitch x.desc) n n 4; let c := m.st.read (fdCert x.desc) 16; let r := c.st.read (fdReq x.desc + 32) 16
    let delta := fmt64.add (fmt64.mul (fdDampRel x.desc) (val64 (leAt r.bytes 0 8))) (fdDampAbs x.desc); let g := fmt64.mul (fdGuard x.desc) (fmt64.add (val64 (leAt r.bytes 0 8)) delta)
    s.clocked = true ∧ s.rootOn 0 = true ∧ x.job.st = 1 ∧ x.job.req = 2 ∧ m.bad = none ∧ c.bad = none ∧ r.bad = none ∧ leAt r.bytes 8 1 = 0 ∧ g.isFin = true ∧ FV.zero.lt g = true ∧
      (val32 (leAt c.bytes 4 4)).le (delta.scale2 (-(leastPow2 g))) = true := by decide +kernel
def iterState : State := blwState { Fact.none with desc := factDesc 0x44, job := { RootJob.none with st := 2, ran := true } }
theorem wit_RootJobsProceed_iteration : let s := iterState; let x := s.fact 0 1023
    s.clocked = true ∧ s.rootOn 0 = true ∧ (x.job.settled (rootTiles x.desc x.job.block)).st = 2 ∧ (x.job.settled (rootTiles x.desc x.job.block)).prods = [] ∧ (x.job.settled (rootTiles x.desc x.job.block)).ran = true ∧ ((s.modJob 0 1023 fun _ => x.job.settled (rootTiles x.desc x.job.block)).read (fdCert x.desc) (16 * (fdNit x.desc + 1))).bad = none := by decide +kernel
def prodState : State := blwState { Fact.none with desc := factDesc 0x44, job := { RootJob.none with st := 2, prods := [⟨0x61000, 0, 0x62000, 0, 0x63000, 0⟩] } }
theorem wit_RootJobsProceed_borrow : let s := prodState; let x := s.fact 0 1023
    s.clocked = true ∧ s.rootOn 0 = true ∧ (List.range 1024).find? (s.tileReady 0) = some 1023 ∧ s.freeBorrow 0 = 1 :: [3] ∧ (x.job.settled (rootTiles x.desc x.job.block)).prods = ⟨0x61000, 0, 0x62000, 0, 0x63000, 0⟩ :: [] := by decide +kernel
def jobState (x : Fact) : State := withRegs { (blwState x) with job := { onState.job with step := 5 } } [(F.BLW_RELSPK_VALID 0, 1), (F.ERR_CTRL_JOB_EN, 1)]
theorem wit_RootJobsProceed_hold : (∀ b ∈ [5, 6], let s := jobState { Fact.none with desc := factDesc 0x44, job := { RootJob.none with st := 1, deliver := b } }
    s.clocked = true ∧ s.jobEn = true ∧ (s.bellows 0).hold = none ∧ ((s.bellows 0).facts.any fun x => x.2.job.deliver == s.job.step && (x.2.job.st == 1 || x.2.job.st == 2)) = (b == 5) ∧ s.on (F.BLW_RELSPK_VALID 0) = true) := by decide +kernel
/-- An ORTHO of a 1 by 1 matrix. -/
def orthoCmd : QCmd := cmdOf (desc 64 [(0, 1, 1), (4, 4, 9), (8, 4, 1), (12, 2, 1), (14, 1, 1), (16, 8, 0x20000), (24, 8, 0x21000), (32, 4, 64), (36, 4, 64), (40, 4, 0x3A83126F)])
def orthoState (e : Nat) : State := poke (withRegs (queued onState (svcQ 3) [orthoCmd] false) [(F.BLW_CTRL_SVC_EN 3, 1)]) 0x20000 (leBytes 4 e)
theorem wit_OrthoDelivers : ∀ e ∈ [0x40000000, 0, 0x7F800000], let s := orthoState e; let u := s.startHead (svcQ 3); let p := u.readMat 0x20000 64 1 1 4
    s.qOn (svcQ 3) = true ∧ s.readyHead (svcQ 3) = some orthoCmd ∧ orthoBad u orthoCmd.bytes = false ∧ p.bad = none ∧
      (orthoOf 1 1 1 (val32 (leAt orthoCmd.bytes 40 4)) (p.rows.map fun l => l.map val32)).1 = (if e = 0 then 1 else if e = 0x40000000 then 0 else 2) := by decide +kernel

/-! ## Kilns -/

/-- A matrix of one 4 by 4 block, diagonal 1, 2, 1, 1, times a binary64 number: header at 0x20000; the right side at 0x24000 is zero. -/
def kilnMem (s : State) (d : Nat) : State :=
  poke (poke (poke s 0x20000 (desc 64 [(4, 4, 1), (8, 4, 1), (16, 8, 5), (24, 8, 0x21000), (32, 8, 0x22000), (40, 8, 0x23000)])) 0x21004 [1])
    0x23000 (desc 128 [(0, 8, d), (40, 8, if d = 0 then 0 else 0x4000000000000000), (80, 8, d), (120, 8, d)])
def kilnRegs (s : State) : State :=
  withRegs s [(F.KLN_CTRL_EN 3, 1), (F.KLN_CTRL_LAM_EN 3, 1), (F.KLN_NCTX_COUNT 3, 1), (⟨R.KLN_CTXBASE_LO 3, 0, 32⟩, 0x30000), (⟨R.ERR_CBASE_LO, 0, 32⟩, 0x38000)]
/-- A CG solve without preconditioner, cap 10, with a deadline and a tolerance. -/
def solveCmd (op deadline cap tol : Nat) : QCmd :=
  cmdOf (desc 192 [(0, 1, op), (4, 4, 3), (14, 2, cap), (16, 8, tol), (24, 8, deadline), (40, 8, 0x20000), (48, 8, 0x24000), (64, 8, 0x26000)])
def one64 : Nat := 0x3FF0000000000000
def kilnState (c : QCmd) : State := kilnMem (kilnRegs (queued onState (kilnQ 3) [c] false)) one64
theorem wit_SolveSetsUpAndEnds_solve : ∀ cap ∈ [10, 0], let c := solveCmd 1 100000 cap 0; let s := kilnState c; let u := s.startHead (kilnQ 3); let h := u.read (slMatrix c.bytes) 64
    let cx := h.st.ctxRead 3 (u.pair (R.KLN_CTXBASE_LO 3)) (slCtx c.bytes)
    s.qOn (kilnQ 3) = true ∧ (s.kiln 3).run.isNone = true ∧ s.readyHead (kilnQ 3) = some c ∧ c.op = 1 ∧ klnCommonBad u 3 c.bytes = false ∧ h.bad = none ∧ cx.bad = none ∧
      solveBad cx.st 3 c.bytes h.bytes cx.inc = (cap == 0) := by decide +kernel
/-- A solve in progress, with its search direction p and residual r. -/
def solveRun (deadline cap tol iters : Nat) (p r : List Dbl) : Solve :=
  { Solve.new (solveCmd 1 deadline cap tol) 0x30000 false with x := List.replicate 4 0, p := p, r := r, rho := 0x4000000000000000, bnorm := one64, iters := iters, charged := 1000 }
def solvingState (z : Solve) : State := kilnMem ((kilnRegs (queued onState (kilnQ 3) [z.cmd] true)).modKln 3 fun k => { k with run := some z }) one64
/-- What that solve reads, and the state after it, where all of it can be read. -/
def readsOf (s : State) (z : Solve) : Option (KSet × State) :=
  let h := s.read (slMatrix z.cmd.bytes) 64
  let m := h.st.readBcsr h.bytes
  match m.mat with
  | none => none
  | some a =>
    let cx := m.st.ctxRead 3 z.ctxBase (slCtx z.cmd.bytes)
    let pr := cx.st.readPrec a z.prec (z.ctx a cx.inc)
    let b := pr.st.readB z.cmd.bytes a.n
    if h.bad.isSome || m.bad.isSome || cx.bad.isSome || pr.bad.isSome || b.2.1.isSome || z.fixed then none
    else some (⟨a, z.ctx a cx.inc, pr.f, pr.dg, b.1, []⟩, b.2.2)
theorem none_of_not_some {α : Type} {o : Option α} (h : o.isSome = false) : o = none := by cases o with
  | none => rfl
  | some _ => cases h
theorem reads_hold {s : State} {z : Solve} {k : KSet} {u : State} (h : readsOf s z = some (k, u)) : s.solveReads 3 z k u := by
  unfold readsOf at h
  dsimp only at h
  split at h
  · cases h
  · rename_i a ha
    split at h
    · cases h
    · rename_i hb
      simp only [Bool.or_eq_true, not_or, Bool.not_eq_true] at hb
      obtain ⟨⟨⟨⟨⟨h1, h2⟩, h3⟩, h4⟩, h5⟩, h6⟩ := hb
      injection h with h
      obtain ⟨hk, hu⟩ := Prod.mk.injEq .. ▸ h
      subst hk
      refine ⟨_, _, _, _, u, ⟨[], none, u⟩, rfl, none_of_not_some h1, rfl, none_of_not_some h2, ha, rfl, none_of_not_some h3, rfl, rfl, none_of_not_some h4, rfl, rfl, ?_, ?_, rfl, rfl, rfl⟩
      · exact Prod.ext rfl (Prod.ext (none_of_not_some h5) hu)
      · rw [h6]; rfl
theorem wit_SolveSetsUpAndEnds_deadline : let z := solveRun 1000 10 0 2 [] []; let s := solvingState z
    s.clocked = true ∧ (s.kiln 3).run = some z ∧ slDeadline z.cmd.bytes ≤ z.charged ∧ (∃ k u, s.solveReads 3 z k u) ∧ z.hs = [] := by
  refine ⟨by decide +kernel, by decide +kernel, by decide +kernel, ?_, rfl⟩
  obtain ⟨x, hx⟩ := Option.isSome_iff_exists.1 (show (readsOf (solvingState (solveRun 1000 10 0 2 [] [])) (solveRun 1000 10 0 2 [] [])).isSome = true by decide +kernel)
  exact ⟨x.1, x.2, reads_hold hx⟩
/-- A block-Jacobi FACTOR. -/
def factorCmd : QCmd := cmdOf (desc 192 [(0, 1, 2), (4, 4, 3), (8, 4, 0x200), (24, 8, 100000), (40, 8, 0x20000)])
theorem wit_SolveSetsUpAndEnds_factor : ∀ d ∈ [one64, 0], let c := factorCmd; let s := kilnMem (kilnRegs (queued onState (kilnQ 3) [c] false)) d; let u := s.startHead (kilnQ 3); let h := u.read (slMatrix c.bytes) 64; let m := h.st.readBcsr h.bytes
    s.qOn (kilnQ 3) = true ∧ (s.kiln 3).run.isNone = true ∧ s.readyHead (kilnQ 3) = some c ∧ c.op = 2 ∧ klnCommonBad u 3 c.bytes = false ∧ h.bad = none ∧ factorBad h.st 3 c.bytes h.bytes = false ∧ m.bad = none ∧
      (m.mat.any fun a => (m.st.strictly 3 (factorRows (slPrec c.bytes) a.bs (slDeadline c.bytes) a.rows 0 [] 0)).1.1.isSome == (d != 0)) = true := by decide +kernel
theorem wit_SolveSetsUpAndEnds_nop : let c := cmdOf (desc 192 [(0, 1, 3), (128, 8, 0x29000)]); let s := kilnRegs (queued onState (kilnQ 3) [c] false)
    s.qOn (kilnQ 3) = true ∧ (s.kiln 3).run.isNone = true ∧ s.readyHead (kilnQ 3) = some c ∧ c.op = 3 ∧ leAt c.bytes 0 4 < 2 ^ 8 ∧ zeroAt c.bytes 8 84 = true ∧ zeroAt c.bytes 96 32 = true ∧ zeroAt c.bytes 136 56 = true ∧
      bitsOf (slSpark c.bytes) 14 12 = 0 ∧ bitsOf (leAt c.bytes 94 2) 14 12 = 0 ∧ slRec c.bytes % 64 = 0 ∧ s.recAddrOk (slRec c.bytes) = true := by decide +kernel
/-- What one iteration of that solve stops with; 9 where something is unreadable. -/
def iterStop (z : Solve) : Nat :=
  match readsOf (solvingState z) z with
  | some (k, u) => (u.strictly 3 (z.iterate k.a (z.pc k.f k.dg) k.cert k.b)).1.stop
  | none => 9
def vec2 : List Dbl := [one64, one64, 0, 0]
theorem wit_SolveIterates : (solvingState (solveRun 100000 10 0 0 vec2 vec2)).clocked = true ∧ iterStop (solveRun 100000 10 0 0 vec2 vec2) = 0 ∧ iterStop (solveRun 100000 10 0 9 vec2 vec2) = 0 ∧
    iterStop (solveRun 100000 10 0 0 [0, one64, 0, 0] [0, 0x4000000000000000, 0, 0]) = 1 ∧ iterStop (solveRun 100000 10 0 0 (List.replicate 4 0) vec2) = 2 := by decide +kernel
/-- A request for the largest eigenvalue of the 1 by 1 matrix 1.0, and the cycles that its budget holds. -/
def lamState (cycles : Nat) : State :=
  withRegs (poke (poke ((kilnRegs onState).modKln 3 fun k => { k with req := some 0x30000 }) 0x30000 (desc 32 [(0, 4, 1), (8, 8, 0x31000), (16, 4, 64), (20, 2, 1)])) 0x31000 (leBytes 4 0x3F800000)) [(F.KLN_LAMDL_CYCLES 3, cycles)]
theorem wit_LambdaRequestIsAnswered : ∀ cy ∈ [0, 100000], let s := lamState cy; let r := s.read 0x30000 32; let n := leAt r.bytes 20 2; let m := r.st.readMat (leAt r.bytes 8 8) (leAt r.bytes 16 4) n n 4
    s.clocked = true ∧ s.on (F.KLN_CTRL_LAM_EN 3) = true ∧ (s.kiln 3).req = some 0x30000 ∧ r.bad = none ∧ leAt r.bytes 0 4 = 1 ∧ leAt r.bytes 4 4 < 2 ^ 15 ∧ leAt r.bytes 8 8 % 64 = 0 ∧ leAt r.bytes 16 4 % 64 = 0 ∧ 0 < n ∧ n ≤ 2048 ∧
      bitsOf (leAt r.bytes 22 2) 14 12 = 0 ∧ leAt r.bytes 24 8 = 0 ∧ m.bad = none ∧ decide (s.npi 3 ≤ ceilDiv (s.get (F.KLN_LAMDL_CYCLES 3)) (lamCost n)) = (cy != 0) := by decide +kernel

/-! ## Fireboxes -/

/-- One shard of one element in group 0: descriptor at 0x40000, record at 0x48000, group entry at 0x50000 with one instruction at 0x64000, incoming
group states at 0x58000, commit area at 0x38000. `ctl` is the group's control word, `step` the step in which the shard was updated, if any. -/
def shardState (c : QCmd) (ctl rec40 vec : Nat) : State :=
  poke (poke (poke (poke (poke (withRegs (queued onState (fireboxQ 3) [c] false) [(F.FBX_CTRL_EN 3, 1), (F.FBX_NSHARD_COUNT 3, 1), (⟨R.FBX_SHBASE_LO 3, 0, 32⟩, 0x40000), (⟨R.FBX_SSBASE_LO 3, 0, 32⟩, 0x48000),
      (⟨R.FBX_GTBASE_LO 3, 0, 32⟩, 0x50000), (⟨R.FBX_GSBASE_LO 3, 0, 32⟩, 0x58000), (⟨R.ERR_CBASE_LO, 0, 32⟩, 0x38000)])
    0x40000 (desc 192 [(4, 4, 1), (8, 4, 1), (12, 4, 1), (16, 4, 1), (32, 8, 0x60000), (48, 8, 64), (56, 8, 0x61000), (64, 8, 0x62000), (72, 8, 0x63000)]))
    0x50000 (desc 128 [(0, 4, ctl), (8, 8, 0x64000)])) 0x64000 (leBytes 4 1)) 0x48000 (desc 64 [(40, 4, rec40)])) 0x70000 (leBytes 1 vec)
def fbxCmd (op first count : Nat) (l : List (Nat × Nat × Nat)) : QCmd := cmdOf (desc 64 ([(0, 1, op), (4, 4, 8), (8, 2, first), (10, 2, count)] ++ l))
theorem wit_NormFoldAndNopRun_norm : let c := fbxCmd 1 0 1 []; let s := shardState c 1 0 0; let u := s.startHead (fireboxQ 3); let l := u.loadShards 3 (fcFirst c.bytes) (fcCount c.bytes)
    s.qOn (fireboxQ 3) = true ∧ s.readyHead (fireboxQ 3) = some c ∧ fbxCommonBad u c.bytes = false ∧ c.op = 1 ∧ fcRangeBad u 3 c.bytes = false ∧ zeroAt c.bytes 24 20 = true ∧ l.2.1 = none ∧
      (l.1.all fun p => !shardBad p.2.1 p.2.2) = true ∧ (overShards (fun t i d e => t.normShard 3 i d e) l.1 FCount.none l.2.2).2.1 = none := by decide +kernel
theorem wit_NormFoldAndNopRun_nop : let c := fbxCmd 5 0 0 []; let s := shardState c 1 0 0
    s.qOn (fireboxQ 3) = true ∧ s.readyHead (fireboxQ 3) = some c ∧ fbxCommonBad (s.startHead (fireboxQ 3)) c.bytes = false ∧ c.op = 5 ∧ leAt c.bytes 8 4 = 0 ∧ zeroAt c.bytes 24 20 = true := by decide +kernel
/-- Memory without error patterns, in the first logical slice, reads without an uncorrectable granule. -/
theorem clean_read (s : State) (he : s.errs = []) (hp : s.physOf 0 = some 0) (a n : Nat) (h : a + n ≤ 2 ^ 28) : (s.read a n).bad = none ∧ (s.read a n).st = s := by
  have loc (a : Nat) (h : a < 2 ^ 28) : s.locate a = some (physBase + a) := by
    have h0 : a / 2 ^ 28 = 0 := Nat.div_eq_of_lt h
    unfold State.locate; rw [if_pos (by omega), h0, hp]
    simp only [Nat.mod_eq_of_lt h]; rfl
  unfold State.read State.readAt
  by_cases hn : n = 0
  · rw [if_pos hn]; exact ⟨rfl, rfl⟩
  · rw [if_neg hn]
    refine clean_granules s he _ _ fun i hi => ⟨_, loc _ (by omega), ?_, ?_⟩
    · unfold keyFar physBase farBase; simp; omega
    · unfold inPhys physBase; simp; omega
theorem clean_pairs (s : State) (he : s.errs = []) (hp : s.physOf 0 = some 0) (n a b : Nat) (f g : Nat → Nat) (h : ∀ i < n, f i + a ≤ 2 ^ 28 ∧ g i + b ≤ 2 ^ 28) :
    (s.readPairs n a b f g).2.1 = none ∧ (s.readPairs n a b f g).2.2 = s := by
  unfold State.readPairs
  have key : ∀ (l : List Nat), (∀ i ∈ l, f i + a ≤ 2 ^ 28 ∧ g i + b ≤ 2 ^ 28) → ∀ acc : List (List Byte × List Byte), 
      (l.foldl (fun (acc : List (List Byte × List Byte) × Option (Nat × Nat) × State) i =>
        let r := acc.2.2.read (f i) a
        let t := r.st.read (g i) b
        (acc.1 ++ [(r.bytes, t.bytes)], firstBad acc.2.1 (firstBad r.bad t.bad), t.st)) (acc, none, s)).2 = (none, s) := by
    intro l
    induction l with
    | nil => intros; rfl
    | cons i l ih =>
      intro hl acc
      have h1 := clean_read s he hp (f i) a (hl i List.mem_cons_self).1
      have h2 := clean_read s he hp (g i) b (hl i List.mem_cons_self).2
      rw [List.foldl_cons]
      simp only [h1.1, h1.2, h2.1, h2.2, firstBad]
      exact ih (fun j hj => hl j (List.mem_cons_of_mem _ hj)) _
  have := key (List.range n) (fun i hi => h i (List.mem_range.1 hi)) []
  exact ⟨congrArg Prod.fst this, congrArg Prod.snd this⟩
theorem wit_NormFoldAndNopRun_fold : ∀ c s u, c = fbxCmd 2 0 0 [(24, 8, 0x70000)] → s = shardState c 1 0 0 → u = s.startHead (fireboxQ 3) →
    s.qOn (fireboxQ 3) = true ∧ s.readyHead (fireboxQ 3) = some c ∧ fbxCommonBad u c.bytes = false ∧ c.op = 2 ∧ leAt c.bytes 8 4 = 0 ∧ addrBad (fcVec c.bytes) = false ∧ zeroAt c.bytes 32 12 = true ∧
      (∃ recs groups v w, u.readPairs (u.get (F.FBX_NSHARD_COUNT 3)) 192 64 (fun i => u.shardAddr 3 i) (fun i => u.shardRec 3 i) = (recs, none, v) ∧
        v.groupSels.bad = none ∧ v.groupSels.st.readPairs 256 128 32 (fun g => u.groupAddr 3 g) (fun g => u.gstateAddr 3 g (groupSel v.groupSels.bytes g)) = (groups, none, w)) := by
  rintro c s u rfl rfl rfl
  refine ⟨by decide +kernel, by decide +kernel, by decide +kernel, by decide +kernel, by decide +kernel, by decide +kernel, by decide +kernel, ?_⟩
  obtain ⟨s, hs⟩ : ∃ s, s = (shardState (fbxCmd 2 0 0 [(24, 8, 0x70000)]) 1 0 0).startHead (fireboxQ 3) := ⟨_, rfl⟩
  have he : s.errs = [] := by rw [hs]; decide +kernel
  have hp : s.physOf 0 = some 0 := by rw [hs]; decide +kernel
  have hn : s.get (F.FBX_NSHARD_COUNT 3) = 1 := by rw [hs]; decide +kernel
  have b1 : s.pair (R.FBX_SHBASE_LO 3) = 0x40000 := by rw [hs]; decide +kernel
  have b2 : s.pair (R.FBX_SSBASE_LO 3) = 0x48000 := by rw [hs]; decide +kernel
  have b3 : s.pair (R.FBX_GTBASE_LO 3) = 0x50000 := by rw [hs]; decide +kernel
  have b4 : s.pair (R.FBX_GSBASE_LO 3) = 0x58000 := by rw [hs]; decide +kernel
  rw [← hs]
  have p1 := clean_pairs s he hp (s.get (F.FBX_NSHARD_COUNT 3)) 192 64 (fun i => s.shardAddr 3 i) (fun i => s.shardRec 3 i)
    (fun i hi => by unfold State.shardAddr State.shardRec; rw [hn] at hi; rw [b1, b2]; omega)
  have b5 : s.pair R.ERR_CBASE_LO = 0x38000 := by rw [hs]; decide +kernel
  have sr := clean_read s he hp (s.pair R.ERR_CBASE_LO + 96) 32 (by rw [b5]; omega)
  have p2 := clean_pairs s he hp 256 128 32 (fun g => s.groupAddr 3 g) (fun g => s.gstateAddr 3 g (groupSel s.groupSels.bytes g))
    (fun i hi => by
      unfold State.groupAddr State.gstateAddr; rw [b3, b4]
      have : groupSel s.groupSels.bytes i ≤ 1 := by unfold groupSel; exact Bool.toNat_le _
      omega)
  refine ⟨_, (s.readPairs 256 128 32 (fun g => s.groupAddr 3 g) (fun g => s.gstateAddr 3 g (groupSel s.groupSels.bytes g))).1, s, s, Prod.ext rfl (Prod.ext p1.1 p1.2), sr.1, ?_⟩
  rw [show s.groupSels.st = s from sr.2]
  exact Prod.ext rfl (Prod.ext p2.1 p2.2)
/-- An UPDATE of that shard, under a vector that reports a non-finite element, or none. -/
def updCmd : QCmd := fbxCmd 3 0 1 [(24, 8, 0x70000), (32, 4, 0x3F800000)]
def updState (vec : Nat) : State := shardState updCmd 1 0 vec
theorem wit_UpdateRunsOrVetoes : ∀ vec ∈ [0, 1], let c := updCmd; let s := updState vec; let u := s.startHead (fireboxQ 3); let l := u.loadShards 3 (fcFirst c.bytes) (fcCount c.bytes); let p := l.2.2.loadProgs l.1; let r := p.2.2.read (fcVec c.bytes) 6160
    s.qOn (fireboxQ 3) = true ∧ s.readyHead (fireboxQ 3) = some c ∧ c.op = 3 ∧ fbxCommonBad u c.bytes = false ∧ fcRangeBad u 3 c.bytes = false ∧ addrBad (fcVec c.bytes) = false ∧ paramOk (fcMaxNorm c.bytes) = true ∧
      zeroAt c.bytes 36 8 = true ∧ l.2.1 = none ∧ p.2.1 = none ∧
      (l.1.any fun x => shardBad x.2.1 x.2.2 || groupBadEntry x.2.2) = false ∧ (l.1.any fun x => !(((p.1.lookup (sdGroup x.2.1)).getD []).all (insOk (sdNstate x.2.1)))) = false ∧
      r.bad = none ∧ (r.bytes.head?.any fun x => x.getLsbD 0) = (vec == 1) := by decide +kernel
/-- The state before its vector is read, its shards and its programs. -/
def updU : State := (updState 0).startHead (fireboxQ 3)
def updL : List (Nat × List Byte × List Byte) × Option (Nat × Nat) × State := updU.loadShards 3 0 1
def updP : List (Nat × List Nat) × Option (Nat × Nat) × State := updL.2.2.loadProgs updL.1
def updS : List Byte := (updP.2.2.groupSels).bytes
def updE : List (List Byte × List Byte) := (updP.2.2.readPairs 256 128 32 (fun g => updP.2.2.groupAddr 3 g) (fun g => updP.2.2.gstateAddr 3 g (1 - groupSel updS g))).1
theorem upd_clean : (updP.2.2.updateShards 3 (fun g => (updP.1.lookup g).getD []) (updateConsts updE (updP.2.2.read 0x70000 6160).bytes (fcMaxNorm updCmd.bytes)) updL.1).2.1 = none := by decide +kernel
theorem triple_eq {α β γ : Type} {x : α × β × γ} {a : α} {b : β} {c : γ} (h1 : x.1 = a) (h2 : x.2.1 = b) (h3 : x.2.2 = c) : x = (a, b, c) := by
  subst h1 h2 h3; rfl
theorem wit_UpdateRunsOrVetoes_run : ∃ ents a b n, (updP.2.2.read 0x70000 6160).st.groupSels.bad = none ∧
    (updP.2.2.read 0x70000 6160).st.groupSels.st.readPairs 256 128 32 (fun g => updP.2.2.groupAddr 3 g) (fun g => updP.2.2.gstateAddr 3 g (1 - groupSel (updP.2.2.read 0x70000 6160).st.groupSels.bytes g)) = (ents, none, a) ∧
    a.updateShards 3 (fun g => (updP.1.lookup g).getD []) (updateConsts ents (updP.2.2.read 0x70000 6160).bytes (fcMaxNorm updCmd.bytes)) updL.1 = (n, none, b) := by
  have he : updP.2.2.errs = [] := by decide +kernel
  have hp : updP.2.2.physOf 0 = some 0 := by decide +kernel
  rw [(clean_read updP.2.2 he hp 0x70000 6160 (by omega)).2]
  have b3 : updP.2.2.pair (R.FBX_GTBASE_LO 3) = 0x50000 := by decide +kernel
  have b4 : updP.2.2.pair (R.FBX_GSBASE_LO 3) = 0x58000 := by decide +kernel
  have b5 : updP.2.2.pair R.ERR_CBASE_LO = 0x38000 := by decide +kernel
  have sr := clean_read updP.2.2 he hp (updP.2.2.pair R.ERR_CBASE_LO + 96) 32 (by rw [b5]; omega)
  have p2 := clean_pairs updP.2.2 he hp 256 128 32 (fun g => updP.2.2.groupAddr 3 g) (fun g => updP.2.2.gstateAddr 3 g (1 - groupSel updP.2.2.groupSels.bytes g))
    (fun i hi => by unfold State.groupAddr State.gstateAddr; rw [b3, b4]; omega)
  refine ⟨updE, updP.2.2, _, _, sr.1, ?_, triple_eq rfl upd_clean rfl⟩
  rw [show updP.2.2.groupSels.st = updP.2.2 from sr.2]
  exact triple_eq (by unfold updE updS; rfl) p2.1 p2.2
/-- A DWRITE of one element from an offset of that shard. -/
def dwCmd (off n : Nat) : QCmd := fbxCmd 4 0 1 [(24, 8, 0x70000), (32, 4, off), (36, 4, n)]
/-- What a DWRITE meets: frozen; not updated; past the end; or the number of finite elements read. -/
theorem wit_DwriteWritesOrIsDiscarded : ∀ x ∈ [(3, 4, 0, 1), (1, 0, 0, 1), (1, 4, 0, 2), (1, 4, 0, 1)], let c := dwCmd x.2.2.1 x.2.2.2; let s := shardState c x.1 x.2.1 0; let u := s.startHead (fireboxQ 3); let l := u.loadShards 3 (fcFirst c.bytes) 1
    let r := (l.2.2.read (l.2.2.shardRec 3 (fcFirst c.bytes)) 64).bytes; let sd := (l.1.getD 0 (0, [], [])).2.1; let e := (l.1.getD 0 (0, [], [])).2.2
    s.qOn (fireboxQ 3) = true ∧ s.readyHead (fireboxQ 3) = some c ∧ c.op = 4 ∧ fbxCommonBad u c.bytes = false ∧ fcRangeBad u 3 c.bytes = false ∧ fcCount c.bytes = 1 ∧ addrBad (fcVec c.bytes) = false ∧ leAt c.bytes 36 4 ≠ 0 ∧
      leAt c.bytes 40 4 < 2 ∧ l.2.1 = none ∧ l.1.length = 1 ∧ shardBad sd e = false ∧ geFrozen e = (x.1 == 3) ∧ (leAt r 40 4).testBit 2 = (x.2.1 == 4) ∧ leAt r 48 8 = s.job.step ∧
      decide (sdN sd < leAt c.bytes 32 4 + leAt c.bytes 36 4) = (x.2.2.2 == 2) := by decide +kernel
theorem wit_DwriteWritesOrIsDiscarded_writes : let c := dwCmd 0 1; let s := shardState c 1 4 0; let l := (s.startHead (fireboxQ 3)).loadShards 3 0 1; let sd := (l.1.getD 0 (0, [], [])).2.1
    let vs := l.2.2.readCodes (fcVec c.bytes) (leAt c.bytes 36 4) 4; let hs := vs.2.2.readCodes (sdHigh sd + sdOff sd) (sdN sd) 2
    vs.2.1 = none ∧ hs.2.1 = none ∧ (vs.1.zipIdx.filter fun p => (val32 p.1).isFin).length = leAt c.bytes 36 4 := by decide +kernel

/-! ## Collective engines -/

/-- A tree of one device: valid, local, its parent the root, on engine 3; and one that relays its child on port 5 to port 7. -/
def soloTree : Nat := 2 ^ 12 + 2 ^ 13 + 12 * 2 ^ 16 + 3 * 2 ^ 48
def relayTree : Nat := 2 ^ 5 + 2 ^ 13 + 7 * 2 ^ 16 + 3 * 2 ^ 48
def treeState (s : State) (e : Nat) : State := { s with flue := { s.flue with tables := [(8191, e)], valid0 := true } }
/-- A command of a collective over tree 4095: 16 elements in FP32 for ALLREDUCE and REDUCE, a vector for NORM. -/
def colCmd (op : Nat) : QCmd :=
  cmdOf (desc 128 ([(0, 1, op), (4, 4, 6), (8, 2, 4095), (16, 8, 0x60000), (24, 8, 0x68000), (90, 2, 1), (92, 1, 1), (104, 8, 0x80000)] ++ if op = 3 then [] else [(12, 4, 16), (32, 4, 1), (48, 4, 1), (96, 4, 0x3F800000)]))
def colState (c : QCmd) (e : Nat) : State := treeState (withRegs (queued onState (colQ 3) [c] false) [(F.COL_CTRL_EN 3, 1)]) e
theorem wit_CollectiveStarts : ∀ op ∈ [1, 2, 3], let c := colCmd op; let s := colState c soloTree; let u := (s.startHead (colQ 3)).noteInjection; let ct := if op = 3 then u.normContribution c.bytes else u.contribution c.bytes
    s.qOn (colQ 3) = true ∧ s.readyHead (colQ 3) = some c ∧ c.op = op ∧ colBad s 3 c.bytes = false ∧ (s.node 3 (treeKey s.epoch (ccTree c.bytes))).kept = [] ∧ (s.runOn 3 (treeKey s.epoch (ccTree c.bytes))).isNone = true ∧
      s.switchHold = false ∧ treeLocal (u.treeEntry u.epoch (ccTree c.bytes)) = true ∧ ct.bad = none ∧ (ct.st.checkList c.bytes).2.1 = none := by decide +kernel
theorem wit_BlocksAreCombined_nop : let c := cmdOf (desc 128 [(0, 1, 4), (4, 4, 6), (72, 8, 0x60000)]); let s := colState c soloTree
    s.qOn (colQ 3) = true ∧ s.readyHead (colQ 3) = some c ∧ c.op = 4 ∧ colCommonBad (s.startHead (colQ 3)) c.bytes = false ∧ leAt c.bytes 0 4 < 2 ^ 8 ∧ zeroAt c.bytes 8 60 = true ∧ zeroAt c.bytes 80 32 = true := by decide +kernel
/-- Block 2 of the child of the relay has arrived. -/
def relayState : State := { (treeState onState relayTree) with col := [(3, { Col.reset with nodes := [(4095, { TNode.empty with next := 2, contrib := [(5 * 2 ^ 32 + 2, List.replicate 48 1)] })] })] }
theorem wit_BlocksAreCombined_relay : relayState.clocked = true ∧ (((relayState.colOf 3).nodes.map (·.1)).findSome? fun k => (relayState.combinable 3 k).map fun x => (k, x.1, x.2)) = some (4095, 2, [5]) ∧
    (relayState.runOn 3 4095).isNone = true := by decide +kernel

/-! ## Crickets -/

/-- Cricket 3 runs at the start of its local store, which holds a word; and hob cricket 68 in its place. -/
def crkState (c w : Nat) (k : Crk → Crk) : State :=
  onState.modCrk c fun _ => k { Crk.clear 1 with halted := false, pc := BitVec.ofNat 64 storeBase, store := (List.range 4).map fun i => (i, BitVec.ofNat 8 (w / 256 ^ i)) }
theorem wit_crkFetches : (crkState 3 0x10000001 id).crkFetches 3 0x10000001 (crkState 3 0x10000001 id) :=
  ⟨by decide +kernel, by decide +kernel, by
    have h : (match (crkState 3 0x10000001 id).crkFetch 3 with | .word w _ => w == 0x10000001 | _ => false) = true := by decide +kernel
    unfold State.crkFetch at h ⊢
    dsimp only at h ⊢
    have h1 : ¬ ((crkState 3 0x10000001 id).cricket 3).pc.toNat % 4 ≠ 0 := by decide +kernel
    have h2 : storeBase ≤ ((crkState 3 0x10000001 id).cricket 3).pc.toNat := by decide +kernel
    have h3 : ¬ ((crkState 3 0x10000001 id).cricket 3).rom = true := by decide +kernel
    have h4 : ((crkState 3 0x10000001 id).cricket 3).storeBad = [] := by decide +kernel
    simp only [h4, List.any_nil, Bool.false_eq_true, and_false, if_false] at h ⊢
    rw [if_neg h1, if_neg h3, if_pos h2] at h ⊢
    simp only [beq_iff_eq] at h
    rw [h], by decide +kernel⟩
/-- Whatever the layout that the spec leaves open, the word of `wit_crkFetches` belongs to some group, and not to another. -/
theorem wit_InstructionRuns : ∃ i mine f, (i, mine, f) ∈ crkGroups 3 ∧ mine 0x10000001 = true := by
  cases h : Config.setLength (BitVec.ofNat 32 0x10000001) with
  | none => exact ⟨_, _, _, .head _, by unfold ofClass isSetLen; rw [h]; decide⟩
  | some x =>
    cases hx : x.getLsbD 0
    · exact ⟨.setvl 3, isSet false, setLenOf 3, by simp [crkGroups], by unfold isSet; rw [h]; simpa using hx⟩
    · exact ⟨.setwl 3, isSet true, setLenOf 3, by simp [crkGroups], by unfold isSet; rw [h]; simpa using hx⟩
theorem wit_InstructionRuns_other : ∃ i mine f, (i, mine, f) ∈ crkGroups 3 ∧ mine 0x10000001 = false :=
  ⟨.branch 3, ofClass 3 3, branchOf 3, by simp [crkGroups], by unfold ofClass; rw [show (wClass 0x10000001 == 3) = false by decide]; simp⟩
/-- A TRAP word whose fields the open layout calls good, outside and inside a trap. -/
theorem wit_TrapIsTaken (h : Config.setLength (BitVec.ofNat 32 0x40800000) = none) : ofSystem 2 0x40800000 = true ∧ (crkState 3 0x40800000 id).on (F.CRK_CTRL_SSTEP 3) = false ∧
    (∀ b, ((crkState 3 0x40800000 fun k => { k with inTrap := b }).cricket 3).inTrap = b ∧ ((crkState 3 0x40800000 fun k => { k with inTrap := b }).cricket 3).halted = false) :=
  ⟨by unfold ofSystem ofClass isSetLen; rw [h]; decide, by decide +kernel, by decide +kernel⟩
/-- The machine's own part of the premises about scalar results: a word of each group, and an access to the first and to the last byte of the local store. -/
theorem wit_ScalarResults (w : Nat) (h : Config.setLength (BitVec.ofNat 32 w) = none) : (wClass w = 1 → ofClass 0 1 w = true) ∧ (wClass w = 3 → ofClass 3 3 w = true) ∧ (wClass w = 2 → ofClass 2 2 w = true) ∧
    (∀ n ∈ [1, 2, 4, 8], 0xFFFFFFFFFFFC0000 % n = 0 ∧ 0xFFFFFFFFFFFC0000 ≤ 0xFFFFFFFFFFFFFFFF - (n - 1) ∧ (0xFFFFFFFFFFFFFFFF - (n - 1)) % n = 0) ∧ (Crk.reset 3).level = 1 ∧ (Crk.reset 3).storeBad = [] := by
  refine ⟨?_, ?_, ?_, by decide, by decide, rfl⟩ <;> · intro e; unfold ofClass isSetLen; rw [h, e]; decide
/-- Control registers that a level reaches and does not reach, waits that go on and stall, and a word of each operation (its fields are the open layout's). -/
theorem wit_SystemOperations (op : Nat) (ho : op < 12) (h : Config.setLength (BitVec.ofNat 32 (0x40000000 + op * 2 ^ 22)) = none) : ofSystem op (0x40000000 + op * 2 ^ 22) = true ∧
    ctlLevel 3 0x10 = some 1 ∧ ctlLevel 71 0x80 = some 2 ∧ (Crk.reset 3).level = 1 ∧ (Crk.reset 71).level = 2 ∧ (∃ u, takeState.waitOn 15 4095 false = (true, u)) ∧ (∃ u, barState.waitOn 15 4095 false = (false, u)) := by
  refine ⟨?_, by decide, by decide, by decide, by decide, ⟨_, Prod.ext (by decide +kernel) rfl⟩, ⟨_, Prod.ext (by decide +kernel) rfl⟩⟩
  unfold ofSystem ofClass isSetLen; rw [h]
  have : wClass (0x40000000 + op * 2 ^ 22) = 4 ∧ wOp (0x40000000 + op * 2 ^ 22) = op := by
    interval_cases op <;> decide
  rw [this.1, this.2]; simp
theorem wit_CricketIsControlled : onState.busOn = true ∧ (onState.cricket 3).halted = true ∧ onState.on (F.CRK_CTRL_RUN 3) = false ∧ (onState.isSecure 68) = true ∧ (71 < 68 ∨ onState.isSecure 68 = true) ∧
    (∀ b, ((crkState 67 0 fun k => { k with waiting := b, syncing := !b }).cricket 67).halted = false ∧ ((crkState 67 0 fun k => { k with waiting := b, syncing := !b }).cricket 67).waiting = b ∧
      ((crkState 67 0 fun k => { k with waiting := b, syncing := !b }).cricket 67).syncing = !b) := by decide +kernel

/-! ## Writes that make a unit act -/

theorem wit_ControlWritesAct : onState.busOn = true ∧ onState.isSecure 68 = true ∧ onState.on F.CMB_STATUS_RETIRING = false ∧ (withRegs onState [(F.CMB_STATUS_RETIRING, 1)]).on F.CMB_STATUS_RETIRING = true ∧
    (0x80008700 : Word).getLsbD 31 = true ∧ (0x80008700 : Word).toNat % 256 < 136 ∧ (0x80008700 : Word).toNat / 2 ^ 8 % 256 = 135 ∧ (withRegs onState [(F.CMB_S_STATE_STATE 135, 1)]).get (F.CMB_S_STATE_STATE 135) = 1 ∧
    (1 : Word).getLsbD 1 = false ∧ onState.on F.CFG_STATE_IMAGE = false ∧ onState.on F.MGN_STATUS_BUSY = false ∧ (withRegs onState [(F.MGN_STATUS_BUSY, 1)]).on F.MGN_STATUS_BUSY = true := by decide +kernel
/-- A margining run that suits its target is accepted on this state; with an image loaded it is not. -/
theorem wit_MarginStartNeedsNoImage : (withRegs onState [(F.CFG_STATE_IMAGE, 2)]).on F.CFG_STATE_IMAGE = true ∧
    (withRegs onState [(F.CFG_STATE_IMAGE, 2)]).busOn = true ∧ (withRegs onState [(F.CFG_STATE_IMAGE, 2)]).isSecure 68 = true ∧
    (match exec (.marginStart 68 1) (withRegs onState [(F.MGN_LEN_LINES, 1048576)]) with | .next t => t.on F.MGN_STATUS_BUSY | _ => false) = true := by decide +kernel
/-- A job of step 5 with packets of this step already injected. -/
def stepState : State := withRegs { onState with job := { onState.job with step := 5 }, flue := { onState.flue with injected := some 5 } } [(F.ERR_CTRL_JOB_EN, 1)]
theorem wit_FlueControlWritesAct : onState.busOn = true ∧ onState.isSecure 68 = true ∧ ((0 : Word).getLsbD 2 = false ∧ (0 : Word).toNat % 4 = 0 ∧ (2 : Word).getLsbD 2 = false ∧ (2 : Word).toNat % 4 = 2) ∧ onState.get F.FLU_STATUS_MARKPORT ≠ 11 ∧
    ((0 : Word) ||| 4).toNat % 4 = onState.get (F.FLU_P_CTRL_MODE 11) ∧ stepState.busOn = true ∧ stepState.isSecure 68 = true ∧ stepState.jobEn = true ∧ stepState.flue.injected = some stepState.job.step ∧
    stepState.job.step = 5 ∧ (0x602 : Word).toNat / 2 ^ 8 = 6 ∧ (0x602 : Word).getLsbD 1 = true ∧ (0x502 : Word).toNat / 2 ^ 8 = 5 ∧ (0x502 : Word).getLsbD 1 = true ∧
    (0xB100 : Word).getLsbD 8 = true ∧ (0xB100 : Word).toNat / 2 ^ 12 % 16 < 12 ∧ stepFrom ((0x602 : Word).toNat / 2 ^ 8) 5 = false ∧ stepFrom ((0x502 : Word).toNat / 2 ^ 8) 5 = true := by decide +kernel
theorem wit_FlueControlWritesAct_fence : (∀ g < 256, onState.on (F.SYN_GRP_CTRL_TREE g) = false) ∧ (∀ p < 12, (0x800 : Word).getLsbD p = false → onState.portState p ≠ 5) ∧ onState.portLive 0 = false ∧
    (withRegs onState [(F.FLU_P_STATUS_STATE 11, 2)]).portLive 11 = true ∧ (0x800 : Word).getLsbD 11 = true := by decide +kernel

/-! ## Flue -/

/-- Port 11 trains in mode 1. -/
def trainState : State := withRegs onState [(F.FLU_P_CTRL_MODE 11, 1), (F.FLU_P_STATUS_STATE 11, 1)]
/-- Port 11 carries packets on these lanes, and holds these things. -/
def liveState (lanes : Nat) (q : Port → Port) : State := (withRegs onState [(F.FLU_P_CTRL_MODE 11, 1), (F.FLU_P_STATUS_STATE 11, 2), (F.FLU_P_STATUS_LANES 11, lanes)]).modPort 11 q
theorem wit_PortsTrainAndFail_train : trainState.clocked = true ∧ trainState.portState 11 = 1 ∧ trainState.get (F.FLU_P_CTRL_MODE 11) = 1 ∧ ((List.range 9).filter fun l => (255 : BitVec 9).toNat.testBit l).length = 8 ∧
    ((List.range 9).filter fun l => (127 : BitVec 9).toNat.testBit l).length = 7 ∧ (trainState.get F.FLU_FENCE_PORTS).testBit 11 = false ∧ trainState.worn 11 = false ∧ (trainState.port 11).held = [] := by decide +kernel
theorem wit_PortsTrainAndFail_lanes : (liveState 511 id).portLive 11 = true ∧ (liveState 511 id).get (F.FLU_P_CTRL_MODE 11) ≠ 2 ∧ (liveState 511 id).get (F.FLU_P_STATUS_LANES 11) = 511 ∧
    ((liveState 510 id).get (F.FLU_P_STATUS_LANES 11)).testBit 8 = true ∧ (liveState 510 id).get (F.FLU_P_STATUS_LANES 11) ≠ 511 ∧ (liveState 510 id).portLive 11 = true := by decide +kernel
theorem wit_PortsTrainAndFail_fail : let s := liveState 511 fun q => { q with replay := [(63, [7])], held := [[1]] }
    s.portLive 11 = true ∧ (s.port 11).replay.find? (fun e => e.1 == (63 : BitVec 6).toNat) = some (63, [7]) ∧ (s.port 11).replay.find? (fun e => e.1 == (0 : BitVec 6).toNat) = none ∧ s.jobEn = false ∧
      (withRegs s [(F.ERR_CTRL_JOB_EN, 1)]).jobEn = true ∧ s.get F.FLU_STATUS_MARKPORT ≠ 11 ∧ (s.port 11).held = [1] :: [] := by decide +kernel
/-- A packet of type t, tag, index and auxiliary field, with the first bytes of its payload. -/
def pktOf (t tag seq aux : Nat) (payload : List Byte) : List Byte := mkPacket [] t 0 0 0 tag seq aux payload
theorem wit_PacketsAreServed_arrival : (liveState 511 id).clocked = true ∧ (liveState 511 id).portLive 11 = true ∧ (pktOf 0 4095 0 0 []).length = 64 ∧ [(0 : BitVec 144), 0, 0, 0] = List.replicate 4 0 ∧ ((liveState 511 id).port 11).missing = [] ∧
    checkCodewords (pktOf 0 4095 0 0 []) [0, 0, 0, 0x3] = none := by decide +kernel
/-- A state with one packet delivered from a port, a reception table at 0x20000 whose entry 4095 is of 96 bytes at 0x50000, valid or not, expecting an index. -/
def gotState (pkt : List Byte) (valid next : Nat) : State :=
  poke (withRegs { onState with flue := { onState.flue with deliver := [(11, pkt)] } } [(⟨R.FLU_RDBASE_LO, 0, 32⟩, 0x20000), (F.SYN_CTRL_EN, 1), (F.SYN_BAR_CFG_VALID 4095, 1), (F.SYN_BAR_CFG_P 4095, 1)])
    (0x20000 + 32 * 4095) (desc 32 [(0, 8, 0x50000), (8, 4, 96), (18, 2, valid), (24, 4, next)])
/-- What the served packet of a type meets: the packet, the state without it, and the entry of its tag. -/
theorem wit_PacketsAreServed_data : (∀ x ∈ [(4096, 0, 1, 0), (4095, 0, 0, 0), (4095, 1, 1, 0), (4095, 1, 1, 1), (4095, 1, 5, 1)], let pkt := pktOf 0 x.1 x.2.1 0 [5]; let s := gotState pkt x.2.2.1 x.2.2.2
    (s.takeDelivered (fun p => pktType p == 0)).map (·.1) = some (11, pkt) ∧ pktTag pkt = x.1 ∧ 256 * pktAux pkt + pktSeq pkt = x.2.1 ∧
      (match s.takeDelivered (fun p => pktType p == 0) with
       | some (_, t) => let r := t.read (t.rdAddr 4095) 32; r.bad.isNone && rdValid r.bytes == (x.2.2.1 != 0) && rdBad r.bytes == (x.2.2.1 == 5) && rdNext r.bytes == x.2.2.2 && ceilDiv (rdLen r.bytes) 48 == 2
       | none => false) = true) := by decide +kernel
theorem wit_PacketsAreServed_spark : (∀ x ∈ [(0, 0), (1, 1), (2, 1)], let pkt := pktOf 3 4095 0 4095 (leBytes 4 x.1); let s := gotState pkt 1 x.2
    (s.takeDelivered (fun p => pktType p == 3)).map (·.1) = some (11, pkt) ∧ pktAux pkt % 4096 = 4095 ∧ leAt (pktPayload pkt) 0 4 = x.1 ∧ pktTag pkt < 4096 ∧
      (match s.takeDelivered (fun p => pktType p == 3) with
       | some (_, t) => let r := t.read (t.rdAddr 4095) 32; t.ctrValid 4095 && !t.isGroup 4095 && r.bad.isNone && rdValid r.bytes && !rdBad r.bytes && rdNext r.bytes == x.2 && decide (t.syn.hold.length < 256)
       | none => false) = true) := by decide +kernel
/-- A send of 16 bytes under tag 4095 whose acknowledgement is awaited; and one of 24,576 bytes, which has three chunks. -/
def openSend (len : Nat) : OpenSend := ⟨cmdOf (desc 64 [(0, 1, 1), (8, 8, 0x60000), (16, 4, len), (20, 2, 4095), (22, 2, 4095), (26, 2, 1), (28, 1, 1)]), []⟩
theorem wit_PacketsAreServed_full : 256 ≤ ({ onState with syn := { onState.syn with hold := List.replicate 256 (4095, 4095, 9) } } : State).syn.hold.length := by decide +kernel
theorem wit_PacketsAreServed_ack : let pkt := pktOf 4 4095 0 0 []; let s := gotState pkt 0 0
    (s.takeDelivered (fun p => pktType p == 4 && decide (pktTag p < 4096))).map (·.1) = some (11, pkt) ∧ (∀ q < 4, (s.inj q).opened = []) ∧ sdTag (openSend 16).cmd.bytes = pktTag pkt ∧ pktAux pkt ∉ (openSend 16).acked ∧
      (∀ c < sdChunks (openSend 16).cmd.bytes, c ∈ (openSend 16).acked ∨ c = pktAux pkt) ∧ (∃ c < sdChunks (openSend 24576).cmd.bytes, c ∉ (openSend 24576).acked ∧ c ≠ pktAux pkt) ∧
      ((s.modInj 0 fun _ => { opened := [openSend 16] }).inj 0).opened = [openSend 16] ∧ ((s.modInj 0 fun _ => { opened := [openSend 16] }).takeDelivered (fun p => pktType p == 4 && decide (pktTag p < 4096))).isSome = true := by decide +kernel
theorem wit_PacketsAreServed_tree : ((gotState (pktOf 4 0xFFFF 0 0 []) 0 0).takeDelivered (fun p => pktType p == 4 && decide (0xF000 ≤ pktTag p))).isSome = true ∧
    ∀ x ∈ [(soloTree, 12), (relayTree, 7)], let s := treeState (gotState (pktOf 1 0 0 4095 []) 0 0) x.1
      (s.takeDelivered (fun p => pktType p == 1)).isSome = true ∧ treeKey (s.pktVersion 11 (pktOf 1 0 0 4095 [])) 4095 = 4095 ∧ treeParent (s.treeAt 4095) = x.2 ∧ treeLocal (s.treeAt 4095) = (x.2 == 12) ∧
        (s.runOn (treeEngine (s.treeAt 4095)) 4095).isNone = true := by decide +kernel
/-- A collective runs on a tree whose parent is not the root. -/
theorem wit_PacketsAreServed_result : let r : ColRun := { cmd := colCmd 1, tree := 4095, epoch := 0, nb := 1, writes := true, root := false, own := [], res := [], rnext := 0, sent := none, restarted := false }
    let s := treeState ({ (gotState (pktOf 1 0 0 4095 []) 0 0) with col := [(3, { Col.reset with run := some r })] }) (2 ^ 12 + relayTree)
    (s.takeDelivered (fun p => pktType p == 1)).isSome = true ∧ treeParent (s.treeAt 4095) ≠ 12 ∧ s.runOn (treeEngine (s.treeAt 4095)) 4095 = some (r, false) := by decide +kernel
/-- A SEND that keeps its rules on route 4095, and one that does not; whether its receiver acknowledges is open, and the two cases of the statement cover both. -/
def sendState (route : Nat) : State :=
  let s := withRegs (queued onState (injQ 3) [(openSend 16).cmd] false) [(F.FLU_CTRL_INJ_EN, 8)]
  { s with flue := { s.flue with tables := [(4095, route)], valid0 := true } }
theorem wit_PacketsAreServed_send : ∀ x ∈ [2 ^ 79, 0], let s := sendState x; let u := s.startHead (injQ 3)
    s.qOn (injQ 3) = true ∧ s.switchHold = false ∧ s.readyHead (injQ 3) = some (openSend 16).cmd ∧ (openSend 16).cmd.op = 1 ∧ sendBad u (openSend 16).cmd.bytes = (x == 0) ∧ (u.read (sdSrc (openSend 16).cmd.bytes) (sdLen (openSend 16).cmd.bytes)).bad = none := by decide +kernel
def masterState : State := { onState with aon := { onState.aon with fabMaster := true } }
/-- Port 11 is the only port in ordinary service, and the port that marks are taken from. -/
def markState : State := withRegs (liveState 511 id) [(F.FLU_STATUS_MARKPORT, 11)]
theorem wit_FramesAndEpochs_mark : masterState.clocked = true ∧ masterState.aon.fabMaster = true ∧ markState.portLive 11 = true ∧ markState.get (F.FLU_P_CTRL_MODE 11) = 1 ∧ markState.aon.fabMaster = false ∧ markState.get F.FLU_STATUS_MARKPORT = 11 ∧
    ({ markState with aon := { markState.aon with fabMaster := true } } : State).portLive 11 = true ∧ markState.on F.FLU_STATUS_MARKLOCK = false ∧
    (withRegs markState [(F.FLU_STATUS_MARKLOCK, 1)]).on F.FLU_STATUS_MARKLOCK = true ∧ (withRegs (liveState 511 id) [(F.FLU_P_CTRL_MODE 11, 2)]).portLive 11 = true := by decide +kernel
theorem wit_FramesAndEpochs_markPort : markState.markPort = some 11 := by
  have h : markState.markPorts = [11] := by decide +kernel
  unfold State.markPort
  rw [h]
  simp
theorem wit_FramesAndEpochs_notice (pkt : List Byte) : (liveState 511 id).portLive 11 = true ∧ (liveState 511 id).get (F.FLU_P_CTRL_MODE 11) ≠ 2 ∧
    ((Config.noticeLink (pktPayload pkt)).toNat, (Config.noticeFrame (pktPayload pkt)).toNat) ∉ (liveState 511 id).flue.notices ∧
    (let s := liveState 511 id; let n := ((Config.noticeLink (pktPayload pkt)).toNat, (Config.noticeFrame (pktPayload pkt)).toNat)
     n ∈ ({ s with flue := { s.flue with notices := [n] } } : State).flue.notices) :=
  ⟨by decide +kernel, by decide +kernel, by rw [show (liveState 511 id).flue.notices = [] by decide +kernel]; exact List.not_mem_nil, List.mem_cons_self⟩
/-- A switch to a valid version pends for a step, with a job at step 5 or none. -/
def switchState (job pend sw : Nat) : State :=
  withRegs { onState with job := { onState.job with step := 5 }, flue := { onState.flue with valid1 := true } } [(F.FLU_EPOCH_PEND, pend), (F.FLU_EPOCH_SWSTEP, sw), (F.ERR_CTRL_JOB_EN, job)]
theorem wit_FramesAndEpochs_switch : (switchState 0 1 9).on F.FLU_EPOCH_PEND = true ∧ (switchState 0 1 9).verValid (switchState 0 1 9).inactive = true ∧ (switchState 0 1 9).jobEn = false ∧ (switchState 1 1 5).jobEn = true ∧
    (switchState 1 1 5).get F.FLU_EPOCH_SWSTEP = 5 ∧ stepFrom ((switchState 1 1 5).get F.FLU_EPOCH_SWSTEP) (switchState 1 1 5).job.step = true ∧ stepFrom ((switchState 1 1 9).get F.FLU_EPOCH_SWSTEP) (switchState 1 1 9).job.step = false ∧ (switchState 1 0 5).on F.FLU_EPOCH_PEND = false ∧ onState.verValid onState.inactive = false ∧ (switchState 0 1 9).clocked = true := by decide +kernel
/-- The switch frame of a notice is known; the inactive version is valid or not. -/
def emergState (ok : Bool) (frame at' : Nat) : State :=
  withRegs { onState with flue := { onState.flue with valid1 := ok, emergAt := some at' } } [(⟨R.FLU_FRAME_LO, 0, 32⟩, frame)]
theorem wit_FramesAndEpochs_emergency : (emergState true 8 9).frame < 9 ∧ 9 ≤ (emergState true 9 9).frame ∧ (emergState false 9 9).verValid (emergState false 9 9).inactive = false ∧ (emergState true 9 9).flue.commit = none ∧
    (emergState true 9 9).verValid (emergState true 9 9).inactive = true ∧ (∀ q < 4, ((emergState true 9 9).inj q).opened = [] ∧ ((emergState true 9 9).colOf q).nodes = [] ∧ ((emergState true 9 9).colOf q).run = none ∧
      ((emergState true 9 9).colOf q).verdict = none) ∧ (emergState true 9 9).flue.emergAt = some 9 ∧ (emergState true 9 9).clocked = true := by decide +kernel
/-- A cartridge is in port 11, its laser on or off. -/
def cartState (laser : Bool) (st : Nat) : State := withRegs (liveState 511 fun q => { q with cart := some [1], laser := laser }) [(F.FLU_P_STATUS_STATE 11, st)]
theorem wit_CartridgesComeAndGo : onState.aon.pg = true ∧ onState.cagesOn = false ∧ ((cartState true 0).port 11).cart = some [1] ∧ (cartState true 0).portLive 11 = false ∧ (cartState true 0).portState 11 ≠ 5 ∧ (cartState true 2).portLive 11 = true ∧
    (cartState true 5).portState 11 = 5 ∧ (∀ p < 12, (onState.port p).laser = false) ∧ (∀ q < 12, q ≠ 11 → ((cartState true 2).port q).laser = false) ∧ ((cartState true 2).port 11).laser = true ∧ onState.clocked = true := by decide +kernel
/-- Reading a cartridge leaves the mode of its port and the state of the image as they are, so each case of an insertion is met from a state that sets them. -/
theorem wit_CartridgesComeAndGo_insert : (withRegs trainState [(F.SEC_BOOT_STAGE, 8)]).cagesOn = true ∧ (withRegs trainState [(F.SEC_BOOT_STAGE, 8)]).get (F.FLU_P_CTRL_MODE 11) ≠ 0 ∧ (withRegs onState [(F.SEC_BOOT_STAGE, 8)]).cagesOn = true ∧ onState.get (F.FLU_P_CTRL_MODE 11) = 0 ∧ trainState.get (F.FLU_P_CTRL_MODE 11) ≠ 0 ∧ trainState.on F.CFG_STATE_IMAGE = false ∧ (withRegs trainState [(F.CFG_STATE_IMAGE, 2)]).on F.CFG_STATE_IMAGE = true := by decide +kernel

/-! ## Memory -/

theorem wit_HostWindowWrites : onState.busOn = true ∧ onState.get F.CFG_STATE_IMAGE = 0 ∧ (0x3FFFEFF0 : Nat) % 16 = 0 ∧ (List.replicate 16 (7 : Byte)).length = 16 ∧ 0x3FFFEFF0 + 16 ≤ pageBase ∧ (onState.locate 0x3FFFEFF0).isSome = true ∧
    (withRegs onState [(F.CFG_STATE_IMAGE, 2)]).get F.CFG_STATE_IMAGE ≠ 0 ∧ 2 ^ 30 < 0x3FFFFFFF + [(1 : Byte), 2].length ∧ Memory.wf onState.mem = true := by decide +kernel
def memState : State := withRegs onState [(F.CMB_CTRL_WV_EN, 1), (F.HBM_CTRL_WV_EN, 1), (F.HBM_RTCTRL_PARTHR, 4), (F.CMB_S_WVPOS_LINE 135, 4194303)]
theorem wit_MemoryUnitsAct_weevils : memState.clocked = true ∧ memState.on F.CMB_CTRL_WV_EN = true ∧ memState.get (F.CMB_S_STATE_STATE 135) < 2 ∧ memState.get (F.CMB_S_WVPOS_LINE 135) + 1 = 4194304 ∧
    onState.get (F.CMB_S_WVPOS_LINE 135) + 1 < 4194304 ∧ memState.on F.HBM_CTRL_WV_EN = true ∧ memState.get (F.HBM_C_STATE_STATE 255) ≠ 3 ∧ (memState.ram.hbmPos.look 0 255 + 1) * 64 < memState.chCap ∧
    memState.chCap ≤ (({ memState with ram := { memState.ram with hbmPos := [(255, 0x30000000)] } } : State).ram.hbmPos.look 0 255 + 1) * 64 := by decide +kernel
theorem wit_MemoryUnitsAct_channels : memState.get (F.HBM_C_STATE_STATE 255) = 0 ∧ memState.chOut 255 = false ∧ memState.get F.HBM_RTCTRL_TDELTA < max (200 : BitVec 8).toNat (memState.ram.trainedTemp.look 0 255) - min (200 : BitVec 8).toNat (memState.ram.trainedTemp.look 0 255) ∧
    max (0 : BitVec 8).toNat (memState.ram.trainedTemp.look 0 255) - min (0 : BitVec 8).toNat (memState.ram.trainedTemp.look 0 255) ≤ memState.get F.HBM_RTCTRL_TDELTA ∧ 1 < memState.get F.HBM_RTCTRL_PARTHR ∧
    (({ memState with cycle := 1100000 } : State).ram.retriesMs.look 0 255) / 2 ^ 20 ≠ ({ memState with cycle := 1100000 } : State).cycle / 1100000 ∧ (withRegs memState [(F.HBM_C_STATE_STATE 255, 1)]).get (F.HBM_C_STATE_STATE 255) = 1 ∧
    memState.on F.CFG_STATE_IMAGE = false ∧ (withRegs memState [(F.CFG_STATE_IMAGE, 2)]).on F.CFG_STATE_IMAGE = true ∧ (withRegs memState [(F.MGN_STATUS_BUSY, 1)]).on F.MGN_STATUS_BUSY = true ∧
    (({ memState with ram := { memState.ram with repairing := [(255, 9)] } } : State).ram.repairing.find? fun r => r.1 == (255 : Fin 256).val) = some (255, 9) ∧
    ({ memState with ram := { memState.ram with retiring := some (3, 135) } } : State).ram.retiring = some (3, 135) ∧ memState.logicalOf 3 = some 3 ∧ memState.logicalOf 134 = none := by decide +kernel

/-! ## Clocks and power -/

def refState (present locked : Bool) : State := withRegs { onState with aon := { onState.aon with locked := locked } } [(F.CLK_STATUS_REFPRES, if present then 1 else 0), (F.CLK_STATUS_SRC, 1)]
theorem wit_ClockKeepsTime_trim : (refState true true).aon.pg = true ∧ (refState true true).aon.tripped = false ∧ (refState true true).wantSrc = 1 ∧ (refState true true).srcHere 1 = true ∧ (refState true true).get F.CLK_STATUS_SRC = 1 ∧
    (withRegs (refState true true) [(F.CLK_CTRL_REFSEL, 2), (F.FLU_STATUS_MARKLOCK, 1)]).wantSrc = 2 ∧ (withRegs (refState true true) [(F.CLK_CTRL_REFSEL, 2), (F.FLU_STATUS_MARKLOCK, 1)]).srcHere 2 = true := by decide +kernel
def holdover (image : Nat) : State := withRegs onState [(F.CLK_STATUS_SRC, 3), (F.CFG_STATE_IMAGE, image)]
theorem wit_ClockKeepsTime_hold : (holdover 0).get F.CLK_STATUS_SRC = 3 ∧ (holdover 0).get F.CFG_STATE_IMAGE ≠ 2 ∧ (holdover 2).get F.CFG_STATE_IMAGE = 2 ∧ (holdover 2).aon.fabMaster = false ∧ (holdover 2).aon.pg = true := by decide +kernel
def stageState (c : Nat) : State := withRegs onState [(F.SEC_BOOT_STAGE, c)]
theorem wit_ClockKeepsTime_stages : (stageState 1).aon.pg = true ∧ (stageState 1).aon.tripped = false ∧ (stageState 1).get F.SEC_BOOT_STAGE = 1 ∧ (stageState 2).get F.SEC_BOOT_STAGE = 2 ∧ onState.clocked = true ∧
    (withRegs (refState true false) [(F.SEC_BOOT_STAGE, 8)]).unlocked = true := by decide +kernel
/-- Edges as the domains should have them, and a first domain 0.1 % off and one edge more. -/
theorem wit_ClockKeepsTime_monitor : (∀ i < 6, ∀ c, monExpected[i]? = some c → 1000 * (c - monExpected.getD i 0 + (monExpected.getD i 0 - c)) ≤ monExpected.getD i 0) ∧
    monExpected.getD 0 0 < 1000 * (22023 - monExpected.getD 0 0 + (monExpected.getD 0 0 - 22023)) := by
  refine ⟨?_, by unfold monExpected; decide⟩
  intro i _ c h
  rw [List.getD_eq_getElem?_getD, h]
  simp
theorem wit_PowerIsManaged : onState.clocked = true ∧ (14 : Fin 16).val < 15 ∧ (false || false || false) = false ∧ (false || false || true) = true ∧ (3 < 4 ∧ 3 ∉ onState.pwr.restoring) ∧ 4 ≤ (4 : Fin 16).val ∧
    ({ onState with pwr := { onState.pwr with restoring := [3, 1] } } : State).pwr.restoring = 3 :: [1] ∧ 3 ∈ [3, 1] ∧ onState.get F.PWR_PEAK_W < 3401 ∧ 3400 ≤ onState.get F.PWR_PEAK_W ∧
    (let s : State := { onState with pwr := { onState.pwr with byExc := true, input := 3001 } }; s.pwr.byExc = true ∧ s.powerLimit < s.pwr.input) ∧
    onState.pwr.tooHot = false ∧ onState.pwr.byExc = false ∧ onState.pwr.byPeak = false ∧
    (let s : State := { onState with pwr := { onState.pwr with byPeak := true, input := 3401 } }; s.pwr.byExc = false ∧ s.pwr.byPeak = true ∧ s.get F.PWR_PEAK_W < s.pwr.input) ∧
    (List.replicate 64 (109 : Int)).foldl max (-273) < 110 ∧ 110 ≤ (List.replicate 64 (110 : Int)).foldl max (-273) := by decide +kernel

/-! ## Start-up -/

theorem wit_StartUpRuns_pins : ({ State.reset with aon := { State.reset.aon with standby := true } } : State).aon.standby = true ∧ State.reset.aon.pg = false ∧ onState.aon.pg = true ∧ onState.aon.standby = true ∧ (5 : Byte).toNat < 6 ∧ (5 : Byte).toNat ≠ 2 ∧ (5 : Byte).toNat ≠ 3 ∧
    (2 : Byte).toNat < 6 := by decide +kernel
theorem wit_StartUpRuns_stages : ∀ c ∈ [3, 4, 5, 6, 7, 8], (stageState c).clocked = true ∧ (stageState c).get F.SEC_BOOT_STAGE = c ∧ (stageState c).aon.romRan = false ∧ (stageState c).aon.nvmMode ≠ 3 ∧ (stageState c).nvm.boot % 2 = 0 ∧
    (stageState c).aon.ready = false := by decide +kernel
theorem wit_StartUpRuns_image : let s := stageState 4; let u := (s.set F.SEC_SVN0_COUNT s.nvm.count0).set F.SEC_SVN1_COUNT s.nvm.count1; let v := u.raise F.SEC_EVENT_SLOT_FALLBACK
    u.imageOld s.nvm.slot0 = false ∧ u.imageOk s.nvm.slot0 = false ∧ v.imageOld s.nvm.slot1 = false ∧ ({ s with aon := { s.aon with nvmMode := 3 } } : State).aon.nvmMode = 3 := by decide +kernel
theorem wit_StartUpRuns_calib : [(36 : Nat)].any (stageState 6).stackRefused = true ∧ (List.replicate 8 ((stageState 6).get F.GEN_VARIANT_STACK_GIB)).any (stageState 6).stackRefused = false ∧
    ([] : List Nat).any (stageState 6).stackRefused = false := by decide +kernel
theorem wit_StartUpRuns_ready : ((stageState 8).setReady true).on F.SEC_BOOT_OWNED = false := by decide +kernel
/-- Hob 0 holds the token and hob 3 alone runs beside it. -/
def tokenState : State := withRegs { (stageState 8) with crk := [(69, Crk.clear 2), (70, Crk.clear 2)] } [(F.SEC_MASTER_VALID, 1)]
theorem wit_StartUpRuns_token : tokenState.busOn = true ∧ tokenState.isSecure (68 + 3) = true ∧ 0 = tokenState.master ∧ tokenState.on F.SEC_MASTER_VALID = true ∧ 3 ≠ tokenState.master ∧ tokenState.get F.CFG_STATE_IMAGE < 2 ∧
    8 ≤ tokenState.get F.SEC_BOOT_STAGE ∧ ([1, 2, 3].map fun i => (tokenState.master + i) % 4).find? (fun q => !(tokenState.cricket (68 + q)).halted) = some 3 ∧ tokenState.isSecure 68 = true ∧
    tokenState.aon.standby = true ∧ tokenState.aon.pg = true ∧ tokenState.get F.SEC_BOOT_STAGE ≠ 14 ∧ ({ tokenState with aon := { tokenState.aon with locked := false } } : State).clocked = false := by decide +kernel
theorem wit_StartUpRuns_retain : ({ onState with hob := { onState.hob with changed := [R.CMB_WVINT] } } : State).hob.changed = [R.CMB_WVINT] ∧ onState.ember.retained = [] := by decide +kernel

/-! ## Host commands -/

/-- A state that listens, with a command on the control page. -/
def pageState (cmd image : Nat) : State := withRegs (poke (stageState 8) (pageBase + 8) (leBytes 4 cmd ++ leBytes 4 9)) [(F.CFG_STATE_IMAGE, image)]
theorem wit_HostCommandsRun_poll : ∀ x ∈ [(0, 0), (9, 0), (1, 0), (1, 2), (2, 2)], let s := pageState x.1 x.2
    s.clocked = true ∧ s.hobListens = true ∧ (s.pageRead 8 4).1 = x.1 ∧ cmdKnown (s.get F.SEC_BOOT_STAGE) x.1 = (x.1 != 0 && x.1 != 9) ∧ argsBad x.1 0 0 = false ∧ argsBad 1 0x3FFFF000 1 = true ∧ s.get F.CFG_STATE_IMAGE = x.2 := by decide +kernel
/-- A host command is held. -/
def cmdState (cmd image stage : Nat) : State := let s := withRegs (stageState stage) [(F.CFG_STATE_IMAGE, image)]; { s with hob := { s.hob with cmd := some (cmd, 9, 0x40000, 64) } }
theorem wit_HostCommandsRun_load : (cmdState 1 2 8).hob.cmd = some (1, 9, 0x40000, 64) ∧ (cmdState 1 2 8).hob.loading = false ∧ 2 ≤ (cmdState 1 2 8).get F.CFG_STATE_IMAGE ∧ (cmdState 1 1 8).get F.CFG_STATE_IMAGE < 2 ∧
    (let r := (cmdState 1 1 8).hobRead 0x40000 64; r.2.imageRefusal r.1 = some 2) ∧ (cmdState 2 2 8).hob.cmd = some (2, 9, 0x40000, 64) ∧ (cmdState 6 2 8).hob.cmd = some (6, 9, 0x40000, 64) := by decide +kernel
theorem wit_HostCommandsRun_attest : (cmdState 3 0 8).on F.SEC_BOOT_ID_OK = false ∧ (cmdState 3 0 8).hob.cmd = some (3, 9, 0x40000, 64) ∧
    (let s := withRegs { (cmdState 3 0 8) with aon := { (cmdState 3 0 8).aon with seed := some [1] } } [(F.SEC_BOOT_ID_OK, 1)]; s.on F.SEC_BOOT_ID_OK = true ∧ s.aon.seed = some [1]) ∧ (cmdState 4 0 8).hob.cmd = some (4, 9, 0x40000, 64) ∧
    (let r := (cmdState 5 0 8).hobRead 0x40000 3392; r.2.tokenOk r.1 = false) ∧ (cmdState 7 0 14).get F.SEC_BOOT_STAGE = 14 ∧ (let r := (cmdState 7 0 14).hobRead 0x40000 64; r.2.imageOk r.1 = false) := by decide +kernel
/-- Barrier c is satisfied: whatever counter a JOB record names, some state satisfies it, and onState satisfies none. -/
def barAt (s : State) (c : Nat) : State := withRegs s [(F.SYN_BAR_CFG_GROUP c, 0), (F.SYN_BAR_CFG_VALID c, 1), (F.SYN_BAR_CFG_P c, 1), (F.SYN_BAR_CNT_COUNT c, 1)]
theorem barAt_satisfied (s : State) (c : Nat) : (barAt s c).satisfied c = true := by
  have ne : R.SYN_BAR_CFG c ≠ R.SYN_BAR_CNT c := by unfold R.SYN_BAR_CFG R.SYN_BAR_CNT; omega
  have eg : (barAt s c).on (F.SYN_BAR_CFG_GROUP c) = false := by
    simp only [barAt, withRegs, List.foldl_cons, List.foldl_nil]
    rw [State.on_set_off _ _ (by exact ne), State.on_set_bits _ _ (by simp [F.SYN_BAR_CFG_GROUP]) (by simp [F.SYN_BAR_CFG_GROUP, F.SYN_BAR_CFG_P]),
      State.on_set_bits _ _ (by simp [F.SYN_BAR_CFG_GROUP]) (by simp [F.SYN_BAR_CFG_GROUP, F.SYN_BAR_CFG_VALID]), State.on_set_zero _ _ (by simp [F.SYN_BAR_CFG_GROUP])]
  have ev : (barAt s c).on (F.SYN_BAR_CFG_VALID c) = true := by
    simp only [barAt, withRegs, List.foldl_cons, List.foldl_nil]
    rw [State.on_set_off _ _ (by exact ne), State.on_set_bits _ _ (by simp [F.SYN_BAR_CFG_VALID]) (by simp [F.SYN_BAR_CFG_VALID, F.SYN_BAR_CFG_P]),
      State.on_set_one _ _ (by simp [F.SYN_BAR_CFG_VALID]) (by simp [F.SYN_BAR_CFG_VALID])]
  have ep : (barAt s c).get (F.SYN_BAR_CFG_P c) = 1 := by
    simp only [barAt, withRegs, List.foldl_cons, List.foldl_nil]
    rw [State.get_set_off _ _ (by exact ne), State.get_set_self _ _ _ (by simp [F.SYN_BAR_CFG_P])]; simp [F.SYN_BAR_CFG_P]
  have ec : (barAt s c).get (F.SYN_BAR_CNT_COUNT c) = 1 := by
    simp only [barAt, withRegs, List.foldl_cons, List.foldl_nil]
    rw [State.get_set_self _ _ _ (by simp [F.SYN_BAR_CNT_COUNT])]; simp [F.SYN_BAR_CNT_COUNT]
  simp [State.satisfied, State.ctrValid, State.isGroup, eg, ev, ep, ec]
theorem onState_invalid (c : Nat) (hc : c < 4096) : onState.on (F.SYN_BAR_CFG_VALID c) = false := by
  have e : onState.reg (R.SYN_BAR_CFG c) = 0 := by
    unfold onState
    rw [withRegs_reg]
    · show BitVec.ofNat 32 (regReset (R.SYN_BAR_CFG c)) = 0
      rw [reset_zero _ 0x610000 0x618000 (by unfold R.SYN_BAR_CFG; omega) (by unfold R.SYN_BAR_CFG; omega) (by omega) (by decide +kernel)]; rfl
    · intro p hp
      simp only [List.mem_cons, List.not_mem_nil, or_false] at hp
      rcases hp with rfl | rfl | rfl | rfl | rfl | rfl | rfl <;> simp only [R.SYN_BAR_CFG, F.CMB_PAIRMAP_VALID, F.CMB_PAIRMAP_PHYS] <;> omega
  unfold State.on State.get
  rw [show (F.SYN_BAR_CFG_VALID c).off = R.SYN_BAR_CFG c from rfl, e]; rfl
/-- Loading waits for its barrier. -/
def loading (s : State) : State := { s with hob := { s.hob with loading := true } }
theorem loading_regs (s : State) : (loading s).regs = s.regs := rfl
theorem loading_jobf (s : State) (i : Nat) : (loading s).jobf i = s.jobf i := rfl
theorem barAt_jobf (s : State) (c i : Nat) : (barAt s c).jobf i = s.jobf i := rfl
theorem barAt_hob (s : State) (c : Nat) : (barAt s c).hob = s.hob := rfl
theorem unsatisfied_of (s : State) (c : Nat) (h : s.regs = onState.regs) (hc : c < 4096) : s.satisfied c = false := by
  have ev : s.on (F.SYN_BAR_CFG_VALID c) = false := by rw [State.on_congr h]; exact onState_invalid c hc
  simp [State.satisfied, State.ctrValid, ev]
theorem wit_HostCommandsRun_loading : (loading onState).hob.loading = true ∧ (loading onState).satisfied ((loading onState).jobf 11 % 4096) = false ∧
    (barAt (loading onState) ((loading onState).jobf 11 % 4096)).hob.loading = true ∧
    (barAt (loading onState) ((loading onState).jobf 11 % 4096)).satisfied ((barAt (loading onState) ((loading onState).jobf 11 % 4096)).jobf 11 % 4096) = true := by
  refine ⟨rfl, unsatisfied_of _ _ (loading_regs _) (Nat.mod_lt _ (by decide)), ?_, ?_⟩
  · rw [barAt_hob]; rfl
  · rw [barAt_jobf]; exact barAt_satisfied _ _

/-! ## Resets and host links -/

theorem wit_ResetsAndHostLinksAct : onState.busOn = true ∧ onState.isSecure 68 = true ∧ (2 : Word).getLsbD 0 = false ∧ (1 : Word).getLsbD 0 = true ∧ State.reset.aon.pg = false ∧
    ({ onState with aon := { onState.aon with tripped := true } } : State).aon.tripped = true ∧ onState.aon.pg = true ∧ onState.aon.tripped = false ∧ (withRegs onState [(F.ERR_CTRL_JOB_EN, 1)]).jobEn = true ∧ (3 : Word) ≠ 1 ∧
    State.reset.clocked = false ∧ onState.clocked = true ∧ onState.on F.CFG_STATE_IMAGE = false ∧ (withRegs onState [(F.CFG_STATE_IMAGE, 2)]).on F.CFG_STATE_IMAGE = true ∧ onState.get (F.CXL_P_STATUS_STATE 1) = 0 ∧
    (withRegs onState [(F.CXL_P_STATUS_STATE 1, 2)]).get (F.CXL_P_STATUS_STATE 1) ≠ 0 ∧ onState.job.ckDrain = none ∧ ({ onState with cxl := { onState.cxl with devs := [(1, [1024])] } } : State).cxl.devs.look [] 1 = [] ++ [1024] := by decide +kernel

/-! ## The end of a step -/

/-- A job runs, its verdict issued or not, with a result or an outcome. -/
def endState (issued : Bool) (result : Option (Nat × List Nat)) (outcome : Nat) : State :=
  withRegs { onState with job := { onState.job with issued := issued, result := result, outcome := outcome } } [(F.ERR_CTRL_JOB_EN, 1)]
theorem wit_StepsEnd_verdict : (endState false none 0).jobEn = true ∧ (endState false none 0).clocked = true ∧ onState.jobEn = false ∧ (endState true none 0).job.issued = true ∧ (endState false none 1).job.outcome ≠ 0 ∧
    (endState true (some (1, [])) 0).job.result = some (1, []) ∧ (endState true (some (0, [1, 2, 3, 4, 5])) 0).job.result = some (0, [1, 2, 3, 4, 5]) ∧ (endState true none 0).job.result = none ∧
    max 1 ((endState true none 0).get F.ERR_LIMITS_REPLAYMAX) = 3 ∧ (endState true none 0).job.replays = 0 ∧ ({ (endState true none 0) with job := { (endState true none 0).job with replays := 3 } } : State).job.replays = 3 ∧
    (withRegs onState [(F.COL_NRANKS_COUNT 0, 7)]).get (F.COL_NRANKS_COUNT (withRegs onState [(F.COL_NRANKS_COUNT 0, 7)]).master) = 7 ∧ (withRegs (endState false none 0) [(F.ERR_CTRL_WD_EN, 0)]).on F.ERR_CTRL_WD_EN = false ∧ (endState false none 0).on F.ERR_CTRL_WD_EN = true ∧
    (∀ o ∈ [1, 2, 3, 4], (endState true none o).job.outcome = o) ∧ (endState true none 3).job.stop = 0 ∧ (({ (endState true none 3) with job := { (endState true none 3).job with stop := 9 } } : State).job.stop ≠ 0) := by decide +kernel
theorem wit_StepsEnd_waits : (∀ q < 4, (endState false none 0).rootsOwed q = false) ∧ (endState false none 0).switchHold = false ∧
    ({ (endState false none 0) with blw := [(3, { Blw.reset with facts := [(0, { Fact.none with job := { RootJob.none with st := 1 } })] })] } : State).rootsOwed 3 = true ∧
    (withRegs (endState false none 0) [(F.FLU_EPOCH_PEND, 1)]).switchHold = true := by decide +kernel
theorem endState_off (c : Nat) (hc : c < 4096) : (endState false none 0).on (F.SYN_BAR_CFG_VALID c) = false := by
  unfold endState
  simp only [withRegs, List.foldl_cons, List.foldl_nil]
  rw [State.on_set_off _ _ (by simp only [F.SYN_BAR_CFG_VALID, F.ERR_CTRL_JOB_EN]; omega)]
  rw [State.on_congr (t := onState) (by rfl)]
  exact onState_invalid c hc
theorem wit_StepsEnd_update : (endState false none 0).updateEnded = false ∧ (barAt (endState false none 0) ((endState false none 0).jobf 19 % 4096)).updateEnded = true ∧
    (barAt (endState false none 0) ((endState false none 0).jobf 19 % 4096)).job.issued = false := by
  refine ⟨?_, ?_, rfl⟩
  · simp [State.updateEnded, State.satisfied, State.ctrValid, endState_off _ (Nat.mod_lt _ (by decide))]
  · unfold State.updateEnded; rw [barAt_jobf]; exact barAt_satisfied _ _
/-- A checkpoint drain of step 4 waits. -/
def drainState (ended : Bool) (far : Nat) : State :=
  withRegs { onState with job := { onState.job with ckDrain := some 4, ckEnded := ended }, cxl := { onState.cxl with ranges := [{ base := farBase, size := 2 ^ 40, port := 0, ilv := false }] } }
    [(⟨R.ERR_CKBASE_LO + 4, 0, 32⟩, 0x1000), (⟨R.ERR_CKSTAGE_LO, 0, 32⟩, 0x100000), (F.CXL_P_STATUS_STATE 0, far)]
/-- What a read of intact far memory leaves: all but the count of link replays of port 0. -/
def FarLike (s t : State) : Prop :=
  t.mem = s.mem ∧ t.errs = s.errs ∧ t.cxl = s.cxl ∧ t.a192 = s.a192 ∧ ∀ f : RF, f.off ≠ (F.CXL_P_ERR_REPLAY 0).off → t.get f = s.get f
theorem FarLike.trans {s t u : State} (h : FarLike s t) (k : FarLike t u) : FarLike s u :=
  ⟨k.1.trans h.1, k.2.1.trans h.2.1, k.2.2.1.trans h.2.2.1, k.2.2.2.1.trans h.2.2.2.1, fun f hf => (k.2.2.2.2 f hf).trans (h.2.2.2.2 f hf)⟩
/-- The far tier is one range r on port 0, which is up, and holds no damaged codeword. -/
def FarUp (r : FarRange) (s : State) : Prop :=
  (∀ a, r.base ≤ a → a < r.base + r.size → s.farRange a = some r ∧ r.portOf a = 0) ∧ s.get (F.CXL_P_STATUS_STATE 0) = 2 ∧ s.errs = [] ∧ s.nch * s.chCap ≤ 2 ^ 40 ∧ farBase ≤ r.base ∧ r.base + r.size ≤ 0x180000000000
theorem FarUp.like {r : FarRange} {s t : State} (h : FarUp r s) (k : FarLike s t) : FarUp r t := by
  obtain ⟨_, h2, h3, h4, h5⟩ := k
  have e1 : ∀ a, t.farRange a = s.farRange a := fun a => by unfold State.farRange; rw [h3]
  have e2 : t.nch * t.chCap = s.nch * s.chCap := by unfold State.nch State.chCap; rw [h5 _ (by decide), h4]
  refine ⟨fun a ha hb => ?_, (h5 _ (by decide)).trans h.2.1, h2.trans h.2.2.1, e2 ▸ h.2.2.2.1, h.2.2.2.2⟩
  rw [e1]; exact h.1 a ha hb
/-- Far memory of a port that is up reads what it holds. -/
theorem far_granules {r : FarRange} (n g : Nat) (s : State) (h : FarUp r s) (h1 : r.base ≤ g * 16) (h2 : (g + n) * 16 ≤ r.base + r.size) :
    ∃ t, s.readGranules false g n = ⟨(List.range (16 * n)).map fun i => s.byteAt (g * 16 + i), none, t⟩ ∧ FarLike s t := by
  induction n generalizing g s with
  | zero => exact ⟨s, rfl, rfl, rfl, rfl, rfl, fun _ _ => rfl⟩
  | succ n ih =>
    obtain ⟨hr, hp, he, hn, hb, ht⟩ := id h
    obtain ⟨hf, hp0⟩ := hr (g * 16) h1 (by omega)
    have hfar : inFar (g * 16) = true := by unfold inFar; simp; omega
    have hloc : s.locate (g * 16) = some (g * 16) := by
      unfold State.locate
      rw [if_neg (by unfold farBase at hb; omega), if_neg (by unfold inPhys physBase; unfold farBase at hb; simp; omega), if_neg (by unfold hbmBase; unfold farBase at hb; omega), if_pos hfar, hf]
      rfl
    have hpo : s.farPort (g * 16) = 0 := by unfold State.farPort; rw [hf]; exact hp0
    have e : s.readGranule false (g * 16) = ⟨(List.range 16).map fun i => s.byteAt (g * 16 + i), none, s.linkReplays 0⟩ := by
      unfold State.readGranule
      rw [Nat.mul_div_cancel _ (by decide)]
      have hph : inPhys (g * 16) = false := by unfold inPhys physBase; unfold farBase at hb; simp; omega
      have hk : keyFar (g * 16) = true := by unfold keyFar; simp; omega
      simp only [hph, Bool.false_and, Bool.false_eq_true, if_false, hloc, hk, if_true, hpo]
      unfold State.readFar State.errAt
      rw [hp, he]
      rfl
    have like : FarLike s (s.linkReplays 0) := ⟨rfl, rfl, rfl, rfl, fun f hf => State.get_set_off _ _ hf⟩
    unfold State.readGranules
    rw [e]
    dsimp only
    obtain ⟨t, hg, hl⟩ := ih (g + 1) _ (h.like like) (by omega) (by omega)
    refine ⟨t, ?_, like.trans hl⟩
    rw [hg]
    have : 16 * (n + 1) = 16 + 16 * n := by omega
    rw [this, List.range_add, List.map_append, List.map_map]
    congr 1
    congr 1
    apply List.map_congr_left
    intro i _
    simp only [Function.comp]
    rw [show (g + 1) * 16 + i = g * 16 + (16 + i) by omega]
    rfl
theorem far_read {r : FarRange} (s : State) (h : FarUp r s) (a n : Nat) (ha : a % 16 = 0) (hz : n % 16 = 0) (h0 : n ≠ 0) (h1 : r.base ≤ a) (h2 : a + n ≤ r.base + r.size) :
    ∃ t, s.read a n = ⟨(List.range n).map fun i => s.byteAt (a + i), none, t⟩ ∧ FarLike s t := by
  unfold State.read State.readAt
  rw [if_neg h0]
  have hk : (a + n - 1) / 16 + 1 - a / 16 = n / 16 := by omega
  dsimp only
  obtain ⟨t, hg, hl⟩ := far_granules (n / 16) (a / 16) s h (by omega) (by omega)
  refine ⟨t, ?_, hl⟩
  rw [hk, hg, ha]
  have e1 : 16 * (n / 16) = n := by omega
  have e2 : a / 16 * 16 = a := by omega
  simp only [e1, e2, List.drop_zero]
  rw [List.take_of_length_le (by simp)]
theorem wit_StepsEnd_drain : onState.job.ckDrain = none ∧ (drainState true 2).job.ckEnded = true ∧ (drainState false 2).clocked = true ∧ (drainState false 2).job.ckDrain = some 4 ∧ (drainState false 2).job.ckEnded = false ∧
    ((drainState false 0).set F.ERR_STATUS_DRAIN 0).farOk (((drainState false 0)).slotBase (drainState false 0).drainSlot) 1 = false := by decide +kernel
theorem codes_zero (m : Nat) (bs : List Byte) (h : ∀ b ∈ bs, b = 0) : ∀ x ∈ codesOf 8 bs m, x = 0 := by
  have z : ∀ l : List Byte, (∀ b ∈ l, b = 0) → leNat l = 0 := by
    intro l
    induction l with
    | nil => intro _; rfl
    | cons b l ih => intro h; rw [leNat, h b List.mem_cons_self, ih fun c hc => h c (List.mem_cons_of_mem _ hc)]; rfl
  induction m generalizing bs with
  | zero => intro x hx; simp [codesOf] at hx
  | succ m ih =>
    intro x hx
    rw [codesOf, List.mem_cons] at hx
    rcases hx with rfl | hx
    · exact z _ fun b hb => h b (List.mem_of_mem_take hb)
    · exact ih _ (fun b hb => h b (List.mem_of_mem_drop hb)) x hx
theorem dataSum_zero (bs : List Byte) (h : ∀ b ∈ bs, b = 0) : dataSum bs = 0 := by
  unfold dataSum
  have key : ∀ (l : List Nat) (k n : Nat), (∀ x ∈ l, x = 0) → (l.zipIdx k).foldl (fun n (p : Nat × Nat) => n + p.1 * (2 * p.2 + 1)) n = n := by
    intro l
    induction l with
    | nil => intros; rfl
    | cons x l ih =>
      intro k n hl
      rw [List.zipIdx_cons, List.foldl_cons, hl x List.mem_cons_self]
      simp only [Nat.zero_mul, Nat.add_zero]
      exact ih _ _ fun y hy => hl y (List.mem_cons_of_mem _ hy)
  rw [key (codesOf 8 bs (bs.length / 8)) 0 0 (codes_zero _ bs h)]; rfl
/-- The slot of the first drain fits the far tier. -/
theorem wit_StepsEnd_drainOk : ∀ x, x = (drainState false 2).set F.ERR_STATUS_DRAIN 0 → x.farOk (x.slotBase (drainState false 2).drainSlot) (4096 + (drainState false 2).drainLen) = true := by
  intro x hx
  have hr : x.cxl.ranges = [{ base := farBase, size := 2 ^ 40, port := 0, ilv := false }] := by rw [hx]; unfold drainState withRegs; rfl
  have hs : x.get (F.CXL_P_STATUS_STATE 0) = 2 := by rw [hx]; decide +kernel
  have hb : x.slotBase (drainState false 2).drainSlot = farBase := by rw [hx]; decide +kernel
  have hl : (drainState false 2).drainLen = ckTail := by unfold State.drainLen; rw [show (drainState false 2).job.ckRegs = [] by decide +kernel]; simp
  rw [hb, hl]
  have ht : ckTail = 1623232 := by decide
  unfold State.farOk
  rw [List.all_eq_true]
  intro i _
  have hf : x.farRange (min (farBase + 256 * i) (farBase + (4096 + ckTail) - 1)) = some { base := farBase, size := 2 ^ 40, port := 0, ilv := false } := by
    unfold State.farRange
    rw [hr, ht]
    have : min (farBase + 256 * i) (farBase + (4096 + 1623232) - 1) < farBase + 2 ^ 40 := by omega
    have h2 : farBase ≤ min (farBase + 256 * i) (farBase + (4096 + 1623232) - 1) := by omega
    rw [List.find?_cons_of_pos]
    simp only [h2, this, decide_true, Bool.and_self]
  rw [hf]
  dsimp only
  rw [show FarRange.portOf { base := farBase, size := 2 ^ 40, port := 0, ilv := false } (min (farBase + 256 * i) (farBase + (4096 + ckTail) - 1)) = 0 by unfold FarRange.portOf; simp, hs]
  rfl
/-- A confirmed checkpoint of step 0 without regions stands in slot 0: its header, and a body of zeros. -/
def confState : State := poke (withRegs (drainState true 2) [(F.ERR_STATUS_CONF_VALID, 1)]) farBase (desc 32 [(0, 4, 0x4B434247), (4, 4, 1), (16, 8, 1623232)])
def confRange : FarRange := { base := farBase, size := 2 ^ 40, port := 0, ilv := false }
theorem one_range (s : State) (hr : s.cxl.ranges = [confRange]) (hp : s.get (F.CXL_P_STATUS_STATE 0) = 2 ∧ s.errs = [] ∧ s.nch * s.chCap ≤ 2 ^ 40) : FarUp confRange s := by
  refine ⟨fun a h1 h2 => ⟨?_, by unfold FarRange.portOf; rfl⟩, hp.1, hp.2.1, hp.2.2, Nat.le_refl _, by decide⟩
  unfold State.farRange
  rw [hr]
  simpa [h1] using h2
theorem conf_up : FarUp confRange confState := one_range _ (by decide +kernel) (by decide +kernel)
/-- The same without a checkpoint: slot 0 reads zeros. -/
def bareState : State := withRegs (drainState true 2) [(F.ERR_STATUS_CONF_VALID, 1)]
theorem none_pair {α β : Type} {p : Option α × β} (h : p.1 = none) : p = (none, p.2) := by cases p; cases h; rfl
theorem slot_magic (s u : State) (k a : Nat) (bs : List Byte) (hb : s.slotBase k = a) (hr : s.read a 4096 = ⟨bs, none, u⟩) (hm : leAt bs 0 4 = 0) : (s.slotRead k).1 = none := by
  unfold State.slotRead
  dsimp only
  rw [hb, hr]
  dsimp only
  rw [hm, if_pos (by simp)]
theorem bare_read : (bareState.slotRead 0).1 = none := by
  obtain ⟨u, hr, -⟩ := far_read bareState (one_range _ (by decide +kernel) (by decide +kernel)) farBase 4096 (by unfold farBase; omega) (by omega) (by omega) (Nat.le_refl _) (by unfold confRange; dsimp only; omega)
  exact slot_magic _ u 0 farBase _ (by decide +kernel) hr (by decide +kernel)
theorem look_past (m : Sparse Byte) (k : Nat) (h : ∀ e ∈ m, e.1 < k) : m.look 0 k = 0 := by
  induction m with
  | nil => rfl
  | cons e m ih =>
    unfold Sparse.look
    rw [if_neg (Nat.ne_of_lt (h e List.mem_cons_self))]
    exact ih fun x hx => h x (List.mem_cons_of_mem _ hx)
theorem conf_zero (i : Nat) : confState.byteAt (farBase + 4096 + i) = 0 := by
  have h : (confState.mem.all fun e => decide (e.1 < farBase + 4096)) = true := by decide +kernel
  refine look_past _ _ fun e he => ?_
  have := List.all_eq_true.1 h e he
  simp only [decide_eq_true_eq] at this
  omega
theorem wit_StepsEnd_rewind : (endState true none 4).job.outcome = 4 ∧ (endState true none 4).on F.ERR_STATUS_CONF_VALID = false ∧ confState.on F.ERR_STATUS_CONF_VALID = true ∧
    (∃ x, bareState.slotRead 0 = (none, x)) ∧ (∃ regs body x, confState.slotRead (confState.get F.ERR_STATUS_CONF_SLOT) = (some (0, regs, body), x)) := by
  refine ⟨rfl, by decide +kernel, by decide +kernel, ⟨(bareState.slotRead 0).2, none_pair bare_read⟩, ?_⟩
  have hs : confState.get F.ERR_STATUS_CONF_SLOT = 0 := by decide +kernel
  have hb : confState.slotBase 0 = farBase := by decide +kernel
  obtain ⟨u, hr, hu⟩ := far_read confState conf_up farBase 4096 (by unfold farBase; omega) (by omega) (by omega) (Nat.le_refl _) (by unfold confRange; dsimp only; omega)
  obtain ⟨v, hd, -⟩ := far_read u (conf_up.like hu) (farBase + 4096) 1623232 (by unfold farBase; omega) (by omega) (by omega) (by unfold confRange; dsimp only; omega) (by unfold confRange; dsimp only; omega)
  have hh : ∀ h, h = (List.range 4096).map (fun i => confState.byteAt (farBase + i)) → leAt h 0 4 = 0x4B434247 ∧ leAt h 4 4 = 1 ∧ h.extract 32 96 = confState.imgHash ∧
      h.extract 96 160 = confState.idHash ∧ leAt h 160 4 = 0 ∧ leAt h 16 8 = 1623232 ∧ leAt h 24 8 = 0 ∧ leAt h 8 8 = 0 := by
    rintro _ rfl
    decide +kernel
  obtain ⟨e1, e2, e3, e4, e5, e6, e7, e8⟩ := hh _ rfl
  have hz : dataSum ((List.range 1623232).map fun i => u.byteAt (farBase + 4096 + i)) = 0 := by
    refine dataSum_zero _ fun b hb => ?_
    rw [List.mem_map] at hb
    obtain ⟨i, _, rfl⟩ := hb
    have := conf_zero i
    unfold State.byteAt at this ⊢
    rw [hu.1]
    exact this
  have ht : ckTail = 1623232 := by decide
  rw [hs]
  unfold State.slotRead
  dsimp only
  rw [hb, hr]
  dsimp only
  rw [e1, e2, e3, e4, e5, e6, e7, e8, ht]
  simp only [hd, hz]
  simp

/-! ## Results worked out in the spec's own examples -/

/-- 00: the byte order of a 64-bit value at 0x1000. -/
theorem test_byte_order : let s := poke onState 0x1000 (leBytes 8 0x0123456789ABCDEF)
    (s.read 0x1000 1).bytes = [0xEF] ∧ (s.read 0x1007 1).bytes = [0x01] ∧ leNat (s.read 0x1000 4).bytes = 0x89ABCDEF ∧ leNat (s.read 0x1004 4).bytes = 0x01234567 := by decide +kernel
/-- 02, the example of the FP64 slice mode: digits of a0, a1 and a2 in a block of exponent 1. -/
theorem test_slice_digits : [0, 1, 2, 3].map (sliceOf .fp64 1 (FV.ofInt 3)) = [24576, 0, 0, 0] ∧ [0, 1, 2, 3].map (sliceOf .fp64 1 (FV.fin false (2 ^ 47 + 3) (-47))) = [8192, 0, 1, -16384] ∧
    [0, 1, 2, 3].map (sliceOf .fp64 1 (FV.fin false (2 ^ 52 + 1) (-63))) = [4, 0, 0, 0] := by decide +kernel
/-- 12, the example of BFP22: rank 5's encoding, and the two combines at its node. -/
def bfp5 : Bfp := Bfp.encode (FV.fin false (2 ^ 17 + 1) (-13) :: List.replicate 15 FV.zero)
def bfpOf (x m : Int) : Bfp := { x := x, nan := 0, m := m :: List.replicate 15 0 }
theorem test_bfp_encode : bfp5.x = -13 ∧ bfp5.m.head? = some 131073 := by decide +kernel
theorem test_bfp_combine : (let r := (bfp5.add (bfpOf (-13) 1966080)).1; r.x = -12 ∧ r.m.head? = some 1048576) ∧
    (let r := ((bfp5.add (bfpOf (-13) 1966080)).1.add (bfpOf (-14) 3)).1; r.x = -12 ∧ r.m.head? = some 1048577) := by decide +kernel
/-- 11, the example of a packet header. -/
theorem test_packet_header : (mkPacket [0x20, 0x04, 0x0C] 0 1 2182 0 0x0123 5 2 []).take 16 = [0x20, 0x04, 0x0C, 0x0F, 0x0F, 0x0F, 0x0F, 0x0F, 0x80, 0x86, 0x08, 0x23, 0x01, 0x05, 0x02, 0x00] := by decide +kernel
/-- 10, the example of the interleave over 256 channels: offset 0x0123_4500 lies in channel 103 at 0x1_2300, and back. -/
theorem test_interleave : let s := withRegs onState [(F.HBM_STATUS_NCH, 256)]
    s.hbmSplit 0x01234500 = (103, 0x12300) ∧ s.chanAddr 103 0x12300 = some (hbmBase + 0x01234500) := by decide +kernel
/-- 13, the example of R446: the first cycle releases cricket 130 and leaves the count at 1, the second releases cricket 135 and leaves 0, and cricket 140 waits. -/
def exampleState : State :=
  let s := withRegs onState [(F.SYN_CTRL_EN, 1), (F.SYN_BAR_CFG_VALID 700, 1), (F.SYN_BAR_CFG_P 700, 1), (F.SYN_BAR_CNT_COUNT 700, 2)]
  { s with syn := { s.syn with waiters := [⟨130, 700, true, 0, []⟩, ⟨135, 700, true, 0, []⟩, ⟨140, 700, true, 0, []⟩] } }
theorem test_take_first : (match exec (.waitTakeRelease 700) exampleState with
    | .next t => t.syn.waiters.map (·.qid) == [135, 140] && t.get (F.SYN_BAR_CNT_COUNT 700) == 1
    | _ => false) = true := by decide +kernel
theorem test_take_second : (match exec (.waitTakeRelease 700) { (exampleState.set (F.SYN_BAR_CNT_COUNT 700) 1) with syn := { exampleState.syn with waiters := [⟨135, 700, true, 0, []⟩, ⟨140, 700, true, 0, []⟩] } } with
    | .next t => t.syn.waiters.map (·.qid) == [140] && t.get (F.SYN_BAR_CNT_COUNT 700) == 0
    | _ => false) = true := by decide +kernel
/-- 17, the example of R550: the frame 0x0001_FFFF_FFFF is read whole although a frame boundary falls between the two reads. -/
theorem test_frame_pair : (match exec (.pairLoRead 0 (BitVec.ofNat 26 R.FLU_FRAME_LO)) (({ onState with aon := { onState.aon with fabMaster := true } }).setFrame 0x1FFFFFFFF) with
    | .next t => (match exec .frameMark t with
      | .next u => (match exec (.readClear 0 (BitVec.ofNat 26 (R.FLU_FRAME_LO + 4)) 4) u with
        | .next v => t.bus.rdata.look 0 0 == 0xFFFFFFFF && u.frame == 0x200000000 && v.bus.rdata.look 0 0 == 1
        | _ => false)
      | _ => false)
    | _ => false) = true := by decide +kernel
/-- 14, the example of the voltage loop: a pace miss at 0.6650 V raises the quadrant's supply to 0.6900 V (units of 0.1 mV). -/
def loopState (v : Nat) : State := withRegs { onState with hrt := [(0, { Hearth.idle with pmLeast := 58 })] } [(F.PWR_Q_VARR_UV 0, v), (F.PWR_CTRL_VLOOP_EN, 1)]
theorem test_pace_miss_raise : (match exec (.paceMiss 0) (loopState 6650) with
    | .next t => t.get (F.PWR_Q_VARR_UV 0) == 6900
    | _ => false) = true := by decide +kernel
/-- 05, the example of a block scale: 1,050 under the scale 2.25 overflows E4M3, and under 4.5 it is written as 240. -/
theorem test_e4m3_overflow : (convFast 4 (fmt64.div (FV.ofInt 1050) (FV.fin false 9 (-2)))).ovf = true := by decide +kernel
theorem test_e4m3_doubled : (match elemValue 4 (convFast 4 (fmt64.div (FV.ofInt 1050) (FV.fin false 9 (-1)))).bits with
    | .fin s m e => !s && m * 2 ^ e.toNat == 240 && decide (0 ≤ e)
    | _ => false) = true := by decide +kernel
/-- 07, the example of a solve's cost: vector passes, setup and one CG iteration with Jacobi. -/
theorem test_solve_cost : let a : KMat := { bs := 4, fixed := false, texp := 0, psig := 0, nb := 32768, nnzb := 229376, rows := [] }
    costV false 131072 = 1024 ∧ a.costS false = 31745 ∧ a.costSetup false 1 = 46129 ∧ a.costIter false 0 1 0 = 48225 := by decide +kernel

end Sys2Proof.Tests
end

section
/-! PROOFS. The side ring of a hearth's damper: what a write of DMP_CTRL.SRESET does (04_backward_pass_and_damper.md R132). -/

namespace Sys2Proof.Machine

/-- While the bus runs, the command's write of 1 reaches the register and answers the reset of the side ring. -/
theorem exec_sideRingReset (who : Requester) (p : Fin 136) (s : State) (hb : s.busOn = true) :
    exec (.sideRingReset who p) s = s.answer (s.sideReset p.val) :=
  congrArg s.answer (write_DMP_CTRL s who.val p 1 hb)

/-- R132: on a hearth that is off and idle, the head of the side ring becomes 0. -/
theorem sideReset_of_off_idle {s : State} {p : Nat} (hen : s.on (F.HRT_CTRL_EN p) = false) (hidle : s.hearthIdle p = true) :
    s.sideReset p = s.set (F.DMP_SHEAD_HEAD p) 0 := by
  simp [State.sideReset, hen, hidle]

/-- R132: on a hearth that is enabled or has a command in progress, the reset is ignored. -/
theorem sideReset_of_busy {s : State} {p : Nat} (h : s.on (F.HRT_CTRL_EN p) = true ∨ s.hearthIdle p = false) :
    s.sideReset p = s := by
  rcases h with hen | hbusy
  · simp [State.sideReset, hen]
  · simp [State.sideReset, hbusy]

/-- Settles O17: the bus write reduces to `State.sideReset`, whose guard decides between the two clauses. -/
theorem sideRingResets : Obligations.SideRingResets := by
  unfold Obligations.SideRingResets
  intro who p s hb
  have hexec := exec_sideRingReset who p s hb
  constructor
  · intro hen hidle
    rw [sideReset_of_off_idle hen hidle] at hexec
    obtain ⟨t, hnext, ht⟩ := answer_agree s (s.set (F.DMP_SHEAD_HEAD p.val) 0)
    refine ⟨t, hexec.trans hnext, ?_, ?_, ht.mem, ht.queues⟩
    · rw [ht.get]
      exact State.get_set_lt s _ 0 (by simp [F.DMP_SHEAD_HEAD]) (Nat.two_pow_pos _)
    · intro o ho
      rw [ht.reg]
      exact State.reg_set_ne s 0 (List.ne_of_not_mem_cons ho)
  · intro h
    exact gives_answer hexec (sideReset_of_busy h)

end Sys2Proof.Machine
end

section
/-! PROOFS. Starts of margining: what a write of MGN_CTRL.START does (10_comb_hbm_and_far_memory.md R362, R363). -/

namespace Sys2Proof.Machine

/-- A field takes a value modulo its width. -/
theorem State.set_congr_mod (s : State) (f : RF) {v w : Nat} (h : v % 2 ^ f.w = w % 2 ^ f.w) : s.set f v = s.set f w := by
  rw [State.set, State.set, setBits, setBits, h]

/-- R367, R546: a write with START = 1 and ABORT = 0 leaves START at 1 and ABORT at 0, and then is a start. -/
theorem marginCtrl_of_start_only (s : State) {v : Nat} (hstart : v.testBit 0 = true) (habort : v.testBit 1 = false) :
    s.marginCtrl v = ((s.set F.MGN_CTRL_START 1).set F.MGN_CTRL_ABORT 0).marginStart := by
  have hodd : v % 2 = 1 := by simpa [Nat.testBit_zero] using hstart
  have heven : v / 2 % 2 = 0 := by simpa [Nat.testBit_succ, Nat.testBit_zero] using habort
  simp only [State.marginCtrl, hstart, habort, if_true, Bool.false_eq_true, if_false]
  rw [State.set_congr_mod s F.MGN_CTRL_START (w := 1) hodd, State.set_congr_mod _ F.MGN_CTRL_ABORT (w := 0) heven]

/-- A secure requester's command without ABORT reaches the register, and answers the start. -/
theorem exec_marginStart_of_start_only {who : Requester} {val : Word} {s : State} (hb : s.busOn = true)
    (hs : s.isSecure who.val = true) (habort : val.getLsbD 1 = false) :
    exec (.marginStart who val) s = s.answer ((s.set F.MGN_CTRL_START 1).set F.MGN_CTRL_ABORT 0).marginStart := by
  have hbit0 : ((val.toNat ||| 1) % 2 ^ 32).testBit 0 = true := by simp
  have hbit1 : ((val.toNat ||| 1) % 2 ^ 32).testBit 1 = false := by
    rw [Nat.testBit_mod_two_pow, Nat.testBit_or, show val.toNat.testBit 1 = false from habort]
    decide
  have hwrite := (write_MGN_CTRL s who.val (val.toNat ||| 1) hb hs).trans (marginCtrl_of_start_only s hbit0 hbit1)
  exact congrArg s.answer hwrite

/-- R362: while an image is loaded, a start only sets REFUSED. -/
theorem marginStart_of_image {s : State} (h : s.on F.CFG_STATE_IMAGE = true) : s.marginStart = s.set F.MGN_STATUS_REFUSED 1 := by
  rw [State.marginStart, if_pos h]

/-- R362: a command that starts a run while an image is loaded gives the state that the write leaves, with REFUSED set. -/
theorem marginStart_gives_refused {who : Requester} {val : Word} {s : State} (hb : s.busOn = true)
    (hs : s.isSecure who.val = true) (habort : val.getLsbD 1 = false) (himage : s.on F.CFG_STATE_IMAGE = true) :
    Gives (.marginStart who val) s (((s.set F.MGN_CTRL_START 1).set F.MGN_CTRL_ABORT 0).set F.MGN_STATUS_REFUSED 1) := by
  have himage' : ((s.set F.MGN_CTRL_START 1).set F.MGN_CTRL_ABORT 0).on F.CFG_STATE_IMAGE = true := by
    rw [State.on_set_off _ _ (by decide), State.on_set_off _ _ (by decide), himage]
  exact gives_answer (exec_marginStart_of_start_only hb hs habort) (marginStart_of_image himage')

/-- The state of a refused start has BUSY as before. -/
theorem refusedStart_busy (s : State) :
    (((s.set F.MGN_CTRL_START 1).set F.MGN_CTRL_ABORT 0).set F.MGN_STATUS_REFUSED 1).on F.MGN_STATUS_BUSY = s.on F.MGN_STATUS_BUSY := by
  rw [State.on_set_bits _ _ (by decide) (by decide), State.on_set_off _ _ (by decide), State.on_set_off _ _ (by decide)]

/-- Settles O47: with an image loaded the start is refused and BUSY stays, so a start that raises BUSY found no image. -/
theorem marginStartNeedsNoImage : Obligations.MarginStartNeedsNoImage := by
  unfold Obligations.MarginStartNeedsNoImage
  intro who val s hb hs habort
  refine ⟨marginStart_gives_refused hb hs habort, fun t hnext hidle hbusy => ?_⟩
  by_contra himage
  obtain ⟨u, hu, hagree⟩ := marginStart_gives_refused hb hs habort (by simpa using himage)
  have htu : t = u := by
    rw [hnext] at hu
    exact Host.Outcome.next.inj hu
  rw [htu, hagree.on, refusedStart_busy, hidle] at hbusy
  contradiction

end Sys2Proof.Machine
end

section
/-! PROOFS. Counters of barriers: what a signal and a subtraction do to a count, its flags and SYN_EVENT
(13_barriers_sparks_queues.md R441, R449). -/

namespace Sys2Proof.Machine

/-! ### The registers of a counter, of its group slot and SYN_EVENT are apart -/

theorem barCnt_ne_event (b : Nat) : R.SYN_BAR_CNT b ≠ R.SYN_EVENT := by
  simp only [R.SYN_BAR_CNT, R.SYN_EVENT]; omega
theorem barCfg_ne_barCnt (b : Nat) : R.SYN_BAR_CFG b ≠ R.SYN_BAR_CNT b := by
  simp only [R.SYN_BAR_CFG, R.SYN_BAR_CNT]; omega
theorem barCfg_ne_event (b : Nat) : R.SYN_BAR_CFG b ≠ R.SYN_EVENT := by
  simp only [R.SYN_BAR_CFG, R.SYN_EVENT]; omega
theorem grpCtrl_ne_barCnt (g b : Nat) : R.SYN_GRP_CTRL g ≠ R.SYN_BAR_CNT b := by
  simp only [R.SYN_GRP_CTRL, R.SYN_BAR_CNT]; omega
theorem grpCtrl_ne_event (g : Nat) : R.SYN_GRP_CTRL g ≠ R.SYN_EVENT := by
  simp only [R.SYN_GRP_CTRL, R.SYN_EVENT]; omega

/-! ### What keeps a count -/

/-- From s to t, the count of counter b with its flags SAT and UNDER stays, and so does SYN_EVENT; WAITERS may change. -/
structure CountKept (b : Nat) (s t : State) : Prop where
  get : ∀ f : RF, f.off = R.SYN_BAR_CNT b → f.lo + f.w ≤ 18 → t.get f = s.get f
  event : t.reg R.SYN_EVENT = s.reg R.SYN_EVENT

theorem CountKept.trans {b : Nat} {s t u : State} (h : CountKept b s t) (k : CountKept b t u) : CountKept b s u :=
  ⟨fun f ho hw => (k.get f ho hw).trans (h.get f ho hw), k.event.trans h.event⟩
theorem CountKept.count {b : Nat} {s t : State} (h : CountKept b s t) : t.get (F.SYN_BAR_CNT_COUNT b) = s.get (F.SYN_BAR_CNT_COUNT b) :=
  h.get _ rfl (by simp [F.SYN_BAR_CNT_COUNT])
theorem CountKept.sat {b : Nat} {s t : State} (h : CountKept b s t) : t.on (F.SYN_BAR_CNT_SAT b) = s.on (F.SYN_BAR_CNT_SAT b) := by
  rw [State.on, State.on, h.get _ rfl (by simp [F.SYN_BAR_CNT_SAT])]
theorem CountKept.under {b : Nat} {s t : State} (h : CountKept b s t) : t.on (F.SYN_BAR_CNT_UNDER b) = s.on (F.SYN_BAR_CNT_UNDER b) := by
  rw [State.on, State.on, h.get _ rfl (by simp [F.SYN_BAR_CNT_UNDER])]
/-- A flag of SYN_EVENT. -/
theorem CountKept.on_event {b : Nat} {s t : State} (h : CountKept b s t) {f : RF} (hf : f.off = R.SYN_EVENT) : t.on f = s.on f := by
  rw [State.on, State.on, State.get, State.get, hf, h.event]
/-- An update of a group slot's control register keeps every count. -/
theorem RegsBut.countKept {g b : Nat} {s t : State} (h : RegsBut [R.SYN_GRP_CTRL g] s t) : CountKept b s t where
  get f ho _ := h.get (by rw [ho]; simpa using (grpCtrl_ne_barCnt g b).symm)
  event := h _ (by simpa using (grpCtrl_ne_event g).symm)
theorem RelKeeps.countKept {b : Nat} {s t : State} (h : RelKeeps b s t) : CountKept b s t where
  get := getW_of h
  event := h.1 _ (barCnt_ne_event b).symm
theorem RelKeeps.regsBut {b : Nat} {s t : State} (h : RelKeeps b s t) : RegsBut [R.SYN_BAR_CNT b] s t :=
  fun o ho => h.1 o (List.ne_of_not_mem_cons ho)
/-- An answer keeps what its effect has counted. -/
theorem Agree.countKept {b : Nat} {t u : State} (h : Agree t u) : CountKept b u t :=
  RegsBut.countKept (g := 0) ((regsBut_refl _ u).agree h)

/-! ### Adding one -/

theorem bump_of_full {s : State} {b : Nat} (h : s.get (F.SYN_BAR_CNT_COUNT b) = 0xFFFF) :
    s.bump b = (s.raise (F.SYN_BAR_CNT_SAT b)).raise F.SYN_EVENT_SAT := by
  simp [State.bump, h]
theorem bump_of_not_full {s : State} {b : Nat} (h : s.get (F.SYN_BAR_CNT_COUNT b) ≠ 0xFFFF) :
    s.bump b = s.set (F.SYN_BAR_CNT_COUNT b) (s.get (F.SYN_BAR_CNT_COUNT b) + 1) := by
  simp [State.bump, h]
theorem bump_mem (s : State) (b : Nat) : (s.bump b).mem = s.mem := by
  by_cases h : s.get (F.SYN_BAR_CNT_COUNT b) = 0xFFFF
  · rw [bump_of_full h]; rfl
  · rw [bump_of_not_full h]; rfl
theorem bump_regsBut (s : State) (b : Nat) : RegsBut [R.SYN_BAR_CNT b, R.SYN_EVENT] s (s.bump b) := by
  intro o ho
  simp only [List.mem_cons, List.not_mem_nil, or_false, not_or] at ho
  exact bump_regs s b o ho.1 ho.2

/-- R441: after one is added and nothing else changes the count, a full count has stayed and SAT stands in both places. -/
theorem CountKept.bump_full {b : Nat} {s t : State} (h : CountKept b (s.bump b) t) (hfull : s.get (F.SYN_BAR_CNT_COUNT b) = 0xFFFF) :
    t.on (F.SYN_BAR_CNT_SAT b) = true ∧ t.on F.SYN_EVENT_SAT = true := by
  rw [h.sat, h.on_event rfl, bump_of_full hfull]
  constructor
  · rw [State.raise, State.on_set_off _ _ (barCnt_ne_event b)]
    exact State.on_set_one _ _ (by simp [F.SYN_BAR_CNT_SAT]) Nat.one_pos
  · exact State.on_set_one _ _ (by decide) (by decide)
/-- R441: below 0xFFFF, the flags are as they were. -/
theorem CountKept.bump_not_full {b : Nat} {s t : State} (h : CountKept b (s.bump b) t) (hfull : s.get (F.SYN_BAR_CNT_COUNT b) ≠ 0xFFFF) :
    t.on (F.SYN_BAR_CNT_SAT b) = s.on (F.SYN_BAR_CNT_SAT b) ∧ t.reg R.SYN_EVENT = s.reg R.SYN_EVENT := by
  rw [h.sat, h.event, bump_of_not_full hfull]
  constructor
  · exact State.on_set_bits _ _ (by simp [F.SYN_BAR_CNT_SAT]) (.inr (by simp [F.SYN_BAR_CNT_SAT, F.SYN_BAR_CNT_COUNT]))
  · exact State.reg_set_ne _ _ (barCnt_ne_event b).symm

/-! ### Signals to a group barrier -/

theorem carry_arrived (s : State) (b : Nat) (k : Option Nat) : (s.carry b k).syn.arrived = s.syn.arrived := rfl
theorem countWait_syn (s : State) (w : Waiter) (c : Nat) : (s.countWait w c).syn = s.syn := by
  obtain ⟨m, hm⟩ := countWait_only s w c
  rw [hm]
theorem noteDelay_arrived (s : State) (k c : Nat) : (s.noteDelay k c).syn.arrived = s.syn.arrived := by
  unfold State.noteDelay
  split <;> rfl
/-- R444: the release of a wait changes no arrivals. -/
theorem releaseQ_arrived (s : State) (w : Waiter) : (s.releaseQ w).syn.arrived = s.syn.arrived := by
  unfold State.releaseQ
  rw [noteDelay_arrived, countWait_syn]
  rfl
theorem retest_arrived (s : State) (b : Nat) : (s.retest b).syn.arrived = s.syn.arrived := by
  unfold State.retest
  split
  · exact each_keeps (fun t => t.syn.arrived = s.syn.arrived) _ _ s rfl fun t w h => (releaseQ_arrived t w).trans h
  · rfl

/-- R449: queue k is noted among the arrivals of the round of group counter b. -/
def State.arrive (s : State) (b k : Nat) : State :=
  let c := s.carry b (some k)
  { c with syn := { c.syn with arrived := s.syn.arrived.write [] (s.gslot b) (s.syn.arrived.look [] (s.gslot b) ++ [k]) } }

theorem arrive_arrived (s : State) (b k : Nat) :
    (s.arrive b k).syn.arrived.look [] (s.gslot b) = s.syn.arrived.look [] (s.gslot b) ++ [k] :=
  Sparse.look_write_self _ _ _ _
/-- R449: the first arrival of a queue of the mask is noted and counted, and may complete the slot. -/
theorem signal_of_first_arrival {s : State} {b k : Nat} (hen : s.on F.SYN_CTRL_EN = true) (hv : s.ctrValid b = true)
    (hg : s.isGroup b = true) (hm : s.inMask (s.gslot b) k = true) (hk : k ∉ s.syn.arrived.look [] (s.gslot b)) :
    s.signal b (some k) = ((s.arrive b k).bump b).groupComplete (s.gslot b) b := by
  have hgslot : (s.carry b (some k)).gslot b = s.gslot b := rfl
  have hmask : (s.carry b (some k)).inMask (s.gslot b) k = true := hm
  have hfirst : ((s.carry b (some k)).syn.arrived.look [] (s.gslot b)).contains k = false := by simpa [carry_arrived] using hk
  simp only [State.signal, hen, hv, hg, hgslot, hmask, hfirst, Bool.not_true, Bool.false_eq_true, if_true, if_false]
  rfl

/-- Adding one to a count changes no mask. -/
theorem bump_maskCount (s : State) (g : Nat) (b : Fin 4096) : (s.bump b.val).maskCount g = s.maskCount g := by
  have hmask : ∀ j, (s.bump b.val).get (F.SYN_GRP_MASK_MASK g j) = s.get (F.SYN_GRP_MASK_MASK g j) := fun j =>
    (bump_regsBut s b.val).get (by
      have hb := b.isLt
      simp only [F.SYN_GRP_MASK_MASK, R.SYN_BAR_CNT, R.SYN_EVENT, List.mem_cons, List.not_mem_nil, or_false, not_or]
      omega)
  simp only [State.maskCount, State.inMask, hmask]
theorem bump_get_grpCtrl (s : State) (b : Nat) {g : Nat} {f : RF} (hf : f.off = R.SYN_GRP_CTRL g) : (s.bump b).get f = s.get f :=
  (bump_regsBut s b).get (by rw [hf]; simp [grpCtrl_ne_barCnt, grpCtrl_ne_event])

/-- R449: without TREE, the slot is released when its count is the number of its mask bits. -/
theorem groupComplete_untreed {s : State} {g : Nat} (b : Nat) (htree : s.on (F.SYN_GRP_CTRL_TREE g) = false) :
    s.groupComplete g b =
      if s.get (F.SYN_BAR_CNT_COUNT b) = s.maskCount g then (s.set (F.SYN_GRP_CTRL_PHASE g) 2).retest b else s := by
  simp [State.groupComplete, htree]
section
variable {s : State} {g b : Nat} (htree : s.on (F.SYN_GRP_CTRL_TREE g) = false)
include htree
/-- R449: the completion of a slot keeps the count that it is tested against. -/
theorem groupComplete_countKept : CountKept b s (s.groupComplete g b) := by
  rw [groupComplete_untreed b htree]
  split
  · have hset : RegsBut [R.SYN_GRP_CTRL g] s (s.set (F.SYN_GRP_CTRL_PHASE g) 2) := regsBut_set s _ 2 (.head _)
    exact hset.countKept.trans (retest_keeps _ b).countKept
  · exact (regsBut_refl [R.SYN_GRP_CTRL g] s).countKept
theorem groupComplete_phase : (s.groupComplete g b).get (F.SYN_GRP_CTRL_PHASE g) =
    if s.get (F.SYN_BAR_CNT_COUNT b) = s.maskCount g then 2 else s.get (F.SYN_GRP_CTRL_PHASE g) := by
  rw [groupComplete_untreed b htree]
  split
  · rw [getO_of (retest_keeps _ b) _ (grpCtrl_ne_barCnt g b)]
    exact State.get_set_lt _ _ _ (by simp [F.SYN_GRP_CTRL_PHASE]) (by simp [F.SYN_GRP_CTRL_PHASE])
  · rfl
theorem groupComplete_regsBut : RegsBut [R.SYN_BAR_CNT b, R.SYN_GRP_CTRL g] s (s.groupComplete g b) := by
  rw [groupComplete_untreed b htree]
  split
  · have hset : RegsBut [R.SYN_BAR_CNT b, R.SYN_GRP_CTRL g] s (s.set (F.SYN_GRP_CTRL_PHASE g) 2) := regsBut_set s _ 2 (.tail _ (.head _))
    exact hset.trans ((retest_keeps _ b).regsBut.mono (by simp))
  · exact regsBut_refl _ s
theorem groupComplete_mem : (s.groupComplete g b).mem = s.mem := by
  rw [groupComplete_untreed b htree]
  split
  · exact (retest_keeps _ b).2.2
  · rfl
theorem groupComplete_arrived : (s.groupComplete g b).syn.arrived = s.syn.arrived := by
  rw [groupComplete_untreed b htree]
  split
  · exact retest_arrived _ b
  · rfl
end

/-! ### Subtracting -/

/-- R441: the count less v, zero with UNDER set where that would go below zero: a subtraction without the end of the round
and the test of the waits that follow. -/
def State.lower (s : State) (b v : Nat) : State :=
  let s1 := s.set (F.SYN_BAR_CNT_COUNT b) (s.get (F.SYN_BAR_CNT_COUNT b) - v)
  if s.get (F.SYN_BAR_CNT_COUNT b) < v then (s1.raise (F.SYN_BAR_CNT_UNDER b)).raise F.SYN_EVENT_UNDER else s1

theorem subtract_eq (s : State) (b v : Nat) : s.subtract b v = ((s.lower b v).endRound b).retest b := rfl
theorem lower_of_lt {s : State} {b v : Nat} (h : s.get (F.SYN_BAR_CNT_COUNT b) < v) :
    s.lower b v = ((s.set (F.SYN_BAR_CNT_COUNT b) (s.get (F.SYN_BAR_CNT_COUNT b) - v)).raise (F.SYN_BAR_CNT_UNDER b)).raise F.SYN_EVENT_UNDER :=
  if_pos h
theorem lower_of_le {s : State} {b v : Nat} (h : v ≤ s.get (F.SYN_BAR_CNT_COUNT b)) :
    s.lower b v = s.set (F.SYN_BAR_CNT_COUNT b) (s.get (F.SYN_BAR_CNT_COUNT b) - v) :=
  if_neg (Nat.not_lt.2 h)
theorem lower_count (s : State) (b v : Nat) : (s.lower b v).get (F.SYN_BAR_CNT_COUNT b) = s.get (F.SYN_BAR_CNT_COUNT b) - v := by
  have hset : (s.set (F.SYN_BAR_CNT_COUNT b) (s.get (F.SYN_BAR_CNT_COUNT b) - v)).get (F.SYN_BAR_CNT_COUNT b) = s.get (F.SYN_BAR_CNT_COUNT b) - v :=
    State.get_set_lt _ _ _ (by simp [F.SYN_BAR_CNT_COUNT]) (Nat.lt_of_le_of_lt (Nat.sub_le _ _) (State.get_lt s _))
  rcases Nat.lt_or_ge (s.get (F.SYN_BAR_CNT_COUNT b)) v with h | h
  · rw [lower_of_lt h, State.raise, State.get_set_off _ _ (barCnt_ne_event b), State.raise,
      State.get_set_bits _ _ (by simp [F.SYN_BAR_CNT_COUNT]) (.inl (by simp [F.SYN_BAR_CNT_COUNT, F.SYN_BAR_CNT_UNDER])), hset]
  · rw [lower_of_le h, hset]
theorem lower_regsBut (s : State) (b v : Nat) : RegsBut [R.SYN_BAR_CNT b, R.SYN_EVENT] s (s.lower b v) := by
  have hset := regsBut_set (L := [R.SYN_BAR_CNT b, R.SYN_EVENT]) s (F.SYN_BAR_CNT_COUNT b) (s.get (F.SYN_BAR_CNT_COUNT b) - v) (.head _)
  rcases Nat.lt_or_ge (s.get (F.SYN_BAR_CNT_COUNT b)) v with h | h
  · rw [lower_of_lt h]
    exact (hset.trans (regsBut_set _ (F.SYN_BAR_CNT_UNDER b) 1 (.head _))).trans (regsBut_set _ F.SYN_EVENT_UNDER 1 (.tail _ (.head _)))
  · rw [lower_of_le h]
    exact hset
theorem lower_mem (s : State) (b v : Nat) : (s.lower b v).mem = s.mem := by
  rcases Nat.lt_or_ge (s.get (F.SYN_BAR_CNT_COUNT b)) v with h | h
  · rw [lower_of_lt h]; rfl
  · rw [lower_of_le h]; rfl
theorem lower_gslot (s : State) (b v : Nat) : (s.lower b v).gslot b = s.gslot b :=
  (lower_regsBut s b v).get (f := F.SYN_BAR_CFG_GSLOT b) (by
    change R.SYN_BAR_CFG b ∉ _
    simp [barCfg_ne_barCnt, barCfg_ne_event])
/-- R441: where the count would go below zero, UNDER stands in both places. -/
theorem CountKept.lower_under {b v : Nat} {s t : State} (h : CountKept b (s.lower b v) t) (hlt : s.get (F.SYN_BAR_CNT_COUNT b) < v) :
    t.on (F.SYN_BAR_CNT_UNDER b) = true ∧ t.on F.SYN_EVENT_UNDER = true := by
  rw [h.under, h.on_event rfl, lower_of_lt hlt]
  constructor
  · rw [State.raise, State.on_set_off _ _ (barCnt_ne_event b)]
    exact State.on_set_one _ _ (by simp [F.SYN_BAR_CNT_UNDER]) Nat.one_pos
  · exact State.on_set_one _ _ (by decide) (by decide)
/-- R441: else the flags are as they were. -/
theorem CountKept.lower_not_under {b v : Nat} {s t : State} (h : CountKept b (s.lower b v) t) (hle : v ≤ s.get (F.SYN_BAR_CNT_COUNT b)) :
    t.on (F.SYN_BAR_CNT_UNDER b) = s.on (F.SYN_BAR_CNT_UNDER b) ∧ t.reg R.SYN_EVENT = s.reg R.SYN_EVENT := by
  rw [h.under, h.event, lower_of_le hle]
  constructor
  · exact State.on_set_bits _ _ (by simp [F.SYN_BAR_CNT_UNDER]) (.inr (by simp [F.SYN_BAR_CNT_UNDER, F.SYN_BAR_CNT_COUNT]))
  · exact State.reg_set_ne _ _ (barCnt_ne_event b).symm

/-- R449: the end of a round is an update of the counter's slot. -/
theorem endRound_regsBut (s : State) (b : Nat) : RegsBut [R.SYN_GRP_CTRL (s.gslot b)] s (s.endRound b) :=
  fun o ho => (endRound_keeps s b).1 o (List.ne_of_not_mem_cons ho)
theorem subtract_countKept (s : State) (b v : Nat) : CountKept b (s.lower b v) (s.subtract b v) :=
  (endRound_regsBut _ b).countKept.trans (retest_keeps _ b).countKept
theorem subtract_regsBut (s : State) (b v : Nat) :
    RegsBut [R.SYN_BAR_CNT b, R.SYN_EVENT, R.SYN_GRP_CTRL (s.gslot b)] s (s.subtract b v) := by
  have hround := endRound_regsBut (s.lower b v) b
  rw [lower_gslot] at hround
  rw [subtract_eq]
  exact (((lower_regsBut s b v).mono (by simp)).trans (hround.mono (by simp))).trans ((retest_keeps _ b).regsBut.mono (by simp))
theorem subtract_mem (s : State) (b v : Nat) : (s.subtract b v).mem = s.mem := by
  rw [subtract_eq, (retest_keeps _ b).2.2, (endRound_keeps _ b).2, lower_mem]

/-! ### The commands -/

theorem exec_barrierSignal {s : State} (hclk : s.clocked = true) (b : Fin 4096) (k : Option (BitVec 9)) :
    exec (.barrierSignal b k) s = s.answer (s.signal b.val (k.map BitVec.toNat)) :=
  ticked_on s (fun t => t.signal b.val (k.map BitVec.toNat)) hclk
theorem exec_synSignal {s : State} (hbus : s.busOn = true) (who : Requester) (val : Word) :
    exec (.synSignal who val) s = s.answer (s.signal (val.toNat % 4096) none) := by
  have hwrite := write_SYN_SIGNAL s who.val val.toNat hbus
  rw [Nat.mod_eq_of_lt val.isLt] at hwrite
  exact congrArg s.answer hwrite
theorem exec_barrierSubtract {s : State} (hbus : s.busOn = true) (who : Requester) (b : Fin 4096) (val : Word) :
    exec (.barrierSubtract who b val) s = s.answer (s.subtract b.val (val.toNat % 2 ^ 16)) := by
  have hwrite := write_SYN_BAR_SUB s who.val b val.toNat hbus
  rw [Nat.mod_eq_of_lt val.isLt] at hwrite
  exact congrArg s.answer hwrite
/-- R441: both ways to signal counter b answer what its signal leaves. -/
theorem exec_signals {c : Instr} {b : Fin 4096} {s : State}
    (hc : (∃ k, c = .barrierSignal b k ∧ s.clocked = true) ∨
      (∃ (who : Requester) (val : Word), c = .synSignal who val ∧ val.toNat % 4096 = b.val ∧ s.busOn = true)) :
    ∃ k, exec c s = s.answer (s.signal b.val k) := by
  rcases hc with ⟨k, rfl, hclk⟩ | ⟨who, val, rfl, hval, hbus⟩
  · exact ⟨_, exec_barrierSignal hclk b k⟩
  · exact ⟨none, hval ▸ exec_synSignal hbus who val⟩

/-- Settles O21: each command is one change of the count (`State.bump` or `State.lower`) and then steps that keep the count,
its flags and SYN_EVENT (`CountKept`). -/
theorem signalsAndSubtractionsCount : Obligations.SignalsAndSubtractionsCount := by
  unfold Obligations.SignalsAndSubtractionsCount
  refine ⟨?count, ?group, ?subtract⟩
  case count =>
    intro b s hen hv hg c hc
    obtain ⟨k, hexec⟩ := exec_signals hc
    rw [signal_count s b.val k hen hv hg] at hexec
    obtain ⟨t, hnext, ht⟩ := answer_agree s (((s.carry b.val k).bump b.val).retest b.val)
    have hretest := retest_keeps ((s.carry b.val k).bump b.val) b.val
    have hkept := hretest.countKept.trans ht.countKept
    exact ⟨t, hexec.trans hnext, hkept.count.trans (bump_count _ b.val b.isLt), hkept.bump_full, hkept.bump_not_full,
      ((bump_regsBut _ b.val).trans (hretest.regsBut.mono (by simp))).agree ht,
      ht.mem.trans (hretest.2.2.trans (bump_mem _ b.val))⟩
  case group =>
    intro b k g s hclk hen hv hg hslot hm hk htree
    subst hslot
    obtain ⟨u, hu⟩ : ∃ u, u = (s.arrive b.val k.toNat).bump b.val := ⟨_, rfl⟩
    have hexec := exec_barrierSignal hclk b (some k)
    rw [Option.map_some, signal_of_first_arrival hen hv hg hm hk, ← hu] at hexec
    obtain ⟨t, hnext, ht⟩ := answer_agree s (u.groupComplete (s.gslot b.val) b.val)
    have htree' : u.on (F.SYN_GRP_CTRL_TREE (s.gslot b.val)) = false := by
      rw [hu, State.on, bump_get_grpCtrl _ _ rfl]; exact htree
    have hkept := (groupComplete_countKept (b := b.val) htree').trans ht.countKept
    have hregs := (groupComplete_regsBut (b := b.val) htree').agree ht
    have hmaskCount : u.maskCount (s.gslot b.val) = s.maskCount (s.gslot b.val) := by rw [hu, bump_maskCount]; rfl
    have hphase : u.get (F.SYN_GRP_CTRL_PHASE (s.gslot b.val)) = s.get (F.SYN_GRP_CTRL_PHASE (s.gslot b.val)) := by
      rw [hu, bump_get_grpCtrl _ _ rfl]; rfl
    refine ⟨t, hexec.trans hnext, ?_, ?_, ?_, ?_, ?_, ?_⟩
    · rw [hkept.count, hu, bump_count _ _ b.isLt]; rfl
    · rw [hu] at hkept; exact hkept.bump_full
    · rw [ht.syn, groupComplete_arrived htree', hu, bump_syn, arrive_arrived]
    · rw [ht.get, groupComplete_phase htree', ← hkept.count, hmaskCount, hphase]
    · have hbump : RegsBut [R.SYN_BAR_CNT b.val, R.SYN_EVENT] s u := hu ▸ bump_regsBut (s.arrive b.val k.toNat) b.val
      exact (hbump.mono (by simp)).trans (hregs.mono (by simp))
    · rw [ht.mem, groupComplete_mem htree', hu, bump_mem]; rfl
  case subtract =>
    intro who b val s hbus
    obtain ⟨t, hnext, ht⟩ := answer_agree s (s.subtract b.val (val.toNat % 2 ^ 16))
    have hkept := (subtract_countKept s b.val (val.toNat % 2 ^ 16)).trans ht.countKept
    have hcount := hkept.count.trans (lower_count s b.val (val.toNat % 2 ^ 16))
    exact ⟨t, (exec_barrierSubtract hbus who b val).trans hnext, hcount,
      fun hlt => ⟨hcount.trans (Nat.sub_eq_zero_of_le hlt.le), hkept.lower_under hlt⟩, hkept.lower_not_under,
      (subtract_regsBut s b.val _).agree ht, ht.mem.trans (subtract_mem s b.val _)⟩

end Sys2Proof.Machine
end

section
/-! PROOFS. Interrupt lines along steps: every step ends with `State.settle`, which records the causes that then hold and
drives ALERT_N from them (18_host_and_far_memory_links.md R561, R562). -/

namespace Sys2Proof.Machine

/-- Causes and ALERT_N come from registers, so the queue of waiting commands has no part in whether they are current. -/
theorem IrqCurrent.withPending {s : State} (h : IrqCurrent s) (cs : List Instr) : IrqCurrent { s with pending := cs } := h

theorem step_of_pending_nil {s : State} (h : s.pending = []) : step s = .next s.idle := by
  simp only [step, h]
theorem step_of_pending_cons {s : State} {c : Instr} {cs : List Instr} (h : s.pending = c :: cs) :
    step s = exec c { s with pending := cs } := by
  simp only [step, h]

/-- R561, R562: an engine cycle without a command ends with current interrupt lines. -/
theorem idle_irqCurrent (s : State) : IrqCurrent s.idle := (settle_current _).withPending s.pending
/-- R561, R562: every command ends with current interrupt lines, whether or not its unit's clocks run. -/
theorem exec_irqCurrent {c : Instr} {s t : State} (h : exec c s = .next t) : IrqCurrent t := by
  obtain ⟨u, hu⟩ := exec_answers c s
  obtain ⟨v, hv, -, hcurrent⟩ := answer_pending s u
  have hvt : v = t := Host.Outcome.next.inj (hv.symm.trans (hu.symm.trans h))
  exact hvt ▸ hcurrent
/-- R561, R562: a step ends with current interrupt lines, also from a state in which they were not. -/
theorem step_irqCurrent {s t : State} (h : step s = .next t) : IrqCurrent t := by
  cases hp : s.pending with
  | nil =>
    have hidle : s.idle = t := Host.Outcome.next.inj ((step_of_pending_nil hp).symm.trans h)
    exact hidle ▸ idle_irqCurrent s
  | cons c cs => exact exec_irqCurrent ((step_of_pending_cons hp).symm.trans h)

/-- Settles O4: a step leaves current interrupt lines whatever they were before it (`step_irqCurrent`), so the hypothesis
on s is not used. -/
theorem stepKeepsIrqCurrent : Obligations.StepKeepsIrqCurrent := by
  unfold Obligations.StepKeepsIrqCurrent
  intro s t _ hstep
  exact step_irqCurrent hstep

end Sys2Proof.Machine
end

section
/-! PROOFS. The machine as a whole: a step runs the command at the front, an empty queue lets one engine cycle pass, and every
command answers (00_scope.md, log 3). -/

namespace Sys2Proof.Machine

/-- Settles O1: it is the step's equation on a queue with a front. -/
theorem stepRunsFront : Obligations.StepRunsFront := by
  unfold Obligations.StepRunsFront
  intro c rest s hpending
  exact step_of_pending_cons hpending

/-- An engine cycle without a command counts one cycle and leaves the empty queue empty. -/
theorem idle_cycle_pending (s : State) : s.idle.cycle = s.cycle + 1 ∧ s.idle.pending = s.pending := ⟨rfl, rfl⟩

/-- Settles O2: `idle_only` says what a quiet engine cycle changes, and with the idle counters off only the cycle count. -/
theorem emptyQueueIdles : Obligations.EmptyQueueIdles := by
  unfold Obligations.EmptyQueueIdles
  intro s hpending
  obtain ⟨hcycle, hqueue⟩ := idle_cycle_pending s
  refine ⟨s.idle, step_of_pending_nil hpending, hqueue.trans hpending, hcycle, fun hquiet => ?_⟩
  have hclockedQuiet : s.clocked = true → s.Quiet := fun hclk => hquiet.resolve_left (by simp [hclk])
  obtain ⟨m, y, n, hidle, hsame⟩ := idle_only s hclockedQuiet
  rw [hidle]
  refine ⟨rfl, rfl, fun hoff => ?_⟩
  obtain ⟨rfl, rfl, rfl⟩ := hsame (by rcases hoff with h | h <;> simp [h])
  rfl

/-- Settles O3: no arm of `exec` faults or refuses, and an answer keeps the queue. -/
theorem everyCommandAnswers : Obligations.EveryCommandAnswers := by
  unfold Obligations.EveryCommandAnswers
  intro c s
  obtain ⟨u, hu⟩ := exec_answers c s
  obtain ⟨t, ht, hqueue, -⟩ := answer_pending s u
  exact ⟨t, hu.trans ht, hqueue⟩

end Sys2Proof.Machine
end

section
/-! PROOFS. The register bus: what an access does that is refused, denied, a plain write, or a read that clears
(17_register_interface_and_map.md R543, R546, R547, R549, R550). -/

namespace Sys2Proof.Machine

/-! ### Refused and denied accesses -/

/-- R543: an access of another width or off its alignment is refused. -/
theorem busShape_false {off len : Nat} (h : ¬ (off % 4 = 0 ∧ (len = 4 ∨ len = 8))) : busShape off len = false := by
  simpa [busShape] using h
theorem busWrite_refused {s : State} {who off len v : Nat} (hb : s.busOn = true) (h : busShape off len = false) :
    s.busWrite who off len v = s.badAccess off := by
  simp [State.busWrite, hb, h]
theorem busReadOut_refused {s : State} {who off len : Nat} (hb : s.busOn = true) (h : busShape off len = false) :
    s.busReadOut who off len = { s.badAccess off with
      bus := { (s.badAccess off).bus with rdata := (s.badAccess off).bus.rdata.write 0 who 0 } } := by
  simp [State.busReadOut, State.busRead, hb, h]

/-- Settles O8: an access of a refused shape is `State.badAccess`, whose offset is the access's 26-bit one. -/
theorem badAccessIsRefused : Obligations.BadAccessIsRefused := by
  unfold Obligations.BadAccessIsRefused
  intro who off len val s hb hshape
  have hbad := busShape_false hshape
  have hwrite := busWrite_refused (who := who.val) (v := val.toNat) hb hbad
  have hread := busReadOut_refused (who := who.val) hb hbad
  rw [State.badAccess, Nat.mod_eq_of_lt off.isLt] at hwrite hread
  exact ⟨gives_answer rfl hwrite, gives_answer rfl hread⟩

section
variable {s : State} {who off : Nat} {r : RegRow} (hb : s.busOn = true) (ha : off % 4 = 0) (hr : regRow? off = some r)
include hb ha hr

/-- R549: what a requester that is not secure gets from a secure-only register. -/
theorem busWrite_denied (v : Nat) (hso : secureOnly r off = true) (hns : s.isSecure who = false) : s.busWrite who off 4 v = s.denied := by
  simp [State.busWrite, hb, busShape, ha, State.write32, hr, hso, hns]
theorem busReadOut_denied (hso : secureOnly r off = true) (hns : s.isSecure who = false) :
    s.busReadOut who off 4 = { s.denied with bus := { s.denied.bus with rdata := s.denied.bus.rdata.write 0 who 0 } } := by
  simp [State.busReadOut, State.busRead, hb, busShape, ha, State.read32, hr, hso, hns]
end

/-- A 4-byte read at its alignment returns what the 32-bit read returns. -/
theorem busReadOut_word {s : State} {who off : Nat} (hb : s.busOn = true) (ha : off % 4 = 0) : s.busReadOut who off 4 =
    { (s.read32 who off).2 with bus := { (s.read32 who off).2.bus with rdata := (s.read32 who off).2.bus.rdata.write 0 who (s.read32 who off).1 } } := by
  simp [State.busReadOut, State.busRead, hb, busShape, ha]

/-- Settles O9: a denied access is `State.denied`, and its read returns zero. -/
theorem deniedAccess : Obligations.DeniedAccess := by
  unfold Obligations.DeniedAccess
  intro who off val r s hb ha hr hso hns
  exact ⟨gives_answer rfl (busWrite_denied hb ha hr _ hso hns), gives_answer rfl (busReadOut_denied hb ha hr hso hns)⟩

/-! ### Plain writes -/

/-- R546: bit i of a masked word is the written one under the mask and the old one outside it. -/
theorem masked_getLsbD (x v m : Word) (i : Nat) (hi : i < 32) :
    ((x &&& ~~~m) ||| (v &&& m)).getLsbD i = if m.getLsbD i then v.getLsbD i else x.getLsbD i := by
  rw [BitVec.getLsbD_or, BitVec.getLsbD_and, BitVec.getLsbD_and, BitVec.getLsbD_not]
  cases hm : m.getLsbD i <;> simp [hi]

/-- A write of a register that makes no unit act sets its writable bits. -/
theorem act_of_inert {s : State} {who off v : Nat} {r : RegRow} (h : Inert off) (hr : regRow? off = some r) :
    s.act who off v none = (s.setMasked off v r.wr).noteChange off := by
  obtain ⟨hacts, hregion, hmargin⟩ := h
  obtain ⟨hhearth, hquad, hcore, hflue, hsyn, hsys, -⟩ := hacts s who v
  have hplain : s.plainPair off v none = s.setMasked off v r.wr := by
    simp only [State.plainPair, State.plainWrite, hr]
  obtain ⟨-, -, -, -, -, -, hbase⟩ := hacts (s.setMasked off v r.wr) who v
  have hafter : (s.setMasked off v r.wr).afterWrite off = s.setMasked off v r.wr := by
    rw [State.afterWrite, if_neg hregion, if_neg (by simpa using hmargin), hbase]
  simp only [State.act, hhearth, hquad, hcore, hflue, hsyn, hsys, Option.orElse, hplain, hafter]

/-- Settles O7: the write reduces to `State.setMasked` under the writable bits of the row. -/
theorem registerWriteStores : Obligations.RegisterWriteStores := by
  unfold Obligations.RegisterWriteStores
  intro who off val r s hb ha hr hs hhalf hposted hinert
  have hwrite : s.busWrite who.val off.toNat 4 val.toNat = (s.setMasked off.toNat (val.toNat % 2 ^ 32) r.wr).noteChange off.toNat := by
    rw [busWrite_whole s who.val off.toNat val.toNat r hb ha hr hs hhalf, applyWrite_acts _ _ _ _ _ _ hposted, act_of_inert hinert hr]
  simp only [State.setMasked, hr] at hwrite
  refine ⟨_, fun i hi => ?_, gives_answer rfl hwrite⟩
  have hv : (BitVec.ofNat 32 (val.toNat % 2 ^ 32)).getLsbD i = val.getLsbD i := by
    rw [BitVec.getLsbD_ofNat, Nat.testBit_mod_two_pow]
    simp [hi, BitVec.getLsbD]
  have hm : (BitVec.ofNat 32 (r.wr &&& r.named)).getLsbD i = (r.wr.testBit i && r.named.testBit i) := by
    rw [BitVec.getLsbD_ofNat, Nat.testBit_and]
    simp [hi]
  rw [masked_getLsbD _ _ _ _ hi, hv, hm]

/-! ### Reads -/

section
variable {s : State} {who off : Nat} {r : RegRow} (hr : regRow? off = some r) (hs : secureOnly r off = false ∨ s.isSecure who = true)
include hr hs

/-- R547: an allowed read of a register that is no half of a pair. -/
theorem read32_whole (hhalf : r.half = 0) : s.read32 who off = (s.shown r who off, s.readClears r who off) := by
  have hallowed : (secureOnly r off && !s.isSecure who) = false := by rcases hs with h | h <;> simp [h]
  simp [State.read32, hr, hallowed, hhalf]
/-- R550: an allowed read of a _LO word latches the _HI word for the requester. -/
theorem read32_low {h : RegRow} (hh : regRow? (off + 4) = some h) (hhalf : r.half = 1) :
    s.read32 who off = (s.shown r who off,
      ((s.setShadow who (some (off, s.shown h who (off + 4)))).readClears r who off).readClears h who (off + 4)) := by
  have hallowed : (secureOnly r off && !s.isSecure who) = false := by rcases hs with h | h <;> simp [h]
  simp [State.read32, hr, hh, hallowed, hhalf]
/-- R550: an allowed read of a _HI word whose pair the requester's read shadow holds. -/
theorem read32_high {o hi : Nat} (hhalf : r.half = 2) (hshadow : s.bus.shadow.look none who = some (o, hi)) (ho : o + 4 = off) :
    s.read32 who off = (hi, s) := by
  have hallowed : (secureOnly r off && !s.isSecure who) = false := by rcases hs with h | h <;> simp [h]
  simp [State.read32, hr, hallowed, hhalf, hshadow, ho]
end

/-- R547: a plain read of a register without RC bits changes nothing. -/
theorem readClears_none {s : State} {r : RegRow} {who off : Nat} (h : ClearsPlainly who off) (hrc : r.rc = 0) :
    s.readClears r who off = s := by
  rw [clears_plain s r who off h, if_pos hrc]

/-- Settles O10: the read's value is `State.shown`, and `clears_plain` says what it clears. -/
theorem readClears : Obligations.ReadClears := by
  unfold Obligations.ReadClears
  intro who off r s hb ha hr hs hhalf hplain v u
  have hu : (s.read32 who.val off.toNat) = (v, u) := by
    rw [read32_whole hr hs hhalf, clears_plain _ _ _ _ hplain]
  have hbus : u.bus = s.bus := by
    change (if r.rc = 0 then s else _).bus = s.bus
    split <;> rfl
  refine gives_answer rfl ((busReadOut_word hb ha).trans ?_)
  rw [hu, hbus]

/-- Settles O11: the _LO read latches the _HI word of the same state, and the _HI read returns what was latched. -/
theorem pairReadIsOneMoment : Obligations.PairReadIsOneMoment := by
  unfold Obligations.PairReadIsOneMoment
  intro who off offHi r h s hb ha hoff hr hh hlow hhigh hrcLow hrcHigh hs hplainLow hplainHigh
  refine ⟨?_, fun t htb hts hi hshadow => ?_⟩
  · have hread := read32_low hr hs hh hlow
    rw [readClears_none hplainLow hrcLow, readClears_none hplainHigh hrcHigh] at hread
    refine gives_answer (i := .pairLoRead who off) rfl ((busReadOut_word hb ha).trans ?_)
    rw [hread]
    rfl
  · rw [← hoff] at hh hts
    refine gives_answer rfl ((busReadOut_word htb (by omega)).trans ?_)
    rw [read32_high hh hts hhigh hshadow hoff.symm]

end Sys2Proof.Machine
end

section
/-! PROOFS. Reads that clear by a rule of their own, and the registers after reset (03_hearth_matrix_engines.md R87,
05_training_numerics.md R166, 17_register_interface_and_map.md R547). -/

namespace Sys2Proof.Machine

/-- Registers after reset read what their tables give, so the causes and ALERT_N recorded at reset are current. -/
theorem reset_irqCurrent : IrqCurrent State.reset := by
  unfold IrqCurrent
  decide +kernel

/-- Settles O6: every register named reads the reset value of its row. -/
theorem resetState : Obligations.ResetState := by
  unfold Obligations.ResetState
  refine ⟨reset_irqCurrent, rfl, rfl, rfl, ?_, ?_, ?_⟩
  · decide +kernel
  · decide +kernel
  · decide +kernel

/-! ### The pace register -/

/-- R87: HRT_PACE shows its stored word. -/
theorem shown_HRT_PACE (s : State) (who : Nat) (p : Fin 136) :
    s.shown ⟨0x800028, 136, 0x1000, 1, 0x4, 0xFFFF, 0x0, 0xFF00, 0x0, 0xFF00, false, false, 0⟩ who (R.HRT_PACE p.val) =
      (s.reg (R.HRT_PACE p.val)).toNat % 2 ^ 16 := by
  have hp := p.isLt
  have e : R.HRT_PACE p.val = 0x800028 + 0x1000 * p.val := rfl
  have hwindow : s.liveWindow (R.HRT_PACE p.val) = none := by
    have h1 : 0x800000 ≤ R.HRT_PACE p.val ∧ R.HRT_PACE p.val < 0x888000 := by omega
    have h2 : R.HRT_PACE p.val % 0x1000 = 0x28 := by omega
    simp [State.liveWindow, h1, h2]
  have hlive : s.liveReg who (s.isSecure who) (R.HRT_PACE p.val) = (s.reg (R.HRT_PACE p.val)).toNat := by
    rw [State.liveReg, if_neg (by simp only [R.GEN_WHOAMI]; omega), if_neg (by simp only [R.GEN_TIME_LO]; omega),
      if_neg (by simp only [R.GEN_TIME_HI]; omega), if_neg (by simp only [R.ERR_SRC]; omega), if_neg (by omega), hwindow]
    rfl
  simp only [State.shown, hlive, Nat.and_zero, Nat.sub_zero]
  exact Nat.and_two_pow_sub_one_eq_mod _ 16

/-- R87: a read of HRT_PACE restarts its MIN. -/
theorem readClears_HRT_PACE (s : State) (r : RegRow) (who : Nat) (p : Fin 136) :
    s.readClears r who (R.HRT_PACE p.val) = s.set (F.HRT_PACE_MIN p.val) 0xFF := by
  have hp := p.isLt
  have e : R.HRT_PACE p.val = 0x800028 + 0x1000 * p.val := rfl
  have hindex : (R.HRT_PACE p.val - 0x800000) / 0x1000 = p.val := by omega
  rw [State.readClears, if_neg (by omega), if_pos (by omega), hindex]

theorem read32_HRT_PACE (s : State) (who : Nat) (p : Fin 136) :
    s.read32 who (R.HRT_PACE p.val) = ((s.reg (R.HRT_PACE p.val)).toNat % 2 ^ 16, s.set (F.HRT_PACE_MIN p.val) 0xFF) := by
  have hp := p.isLt
  have e : R.HRT_PACE p.val = 0x800028 + 0x1000 * p.val := rfl
  have hopen : secureOnly ⟨0x800028, 136, 0x1000, 1, 0x4, 0xFFFF, 0x0, 0xFF00, 0x0, 0xFF00, false, false, 0⟩ (R.HRT_PACE p.val) = false := by
    simp only [secureOnly, Bool.false_or, Bool.and_eq_false_iff, decide_eq_false_iff_not]
    left; omega
  rw [read32_whole (row_HRT_PACE p) (.inl hopen) rfl, shown_HRT_PACE, readClears_HRT_PACE]

/-! ### The histogram bins -/

/-- R166: NUM_HBIN shows the saturating sum of the four copies. -/
theorem read32_NUM_HBIN (s : State) (who : Nat) (i : Fin 64) :
    s.read32 who (R.NUM_HBIN i.val) = (s.binSum i.val, s.binClear i.val) := by
  have hi := i.isLt
  have e : R.NUM_HBIN i.val = 0x1500400 + 0x4 * i.val := rfl
  have hopen : secureOnly ⟨0x1500400, 64, 0x4, 1, 0x4, 0xFFFFFFFF, 0x0, 0xFFFFFFFF, 0x0, 0x0, false, false, 0⟩ (R.NUM_HBIN i.val) = false := by
    simp only [secureOnly, Bool.false_or, Bool.and_eq_false_iff, decide_eq_false_iff_not]
    left; omega
  have hindex : (R.NUM_HBIN i.val - 0x1500400) / 4 = i.val := by omega
  have hlive : s.liveReg who (s.isSecure who) (R.NUM_HBIN i.val) = s.binSum i.val := by
    rw [State.liveReg, if_neg (by simp only [R.GEN_WHOAMI]; omega), if_neg (by simp only [R.GEN_TIME_LO]; omega),
      if_neg (by simp only [R.GEN_TIME_HI]; omega), if_neg (by simp only [R.ERR_SRC]; omega), if_pos (by omega), hindex]
  have hsum : s.binSum i.val < 2 ^ 32 := Nat.lt_of_le_of_lt (Nat.min_le_left _ _) (by decide)
  have hshown : s.binSum i.val &&& 0xFFFFFFFF = s.binSum i.val :=
    (Nat.and_two_pow_sub_one_eq_mod _ 32).trans (Nat.mod_eq_of_lt hsum)
  have hclears : s.readClears ⟨0x1500400, 64, 0x4, 1, 0x4, 0xFFFFFFFF, 0x0, 0xFFFFFFFF, 0x0, 0x0, false, false, 0⟩ who (R.NUM_HBIN i.val) =
      s.binClear i.val := by
    rw [State.readClears, if_pos (by omega), hindex]
  rw [read32_whole (row_NUM_HBIN i) (.inl hopen) rfl, hclears]
  simp only [State.shown, hlive, hshown, Nat.and_zero, Nat.sub_zero]

/-- R166: a bin whose four copies are zero sums to zero. -/
theorem binSum_zero {s : State} {i : Nat}
    (h : ∀ q < 4, s.num.bins.look 0 (binKey q (s.get F.NUM_HSEL_SET) (s.get F.NUM_HSEL_KIND) i) = 0) : s.binSum i = 0 := by
  have hzero : ((List.range 4).map fun q => s.num.bins.look 0 (binKey q (s.get F.NUM_HSEL_SET) (s.get F.NUM_HSEL_KIND) i)).sum = 0 :=
    List.sum_eq_zero fun x hx => by
      obtain ⟨q, hq, rfl⟩ := List.mem_map.1 hx
      exact h q (List.mem_range.1 hq)
  rw [State.binSum, hzero]
  rfl

/-- Settles O12: the two reads are allowed ones, and what they clear is `State.set` of MIN and `State.binClear`. -/
theorem readsThatClear : Obligations.ReadsThatClear := by
  unfold Obligations.ReadsThatClear
  intro who s hb
  constructor
  · intro p
    have hp := p.isLt
    have hread : s.busReadOut who.val (R.HRT_PACE p.val) 4 = _ :=
      busReadOut_word hb (by simp only [R.HRT_PACE]; omega)
    rw [read32_HRT_PACE] at hread
    obtain ⟨t, hnext, ht⟩ := answer_agree s (s.busReadOut who.val (R.HRT_PACE p.val) 4)
    rw [hread] at ht
    refine ⟨t, hnext, ?_, ?_, ?_, ?_, ht.mem, ht.num⟩
    · rw [ht.bus]; exact Sparse.look_write_self _ _ _ _
    · rw [ht.get]
      exact State.get_set_lt s (F.HRT_PACE_MIN p.val) 0xFF (by simp [F.HRT_PACE_MIN]) (by simp [F.HRT_PACE_MIN])
    · rw [ht.get]
      exact State.get_set_bits s 0xFF (by simp [F.HRT_PACE_NOW]) (.inl (by simp [F.HRT_PACE_NOW, F.HRT_PACE_MIN]))
    · intro o ho
      rw [ht.reg]
      exact State.reg_set_ne s 0xFF (List.ne_of_not_mem_cons ho)
  · intro i
    have hread : s.busReadOut who.val (R.NUM_HBIN i.val) 4 = _ :=
      busReadOut_word hb (by simp only [R.NUM_HBIN]; omega)
    rw [read32_NUM_HBIN] at hread
    obtain ⟨m, hm, hcleared, hkept⟩ := bin_clear s i.val
    rw [hm] at hread
    obtain ⟨t, hnext, ht⟩ := answer_agree s (s.busReadOut who.val (R.NUM_HBIN i.val) 4)
    rw [hread] at ht
    refine ⟨t, hnext, ?_, binSum_zero ?_, ?_, ht.regs, ht.mem⟩
    · rw [ht.bus]; exact Sparse.look_write_self _ _ _ _
    · rw [ht.get, ht.get, ht.num]; exact hcleared
    · rw [ht.num]; exact hkept

end Sys2Proof.Machine
end

section
/-! PROOFS. Command queues: writes of a tail, and the fetch of a slot (03_hearth_matrix_engines.md R95,
13_barriers_sparks_queues.md R587). -/

namespace Sys2Proof.Machine

/-- A 32-bit word is what the bus hands on of it. -/
theorem word_mod (val : Word) : val.toNat % 2 ^ 32 = val.toNat := Nat.mod_eq_of_lt val.isLt

/-- Settles O13: each bus write reduces to the tail's field and the unit's `State.advance`. -/
theorem tailWriteAndPrefetchFetch : Obligations.TailWriteAndPrefetchFetch := by
  unfold Obligations.TailWriteAndPrefetchFetch
  refine ⟨fun who val s hb => ⟨fun p => gives_answer rfl ?hearth, fun q =>
    ⟨gives_answer rfl ?service, gives_answer rfl ?kiln, gives_answer rfl ?firebox, gives_answer rfl ?injector,
      gives_answer rfl ?collective⟩⟩, fun p s hclk => gives_ticked (f := fun t => t.hearthPrefetch p.val) rfl hclk rfl⟩
  case hearth => rw [write_HRT_QTAIL _ _ _ _ hb, word_mod]; rfl
  case service => rw [write_BLW_SQTAIL _ _ _ _ hb, word_mod]
  case kiln => rw [write_KLN_QTAIL _ _ _ _ hb, word_mod]; rfl
  case firebox => rw [write_FBX_QTAIL _ _ _ _ hb, word_mod]; rfl
  case injector => rw [write_FLU_SQTAIL _ _ _ _ hb, word_mod]; rfl
  case collective => rw [write_COL_QTAIL _ _ _ _ hb, word_mod]; rfl

/-- R95: a queue that is not enabled fetches nothing. -/
theorem fetchSlots_off {s : State} {Q : QI} (h : s.qOn Q = false) (n : Nat) : s.fetchSlots Q n = s := by
  cases n with
  | zero => rfl
  | succ n => simp [State.fetchSlots, h]

/-- The queues of the quadrant units hold one plain copy, and their registers are apart. -/
structure PlainQueue (Q : QI) : Prop where
  depth : Q.depth = 1
  grab : Q.grab = plainGrab
  apart : Q.head.off ≠ Q.size.off
  fits : Q.head.lo + Q.head.w ≤ 32
  cap : Q.cap ≤ 2 ^ Q.head.w

theorem plainQueue_of_mem {q : Fin 4} {Q : QI} (h : Q ∈ [svcQ q.val, kilnQ q.val, fireboxQ q.val, colQ q.val, injQ q.val]) :
    PlainQueue Q := by
  have hq := q.isLt
  simp only [List.mem_cons, List.not_mem_nil, or_false] at h
  rcases h with rfl | rfl | rfl | rfl | rfl
  · exact ⟨rfl, rfl, by simp [svcQ, F.BLW_SQHEAD_HEAD, F.BLW_SQSIZE_ENTRIES], by simp [svcQ, F.BLW_SQHEAD_HEAD], by simp [svcQ, F.BLW_SQHEAD_HEAD]⟩
  · exact ⟨rfl, rfl, by simp [kilnQ, F.KLN_QHEAD_HEAD, F.KLN_QSIZE_ENTRIES], by simp [kilnQ, F.KLN_QHEAD_HEAD], by simp [kilnQ, F.KLN_QHEAD_HEAD]⟩
  · exact ⟨rfl, rfl, by simp [fireboxQ, F.FBX_QHEAD_HEAD, F.FBX_QSIZE_ENTRIES], by simp [fireboxQ, F.FBX_QHEAD_HEAD], by simp [fireboxQ, F.FBX_QHEAD_HEAD]⟩
  · exact ⟨rfl, rfl, by simp [colQ, F.COL_QHEAD_HEAD, F.COL_QSIZE_ENTRIES], by simp [colQ, F.COL_QHEAD_HEAD], by simp [colQ, F.COL_QHEAD_HEAD]⟩
  · exact ⟨rfl, rfl, by simp only [injQ, F.FLU_SQHEAD_VALUE, F.FLU_SQSIZE_VALUE]; omega, by simp [injQ, F.FLU_SQHEAD_VALUE], by simp [injQ, F.FLU_SQHEAD_VALUE]⟩

/-- Settles O14: `fetch_one` for an enabled queue, and a disabled one stops at its first test. -/
theorem fetchTakesTheSlot : Obligations.FetchTakesTheSlot := by
  unfold Obligations.FetchTakesTheSlot
  intro q Q s hQ
  obtain ⟨hdepth, hgrab, hapart, hfits, hcap⟩ := plainQueue_of_mem hQ
  exact ⟨fetchSlots_off, fun hon hsize hne hempty hbad hst n =>
    fetch_one Q s hdepth hgrab hapart hfits hcap hon hsize hne hempty hbad hst n⟩

end Sys2Proof.Machine
end

section
/-! PROOFS. Posted writes: what is accepted, what is discarded, and what the end of the operation applies
(17_register_interface_and_map.md R548). -/

namespace Sys2Proof.Machine

/-! ### The BUSY bits of the posted registers -/

theorem postBusy_NUM_SEED_HI : postBusy R.NUM_SEED_HI = (F.NUM_STATUS_BUSY, 0x1500000) := by decide
theorem postBusy_NUM_JCTRL : postBusy R.NUM_JCTRL = (F.NUM_STATUS_BUSY, 0x1500000) := by decide
theorem postBusy_ERR_CKCTRL : postBusy R.ERR_CKCTRL = (F.ERR_STATUS_BUSY, 0x500000) := by decide
theorem postBusy_FFY_CTRL : postBusy R.FFY_CTRL = (F.FFY_STATUS_BUSY, 0x1600000) := by decide
theorem postBusy_HBM_ILV : postBusy R.HBM_ILV = (F.HBM_STATUS_BUSY, 0x1000000) := by decide
theorem postBusy_FLU_TBL_COMMIT : postBusy R.FLU_TBL_COMMIT = (F.FLU_STATUS_BUSY, 0x1300000) := by decide

/-! ### Discarded writes -/

/-- R548: a posted write while BUSY is 1 is discarded and noted. -/
theorem post_busy {s : State} {off v key : Nat} {lo : Option Nat} {busy : RF} (hpost : postBusy off = (busy, key))
    (hoff : off < 2 ^ 26) (hbusy : s.on busy = true) :
    s.post off v lo = (s.raise F.GEN_EVENT_POST_OVERRUN).setReg R.GEN_POSTERR (BitVec.ofNat 32 (off + 2 ^ 31)) := by
  simp only [State.post, hpost, hbusy, if_true, State.overrun, Nat.mod_eq_of_lt hoff]

/-- Settles O19: each write reaches `State.post`, which tests BUSY first. -/
theorem postedWriteOverruns : Obligations.PostedWriteOverruns := by
  unfold Obligations.PostedWriteOverruns
  intro who val s hb lost
  refine ⟨fun q hbusy => gives_answer rfl ?_, fun hbusy => gives_answer rfl ?_, fun hs =>
    ⟨fun hbusy => gives_answer rfl ?_, fun hbusy => gives_answer rfl ?_, fun hbusy => gives_answer rfl ?_,
      fun hbusy => ⟨gives_answer rfl ?_, gives_answer rfl ?_⟩⟩⟩
  · have hq : R.BLW_RELOAD q.val < 2 ^ 26 := by simp only [R.BLW_RELOAD]; omega
    rw [write_BLW_RELOAD _ _ _ _ hb, post_busy (pb_blw q) hq hbusy]
  · rw [write_FFY_CTRL _ _ _ hb, post_busy postBusy_FFY_CTRL (by decide) hbusy]
  · rw [write_ERR_CKCTRL _ _ _ hb hs, post_busy postBusy_ERR_CKCTRL (by decide) hbusy]
  · rw [write_HBM_ILV _ _ _ hb hs, post_busy postBusy_HBM_ILV (by decide) hbusy]
  · rw [write_FLU_TBL_COMMIT _ _ _ hb hs, post_busy postBusy_FLU_TBL_COMMIT (by decide) hbusy]
  · rw [write_NUM_JCTRL _ _ _ hb hs, post_busy postBusy_NUM_JCTRL (by decide) hbusy]
  · rw [write_NUM_JCTRL _ _ _ hb hs, post_busy postBusy_NUM_JCTRL (by decide) hbusy]

/-! ### Accepted writes -/

section
variable {s : State}

/-- R139: a table load is accepted and the image is read. -/
theorem post_DMP_PTADDR (p : Fin 136) (v lo : Nat) (hbusy : s.on (F.DMP_STATUS_BUSY p.val) = false) :
    s.post (R.DMP_PTADDR_HI p.val) v (some lo) =
      ((s.set (F.DMP_STATUS_BUSY p.val) 1).holdPosted (0x900000 + 0x1000 * p.val) (R.DMP_PTADDR_HI p.val) v (some lo)).ptabStart p.val
        (lo % 2 ^ 32 / 64 * 64 + v % 2 ^ 32 * 2 ^ 32) := by
  have hp := p.isLt
  have e : R.DMP_PTADDR_HI p.val = 0x900028 + 0x1000 * p.val := rfl
  have hindex : (R.DMP_PTADDR_HI p.val - 0x900000) / 0x1000 = p.val := by omega
  rw [State.post, pb_dmp]
  dsimp only
  rw [hbusy, if_neg Bool.false_ne_true, if_neg (by simp only [R.NUM_SEED_HI]; omega), if_neg (by simp only [R.NUM_JCTRL]; omega),
    if_pos (by omega), hindex]
/-- R174: seeding starts. -/
theorem post_NUM_SEED (v lo : Nat) (hbusy : s.on F.NUM_STATUS_BUSY = false) :
    s.post R.NUM_SEED_HI v (some lo) =
      { (s.set F.NUM_STATUS_BUSY 1).holdPosted 0x1500000 R.NUM_SEED_HI v (some lo) with num := { s.num with op := 1 } } := by
  simp only [State.post, postBusy_NUM_SEED_HI, hbusy, Bool.false_eq_true, if_false, if_true]
/-- R210: a reload starts on its factors. -/
theorem post_BLW_RELOAD (q : Fin 4) (v : Nat) (hbusy : s.on (F.BLW_STATUS_BUSY q.val) = false) :
    s.post (R.BLW_RELOAD q.val) v none = (s.blwReload q.val v).holdPosted (0xA00000 + 0x10000 * q.val) (R.BLW_RELOAD q.val) v none := by
  have hq := q.isLt
  have e : R.BLW_RELOAD q.val = 0xA00034 + 0x10000 * q.val := rfl
  have hindex : R.BLW_RELOAD q.val / 0x10000 % 16 = q.val := by omega
  rw [State.post, pb_blw]
  dsimp only
  rw [hbusy, if_neg Bool.false_ne_true, if_neg (by simp only [R.NUM_SEED_HI]; omega), if_neg (by simp only [R.NUM_JCTRL]; omega),
    if_neg (by omega), if_pos (by omega), hindex]
/-- R548: registers whose write only waits. -/
theorem post_ERR_CKCTRL (v : Nat) (hbusy : s.on F.ERR_STATUS_BUSY = false) :
    s.post R.ERR_CKCTRL v none = (s.set F.ERR_STATUS_BUSY 1).holdPosted 0x500000 R.ERR_CKCTRL v none := by
  rw [State.post, postBusy_ERR_CKCTRL]
  simp [hbusy, R.ERR_CKCTRL, R.NUM_SEED_HI, R.NUM_JCTRL, R.HBM_ILV, R.FLU_TBL_COMMIT]
theorem post_FFY_CTRL (v : Nat) (hbusy : s.on F.FFY_STATUS_BUSY = false) :
    s.post R.FFY_CTRL v none = (s.set F.FFY_STATUS_BUSY 1).holdPosted 0x1600000 R.FFY_CTRL v none := by
  rw [State.post, postBusy_FFY_CTRL]
  simp [hbusy, R.FFY_CTRL, R.NUM_SEED_HI, R.NUM_JCTRL, R.HBM_ILV, R.FLU_TBL_COMMIT]
/-- R352: the write of a number of channels. -/
theorem post_HBM_ILV (v : Nat) (hbusy : s.on F.HBM_STATUS_BUSY = false) :
    s.post R.HBM_ILV v none = (s.ilvWrite v).noteChange R.HBM_ILV := by
  rw [State.post, postBusy_HBM_ILV]
  simp [hbusy, R.NUM_SEED_HI, R.NUM_JCTRL, R.HBM_ILV]
/-- R389: the write of GO. -/
theorem post_FLU_TBL_COMMIT (v : Nat) (hgo : v.testBit 0 = true) (hbusy : s.on F.FLU_STATUS_BUSY = false) :
    s.post R.FLU_TBL_COMMIT v none =
      (s.set F.FLU_TBL_COMMIT_GO v).commitFrom (s.pair R.FLU_TBL_ADDR_LO) := by
  have hbusy' : (s.set F.FLU_TBL_COMMIT_GO v).on F.FLU_STATUS_BUSY = false := by
    rw [State.on_set_off _ _ (by decide), hbusy]
  have hpair : (s.set F.FLU_TBL_COMMIT_GO v).pair R.FLU_TBL_ADDR_LO = s.pair R.FLU_TBL_ADDR_LO := by
    rw [State.pair, State.pair, State.reg_set_ne _ _ (by decide), State.reg_set_ne _ _ (by decide)]
  have hpost : s.post R.FLU_TBL_COMMIT v none = (s.set F.FLU_TBL_COMMIT_GO v).commitStart ((s.set F.FLU_TBL_COMMIT_GO v).pair R.FLU_TBL_ADDR_LO) := by
    rw [State.post, postBusy_FLU_TBL_COMMIT]
    simp [hbusy, hgo, R.NUM_SEED_HI, R.NUM_JCTRL, R.HBM_ILV, R.FLU_TBL_COMMIT]
  rw [hpost, hpair, State.commitStart, if_neg (by simp [hbusy'])]

/-- R352: what starts the re-forming. -/
theorem ilvWrite_starts (v : Nat) (hbusy : s.on F.HBM_STATUS_BUSY = false) (himage : s.on F.CFG_STATE_IMAGE = false)
    (hlow : 248 ≤ v % 512) (hhigh : v % 512 ≤ 256) (hfits : v % 512 ≤ s.inService.length) :
    s.ilvWrite v = { s.set F.HBM_STATUS_BUSY 1 with ram := { s.ram with reform := some (v % 512) } } := by
  simp [State.ilvWrite, hbusy, himage, Nat.not_lt.2 hlow, Nat.not_lt.2 hhigh, Nat.not_lt.2 hfits]

/-- R389: a commit that begins leaves the tables, and the version it fills is no longer valid. -/
theorem commitFrom_flue (a : Nat) : (s.commitFrom a).flue = { s.flue with
    commit := some a, valid0 := if s.inactive = 0 then false else s.flue.valid0, valid1 := if s.inactive = 1 then false else s.flue.valid1 } := rfl
theorem commitFrom_regsBut (a : Nat) : RegsBut [R.FLU_STATUS] s (s.commitFrom a) := by
  intro o ho
  have ho' := List.ne_of_not_mem_cons ho
  unfold State.commitFrom State.setValid State.put
  rw [State.reg_set_ne _ _ ho', State.reg_set_ne _ _ ho']
  rfl
theorem commitFrom_busy (a : Nat) : (s.commitFrom a).on F.FLU_STATUS_BUSY = true := State.on_set_one _ _ (by decide) (by decide)
end

/-- R550: the write of the _HI half of a posted pair whose _LO half the requester's write holder holds. -/
theorem busWrite_posted_half {s : State} {who off v l : Nat} {r : RegRow} (hb : s.busOn = true) (ha : off % 4 = 0) (ho : 4 ≤ off)
    (hr : regRow? off = some r) (hs : secureOnly r off = false ∨ s.isSecure who = true) (hhalf : r.half = 2) (hposted : r.posted = true)
    (hholder : s.bus.holder.look none who = some (off - 4, l)) :
    s.busWrite who off 4 v = (s.setHolder who none).post off (v % 2 ^ 32) (some l) := by
  rw [busWrite_half s who off v (off - 4) l r hb ha hr hs hhalf hholder (by omega), applyWrite_posts _ _ _ _ _ _ hposted]

/-- R139: the write of a table's address. -/
theorem write_DMP_PTADDR {s : State} {who lo : Nat} (p : Fin 136) (v : Nat) (hb : s.busOn = true)
    (hholder : s.bus.holder.look none who = some (R.DMP_PTADDR_LO p.val, lo)) :
    s.busWrite who (R.DMP_PTADDR_HI p.val) 4 v = (s.setHolder who none).post (R.DMP_PTADDR_HI p.val) (v % 2 ^ 32) (some lo) := by
  have hp := p.isLt
  have e : R.DMP_PTADDR_HI p.val = 0x900028 + 0x1000 * p.val := rfl
  have hopen : secureOnly ⟨0x900028, 136, 0x1000, 1, 0x4, 0xFFFFFFFF, 0xFFFFFFFF, 0x0, 0x0, 0x0, false, true, 2⟩ (R.DMP_PTADDR_HI p.val) = false := by
    simp only [secureOnly, Bool.false_or, Bool.and_eq_false_iff, decide_eq_false_iff_not]
    left; omega
  have hlow : R.DMP_PTADDR_LO p.val = R.DMP_PTADDR_HI p.val - 4 := by simp only [R.DMP_PTADDR_LO]; omega
  exact busWrite_posted_half hb (by omega) (by omega) (row_DMP_PTADDR_HI p) (.inl hopen) rfl rfl (hlow ▸ hholder)

/-- Settles O18: each bus write reduces to `State.post`, and the lemma of its register says what an accepted one does. -/
theorem postedWritesStart : Obligations.PostedWritesStart := by
  unfold Obligations.PostedWritesStart
  refine ⟨fun who val s hb => ⟨?table, ?seed, ?reload, ?checkpoint, ?snapshot⟩, fun who s hb hs hbusy => ⟨?save, ?restore⟩,
    fun who val s hb hs => ⟨?interleave, ?commit⟩⟩
  case table =>
    intro p lo hbusy hholder
    refine gives_answer rfl ((write_DMP_PTADDR p val.toNat hb hholder).trans ?_)
    rw [word_mod, post_DMP_PTADDR (s := s.setHolder who.val none) p _ _ hbusy, word_mod]
  case seed =>
    intro lo hbusy hs hholder
    have hwrite : s.busWrite who.val R.NUM_SEED_HI 4 val.toNat = _ :=
      busWrite_posted_half hb (by decide) (by decide) row_NUM_SEED_HI (.inr hs) rfl rfl hholder
    rw [word_mod, post_NUM_SEED (s := s.setHolder who.val none) _ _ hbusy] at hwrite
    obtain ⟨t, hnext, ht⟩ := answer_agree s (s.busWrite who.val R.NUM_SEED_HI 4 val.toNat)
    rw [hwrite] at ht
    refine ⟨t, hnext, by rw [ht.num], ?_, ?_, ?_, ht.mem, by rw [ht.num]; rfl⟩
    · rw [ht.on]; exact State.on_set_one (s.setHolder who.val none) F.NUM_STATUS_BUSY (by decide) (by decide)
    · rw [ht.bus]; exact Sparse.look_write_self s.bus.posted none 0x1500000 (some (R.NUM_SEED_HI, val.toNat, some lo))
    · intro o ho
      rw [ht.reg]
      exact State.reg_set_ne (s.setHolder who.val none) 1 (List.ne_of_not_mem_cons ho)
  case reload =>
    intro q hbusy
    refine gives_answer rfl ?_
    rw [write_BLW_RELOAD _ _ _ _ hb, word_mod, post_BLW_RELOAD q _ hbusy]
  case checkpoint =>
    intro hbusy hs
    refine gives_answer rfl ?_
    rw [write_ERR_CKCTRL _ _ _ hb hs, word_mod, post_ERR_CKCTRL _ hbusy]
  case snapshot =>
    intro hbusy
    refine gives_answer rfl ?_
    rw [write_FFY_CTRL _ _ _ hb, word_mod, post_FFY_CTRL _ hbusy]
  case save =>
    obtain ⟨u, hu⟩ : ∃ u, u = ((s.set F.NUM_JCTRL_SAVE 1).set F.NUM_STATUS_BUSY 1).saveGens := ⟨_, rfl⟩
    obtain ⟨n, hn⟩ : ∃ n, n = s.saveGens.num := ⟨_, rfl⟩
    have hwrite := write_NUM_JCTRL s who.val 1 hb hs
    rw [post_save s _ rfl hbusy u hu n hn] at hwrite
    obtain ⟨t, hnext, ht⟩ := answer_agree s (s.busWrite who.val R.NUM_JCTRL 4 1)
    rw [hwrite] at ht
    exact ⟨t, u, hu, hnext, by rw [ht.num], ht.mem, ht.regs⟩
  case restore =>
    obtain ⟨u, hu⟩ : ∃ u, u = ((s.set F.NUM_JCTRL_RESTORE 1).set F.NUM_STATUS_BUSY 1).restoreGens := ⟨_, rfl⟩
    have hwrite := write_NUM_JCTRL s who.val 2 hb hs
    rw [post_restore s _ rfl hbusy u hu] at hwrite
    obtain ⟨t, hnext, ht⟩ := answer_agree s (s.busWrite who.val R.NUM_JCTRL 4 2)
    rw [hwrite] at ht
    exact ⟨t, u, hu, hnext, by rw [ht.num], ht.mem, ht.regs, by rw [ht.num]⟩
  case interleave =>
    intro hbusy himage hlow hhigh hfits
    have hwrite := write_HBM_ILV s who.val val.toNat hb hs
    rw [word_mod, post_HBM_ILV _ hbusy, ilvWrite_starts _ hbusy himage hlow hhigh hfits] at hwrite
    obtain ⟨u, hu⟩ : ∃ u, u = { s.set F.HBM_STATUS_BUSY 1 with ram := { s.ram with reform := some (val.toNat % 512) } } := ⟨_, rfl⟩
    rw [← hu] at hwrite
    obtain ⟨hregs, hram, hmem⟩ := noteChange_regs u R.HBM_ILV
    have hnote : (u.noteChange R.HBM_ILV).ram = u.ram := by unfold State.noteChange; split <;> rfl
    obtain ⟨t, hnext, ht⟩ := answer_agree s (s.busWrite who.val R.HBM_ILV 4 val.toNat)
    rw [hwrite] at ht
    have htregs : t.regs = (s.set F.HBM_STATUS_BUSY 1).regs := by rw [ht.regs, hregs, hu]
    refine ⟨t, hnext, by rw [ht.ram, hnote, hu], ?_, ?_, by rw [ht.mem, hmem, hu]; rfl⟩
    · rw [State.on_congr htregs]; exact State.on_set_one _ _ (by decide) (by decide)
    · intro o ho
      rw [State.reg_congr htregs]
      exact State.reg_set_ne s 1 (List.ne_of_not_mem_cons ho)
  case commit =>
    intro hbusy hgo
    have hwrite := write_FLU_TBL_COMMIT s who.val val.toNat hb hs
    rw [word_mod, post_FLU_TBL_COMMIT _ hgo hbusy] at hwrite
    obtain ⟨t, hnext, ht⟩ := answer_agree s (s.busWrite who.val R.FLU_TBL_COMMIT 4 val.toNat)
    rw [hwrite] at ht
    have hinactive : (s.set F.FLU_TBL_COMMIT_GO val.toNat).inactive = s.inactive := by
      rw [State.inactive, State.inactive, State.epoch, State.epoch, State.get_set_off _ _ (by decide)]
    have hflue := ht.flue
    rw [commitFrom_flue, hinactive] at hflue
    refine ⟨t, hnext, by rw [hflue], ?_, by rw [hflue]; rfl, fun h => by rw [hflue]; simp [h], fun h => by rw [hflue]; simp [h], ?_, ht.mem⟩
    · rw [ht.on]; exact commitFrom_busy _
    · have hgoKept : RegsBut [R.FLU_STATUS, R.FLU_TBL_COMMIT] s (s.set F.FLU_TBL_COMMIT_GO val.toNat) := regsBut_set _ _ _ (.tail _ (.head _))
      exact (hgoKept.trans ((commitFrom_regsBut _).mono (by simp))).agree ht

/-! ### The ends of posted operations -/

/-- R548: what waits in a window is applied, and BUSY returns to 0. -/
theorem postedDone_some {s : State} {key off v : Nat} {lo : Option Nat} (h : s.bus.posted.look none key = some (off, v, lo)) :
    s.postedDone key = ((s.takePosted key).2.applyPosted off v lo).set (postBusy off).1 0 := by
  simp only [State.postedDone, State.takePosted, h]
theorem ptabDone_some {s : State} {p off v : Nat} {lo : Option Nat} (h : s.bus.posted.look none (0x900000 + 0x1000 * p) = some (off, v, lo)) :
    s.ptabDone p = ((s.takePosted (0x900000 + 0x1000 * p)).2.applyPosted off v lo).ptabLoaded p := by
  simp only [State.ptabDone, State.takePosted, h]
theorem seedingDone_some {s : State} {off v : Nat} {lo : Option Nat} (hop : s.num.op = 1) (h : s.bus.posted.look none 0x1500000 = some (off, v, lo))
    {u : State} (hu : u = ((s.takePosted 0x1500000).2.applyPosted off v lo).seedAll) :
    s.seedingDone = (({ u with num := { u.num with op := 0 } }.set F.NUM_STATUS_SEEDED 1).set F.NUM_STATUS_BUSY 0) := by
  unfold State.seedingDone
  rw [if_neg (by simp [hop]), State.takePosted, h]
  dsimp only
  rw [hu, State.takePosted]
theorem journalOpDone_of {s : State} (hop : s.num.op = 2 ∨ s.num.op = 3) :
    s.journalOpDone = (({ s with num := { s.num with op := 0 } }.set F.NUM_JCTRL_SAVE 0).set F.NUM_JCTRL_RESTORE 0).set F.NUM_STATUS_BUSY 0 := by
  rw [State.journalOpDone, if_pos hop]

/-- R210: the value of BLW_RELOAD is in place when the reload ends. -/
theorem blwReloadDone_of {s : State} (q : Fin 4) {v : Nat}
    (h : s.bus.posted.look none (0xA00000 + 0x10000 * q.val) = some (R.BLW_RELOAD q.val, v, none)) :
    s.blwReloadDone q.val = ((s.takePosted (0xA00000 + 0x10000 * q.val)).2.setMasked (R.BLW_RELOAD q.val) v 0x800003FF).set (F.BLW_STATUS_BUSY q.val) 0 := by
  have hq := q.isLt
  have e : R.BLW_RELOAD q.val = 0xA00034 + 0x10000 * q.val := rfl
  have hplain : ∀ t : State, t.applyPosted (R.BLW_RELOAD q.val) v none = t.setMasked (R.BLW_RELOAD q.val) v 0x800003FF := by
    intro t
    rw [State.applyPosted, if_neg (by simp only [R.FFY_CTRL]; omega)]
    dsimp only
    rw [if_neg (by simp only [R.PWR_EXCMAX]; omega), if_neg (by simp only [R.PWR_TJ]; omega), noteChange_mid _ (by omega) (by omega)]
    simp only [State.plainPair, State.plainWrite, row_BLW_RELOAD]
  rw [State.blwReloadDone, postedDone_some h, hplain, pb_blw]

/-- R210: the end of a reload changes its register and BUSY. -/
theorem blwReloadDone_regsBut {s : State} (q : Fin 4) {v : Nat}
    (h : s.bus.posted.look none (0xA00000 + 0x10000 * q.val) = some (R.BLW_RELOAD q.val, v, none)) :
    RegsBut [R.BLW_RELOAD q.val, R.BLW_STATUS q.val] s (s.blwReloadDone q.val) := by
  intro o ho
  simp only [List.mem_cons, List.not_mem_nil, or_false, not_or] at ho
  rw [blwReloadDone_of q h, State.reg_set_ne _ _ ho.2]
  simp only [State.setMasked, row_BLW_RELOAD]
  exact State.reg_setReg_ne _ _ ho.1
theorem blwReloadDone_keeps {s : State} (q : Fin 4) {v : Nat}
    (h : s.bus.posted.look none (0xA00000 + 0x10000 * q.val) = some (R.BLW_RELOAD q.val, v, none)) :
    (s.blwReloadDone q.val).bus.posted.look none (0xA00000 + 0x10000 * q.val) = none ∧ (s.blwReloadDone q.val).mem = s.mem ∧
      (s.blwReloadDone q.val).blw = s.blw := by
  rw [blwReloadDone_of q h]
  simp only [State.setMasked, row_BLW_RELOAD]
  exact ⟨Sparse.look_write_self s.bus.posted none (0xA00000 + 0x10000 * q.val) none, rfl, rfl⟩

/-- Whether a table image breaks the rules of a commit (R389). -/
def imageBad (es : List Nat) : Bool := (es.take 4096).any routeBad || (es.drop 4096).any treeBad
/-- R389: the end of a commit with a readable image, before the event of a bad one. -/
def State.commitTaken (s : State) (r : Rd) (es : List Nat) (tables : Sparse Nat) : State :=
  let u := { r.st with flue := { r.st.flue with commit := none } }.set F.FLU_STATUS_BUSY 0
  State.setValid { u with flue := { u.flue with tables := tables } } s.inactive (!imageBad es)

section
variable {s : State} {a : Nat} {r : Rd} {es : List Nat} {tables : Sparse Nat} (ha : s.flue.commit = some a) (hr : s.read a 131072 = r)
  (hbad : r.bad = none) (hes : codesOf 16 r.bytes 8192 = es)
  (htables : es.zipIdx.foldl (fun t (e, i) => Sparse.write t 0 (s.inactive * 8192 + i) e)
    (r.st.flue.tables.filter fun e => e.1 / 8192 != s.inactive) = tables)
include ha hr hbad hes htables

theorem commitDone_taken : s.commitDone =
    if imageBad es then (s.commitTaken r es tables).raise F.FLU_EVENT_TBL_BAD else s.commitTaken r es tables :=
  commitDone_eq s a ha r hr hbad es hes tables htables _ rfl rfl
/-- R389: what the end of a commit with a readable image leaves of the fabric. -/
theorem commitDone_flue : s.commitDone.flue = { s.flue with
    commit := none, tables := tables, valid0 := if s.inactive = 0 then !imageBad es else s.flue.valid0,
    valid1 := if s.inactive = 1 then !imageBad es else s.flue.valid1 } := by
  have hflue : r.st.flue = s.flue := hr ▸ (step_read s a 131072).flue
  have htaken : (s.commitTaken r es tables).flue = { r.st.flue with
      commit := none, tables := tables, valid0 := if s.inactive = 0 then !imageBad es else r.st.flue.valid0,
      valid1 := if s.inactive = 1 then !imageBad es else r.st.flue.valid1 } := rfl
  rw [commitDone_taken ha hr hbad hes htables, ← hflue]
  split
  · rw [State.raise_flue, htaken]
  · exact htaken
theorem commitDone_busy : s.commitDone.on F.FLU_STATUS_BUSY = false := by
  have htaken : (s.commitTaken r es tables).on F.FLU_STATUS_BUSY = false := by
    unfold State.commitTaken State.setValid State.put
    rw [State.on_set_bits _ _ (by decide) (by decide)]
    exact State.on_set_zero { r.st with flue := { r.st.flue with commit := none } } F.FLU_STATUS_BUSY (by decide)
  rw [commitDone_taken ha hr hbad hes htables]
  split
  · rw [State.raise, State.on_set_off _ _ (by decide), htaken]
  · exact htaken
end

/-- Settles O20: every end takes the waiting write out of its window, applies it and clears BUSY. -/
theorem postedWritesEnd : Obligations.PostedWritesEnd := by
  unfold Obligations.PostedWritesEnd
  refine ⟨fun s off v lo => ⟨?table, ?seed, ?journal, ?reload, ?applied⟩, fun s hclk => ⟨?interleave, ?commit⟩⟩
  case table => exact fun p hclk h => gives_ticked (f := fun t => t.ptabDone p.val) rfl hclk (ptabDone_some h)
  case seed =>
    intro hclk hop h
    obtain ⟨u, hu⟩ : ∃ u, u = ((s.takePosted 0x1500000).2.applyPosted off v lo).seedAll := ⟨_, rfl⟩
    obtain ⟨t, hnext, ht⟩ := answer_agree s s.seedingDone
    rw [seedingDone_some hop h hu] at ht
    refine ⟨t, (ticked_on s State.seedingDone hclk).trans hnext, by rw [ht.num]; rfl, ?_, ?_, by rw [ht.num, ← hu]; rfl⟩
    · rw [ht.on]; exact State.on_set_zero _ _ (by decide)
    · rw [ht.on, State.on_set_bits _ _ (by decide) (by decide)]; exact State.on_set_one _ _ (by decide) (by decide)
  case journal =>
    intro hclk hop
    obtain ⟨t, hnext, ht⟩ := answer_agree s s.journalOpDone
    rw [journalOpDone_of hop] at ht
    refine ⟨t, (ticked_on s State.journalOpDone hclk).trans hnext, by rw [ht.num]; rfl, ?_, ?_, ?_, ?_, ht.mem, by rw [ht.num]; rfl⟩
    · rw [ht.on, State.on_set_off _ _ (by decide), State.on_set_bits _ _ (by decide) (by decide)]
      exact State.on_set_zero _ _ (by decide)
    · rw [ht.on, State.on_set_off _ _ (by decide)]; exact State.on_set_zero _ _ (by decide)
    · rw [ht.on]; exact State.on_set_zero _ _ (by decide)
    · have hset : RegsBut [R.NUM_JCTRL, R.NUM_STATUS] s _ :=
        ((regsBut_set { s with num := { s.num with op := 0 } } F.NUM_JCTRL_SAVE 0 (.head _)).trans
          (regsBut_set _ F.NUM_JCTRL_RESTORE 0 (.head _))).trans (regsBut_set _ F.NUM_STATUS_BUSY 0 (.tail _ (.head _)))
      exact hset.agree ht
  case reload =>
    intro q hclk h
    obtain ⟨t, hnext, ht⟩ := answer_agree s (s.blwReloadDone q.val)
    obtain ⟨hposted, hmem, hblw⟩ := blwReloadDone_keeps q h
    refine ⟨t, (ticked_on s (fun t => t.blwReloadDone q.val) hclk).trans hnext, ?_, by rw [ht.bus, hposted],
      (blwReloadDone_regsBut q h).agree ht, ht.mem.trans hmem, ht.blw.trans hblw⟩
    rw [ht.on, blwReloadDone_of q h]
    exact State.on_set_zero _ _ (by simp [F.BLW_STATUS_BUSY])
  case applied =>
    intro blk hb hblk h
    refine gives_answer rfl ?_
    rw [State.postedApplied, if_pos (by simpa [hb] using hblk), postedDone_some h]
  case interleave =>
    intro n hn
    refine gives_ticked (f := State.ilvDone) rfl hclk ?_
    simp only [State.ilvDone, hn]
  case commit =>
    intro a ha hbad
    obtain ⟨r, hr⟩ : ∃ r, s.read a 131072 = r := ⟨_, rfl⟩
    rw [hr] at hbad ⊢
    obtain ⟨t, hnext, ht⟩ := answer_agree s s.commitDone
    have hflue := ht.flue.trans (commitDone_flue ha hr hbad rfl rfl)
    exact ⟨t, (ticked_on s State.commitDone hclk).trans hnext, by rw [hflue], by rw [ht.on, commitDone_busy ha hr hbad rfl rfl], by rw [hflue],
      fun h => by rw [hflue]; exact if_pos h, fun h => by rw [hflue]; exact if_pos h⟩

end Sys2Proof.Machine
end

section
/-! PROOFS. Aborts by tag (13_barriers_sparks_queues.md R455 to R458, 03_hearth_matrix_engines.md R121). -/

namespace Sys2Proof.Machine

/-- The abort's result field and event of a queue: apart, inside their words, and outside the blocks that an error record
writes. -/
structure AbortRegs (Q : QI) : Prop where
  apart : Q.res.off ≠ Q.evAborted.off
  res : Q.res.lo + Q.res.w ≤ 32
  resWide : 1 < 2 ^ Q.res.w
  resOwn : memReg Q.res.off = false
  event : Q.evAborted.lo + Q.evAborted.w ≤ 32
  eventWide : 0 < Q.evAborted.w
  eventOwn : memReg Q.evAborted.off = false

/-- A register below the comb's window and above SYN's, or above the CXL block's, is of none of the memory blocks. -/
theorem memReg_of_range {o : Nat} (h : (0x600000 ≤ o ∧ o < 0xE00000) ∨ 0x1300000 ≤ o) : memReg o = false := by
  simp only [memReg, Bool.or_eq_false_iff, beq_eq_false_iff_ne]
  omega

theorem abortRegs_hearthQ (s : State) (p : Fin 136) : AbortRegs (hearthQ s p.val 1) := by
  have hp := p.isLt
  refine ⟨?_, ?_, ?_, memReg_of_range (.inl ?_), ?_, ?_, memReg_of_range (.inl ?_)⟩ <;>
    simp [hearthQ, F.HRT_ABORT_RES_RESULT, F.HRT_EVENT_ABORTED] <;> omega
theorem abortRegs_kilnQ (q : Fin 4) : AbortRegs (kilnQ q.val) := by
  have hq := q.isLt
  refine ⟨?_, ?_, ?_, memReg_of_range (.inl ?_), ?_, ?_, memReg_of_range (.inl ?_)⟩ <;>
    simp [kilnQ, F.KLN_ABORT_RES_RESULT, F.KLN_EVENT_ABORTED] <;> omega
theorem abortRegs_fireboxQ (q : Fin 4) : AbortRegs (fireboxQ q.val) := by
  have hq := q.isLt
  refine ⟨?_, ?_, ?_, memReg_of_range (.inl ?_), ?_, ?_, memReg_of_range (.inl ?_)⟩ <;>
    simp [fireboxQ, F.FBX_ABORT_RES_RESULT, F.FBX_EVENT_ABORTED] <;> omega
theorem abortRegs_colQ (q : Fin 4) : AbortRegs (colQ q.val) := by
  have hq := q.isLt
  refine ⟨?_, ?_, ?_, memReg_of_range (.inr ?_), ?_, ?_, memReg_of_range (.inr ?_)⟩ <;>
    simp [colQ, F.COL_ABORT_RES_RESULT, F.COL_EVENT_ABORTED] <;> omega

/-- R458: after an ABORTED result, the result field reads 1 and the event stands. -/
theorem abortResult_one {Q : QI} (h : AbortRegs Q) (s : State) (tag : Nat) :
    (s.abortResult Q 1 tag).get Q.res = 1 ∧ (s.abortResult Q 1 tag).on Q.evAborted = true := by
  have hstep : MemStep ((s.set Q.res 1).raise Q.evAborted) (s.abortResult Q 1 tag) := step_vetoRecord _ _ _ _ _ _
  constructor
  · rw [memstep_get hstep h.resOwn, State.raise, State.get_set_off _ _ h.apart]
    exact State.get_set_lt _ _ _ h.res h.resWide
  · rw [State.on, memstep_get hstep h.eventOwn, ← State.on]
    exact State.on_set_one _ _ h.event h.eventWide
/-- R121: a NOT_FOUND result writes no record. -/
theorem abortResult_three (s : State) (Q : QI) (tag : Nat) : s.abortResult Q 3 tag = (s.set Q.res 3).raise Q.evAborted := by
  rw [State.abortResult, if_neg (by decide)]

section
variable {s : State} {Q : QI} {tag : Nat} {stop : State → QCmd → State}

/-- R457: before the result is read, an abort is ignored. -/
theorem abortTag_unread (h : s.get Q.res ≠ 0) : s.abortTag Q tag stop = s := by
  rw [State.abortTag, if_pos h]
/-- R456: else it looks at the commands in progress and then at the queue, where the command that ended last is another. -/
theorem abortTag_live (h : s.get Q.res = 0) (hlast : (s.queue Q).last ≠ some tag) : s.abortTag Q tag stop = s.abortLive Q tag stop := by
  rw [State.abortTag, if_neg (by simp [h]), if_neg hlast]
/-- R456: the command in progress carries the tag. -/
theorem abortLive_started {c : QCmd} (h : s.startedHead Q = some c) (htag : c.tag = tag) :
    s.abortLive Q tag stop = (stop s c).abortResult Q 1 tag := by
  simp [State.abortLive, h, htag, Option.filter]
/-- R456: no command in progress carries the tag. -/
theorem abortLive_waits (hhead : ∀ c, s.startedHead Q = some c → c.tag ≠ tag) (hahead : ∀ c, s.aheadCmd Q = some c → c.tag ≠ tag) :
    s.abortLive Q tag stop = s.abortQueued Q tag := by
  have h1 : (s.startedHead Q).filter (fun c => c.tag == tag) = none := by
    simpa [Option.filter_eq_none_iff] using hhead
  have h2 : (s.aheadCmd Q).filter (fun c => c.tag == tag) = none := by
    simpa [Option.filter_eq_none_iff] using hahead
  simp only [State.abortLive, h1, h2]

/-- Marking one element by its index is a replacement of it. -/
theorem mapIdx_mark {cs : List QCmd} {n : Nat} {c : QCmd} (h : cs[n]? = some c) :
    (cs.mapIdx fun j c => if j = n then { c with aborted := true } else c) = cs.set n { c with aborted := true } := by
  refine List.ext_getElem? fun j => ?_
  rw [List.getElem?_mapIdx, List.getElem?_set]
  by_cases hj : n = j
  · subst hj
    obtain ⟨hn, rfl⟩ := List.getElem?_eq_some_iff.1 h
    simp [hn]
  · have hj' : ¬ j = n := fun e => hj e.symm
    simp [hj, hj']

/-- R456: the first queued command that carries the tag. -/
theorem findIdx_tag {cs : List QCmd} {n : Nat} {c : QCmd} (h : cs[n]? = some c) (htag : c.tag = tag) (hlive : c.aborted = false)
    (hfirst : ∀ m < n, ∀ y, cs[m]? = some y → y.tag ≠ tag) : cs.findIdx? (fun c => c.tag == tag && !c.aborted) = some n := by
  obtain ⟨hn, hc⟩ := List.getElem?_eq_some_iff.1 h
  rw [List.findIdx?_eq_some_iff_getElem]
  refine ⟨hn, by simp [hc, htag, hlive], fun j hj => ?_⟩
  have := hfirst j hj cs[j] (List.getElem?_eq_getElem _)
  simp [this]

/-- R456: a queued command is marked, and the wait of the head withdrawn. -/
theorem abortQueued_found {n : Nat} {c : QCmd} (h : (s.queue Q).cmds[n]? = some c) (htag : c.tag = tag) (hlive : c.aborted = false)
    (hfirst : ∀ m < n, ∀ y, (s.queue Q).cmds[m]? = some y → y.tag ≠ tag) :
    s.abortQueued Q tag =
      let u := s.modQueue Q fun k => { k with cmds := k.cmds.set n { c with aborted := true } }
      let v := match Q.qid with
        | some k => if n = 0 then u.withdraw k else u
        | none => u
      (v.abortResult Q 1 tag).advance Q := by
  have hmark : (s.modQueue Q fun q => { q with cmds := q.cmds.mapIdx fun j c => if j = n then { c with aborted := true } else c }) =
      s.modQueue Q fun k => { k with cmds := k.cmds.set n { c with aborted := true } } := by
    simp only [State.modQueue, mapIdx_mark h]
  unfold State.abortQueued
  dsimp only
  rw [findIdx_tag h htag hlive hfirst]
  dsimp only
  rw [hmark]
  cases Q.qid <;> by_cases hn : n = 0 <;> simp [hn]
/-- R121: no command in the ring or in the unit carries the tag. -/
theorem abortQueued_missing (h : ∀ c ∈ (s.queue Q).cmds, c.tag ≠ tag) (hslots : s.waitingSlots Q = []) :
    s.abortQueued Q tag = (s.set Q.res 3).raise Q.evAborted := by
  have hnone : (s.queue Q).cmds.findIdx? (fun c => c.tag == tag && !c.aborted) = none := by
    rw [List.findIdx?_eq_none_iff]
    exact fun c hc => by simp [h c hc]
  unfold State.abortQueued
  dsimp only
  rw [hnone, hslots]
  exact abortResult_three s Q tag

theorem startedHead_eq_some {c : QCmd} (h : s.startedHead Q = some c) : (s.queue Q).started = true ∧ (s.queue Q).cmds[0]? = some c := by
  unfold State.startedHead at h
  split at h
  · exact ⟨‹_›, by rwa [← List.head?_eq_getElem?]⟩
  · cases h
theorem aheadCmd_eq_some {c : QCmd} (h : s.aheadCmd Q = some c) : (s.queue Q).ahead = true ∧ (s.queue Q).cmds[1]? = some c := by
  unfold State.aheadCmd at h
  split at h
  · exact ⟨‹_›, h⟩
  · cases h

/-- R121, R455 to R458: a command that is the abort of a queue whose registers are apart behaves as `AbortRuns` says. -/
theorem abortRuns_of {i : Instr} (hregs : AbortRegs Q) (hexec : exec i s = s.answer (s.abortTag Q tag stop)) : AbortRuns i s Q tag stop := by
  refine ⟨fun hres => gives_answer hexec (abortTag_unread hres), fun hres hlast => ?_⟩
  rw [abortTag_live hres hlast] at hexec
  refine ⟨?started, ?queued, ?missing⟩
  case started =>
    intro c hc htag
    rw [abortLive_started hc htag] at hexec
    obtain ⟨t, hnext, ht⟩ := answer_agree s ((stop s c).abortResult Q 1 tag)
    obtain ⟨hone, hevent⟩ := abortResult_one hregs (stop s c) tag
    exact ⟨t, hexec.trans hnext, ht, (ht.get _).trans hone, (ht.on _).trans hevent⟩
  case queued =>
    intro n c hc htag hlive hfirst hstarted hahead u v
    have hhead : ∀ y, s.startedHead Q = some y → y.tag ≠ tag := fun y hy => by
      obtain ⟨hon, hy0⟩ := startedHead_eq_some hy
      exact hfirst 0 (Nat.pos_of_ne_zero fun hn => by simp [hstarted hn] at hon) y hy0
    have hbehind : ∀ y, s.aheadCmd Q = some y → y.tag ≠ tag := fun y hy => by
      obtain ⟨hon, hy1⟩ := aheadCmd_eq_some hy
      exact hfirst 1 (Nat.lt_of_not_le fun hn => by simp [hahead hn] at hon) y hy1
    rw [abortLive_waits hhead hbehind, abortQueued_found hc htag hlive hfirst] at hexec
    exact gives_answer hexec rfl
  case missing =>
    intro hnone hslots
    have hhead : ∀ y, s.startedHead Q = some y → y.tag ≠ tag := fun y hy =>
      hnone y (List.mem_of_getElem? (startedHead_eq_some hy).2)
    have hbehind : ∀ y, s.aheadCmd Q = some y → y.tag ≠ tag := fun y hy =>
      hnone y (List.mem_of_getElem? (aheadCmd_eq_some hy).2)
    rw [abortLive_waits hhead hbehind] at hexec
    exact gives_answer hexec (abortQueued_missing hnone hslots)
end

/-- Settles O15: each write of an ABORT register is the abort of its unit's queue (`abortRuns_of`). -/
theorem abortAnswers : Obligations.AbortAnswers := by
  unfold Obligations.AbortAnswers
  intro who tag s hb
  refine ⟨fun p => abortRuns_of (abortRegs_hearthQ s p) (congrArg s.answer ?_), fun q => abortRuns_of (abortRegs_kilnQ q) (congrArg s.answer ?_),
    fun q => abortRuns_of (abortRegs_fireboxQ q) (congrArg s.answer ?_), fun q => abortRuns_of (abortRegs_colQ q) (congrArg s.answer ?_)⟩
  · rw [write_HRT_ABORT _ _ _ _ hb, word_mod]; rfl
  · rw [write_KLN_ABORT _ _ _ _ hb, word_mod]; rfl
  · rw [write_FBX_ABORT _ _ _ _ hb, word_mod]; rfl
  · rw [write_COL_ABORT _ _ _ _ hb, word_mod]; rfl

end Sys2Proof.Machine
end

section
/-! PROOFS. Barriers: writes of a count, releases of level waits and of take-waiters, lent power and misuse
(13_barriers_sparks_queues.md R441 to R446, R453, R454, R460). -/

namespace Sys2Proof.Machine

/-! ### Count writes -/

/-- R460: the count takes the value written, modulo its width; SAT and UNDER stay. -/
theorem setCount_count (s : State) (b v : Nat) : (s.set (F.SYN_BAR_CNT_COUNT b) v).get (F.SYN_BAR_CNT_COUNT b) = v % 2 ^ 16 :=
  State.get_set_self _ _ _ (by simp [F.SYN_BAR_CNT_COUNT])
theorem setCount_sat (s : State) (b v : Nat) : (s.set (F.SYN_BAR_CNT_COUNT b) v).on (F.SYN_BAR_CNT_SAT b) = s.on (F.SYN_BAR_CNT_SAT b) :=
  State.on_set_bits _ _ (by simp [F.SYN_BAR_CNT_SAT]) (.inr (by simp [F.SYN_BAR_CNT_SAT, F.SYN_BAR_CNT_COUNT]))
theorem setCount_under (s : State) (b v : Nat) : (s.set (F.SYN_BAR_CNT_COUNT b) v).on (F.SYN_BAR_CNT_UNDER b) = s.on (F.SYN_BAR_CNT_UNDER b) :=
  State.on_set_bits _ _ (by simp [F.SYN_BAR_CNT_UNDER]) (.inr (by simp [F.SYN_BAR_CNT_UNDER, F.SYN_BAR_CNT_COUNT]))
theorem setCount_gslot (s : State) (b v : Nat) : (s.set (F.SYN_BAR_CNT_COUNT b) v).gslot b = s.gslot b :=
  State.get_set_off _ _ (barCfg_ne_barCnt b)

/-- R460: after a count write, only the end of the round and the test of the waits follow, which keep the count. -/
theorem barCount_countKept (s : State) (b v : Nat) : CountKept b ((s.carry b none).set (F.SYN_BAR_CNT_COUNT b) v) (s.barCount b v) :=
  (endRound_regsBut ((s.carry b none).set (F.SYN_BAR_CNT_COUNT b) v) b).countKept.trans (retest_keeps _ b).countKept
theorem barCount_regsBut (s : State) (b v : Nat) : RegsBut [R.SYN_BAR_CNT b, R.SYN_GRP_CTRL (s.gslot b)] s (s.barCount b v) := by
  have hset : RegsBut [R.SYN_BAR_CNT b, R.SYN_GRP_CTRL (s.gslot b)] s ((s.carry b none).set (F.SYN_BAR_CNT_COUNT b) v) :=
    regsBut_set (s.carry b none) _ v (.head _)
  have hround := endRound_regsBut ((s.carry b none).set (F.SYN_BAR_CNT_COUNT b) v) b
  rw [setCount_gslot] at hround
  have hgslot : (s.carry b none).gslot b = s.gslot b := rfl
  rw [hgslot] at hround
  exact (hset.trans (hround.mono (by simp))).trans ((retest_keeps _ b).regsBut.mono (by simp))
theorem barCount_mem (s : State) (b v : Nat) : (s.barCount b v).mem = s.mem := by
  rw [State.barCount, (retest_keeps _ b).2.2, (endRound_keeps _ b).2]
  rfl

theorem exec_barrierCountWrite {s : State} (hbus : s.busOn = true) (who : Requester) (b : Fin 4096) (val : Word) :
    exec (.barrierCountWrite who b val) s = s.answer (s.barCount b.val val.toNat) := by
  have hwrite := write_SYN_BAR_CNT s who.val b val.toNat hbus
  rw [word_mod] at hwrite
  exact congrArg s.answer hwrite

/-! ### Releases of level waits -/

section
variable {s : State} {b : Nat} (k : Option Nat) (hv : s.ctrValid b = true) (hg : s.isGroup b = false)

theorem bump_cfg (s : State) (b : Nat) : (s.bump b).reg (R.SYN_BAR_CFG b) = s.reg (R.SYN_BAR_CFG b) :=
  bump_regs s b _ (barCfg_ne_barCnt b) (barCfg_ne_event b)

include hv hg in
/-- R442: after a signal to a usable count barrier, it is satisfied when its new count has reached P. -/
theorem bump_satisfied (hb : b < 4096) :
    (s.bump b).satisfied b = decide (s.get (F.SYN_BAR_CFG_P b) ≤ min (s.get (F.SYN_BAR_CNT_COUNT b) + 1) 0xFFFF) := by
  obtain ⟨hgroup, hp, hvalid⟩ := cfg_congr b (bump_cfg s b)
  have hv' : (s.bump b).ctrValid b = true := by
    rw [State.ctrValid, hg, if_neg Bool.false_ne_true] at hv
    rw [State.ctrValid, hgroup, hp, hvalid, hg, if_neg Bool.false_ne_true, hv]
  rw [State.satisfied, hv', hgroup, hg, hp, bump_count s b hb, Bool.true_and, if_neg Bool.false_ne_true]
end

/-- R444: a test of a satisfied count barrier releases every level wait on it and no other. -/
theorem retest_releases {s : State} {b : Nat} (hen : s.on F.SYN_CTRL_EN = true) (hsat : s.satisfied b = true) (hg : s.isGroup b = false) :
    (s.retest b).syn.waiters = s.syn.waiters.filter (fun w => !(w.ctr == b && !w.take)) ∧
      ∀ w ∈ s.syn.waiters, w.ctr = b → w.take = false → w.qid ∈ (s.retest b).syn.released := by
  have hretest : s.retest b = s.each (s.syn.waiters.filter fun w => w.ctr == b && !w.take) State.releaseQ := by
    simp [State.retest, hen, hsat, hg]
  obtain ⟨hwaiters, hreleased⟩ := each_syn (s.syn.waiters.filter fun w => w.ctr == b && !w.take) s
  rw [hretest, hwaiters, hreleased]
  refine ⟨List.filter_congr fun w hw => ?_, fun w hw hctr htake => ?_⟩
  · rw [Bool.eq_iff_iff]
    simp [List.mem_filter, hw]
  · exact List.mem_append_right _ (List.mem_map.2 ⟨w, List.mem_filter.2 ⟨hw, by simp [hctr, htake]⟩, rfl⟩)
/-- R444: a test of a counter that is not satisfied releases nothing. -/
theorem retest_unsatisfied {s : State} {b : Nat} (hsat : s.satisfied b = false) : s.retest b = s := by
  simp [State.retest, hsat]

theorem bump_on_ctrl (s : State) (b : Nat) : (s.bump b).on F.SYN_CTRL_EN = s.on F.SYN_CTRL_EN :=
  (bump_regsBut s b).on (f := F.SYN_CTRL_EN) (by
    simp only [F.SYN_CTRL_EN, R.SYN_BAR_CNT, R.SYN_EVENT, List.mem_cons, List.not_mem_nil, or_false, not_or]
    omega)

/-- Settles O22: the count write keeps what it wrote (`barCount_countKept`), and a signal tests the waits of its counter against
the new count (`bump_satisfied`). -/
theorem countWritesAndReleases : Obligations.CountWritesAndReleases := by
  unfold Obligations.CountWritesAndReleases
  refine ⟨?write, ?signal⟩
  case write =>
    intro who b val s hbus
    obtain ⟨t, hnext, ht⟩ := answer_agree s (s.barCount b.val val.toNat)
    have hkept := (barCount_countKept s b.val val.toNat).trans ht.countKept
    exact ⟨t, (exec_barrierCountWrite hbus who b val).trans hnext, hkept.count.trans (setCount_count _ _ _),
      hkept.sat.trans (setCount_sat _ _ _), hkept.under.trans (setCount_under _ _ _), (barCount_regsBut s b.val _).agree ht,
      ht.mem.trans (barCount_mem s b.val _)⟩
  case signal =>
    intro b k s hclk hen hv hg
    obtain ⟨u, hu⟩ : ∃ u, u = s.carry b.val (k.map BitVec.toNat) := ⟨_, rfl⟩
    have hexec := exec_barrierSignal hclk b k
    rw [signal_count s b.val _ hen hv hg, ← hu] at hexec
    have hsyn : u.syn = { s.syn with carried := u.syn.carried } := by rw [hu]; rfl
    have hregs : u.regs = s.regs := by rw [hu]; rfl
    have hsat : (u.bump b.val).satisfied b.val =
        decide (s.get (F.SYN_BAR_CFG_P b.val) ≤ min (s.get (F.SYN_BAR_CNT_COUNT b.val) + 1) 0xFFFF) := by
      rw [← State.get_congr hregs, ← State.get_congr hregs]
      exact bump_satisfied (by rw [hu]; exact hv) (by rw [hu]; exact hg) b.isLt
    obtain ⟨t, hnext, ht⟩ := answer_agree s ((u.bump b.val).retest b.val)
    refine ⟨t, hexec.trans hnext, fun hreached => ?_, fun hbelow => ?_⟩
    · have hen' : (u.bump b.val).on F.SYN_CTRL_EN = true := by rw [bump_on_ctrl, State.on_congr hregs, hen]
      have hg' : (u.bump b.val).isGroup b.val = false := by
        rw [(cfg_congr b.val (bump_cfg u b.val)).1, hu]; exact hg
      obtain ⟨hwaiters, hreleased⟩ := retest_releases hen' (by rw [hsat]; exact decide_eq_true hreached) hg'
      rw [bump_syn, hsyn] at hwaiters hreleased
      rw [ht.syn]
      exact ⟨hwaiters, hreleased⟩
    · rw [ht.syn, retest_unsatisfied (by rw [hsat]; exact decide_eq_false (Nat.not_le.2 hbelow)), bump_syn]
      exact hsyn

/-! ### Take-waiters -/

/-- R446: the take-waiter of lowest queue identifier is the first that is found. -/
theorem find_lowest {ws : List Waiter} {w : Waiter} (hw : w ∈ ws) (hlow : ∀ v ∈ ws, v = w ∨ w.qid < v.qid) :
    ws.find? (fun x => ws.all fun v => decide (x.qid ≤ v.qid)) = some w := by
  have hleast : (ws.all fun v => decide (w.qid ≤ v.qid)) = true := by
    rw [List.all_eq_true]
    intro v hv
    rcases hlow v hv with rfl | h
    · simp
    · simpa using h.le
  obtain ⟨x, hx⟩ := Option.isSome_iff_exists.1 ((List.find?_isSome (p := fun x => ws.all fun v => decide (x.qid ≤ v.qid))).2 ⟨w, hw, hleast⟩)
  have hxw : x.qid ≤ w.qid := by
    have := List.find?_some hx
    rw [List.all_eq_true] at this
    simpa using this w hw
  rcases hlow x (List.mem_of_find?_eq_some hx) with rfl | h
  · exact hx
  · omega

/-- R446: one engine cycle of a satisfied count barrier with a lowest take-waiter w. -/
theorem takeCycle_releases {s : State} {b : Nat} {w : Waiter} (hen : s.on F.SYN_CTRL_EN = true) (hsat : s.satisfied b = true)
    (hg : s.isGroup b = false) (hw : w ∈ s.syn.waiters) (hctr : w.ctr = b) (htake : w.take = true)
    (hlow : ∀ v ∈ s.syn.waiters, v.ctr = b → v.take = true → v = w ∨ w.qid < v.qid) :
    s.takeCycle b = (s.releaseQ w).set (F.SYN_BAR_CNT_COUNT b) (s.get (F.SYN_BAR_CNT_COUNT b) - s.get (F.SYN_BAR_CFG_P b)) := by
  have hmem : ∀ v, v ∈ s.syn.waiters.filter (fun w => w.ctr == b && w.take) ↔ v ∈ s.syn.waiters ∧ v.ctr = b ∧ v.take = true := by
    simp [List.mem_filter]
  have hfind := find_lowest ((hmem w).2 ⟨hw, hctr, htake⟩) fun v hv => by
    obtain ⟨h1, h2, h3⟩ := (hmem v).1 hv
    exact hlow v h1 h2 h3
  simp only [State.takeCycle, hen, hsat, hg, Bool.not_false, Bool.and_self, if_true, hfind]

/-- Settles O23: the release is `State.releaseQ` of the lowest take-waiter, and P leaves the count. -/
theorem takeReleasesOne : Obligations.TakeReleasesOne := by
  unfold Obligations.TakeReleasesOne
  intro b w s hclk hen hsat hg hw hctr htake hlow
  obtain ⟨y, m, hrelease, hwaiters, hreleased⟩ := releaseQ_is s w
  obtain ⟨t, hnext, ht⟩ := answer_agree s (s.takeCycle b.val)
  rw [takeCycle_releases hen hsat hg hw hctr htake hlow] at ht
  have hkeeps := releaseQ_keeps s w b.val hctr
  have hsyn : t.syn = y := by rw [ht.syn, hrelease]; rfl
  refine ⟨t, (ticked_on s (fun t => t.takeCycle b.val) hclk).trans hnext, by rw [hsyn, hwaiters], by rw [hsyn, hreleased], ?_, ?_, ?_⟩
  · rw [ht.get]
    exact State.get_set_lt _ _ _ (by simp [F.SYN_BAR_CNT_COUNT]) (Nat.lt_of_le_of_lt (Nat.sub_le _ _) (State.get_lt s _))
  · exact (hkeeps.regsBut.trans (regsBut_set _ _ _ (.head _))).agree ht
  · rw [ht.mem]; exact hkeeps.2.2

/-! ### Lent power and misuse -/

/-- R453: beside its flag and the latched word, a misuse writes an error record. -/
theorem misuse_step (s : State) (b cause k : Nat) :
    MemStep ((s.raise F.SYN_EVENT_MISUSE).setReg R.SYN_MISUSE (BitVec.ofNat 32 (b + cause * 2 ^ 12 + k * 2 ^ 16 + 2 ^ 31)))
      (s.misuse b cause k) := by
  unfold State.misuse
  exact step_errRecord _ _ _ _ _ _ _
/-- R453: what a misuse leaves: its flag, the latched word, and nothing of the counters. -/
theorem misuse_event (s : State) (b cause k : Nat) : (s.misuse b cause k).on F.SYN_EVENT_MISUSE = true := by
  have hstep := misuse_step s b cause k
  rw [State.on, memstep_get hstep (by decide), ← State.on, State.on_setReg_off _ _ (by decide)]
  exact State.on_set_one _ _ (by decide) (by decide)
theorem misuse_latch (s : State) (b cause k : Nat) :
    (s.misuse b cause k).reg R.SYN_MISUSE = BitVec.ofNat 32 (b + cause * 2 ^ 12 + k * 2 ^ 16 + 2 ^ 31) := by
  have hstep := misuse_step s b cause k
  rw [hstep.2.1 _ (by decide), State.reg_setReg_self]
theorem misuse_keeps (s : State) (b cause k : Nat) :
    (s.misuse b cause k).syn = s.syn ∧ ∀ c : Fin 4096, (s.misuse b cause k).reg (R.SYN_BAR_CNT c.val) = s.reg (R.SYN_BAR_CNT c.val) := by
  have hstep := misuse_step s b cause k
  refine ⟨by rw [hstep.syn, State.setReg_syn, State.raise_syn], fun c => ?_⟩
  have hc := c.isLt
  rw [hstep.2.1 _ (memReg_of_range (.inl (by simp only [R.SYN_BAR_CNT]; omega))),
    State.reg_setReg_ne _ _ (by simp only [R.SYN_BAR_CNT, R.SYN_MISUSE]; omega), State.raise, State.reg_set_ne _ _ (barCnt_ne_event c.val)]

/-- R453: a signal to a counter that is not usable. -/
theorem signal_misuse {s : State} {b : Nat} (k : Option Nat) (hen : s.on F.SYN_CTRL_EN = true) (hv : s.ctrValid b = false) :
    s.signal b k = s.misuse b (s.badCause b 2) (k.getD 0) := by
  simp [State.signal, hen, hv]

/-- Settles O24: the lend is one list entry, and the signal is `State.misuse` with the cause of `State.badCause`. -/
theorem waitsLendPowerAndMisuseIsNoted : Obligations.WaitsLendPowerAndMisuseIsNoted := by
  unfold Obligations.WaitsLendPowerAndMisuseIsNoted
  refine ⟨?lend, ?misuse⟩
  case lend =>
    intro k s hclk hen hstalled hlent
    exact gives_ticked (f := fun t => t.powerLend k.toNat) rfl hclk (by simp [State.powerLend, hclk, hen, hstalled, hlent])
  case misuse =>
    intro b k s hclk hen hv
    obtain ⟨t, hnext, ht⟩ := answer_agree s (s.signal b.val (k.map BitVec.toNat))
    rw [signal_misuse _ hen hv] at ht
    obtain ⟨hsyn, hcounts⟩ := misuse_keeps s b.val (s.badCause b.val 2) ((k.map BitVec.toNat).getD 0)
    refine ⟨t, (exec_barrierSignal hclk b k).trans hnext, (ht.on _).trans (misuse_event _ _ _ _), ?_, ht.syn.trans hsyn,
      fun c => (ht.reg _).trans (hcounts c)⟩
    have hcause : s.badCause b.val 2 ≤ 7 := by unfold State.badCause; split <;> omega
    have hk : (k.map BitVec.toNat).getD 0 < 2 ^ 9 := by
      cases k with
      | none => decide
      | some k => exact k.isLt
    rw [ht.reg, misuse_latch, BitVec.toNat_ofNat, Nat.mod_eq_of_lt (by omega)]
    rfl

end Sys2Proof.Machine
end

section
/-! PROOFS. A missed handshake of a hearth (03_hearth_matrix_engines.md R88, 14_clocks_and_power.md R474). -/

namespace Sys2Proof.Machine

/-- R88: the counts of a pace miss in the hearth's registers, its command and its bubble. -/
def State.missCounted (s : State) (p : Nat) : State :=
  ((s.count (F.HRT_PACEMISS_VALUE p) 1).raise (F.HRT_EVENT_PACE_MISS p)).modHearth p fun h =>
    { h with run := h.run.map fun r => { r with misses := r.misses + 1 }, bubbleMiss := h.bubbleMiss + 1 }
/-- R474, R483: the rise of the quadrant's supply after a pace miss, unless VLOOP_EN holds it. -/
def State.missRaised (s : State) (q : Nat) : State :=
  if s.on F.PWR_CTRL_VLOOP_EN then (s.raiseVarr q (s.get F.PWR_VLOOP_MISS)).raise F.PWR_EVENT_PACE_RAISE else s
/-- R474: a miss in this period, which holds lowering off for eight periods. -/
def Pwr.noteMiss (w : Pwr) (q : Nat) : Pwr := { w with missed := w.missed.write false q true, block := w.block.write 0 q 8 }

theorem noteDelay_only (s : State) (k c : Nat) : ∃ y, s.noteDelay k c = { s with syn := y } := by
  unfold State.noteDelay
  split
  · exact ⟨s.syn, rfl⟩
  · exact ⟨_, rfl⟩
/-- R435: the note of the delay that a pace miss of a logical hearth leaves; it is the synchronisation part's own. -/
def State.missDelayed (s : State) : Option Nat → State
  | some k => s.noteDelay k 3
  | none => s
theorem missDelayed_only (s : State) (k : Option Nat) : ∃ y, s.missDelayed k = { s with syn := y } := by
  cases k with
  | none => exact ⟨s.syn, rfl⟩
  | some k => exact noteDelay_only s k 3
/-- R474: what a pace miss does once it is counted. -/
def State.missAnswered (s : State) (q : Nat) : State := (s.missRaised q).modPwr fun w => w.noteMiss q
/-- R88, R474: a pace miss is its counts, a note of the delay, the rise and the power manager's note. -/
theorem paceMiss_eq {s : State} (hclk : s.clocked = true) (p : Nat) :
    s.paceMiss p = ((s.missCounted p).missDelayed (s.logicalOf p)).missAnswered (pairQuad p) := by
  rw [State.paceMiss, if_neg (by simp [hclk])]
  unfold State.missAnswered State.missRaised State.missDelayed
  cases s.logicalOf p <;> rfl

section
variable (s : State) (p : Fin 136)

theorem missCounted_regs : (s.missCounted p.val).regs = ((s.count (F.HRT_PACEMISS_VALUE p.val) 1).raise (F.HRT_EVENT_PACE_MISS p.val)).regs := rfl
theorem missCounted_value : (s.missCounted p.val).get (F.HRT_PACEMISS_VALUE p.val) = min (s.get (F.HRT_PACEMISS_VALUE p.val) + 1) 0xFFFFFFFF := by
  rw [State.get_congr (missCounted_regs s p), State.raise,
    State.get_set_off _ _ (by simp only [F.HRT_PACEMISS_VALUE, F.HRT_EVENT_PACE_MISS]; omega), get_count _ _ _ (by simp [F.HRT_PACEMISS_VALUE]),
    show (F.HRT_PACEMISS_VALUE p.val).w = 32 from rfl]
  simp only [Nat.reducePow, Nat.reduceSub]
theorem missCounted_event : (s.missCounted p.val).on (F.HRT_EVENT_PACE_MISS p.val) = true := by
  rw [State.on_congr (missCounted_regs s p)]
  exact State.on_set_one _ _ (by simp [F.HRT_EVENT_PACE_MISS]) (by simp [F.HRT_EVENT_PACE_MISS])
theorem missCounted_regsBut : RegsBut [R.HRT_PACEMISS p.val, R.HRT_EVENT p.val] s (s.missCounted p.val) :=
  (regsBut_set s (F.HRT_PACEMISS_VALUE p.val) _ (.head _)).trans
    ((regsBut_set _ (F.HRT_EVENT_PACE_MISS p.val) 1 (.tail _ (.head _))).trans (regsBut_of_regs _ rfl))
/-- A register outside the HRT block is none that a pace miss counts in. -/
theorem missCounted_get {f : RF} (h : f.off < 0x800000) : (s.missCounted p.val).get f = s.get f :=
  (missCounted_regsBut s p).get (by
    simp only [R.HRT_PACEMISS, R.HRT_EVENT, List.mem_cons, List.not_mem_nil, or_false, not_or]
    omega)

theorem missRaised_regsBut (q : Nat) : RegsBut [R.PWR_Q_VARR q, R.PWR_EVENT] s (s.missRaised q) := by
  unfold State.missRaised
  split
  · exact (regsBut_set s (F.PWR_Q_VARR_UV q) _ (.head _)).trans (regsBut_set _ F.PWR_EVENT_PACE_RAISE 1 (.tail _ (.head _)))
  · exact regsBut_refl _ s
theorem missRaised_hrt (q : Nat) : (s.missRaised q).hrt = s.hrt := by unfold State.missRaised; split <;> rfl
theorem missRaised_pwr (q : Nat) : (s.missRaised q).pwr = s.pwr := by unfold State.missRaised; split <;> rfl
theorem missRaised_mem (q : Nat) : (s.missRaised q).mem = s.mem := by unfold State.missRaised; split <;> rfl
/-- R471, R474: with VLOOP_EN the supply rises by the programmed steps, up to 0.80 V. -/
theorem missRaised_on {s : State} {q : Nat} (hq : q < 4) (h : s.on F.PWR_CTRL_VLOOP_EN = true) :
    (s.missRaised q).get (F.PWR_Q_VARR_UV q) = min 8000 (s.get (F.PWR_Q_VARR_UV q) + 5 * s.get F.PWR_VLOOP_MISS) ∧
      (s.missRaised q).on F.PWR_EVENT_PACE_RAISE = true := by
  rw [State.missRaised, if_pos h]
  refine ⟨?_, State.on_set_one _ _ (by decide) (by decide)⟩
  rw [State.raise, State.get_set_off _ _ (by simp only [F.PWR_Q_VARR_UV, F.PWR_EVENT_PACE_RAISE]; omega)]
  exact State.get_set_lt _ _ _ (by simp [F.PWR_Q_VARR_UV])
    (Nat.lt_of_le_of_lt (Nat.min_le_left _ _) (by simp [F.PWR_Q_VARR_UV]))
/-- R483: without it the supply stays. -/
theorem missRaised_off {s : State} {q : Nat} (h : s.on F.PWR_CTRL_VLOOP_EN = false) : s.missRaised q = s := by
  rw [State.missRaised, if_neg (by simp [h])]
end

/-- Settles O25: a pace miss is `State.missCounted` and `State.missRaised`, whose registers are apart. -/
theorem paceMissRaisesSupply : Obligations.PaceMissRaisesSupply := by
  unfold Obligations.PaceMissRaisesSupply
  intro p s hclk
  have hp := p.isLt
  have hq : pairQuad p.val < 4 := by simp only [pairQuad]; omega
  obtain ⟨y, hy⟩ := missDelayed_only (s.missCounted p.val) (s.logicalOf p.val)
  obtain ⟨u, hu⟩ : ∃ u : State, u = { s.missCounted p.val with syn := y } := ⟨_, rfl⟩
  have hpace : s.paceMiss p.val = u.missAnswered (pairQuad p.val) := by rw [paceMiss_eq hclk, hy, ← hu]
  have huregs : u.regs = (s.missCounted p.val).regs := by rw [hu]
  have hupower : ∀ f : RF, f.off < 0x800000 → u.get f = s.get f := fun f hf =>
    (State.get_congr huregs f).trans (missCounted_get s p hf)
  have huon : ∀ f : RF, f.off < 0x800000 → u.on f = s.on f := fun f hf => by rw [State.on, State.on, hupower f hf]
  have huhrt : u.hrt = (s.missCounted p.val).hrt := by rw [hu]
  have hupwr : u.pwr = (s.missCounted p.val).pwr := by rw [hu]
  have humem : u.mem = (s.missCounted p.val).mem := by rw [hu]
  obtain ⟨t, hnext, ht⟩ := answer_agree s (s.paceMiss p.val)
  rw [hpace] at ht
  have htregs : t.regs = (u.missRaised (pairQuad p.val)).regs := ht.regs
  have hhearth : ∀ f : RF, 0x800000 ≤ f.off → t.get f = (s.missCounted p.val).get f := fun f hf => by
    rw [State.get_congr htregs, (missRaised_regsBut u _).get (by
      simp only [R.PWR_Q_VARR, R.PWR_EVENT, List.mem_cons, List.not_mem_nil, or_false, not_or]
      omega), State.get_congr huregs]
  have hhrt : t.hrt = (s.missCounted p.val).hrt := ((Agree.hrt ht).trans (missRaised_hrt u _)).trans huhrt
  have hmod : t.hearth p.val = (s.missCounted p.val).hearth p.val := by rw [State.hearth, hhrt, ← State.hearth]
  rw [State.missCounted, hearth_mod] at hmod
  have hvarr : (F.PWR_Q_VARR_UV (pairQuad p.val)).off < 0x800000 := by simp only [F.PWR_Q_VARR_UV]; omega
  refine ⟨t, (ticked_on s (fun t => t.paceMiss p.val) hclk).trans hnext, ?_, ?_, ?_, ?_, fun hen => ?_, fun hen => ?_, ?_, ?_, ?_⟩
  · rw [hhearth _ (by simp only [F.HRT_PACEMISS_VALUE]; omega), missCounted_value]
  · rw [State.on, hhearth _ (by simp only [F.HRT_EVENT_PACE_MISS]; omega), ← State.on, missCounted_event]
  · rw [hmod]; rfl
  · rw [hmod]; rfl
  · rw [State.get_congr htregs, State.on_congr htregs, ← hupower _ hvarr, ← hupower F.PWR_VLOOP_MISS (by decide)]
    exact missRaised_on hq ((huon F.PWR_CTRL_VLOOP_EN (by decide)).trans hen)
  · rw [State.get_congr htregs, State.on_congr htregs, missRaised_off ((huon F.PWR_CTRL_VLOOP_EN (by decide)).trans hen), hupower _ hvarr,
      huon _ (by decide)]
    exact ⟨rfl, rfl⟩
  · have hpwr : t.pwr = (u.missRaised (pairQuad p.val)).pwr.noteMiss (pairQuad p.val) := Agree.pwr ht
    rw [hpwr, missRaised_pwr, hupwr]; rfl
  · intro o ho
    have h1 := missRaised_regsBut u (pairQuad p.val) o (fun h => ho (List.mem_append_right [R.HRT_PACEMISS p.val, R.HRT_EVENT p.val] h))
    have h2 := missCounted_regsBut s p o (fun h => ho (List.mem_append_left [R.PWR_Q_VARR (pairQuad p.val), R.PWR_EVENT] h))
    rw [State.reg_congr htregs, h1, State.reg_congr huregs, h2]
  · exact (((Agree.mem ht).trans (missRaised_mem u _)).trans humem).trans rfl

end Sys2Proof.Machine
end

section
/-! PROOFS. What an instruction of a cricket does, a TRAP, and the results of the scalar group
(09_cricket_cores_and_vector_extensions.md R285 to R299, R318, R319). -/

namespace Sys2Proof.Machine

/-- R294: each command of a group executes the instruction at the pc with that group's words and meaning. -/
theorem exec_of_group {c : Fin 72} {i : Instr} {mine : Nat → Bool} {f : Nat → State → CRes} (h : (i, mine, f) ∈ crkGroups c) (s : State) :
    exec i s = s.ticked fun t => t.crkExec c.val mine f := by
  simp only [crkGroups, List.mem_cons, List.not_mem_nil, or_false] at h
  rcases h with ⟨rfl, rfl, rfl⟩ | ⟨rfl, rfl, rfl⟩ | ⟨rfl, rfl, rfl⟩ | ⟨rfl, rfl, rfl⟩ | ⟨rfl, rfl, rfl⟩ | ⟨rfl, rfl, rfl⟩ | ⟨rfl, rfl, rfl⟩ | ⟨rfl, rfl, rfl⟩ |
    ⟨rfl, rfl, rfl⟩ | ⟨rfl, rfl, rfl⟩ | ⟨rfl, rfl, rfl⟩ | ⟨rfl, rfl, rfl⟩ | ⟨rfl, rfl, rfl⟩ | ⟨rfl, rfl, rfl⟩ | ⟨rfl, rfl, rfl⟩ | ⟨rfl, rfl, rfl⟩ |
    ⟨rfl, rfl, rfl⟩ | ⟨rfl, rfl, rfl⟩ | ⟨rfl, rfl, rfl⟩ | ⟨rfl, rfl, rfl⟩ | ⟨rfl, rfl, rfl⟩ | ⟨rfl, rfl, rfl⟩ | ⟨rfl, rfl, rfl⟩ | ⟨rfl, rfl, rfl⟩ <;>
  rfl

/-- R294, R318: what the result of an instruction that was fetched at t makes of the cricket. -/
def State.crkResult (t : State) (c : Nat) : CRes → State
  | .done u next => u.crkWent c next
  | .trap cause tval => (t.crkTrap c cause tval).crkStepped c
  | .stay u => u.crkStepped c

section
variable {s t : State} {c w : Nat} (h : s.crkFetches c w t)
include h

theorem crkFetches_clocked : s.clocked = true := by
  obtain ⟨-, hgo, -, -⟩ := h
  simp only [State.crkGo, Bool.and_eq_true] at hgo
  exact hgo.1.1.1
theorem crkExec_mine {mine : Nat → Bool} (f : Nat → State → CRes) (hm : mine w = true) : s.crkExec c mine f = t.crkResult c (f w t) := by
  obtain ⟨hrel, hgo, hfetch, hres⟩ := h
  have hwake : s.crkWake c = s := by rw [State.crkWake, hrel, Bool.and_false, if_neg Bool.false_ne_true]
  cases hf : f w t <;>
    simp only [State.crkExec, hwake, hgo, hfetch, hres, hm, hf, Bool.not_true, Bool.false_eq_true, if_false, State.crkResult, State.crkWent]
theorem crkExec_other {mine : Nat → Bool} (f : Nat → State → CRes) (hm : mine w = false) : s.crkExec c mine f = s := by
  obtain ⟨hrel, hgo, hfetch, hres⟩ := h
  have hwake : s.crkWake c = s := by rw [State.crkWake, hrel, Bool.and_false, if_neg Bool.false_ne_true]
  simp only [State.crkExec, hwake, hgo, hfetch, hres, hm, Bool.not_true, Bool.not_false, Bool.false_eq_true, if_false, if_true]
end

/-- A command of a group whose word is fetched gives what the word's result makes of the cricket. -/
theorem gives_group {c : Fin 72} {i : Instr} {mine : Nat → Bool} {f : Nat → State → CRes} {w : Nat} {s t : State}
    (hi : (i, mine, f) ∈ crkGroups c) (h : s.crkFetches c.val w t) (hm : mine w = true) : Gives i s (t.crkResult c.val (f w t)) :=
  gives_ticked (exec_of_group hi s) (crkFetches_clocked h) (crkExec_mine h f hm)

/-- Settles O41. -/
theorem instructionRuns : Obligations.InstructionRuns := by
  unfold Obligations.InstructionRuns
  intro c i mine f w t s hi h
  refine ⟨fun hm => ?_, fun hm => gives_ticked (exec_of_group hi s) (crkFetches_clocked h) (crkExec_other h f hm)⟩
  have hg := gives_group hi h hm
  unfold State.crkResult at hg
  exact hg

/-! ### TRAP -/

/-- R288: a fetch gives its word at a state in which the cricket still waits for nothing. -/
theorem crkFetch_waiting {s t : State} {c w : Nat} (h : s.crkFetch c = .word w t) : (t.cricket c).waiting = (s.cricket c).waiting := by
  have hread : ∀ (u : State) (r : Rd) (f : Crk → Crk), r = u.readAt (u.isSecure c) ((s.cricket c).pc.toNat / 64 * 64) 64 → u.crk = s.crk →
      (∀ k, (f k).waiting = k.waiting) → ((r.st.modCrk c f).cricket c).waiting = (s.cricket c).waiting := by
    intro u r f hr hu hf
    rw [crk_mod, hf, crk_eq ((MemStep.crk (by rw [hr]; exact step_readAt _ _ _ _)).trans hu)]
  unfold State.crkFetch at h
  dsimp only at h
  split at h
  · cases h
  split at h
  · cases h; rfl
  split at h
  · cases h
  split at h
  · cases h; rfl
  split at h
  · cases h
  split at h
  · split at h
    · split at h
      · cases h
      · cases h
        exact hread _ _ _ rfl rfl fun _ => rfl
    · cases h; rfl
  · split at h
    · cases h
    · cases h
      exact hread _ _ _ rfl rfl fun _ => rfl

theorem crkFetches_waiting {s t : State} {c w : Nat} (h : s.crkFetches c w t) : (t.cricket c).waiting = false := by
  obtain ⟨-, hgo, hfetch, -⟩ := h
  rw [crkFetch_waiting hfetch]
  simp only [State.crkGo, Bool.and_eq_true, Bool.not_eq_true'] at hgo
  exact hgo.1.2

/-- R322: without a single step the cricket goes on. -/
theorem crkStepped_free {s : State} {c : Nat} (h : s.on (F.CRK_CTRL_SSTEP c) = false) : s.crkStepped c = s := by
  rw [State.crkStepped, h, Bool.false_and, Bool.false_and, if_neg Bool.false_ne_true]

section
variable (s : State) (c cause : Nat) (tval : DWord)

/-- R318: the registers that show a trap. -/
def State.trapShown : State := (s.raise (F.CRK_EVENT_TRAP c)).setReg (R.CRK_TRAP c) (BitVec.ofNat 32 (cause + (s.cricket c).level * 2 ^ 8 + 2 ^ 31))
theorem trapShown_regsBut : RegsBut [R.CRK_EVENT c, R.CRK_TRAP c] s (s.trapShown c cause) :=
  (regsBut_set s (F.CRK_EVENT_TRAP c) 1 (.head _)).trans (regsBut_setReg _ _ (.tail _ (.head _)))
theorem trapShown_event : (s.trapShown c cause).on (F.CRK_EVENT_TRAP c) = true := by
  rw [State.trapShown, State.on_setReg_off _ _ (by simp only [F.CRK_EVENT_TRAP, R.CRK_TRAP]; omega)]
  exact State.on_set_one _ _ (by simp [F.CRK_EVENT_TRAP]) (by simp [F.CRK_EVENT_TRAP])
theorem trapShown_ctrl {f : RF} (hf : f.off = R.CRK_CTRL c) : (s.trapShown c cause).get f = s.get f :=
  (trapShown_regsBut s c cause).get (by
    simp only [hf, R.CRK_CTRL, R.CRK_EVENT, R.CRK_TRAP, List.mem_cons, List.not_mem_nil, or_false, not_or]; omega)
theorem setReg_only (o : Nat) (v : Word) : ∃ r, s.setReg o v = { s with regs := r } := ⟨_, rfl⟩
theorem trapShown_only : ∃ r, s.trapShown c cause = { s with regs := r } := by
  obtain ⟨r, hr⟩ := setReg_only (s.raise (F.CRK_EVENT_TRAP c)) (R.CRK_TRAP c) (BitVec.ofNat 32 (cause + (s.cricket c).level * 2 ^ 8 + 2 ^ 31))
  exact ⟨r, hr⟩
/-- R318: the cricket in a trap. -/
def Crk.trapped (k : Crk) (cause : Nat) (tval : DWord) : Crk :=
  { k with tcause := BitVec.ofNat 64 cause, tval := tval, tpc := k.pc, tlevel := k.level, inTrap := true, level := max 1 k.level, pc := k.tvec }
theorem crkTrap_outside (h : (s.cricket c).inTrap = false) :
    s.crkTrap c cause tval = (s.trapShown c cause).modCrk c fun k => k.trapped cause tval := by
  have e : ¬ (s.cricket c).inTrap = true := by simp [h]
  simp only [State.crkTrap, if_neg e]
  rfl
theorem crkTrap_inside (h : (s.cricket c).inTrap = true) : s.crkTrap c cause tval =
    (((s.trapShown c cause).raise (F.CRK_EVENT_DOUBLE c)).crkRecord c (s.cricket c).pc.toNat cause).crkHalt c := by
  simp only [State.crkTrap, if_pos h]
  rfl
end

theorem ctrl_not_memReg (c : Fin 72) {o : Nat} (h1 : R.CRK_CTRL c.val ≤ o) (h2 : o < R.CRK_CTRL c.val + 0x1000) : memReg o = false := by
  have := c.isLt
  simp only [R.CRK_CTRL] at h1 h2
  have hq : o / 0x100000 = 0xD := by omega
  rw [memReg, hq]; decide

/-- R319: what the halt of a double trap leaves: the cricket halted at its address, its events, and CRK_CTRL. -/
theorem double_halts (c : Fin 72) (s : State) (a cause : Nat) (hh : (s.cricket c.val).halted = false) (hw : (s.cricket c.val).waiting = false) :
    let u := ((s.raise (F.CRK_EVENT_DOUBLE c.val)).crkRecord c.val a cause).crkHalt c.val
    (u.cricket c.val).halted = true ∧ u.on (F.CRK_EVENT_DOUBLE c.val) = true ∧ u.on (F.CRK_EVENT_HALTED c.val) = true ∧
      (∀ f : RF, f.off = R.CRK_CTRL c.val → u.get f = s.get f) ∧ (u.cricket c.val).pc = (s.cricket c.val).pc := by
  intro u
  obtain ⟨v, hv⟩ : ∃ v, v = (s.raise (F.CRK_EVENT_DOUBLE c.val)).crkRecord c.val a cause := ⟨_, rfl⟩
  have hstep : MemStep (s.raise (F.CRK_EVENT_DOUBLE c.val)) v := by rw [hv]; exact step_hwFault _ _ _ _ _ _
  have hcrk : v.cricket c.val = s.cricket c.val := crk_eq (MemStep.crk hstep) _
  obtain ⟨hrest, -, -, hregs, -⟩ := crkRest_only v c.val
  rw [hcrk] at hrest hregs
  have hu : u = (v.crkRest c.val).raise (F.CRK_EVENT_HALTED c.val) := by
    show (State.crkHalt _ _) = _
    rw [← hv, State.crkHalt, hcrk, if_neg (by simp [hh])]
  have hget : ∀ f : RF, memReg f.off = false → (v.crkRest c.val).get f = (s.raise (F.CRK_EVENT_DOUBLE c.val)).get f := fun f hf => by
    rw [← memstep_get hstep hf, State.get, State.get, hregs hw]
  rw [hu]
  refine ⟨?_, ?_, State.on_set_one _ _ (by simp [F.CRK_EVENT_HALTED]) (by simp [F.CRK_EVENT_HALTED]), fun f hf => ?_, ?_⟩
  · show ((v.crkRest c.val).cricket c.val).halted = true
    rw [hrest]
  · rw [State.raise, State.on_set_bits _ _ (by simp [F.CRK_EVENT_DOUBLE]) (by simp [F.CRK_EVENT_DOUBLE, F.CRK_EVENT_HALTED]), State.on,
      hget _ (ctrl_not_memReg c (by simp only [R.CRK_CTRL, F.CRK_EVENT_DOUBLE]; omega) (by simp only [R.CRK_CTRL, F.CRK_EVENT_DOUBLE]; omega)), ← State.on]
    exact State.on_set_one _ _ (by simp [F.CRK_EVENT_DOUBLE]) (by simp [F.CRK_EVENT_DOUBLE])
  · rw [State.raise, State.get_set_off _ _ (by simp only [hf, R.CRK_CTRL, F.CRK_EVENT_HALTED]; omega),
      hget _ (ctrl_not_memReg c (by rw [hf]) (by omega)), State.raise,
      State.get_set_off _ _ (by simp only [hf, R.CRK_CTRL, F.CRK_EVENT_DOUBLE]; omega)]
  · show ((v.crkRest c.val).cricket c.val).pc = _
    rw [hrest]

/-- Settles O42. -/
theorem trapIsTaken : Obligations.TrapIsTaken := by
  unfold Obligations.TrapIsTaken
  intro c w t s h hof hok hstep
  have hg := gives_group (i := .trap c) (f := fun w _ => trapOf w) (by simp [crkGroups]) h hof
  simp only [trapOf, if_pos hok, State.crkResult] at hg
  refine ⟨fun hin => ?_, fun hin hh => ?_⟩
  · rw [crkTrap_outside _ _ _ _ hin] at hg
    obtain ⟨v, hv⟩ : ∃ v, v = t.trapShown c.val 4 := ⟨_, rfl⟩
    have hvb := trapShown_regsBut t c.val 4
    have hvs := trapShown_ctrl t c.val 4 (f := F.CRK_CTRL_SSTEP c.val) rfl
    have hve := trapShown_event t c.val 4
    obtain ⟨r, hr⟩ := trapShown_only t c.val 4
    have hvc : v.crk = t.crk := by rw [hv, hr]
    have hvm : v.mem = t.mem := by rw [hv, hr]
    rw [← hv] at hg hvb hvs hve
    rw [crkStepped_free (by rw [State.on, State.get_congr (show (v.modCrk _ _).regs = v.regs from rfl), hvs, ← State.on]; exact hstep)] at hg
    obtain ⟨u, hu, ha⟩ := hg
    refine ⟨u, hu, ?_, ?_, fun d hd => ?_, ?_, (Agree.mem ha).trans hvm⟩
    · rw [crk_eq (Agree.crk ha), crk_mod, crk_eq hvc]; rfl
    · rw [ha.on]; exact hve
    · rw [crk_eq (Agree.crk ha), crk_mod_ne _ _ _ _ (fun e => hd (Fin.ext e)), crk_eq hvc]
    · exact (hvb.trans (regsBut_of_regs _ (show (v.modCrk _ _).regs = v.regs from rfl))).agree ha
  · obtain ⟨r, hr⟩ := trapShown_only t c.val 4
    have hcrk : (t.trapShown c.val 4).cricket c.val = t.cricket c.val := crk_eq (by rw [hr]) _
    have hd := double_halts c (t.trapShown c.val 4) (t.cricket c.val).pc.toNat 4 (by rw [hcrk, hh]) (by rw [hcrk, crkFetches_waiting h])
    rw [crkTrap_inside _ _ _ _ hin] at hg
    dsimp only at hd
    obtain ⟨v, hv⟩ : ∃ v, v = (((t.trapShown c.val 4).raise (F.CRK_EVENT_DOUBLE c.val)).crkRecord c.val (t.cricket c.val).pc.toNat 4).crkHalt c.val := ⟨_, rfl⟩
    rw [← hv] at hg hd
    obtain ⟨hhalt, hdouble, hhalted, hctrl, hpc⟩ := hd
    rw [crkStepped_free (by
      rw [State.on, hctrl _ rfl, trapShown_ctrl t c.val 4 (f := F.CRK_CTRL_SSTEP c.val) rfl, ← State.on]; exact hstep)] at hg
    obtain ⟨u, hu, ha⟩ := hg
    refine ⟨u, hu, ?_, ?_, ?_, ?_, ?_⟩
    · rw [crk_eq (Agree.crk ha), hhalt]
    · rw [ha.on, hdouble]
    · rw [ha.on, hhalted]
    · rw [ha.get, hctrl _ rfl, trapShown_ctrl t c.val 4 rfl]
    · rw [crk_eq (Agree.crk ha), hpc, hcrk]

end Sys2Proof.Machine
end

section
/-! PROOFS. Results of the scalar group, of branches, of SETVL and SETWL, and of accesses to the local store
(09_cricket_cores_and_vector_extensions.md R285, R289, R294, R296, R299). -/

namespace Sys2Proof.Machine

theorem isSet_of_layout {w : Nat} {x : BitVec 15} (hx : Config.setLength (BitVec.ofNat 32 w) = some x) (long : Bool) :
    isSet long w = (x.getLsbD 0 == long) := by simp only [isSet, hx]

/-- R292: an aligned access to the local store that the level permits passes its checks. -/
theorem vCheck_store {s : State} {k : Crk} {a n : Nat} {store : Bool} (ha : a % n = 0) (hb : storeBase ≤ a)
    (hl : k.level = 0 → k.allows a n store = true) : s.vCheck k a n store = none := by
  have hcheck : k.checkAccess a n store = none := by
    rw [Crk.checkAccess, if_neg (by simp [ha])]
    by_cases h0 : k.level = 0
    · simp [hl h0]
    · simp [h0]
  have hnot : ¬ (a < regBase ∧ (s.locate a).isNone = true) := fun h => by
    have := h.1
    simp only [regBase, storeBase] at this hb
    omega
  simp only [State.vCheck, hcheck, if_neg hnot]

/-- R286: a load from the local store of bytes none of which is uncorrectable. -/
theorem crkLoad_store {s : State} {c a n : Nat} (hb : storeBase ≤ a)
    (hbad : ∀ b ∈ (s.cricket c).storeBad, b < a - storeBase ∨ a - storeBase + n ≤ b) :
    s.crkLoad c a n = ((List.range n).map fun i => (s.cricket c).store.look 0 (a - storeBase + i), none, s) := by
  have hany : (s.cricket c).storeBad.any (fun b => decide (a - storeBase ≤ b) && decide (b < a - storeBase + n)) = false := by
    rw [List.any_eq_false]
    intro b hmem
    have := hbad b hmem
    simp only [Bool.and_eq_true, decide_eq_true_eq, not_and]
    omega
  rw [State.crkLoad, if_pos hb, hany, if_neg Bool.false_ne_true]

/-- R310: the local store after a store of bytes. -/
def Crk.storePut (k : Crk) (a : Nat) (bs : List Byte) : Crk :=
  { k with
    storeBad := k.storeBad.filter fun b => !(decide (a - storeBase ≤ b) && decide (b < a - storeBase + bs.length)),
    store := bs.zipIdx.foldl (fun (m : Sparse Byte) (p : Byte × Nat) => Sparse.write m 0 (a - storeBase + p.2) p.1) k.store }
theorem crkStore_store {s : State} {c a : Nat} (bs : List Byte) (hb : storeBase ≤ a) :
    s.crkStore c a bs = s.modCrk c fun k => k.storePut a bs := by rw [State.crkStore, if_pos hb]; rfl

/-- The end of an instruction moves the pc and nothing else of the local store, the registers or memory. -/
theorem crkWent_store (s : State) (c : Nat) (next : DWord) : ((s.crkWent c next).cricket c).store = (s.cricket c).store ∧
    ((s.crkWent c next).cricket c).g = (s.cricket c).g ∧ ((s.crkWent c next).cricket c).pc = next ∧ (s.crkWent c next).mem = s.mem := by
  obtain ⟨hstore, hg, hpc, hmem⟩ := stepped_store (s.modCrk c fun k => { k with pc := next }) c
  rw [crk_mod] at hstore hg hpc
  exact ⟨hstore, hg, hpc, hmem⟩

theorem setG_pc (k : Crk) (i : Nat) (v : DWord) : (k.setG i v).pc = k.pc := by unfold Crk.setG; split <;> rfl
/-- An instruction that only writes its cricket's registers, and not the pc, is followed by the next one. -/
theorem seq_modCrk (t : State) (c : Nat) (f : Crk → Crk) (h : (f (t.cricket c)).pc = (t.cricket c).pc) :
    t.crkResult c ((t.modCrk c f).seq c) = (t.modCrk c f).crkWent c ((t.cricket c).pc + 4) := by
  rw [State.seq, crk_mod, h]; rfl

section
variable {c : Fin 72} {w : Nat} {t s : State} (h : s.crkFetches c.val w t)
include h

theorem scalarInteger_gives {v : DWord} (hof : ofClass 0 1 w = true) (hw : wClass w = 1 ∨ w % 2 ^ 7 = 0)
    (hv : Config.scalarResult (wClass w == 1) (wOp w) ((t.cricket c.val).gReg (wA w))
      (if wClass w = 1 then BitVec.ofInt 64 (wImm w) else (t.cricket c.val).gReg (wB w)) = some v) :
    Gives (.scalarInteger c) s ((t.modCrk c.val fun k => k.setG (wD w) v).crkWent c.val ((t.cricket c.val).pc + 4)) := by
  have hg := gives_group (i := .scalarInteger c) (f := scalarIntegerOf c.val) (by simp [crkGroups]) h hof
  have hlegal : ¬ ((!(wClass w == 1)) = true ∧ w % 2 ^ 7 ≠ 0) := fun ⟨h1, h2⟩ => hw.elim (fun e => by simp [e] at h1) h2
  have hres : scalarIntegerOf c.val w t = (t.modCrk c.val fun k => k.setG (wD w) v).seq c.val := by
    simp only [scalarIntegerOf, if_neg hlegal, beq_iff_eq, hv]
  rwa [hres, seq_modCrk _ _ _ (setG_pc _ _ _)] at hg

theorem branch_gives {taken : Bool} (hof : ofClass 3 3 w = true)
    (hv : Config.branchTaken (wOp w) ((t.cricket c.val).gReg (wD w)) ((t.cricket c.val).gReg (wA w)) = some taken) :
    Gives (.branch c) s (t.crkWent c.val (if taken then Config.branchBase (t.cricket c.val).pc + BitVec.ofInt 64 (4 * wImm w) else (t.cricket c.val).pc + 4)) := by
  have hg := gives_group (i := .branch c) (f := branchOf c.val) (by simp [crkGroups]) h hof
  simp only [branchOf, hv] at hg
  cases taken with
  | false => exact hg
  | true => exact hg

/-- R296, R299: SETVL and SETWL, whose vector registers hold `cap` bits. -/
theorem setLength_gives {i : Instr} {x : BitVec 15} {long : Bool} {n : Nat} {f : Crk → Crk} (hi : (i, isSet long, setLenOf c.val) ∈ crkGroups c)
    (hx : Config.setLength (BitVec.ofNat 32 w) = some x) (hl : x.getLsbD 0 = long)
    (hn : n = min ((t.cricket c.val).gReg (x.toNat / 2 ^ 6 % 32)).toNat ((if long then 32768 else 512) / (8 * 2 ^ (x.toNat / 2 ^ 11 % 4))))
    (hf : ∀ k, f k = if long then { k with wl := n, tz := x.toNat.testBit 13, mz := x.toNat.testBit 14 } else { k with vl := n, tz := x.toNat.testBit 13, mz := x.toNat.testBit 14 }) :
    Gives i s ((t.modCrk c.val fun k => (f k).setG (x.toNat / 2 % 32) (BitVec.ofNat 64 n)).crkWent c.val ((t.cricket c.val).pc + 4)) := by
  have hg := gives_group hi h (by rw [isSet_of_layout hx, hl]; exact beq_self_eq_true long)
  have hbit : x.toNat.testBit 0 = long := hl
  have hres : setLenOf c.val w t = (t.modCrk c.val fun k => (f k).setG (x.toNat / 2 % 32) (BitVec.ofNat 64 n)).seq c.val := by
    simp only [setLenOf, hx, hbit, State.modCrk, hf, hn]
  rw [hres, seq_modCrk _ _ _ (by rw [setG_pc, hf]; split <;> rfl)] at hg
  exact hg

/-- R289, R310: a store of n bytes to the local store. -/
theorem store_does {m : BitVec 4} {a n : Nat} (hof : ofClass 2 2 w = true) (hm : Config.scalarMem (wOp w) = some m) (hn : n = 2 ^ (m.toNat / 2 % 4))
    (ha : a = ((t.cricket c.val).gReg (wA w) + BitVec.ofInt 64 (wImm w)).toNat) (hal : a % n = 0) (hb : storeBase ≤ a)
    (hl : (t.cricket c.val).level = 0 → (t.cricket c.val).allows a n (m.getLsbD 0) = true) (hst : m.getLsbD 0 = true) :
    ∃ u, exec (.scalarLoadStore c) s = .next u ∧
      (∀ j, (u.cricket c.val).store.look 0 j = if a - storeBase ≤ j ∧ j < a - storeBase + n
        then BitVec.ofNat 8 (((t.cricket c.val).gReg (wD w)).toNat / 256 ^ (j - (a - storeBase))) else (t.cricket c.val).store.look 0 j) ∧
      (u.cricket c.val).g = (t.cricket c.val).g ∧ (u.cricket c.val).pc = (t.cricket c.val).pc + 4 ∧ u.mem = t.mem := by
  obtain ⟨u, hu, hagree⟩ := gives_group (i := .scalarLoadStore c) (f := scalarMemoryOf c.val) (by simp [crkGroups]) h hof
  rw [hst] at hl
  obtain ⟨bs, hbs⟩ : ∃ bs, bs = leBytes n ((t.cricket c.val).gReg (wD w)).toNat := ⟨_, rfl⟩
  have hres : scalarMemoryOf c.val w t = (t.modCrk c.val fun k => k.storePut a bs).seq c.val := by
    simp only [scalarMemoryOf, hm, scalarAddr, ← ha, ← hn, vCheck_store hal hb hl, hst, if_true, crkStore_store _ hb, hbs]
  rw [hres, seq_modCrk _ _ _ (by rfl)] at hagree
  obtain ⟨hstore, hg, hpc, hmem⟩ := crkWent_store (t.modCrk c.val fun k => k.storePut a bs) c.val ((t.cricket c.val).pc + 4)
  rw [crk_mod] at hstore hg
  have hcrk := crk_eq (Agree.crk hagree) c.val
  refine ⟨u, hu, fun j => ?_, ?_, ?_, ?_⟩
  · rw [hcrk, hstore, hbs]; exact store_look _ _ _ _ _
  · rw [hcrk, hg]; rfl
  · rw [hcrk, hpc]
  · rw [hagree.mem, hmem]; rfl

/-- R289: a load of n bytes of the local store. -/
theorem load_gives {m : BitVec 4} {a n : Nat} (hof : ofClass 2 2 w = true) (hm : Config.scalarMem (wOp w) = some m) (hn : n = 2 ^ (m.toNat / 2 % 4))
    (ha : a = ((t.cricket c.val).gReg (wA w) + BitVec.ofInt 64 (wImm w)).toNat) (hal : a % n = 0) (hb : storeBase ≤ a)
    (hl : (t.cricket c.val).level = 0 → (t.cricket c.val).allows a n (m.getLsbD 0) = true) (hst : m.getLsbD 0 = false)
    (hbad : ∀ b ∈ (t.cricket c.val).storeBad, b < a - storeBase ∨ a - storeBase + n ≤ b) :
    Gives (.scalarLoadStore c) s ((t.modCrk c.val fun k => k.setG (wD w)
      (extend n (leNat ((List.range n).map fun i => (t.cricket c.val).store.look 0 (a - storeBase + i))) (m.getLsbD 3))).crkWent c.val ((t.cricket c.val).pc + 4)) := by
  have hg := gives_group (i := .scalarLoadStore c) (f := scalarMemoryOf c.val) (by simp [crkGroups]) h hof
  rw [hst] at hl
  obtain ⟨v, hv⟩ : ∃ v, v = extend n (leNat ((List.range n).map fun i => (t.cricket c.val).store.look 0 (a - storeBase + i))) (m.getLsbD 3) := ⟨_, rfl⟩
  have hres : scalarMemoryOf c.val w t = (t.modCrk c.val fun k => k.setG (wD w) v).seq c.val := by
    simp only [scalarMemoryOf, hm, scalarAddr, ← ha, ← hn, vCheck_store hal hb hl, hst, Bool.false_eq_true, if_false, crkLoad_store hb hbad, hv]
  rw [hres, seq_modCrk _ _ _ (setG_pc _ _ _)] at hg
  rw [← hv]; exact hg
end

/-- Settles O43. -/
theorem scalarResults : Obligations.ScalarResults := by
  unfold Obligations.ScalarResults
  intro c w t s h
  refine ⟨fun v hof hw hv => scalarInteger_gives h hof hw hv, fun taken hof hv => branch_gives h hof hv, fun x e n hx he => ⟨fun hl hn => ?_, fun hl hn => ?_⟩,
    fun m a n hof hm hn ha hal hb hl => ⟨fun hst => ?_, fun hst hbad => ?_⟩⟩
  · rw [he] at hn
    exact setLength_gives h (long := false) (f := fun k => { k with vl := n, tz := x.toNat.testBit 13, mz := x.toNat.testBit 14 }) (by simp [crkGroups]) hx hl hn fun _ => rfl
  · rw [he] at hn
    exact setLength_gives h (long := true) (f := fun k => { k with wl := n, tz := x.toNat.testBit 13, mz := x.toNat.testBit 14 }) (by simp [crkGroups]) hx hl hn fun _ => rfl
  · exact store_does h hof hm hn ha hal hb hl hst
  · exact load_gives h hof hm hn ha hal hb hl hst hbad

end Sys2Proof.Machine
end

section
/-! PROOFS. Starting, halting, resetting and mailing a cricket (09_cricket_cores_and_vector_extensions.md R311, R322, R324). -/

namespace Sys2Proof.Machine

/-- R322, R515: SSTEP as a write of CRK_CTRL leaves it. -/
def State.stepPut (s : State) (c : Nat) (b : Bool) : State := s.put (F.CRK_CTRL_SSTEP c) b

section
variable (s : State) (c v : Nat) (b : Bool)

theorem stepPut_regsBut : RegsBut [R.CRK_CTRL c] s (s.stepPut c b) := regsBut_set _ _ _ (.head _)
theorem stepPut_cricket (d : Nat) : (s.stepPut c b).cricket d = s.cricket d := rfl
theorem stepPut_mem : (s.stepPut c b).mem = s.mem := rfl
theorem stepPut_pair : (s.stepPut c b).pair (R.CRK_ENTRY_LO c) = s.pair (R.CRK_ENTRY_LO c) := by
  have hreg : ∀ o, o ≠ R.CRK_CTRL c → (s.stepPut c b).reg o = s.reg o := fun o ho => stepPut_regsBut s c b o (by simpa using ho)
  rw [State.pair, State.pair, hreg _ (by simp only [R.CRK_ENTRY_LO, R.CRK_CTRL]; omega), hreg _ (by simp only [R.CRK_ENTRY_LO, R.CRK_CTRL]; omega)]
theorem stepPut_phys (h : c < 72) (l : Nat) : (s.stepPut c b).crkPhys l = s.crkPhys l := by
  have hget : ∀ f : RF, f.off = 0xD80000 + 4 * l → (s.stepPut c b).get f = s.get f := fun f hf =>
    (stepPut_regsBut s c b).get (by simp only [hf, R.CRK_CTRL, List.mem_cons, List.not_mem_nil, or_false]; omega)
  rw [State.crkPhys, State.crkPhys, State.on, State.on, hget (F.CRK_MAP_VALID l) rfl, hget (F.CRK_MAP_PHYS l) rfl]
theorem stepPut_qid (h : c < 72) (d : Nat) : (s.stepPut c b).crkQid d = s.crkQid d := by
  simp only [State.crkQid, State.crkLogical, stepPut_phys s c b h]

theorem crkCtrl_run (h : v.testBit 1 = false) (h0 : v.testBit 0 = true) : ∃ b, s.crkCtrl c v = (s.stepPut c b).crkRun c := by
  refine ⟨v.testBit 2 && (s.debugs c || s.on (F.CRK_CTRL_SSTEP c)), ?_⟩
  simp only [State.crkCtrl, h, h0, Bool.false_eq_true, if_false, if_true, State.stepPut]
theorem crkCtrl_off (h : v.testBit 1 = false) (h0 : v.testBit 0 = false) (hc : c < 68) : ∃ b, s.crkCtrl c v = (s.stepPut c b).crkOff c := by
  refine ⟨v.testBit 2 && (s.debugs c || s.on (F.CRK_CTRL_SSTEP c)), ?_⟩
  simp only [State.crkCtrl, h, h0, Bool.false_eq_true, if_false, hc, true_or, if_true, State.stepPut]
/-- R322: a reset of a halted cricket whose RUN stays 0. -/
theorem crkCtrl_reset (h : v.testBit 1 = true) (h0 : v.testBit 0 = false) (hh : (s.cricket c).halted = true) :
    ∃ t, s.crkCtrl c v = t ∧ t.crk = (s.crkReset c).crk ∧ RegsBut [R.CRK_CTRL c] s t ∧ t.mem = s.mem := by
  have hreset : s.crkReset c = s.modCrk c fun k => { k with g := [], v := [], w := [], msk := [], vl := 0, wl := 0, tz := false, mz := false, fpstat := 0, inTrap := false } := by
    rw [State.crkReset, if_pos hh]
  have hoff : ∀ u : State, (u.cricket c).halted = true → u.crkOff c = u.set (F.CRK_CTRL_RUN c) 0 := fun u hu => by
    rw [State.crkOff, State.crkHalt, if_pos hu]
  obtain ⟨u, hu⟩ : ∃ u, u = s.crkReset c := ⟨_, rfl⟩
  obtain ⟨b, hput⟩ : ∃ b, b = (v.testBit 2 && (s.debugs c || s.on (F.CRK_CTRL_SSTEP c))) := ⟨_, rfl⟩
  have huh : ((u.stepPut c b).cricket c).halted = true := by rw [stepPut_cricket, hu, hreset, crk_mod]; exact hh
  have hb : RegsBut [R.CRK_CTRL c] s (u.stepPut c b) :=
    (regsBut_of_regs _ (by rw [hu, hreset]; rfl)).trans (stepPut_regsBut u c b)
  have hm : (u.stepPut c b).mem = s.mem := by rw [stepPut_mem, hu, hreset]; rfl
  refine ⟨_, rfl, ?_⟩
  simp only [State.crkCtrl, h, h0, Bool.false_eq_true, if_false, if_true, ← hu, ← hput]
  rw [show u.put (F.CRK_CTRL_SSTEP c) b = u.stepPut c b from rfl]
  split
  · rw [hoff _ huh]
    exact ⟨rfl, hb.trans (regsBut_set _ _ _ (.head _)), (State.set_mem _ _ _).trans hm⟩
  · exact ⟨rfl, hb, hm⟩
end

theorem get_bit (s : State) {f : RF} (hw : f.w = 1) : s.get f < 2 := by
  have := State.get_lt s f
  rwa [hw] at this

section
variable (c : Fin 72) (who : Requester) (s : State) (hb : s.busOn = true) (hs : c.val < 68 ∨ s.isSecure who.val = true)
include hb hs

theorem run_starts (hh : (s.cricket c.val).halted = true) : ∃ t, exec (.cricketRun who c) s = .next t ∧
    t.cricket c.val = { s.cricket c.val with halted := false, level := 1, rom := false, pc := BitVec.ofNat 64 (s.pair (R.CRK_ENTRY_LO c.val)) } ∧
    t.on (F.CRK_CTRL_RUN c.val) = true ∧ (∀ d : Fin 72, d ≠ c → t.cricket d.val = s.cricket d.val) ∧ RegsBut [R.CRK_CTRL c.val] s t ∧ t.mem = s.mem := by
  have hbit := get_bit s (f := F.CRK_CTRL_SSTEP c.val) rfl
  obtain ⟨v, hv⟩ : ∃ v, v = 1 + 4 * s.get (F.CRK_CTRL_SSTEP c.val) := ⟨_, rfl⟩
  obtain ⟨b, hwrite⟩ : ∃ b, s.busWrite who.val (R.CRK_CTRL c.val) 4 v = (s.stepPut c.val b).crkRun c.val := by
    rw [write_CRK_CTRL s who.val c v hb hs, Nat.mod_eq_of_lt (by omega)]
    exact crkCtrl_run s c.val v (by rw [Nat.testBit_eq_decide_div_mod_eq]; simp; omega) (by rw [Nat.testBit_eq_decide_div_mod_eq]; simp; omega)
  obtain ⟨hcrk, hon, hother, hmem, hreg⟩ := crkRun_only (s.stepPut c.val b) c.val hh
  obtain ⟨t, hnext, ht⟩ := answer_agree s ((s.stepPut c.val b).crkRun c.val)
  refine ⟨t, (?_ : exec (.cricketRun who c) s = _).trans hnext, ?_, (ht.on _).trans hon, fun d hd => ?_, ?_, ht.mem.trans hmem⟩
  · rw [← hwrite, hv]; rfl
  · rw [crk_eq ht.crk, hcrk, stepPut_pair, stepPut_cricket]
  · rw [crk_eq ht.crk, hother _ fun e => hd (Fin.ext e), stepPut_cricket]
  · exact ((stepPut_regsBut s c.val b).trans fun o ho => hreg o (by simpa using ho)).agree ht

theorem halt_stops (hh : (s.cricket c.val).halted = false) (hc : c.val < 68) : ∃ t, exec (.cricketHalt who c) s = .next t ∧
    t.cricket c.val = { s.cricket c.val with halted := true, waiting := false, syncing := false } ∧ t.on (F.CRK_CTRL_RUN c.val) = false ∧
    t.on (F.CRK_EVENT_HALTED c.val) = true ∧ (∀ d : Fin 72, d ≠ c → t.cricket d.val = s.cricket d.val) ∧
    ((s.cricket c.val).waiting = true → ∀ w ∈ t.syn.waiters, w.qid ≠ s.crkQid c.val) ∧
    ((s.cricket c.val).waiting = false → RegsBut [R.CRK_CTRL c.val, R.CRK_EVENT c.val] s t) ∧ t.mem = s.mem := by
  have hbit := get_bit s (f := F.CRK_CTRL_SSTEP c.val) rfl
  obtain ⟨v, hv⟩ : ∃ v, v = 4 * s.get (F.CRK_CTRL_SSTEP c.val) := ⟨_, rfl⟩
  obtain ⟨b, hwrite⟩ : ∃ b, s.busWrite who.val (R.CRK_CTRL c.val) 4 v = (s.stepPut c.val b).crkOff c.val := by
    rw [write_CRK_CTRL s who.val c v hb hs, Nat.mod_eq_of_lt (by omega)]
    exact crkCtrl_off s c.val v (by rw [Nat.testBit_eq_decide_div_mod_eq]; simp; omega) (by rw [Nat.testBit_eq_decide_div_mod_eq]; simp; omega) hc
  obtain ⟨hcrk, hrun, hevent, hother, hmem, hreg, hwait⟩ := crkOff_only (s.stepPut c.val b) c.val hh
  obtain ⟨t, hnext, ht⟩ := answer_agree s ((s.stepPut c.val b).crkOff c.val)
  refine ⟨t, (?_ : exec (.cricketHalt who c) s = _).trans hnext, ?_, (ht.on _).trans hrun, (ht.on _).trans hevent, fun d hd => ?_, fun hw w hmw => ?_,
    fun hw => ?_, ht.mem.trans hmem⟩
  · rw [← hwrite, hv]; rfl
  · rw [crk_eq ht.crk, hcrk, stepPut_cricket]
  · rw [crk_eq ht.crk, hother _ fun e => hd (Fin.ext e), stepPut_cricket]
  · rw [ht.syn, hwait hw, List.mem_filter, stepPut_qid s c.val b c.isLt] at hmw
    simpa using hmw.2
  · refine RegsBut.agree (.trans ((stepPut_regsBut s c.val b).mono fun o ho => ?_) fun o ho => ?_) ht
    · exact List.mem_cons.2 (.inl (List.mem_singleton.1 ho))
    · simp only [List.mem_cons, List.not_mem_nil, or_false, not_or] at ho
      exact hreg hw o ho.1 ho.2

theorem reset_clears (hh : (s.cricket c.val).halted = true) (hr : s.on (F.CRK_CTRL_RUN c.val) = false) : ∃ t, exec (.creset who c) s = .next t ∧
    t.cricket c.val = { s.cricket c.val with g := [], v := [], w := [], msk := [], vl := 0, wl := 0, tz := false, mz := false, fpstat := 0, inTrap := false } ∧
    (∀ d : Fin 72, d ≠ c → t.cricket d.val = s.cricket d.val) ∧ RegsBut [R.CRK_CTRL c.val] s t ∧ t.mem = s.mem := by
  obtain ⟨v, hv⟩ : ∃ v, v = (s.reg (R.CRK_CTRL c.val)).toNat ||| 2 := ⟨_, rfl⟩
  have hlt : v < 2 ^ 32 := hv ▸ Nat.or_lt_two_pow (s.reg _).isLt (by decide)
  have h1 : v.testBit 1 = true := by rw [hv, Nat.testBit_or, show Nat.testBit 2 1 = true by decide, Bool.or_true]
  have h0 : v.testBit 0 = false := by
    have hreg : (s.reg (R.CRK_CTRL c.val)).toNat.testBit 0 = false := by
      simp only [State.on, State.get, F.CRK_CTRL_RUN, bne_eq_false_iff_eq, pow_one] at hr
      rw [Nat.testBit_zero, show (s.reg (R.CRK_CTRL c.val)).toNat % 2 = 0 from hr]
      decide
    rw [hv, Nat.testBit_or, hreg]; decide
  obtain ⟨u, hctrl, hcrk, hreg, hmem⟩ := crkCtrl_reset s c.val v h1 h0 hh
  have hwrite : s.writeBits who.val (R.CRK_CTRL c.val) 2 = u := by
    rw [State.writeBits, ← hv, write_CRK_CTRL s who.val c v hb hs, Nat.mod_eq_of_lt hlt, hctrl]
  rw [State.crkReset, if_pos hh] at hcrk
  obtain ⟨t, hnext, ht⟩ := answer_agree s u
  refine ⟨t, (?_ : exec (.creset who c) s = _).trans hnext, ?_, fun d hd => ?_, hreg.agree ht, ht.mem.trans hmem⟩
  · rw [← hwrite]; rfl
  · rw [crk_eq (ht.crk.trans hcrk), crk_mod]
  · rw [crk_eq (ht.crk.trans hcrk), crk_mod_ne _ _ _ _ fun e => hd (Fin.ext e)]

theorem mailbox_leaves (val : Word) : ∃ t, exec (.mailboxWrite who c val) s = .next t ∧ t.get (F.CRK_MAILBOX_MSG c.val) = val.toNat ∧
    t.on (F.CRK_EVENT_MAIL c.val) = true ∧ t.crk = s.crk ∧ RegsBut [R.CRK_MAILBOX c.val, R.CRK_EVENT c.val] s t ∧ t.mem = s.mem := by
  have hwrite : s.busWrite who.val (R.CRK_MAILBOX c.val) 4 val.toNat = s.mailbox c.val val.toNat := by
    rw [write_CRK_MAILBOX s who.val c val.toNat hb hs, word_mod]
  obtain ⟨t, hnext, ht⟩ := answer_agree s (s.mailbox c.val val.toNat)
  refine ⟨t, (?_ : exec (.mailboxWrite who c val) s = _).trans hnext, ?_, ?_, ht.crk, ?_, ht.mem⟩
  · rw [← hwrite]; rfl
  · rw [ht.get, State.mailbox, State.raise, State.get_set_off _ _ (by simp only [F.CRK_MAILBOX_MSG, F.CRK_EVENT_MAIL]; omega)]
    exact State.get_set_lt _ _ _ (by simp [F.CRK_MAILBOX_MSG]) val.isLt
  · rw [ht.on]
    exact State.on_set_one _ _ (by simp [F.CRK_EVENT_MAIL]) (by simp [F.CRK_EVENT_MAIL])
  · exact ((regsBut_set s (F.CRK_MAILBOX_MSG c.val) _ (.head _)).trans (regsBut_set _ (F.CRK_EVENT_MAIL c.val) 1 (.tail _ (.head _)))).agree ht
end

/-- Settles O45. -/
theorem cricketIsControlled : Obligations.CricketIsControlled := by
  unfold Obligations.CricketIsControlled
  refine ⟨fun c s hclk hsync => ?_, fun c who s hb hs => ⟨run_starts c who s hb hs, halt_stops c who s hb hs, reset_clears c who s hb hs, mailbox_leaves c who s hb hs⟩⟩
  refine gives_ticked (f := fun t => t.syncwDone c.val) rfl hclk ?_
  simp only [State.syncwDone, hclk, hsync, Bool.and_self, if_true]

end Sys2Proof.Machine
end

section
/-! PROOFS. Writes of policy, pair-retire and margining registers (05_training_numerics.md R159, 10_comb_hbm_and_far_memory.md R348,
R362 to R367, 17_register_interface_and_map.md R546). -/

namespace Sys2Proof.Machine

/-- A field is set modulo its width. -/
theorem set_mod (s : State) (f : RF) {v w : Nat} (h : v % 2 ^ f.w = w % 2 ^ f.w) : s.set f v = s.set f w := by
  rw [State.set, State.set, setBits, setBits, h]

/-! ### NUM_POL_CTRL -/

theorem plainWrite_only (s : State) (off v : Nat) : ∃ w, s.plainWrite off v = s ∨ s.plainWrite off v = s.setReg off w := by
  unfold State.plainWrite State.setMasked
  split
  · split
    · exact ⟨_, .inr rfl⟩
    · exact ⟨0, .inl rfl⟩
  · exact ⟨0, .inl rfl⟩

/-- R159: what clearing entry e leaves. -/
theorem clearPolicy_does (s : State) (e : Nat) :
    (s.clearPolicy e).num.hist = s.num.hist.write [] e [] ∧ (s.clearPolicy e).reg (R.NUM_PST_PEND e) = 0 ∧ (s.clearPolicy e).reg (R.NUM_PST_HMAX e) = 0 ∧
      (s.clearPolicy e).get (F.NUM_PST_HCNT_HCOUNT e) = 0 ∧ RegsBut [R.NUM_PST_PEND e, R.NUM_PST_HMAX e, R.NUM_PST_HCNT e] s (s.clearPolicy e) ∧
      (s.clearPolicy e).mem = s.mem := by
  obtain ⟨u, hu⟩ : ∃ u : State, u = { s with num := { s.num with hist := s.num.hist.write [] e [] } } := ⟨_, rfl⟩
  have hclear : s.clearPolicy e = ((u.setReg (R.NUM_PST_HMAX e) 0).set (F.NUM_PST_HCNT_HCOUNT e) 0).setReg (R.NUM_PST_PEND e) 0 := by rw [hu]; rfl
  rw [hclear]
  refine ⟨by rw [hu]; rfl, State.reg_setReg_self _ _ _, ?_, ?_, ?_, by rw [hu]; rfl⟩
  · rw [State.reg_setReg_ne _ _ (by simp only [R.NUM_PST_PEND, R.NUM_PST_HMAX]; omega),
      State.reg_set_ne _ _ (by simp only [F.NUM_PST_HCNT_HCOUNT, R.NUM_PST_HMAX]; omega), State.reg_setReg_self]
  · rw [State.get_setReg_off _ _ (by simp only [F.NUM_PST_HCNT_HCOUNT, R.NUM_PST_PEND]; omega)]
    exact State.get_set_lt _ _ _ (by simp [F.NUM_PST_HCNT_HCOUNT]) (by simp [F.NUM_PST_HCNT_HCOUNT])
  · exact (regsBut_of_regs _ (by rw [hu])).trans ((regsBut_setReg u 0 (.tail _ (.head _))).trans
      ((regsBut_set _ (F.NUM_PST_HCNT_HCOUNT e) 0 (.tail _ (.tail _ (.head _)))).trans (regsBut_setReg _ 0 (.head _))))

theorem policyWrite_clears (who : Requester) (val : Word) (s : State) (hb : s.busOn = true) (e : Fin 256) :
    ∃ t, exec (.policyWrite who e val) s = .next t ∧ t.num.hist.look [] e.val = [] ∧ (t.reg (R.NUM_PST_PEND e.val)) = 0 ∧
      t.reg (R.NUM_PST_HMAX e.val) = 0 ∧ t.get (F.NUM_PST_HCNT_HCOUNT e.val) = 0 ∧
      (∀ e' : Fin 256, e' ≠ e → t.num.hist.look [] e'.val = s.num.hist.look [] e'.val) ∧
      RegsBut [R.NUM_POL_CTRL e.val, R.NUM_PST_PEND e.val, R.NUM_PST_HMAX e.val, R.NUM_PST_HCNT e.val] s t ∧ t.mem = s.mem := by
  obtain ⟨u, hu⟩ : ∃ u, u = s.plainWrite (R.NUM_POL_CTRL e.val) val.toNat := ⟨_, rfl⟩
  have hplain : u.num = s.num ∧ u.mem = s.mem ∧ RegsBut [R.NUM_POL_CTRL e.val] s u := by
    obtain ⟨w, h | h⟩ := plainWrite_only s (R.NUM_POL_CTRL e.val) val.toNat
    · rw [hu, h]; exact ⟨rfl, rfl, regsBut_refl _ _⟩
    · rw [hu, h]; exact ⟨rfl, rfl, regsBut_setReg _ _ (.head _)⟩
  obtain ⟨hnum, hmem, hregs⟩ := hplain
  have hwrite : s.busWrite who.val (R.NUM_POL_CTRL e.val) 4 val.toNat = u.clearPolicy e.val := by
    rw [write_NUM_POL_CTRL s who.val e val.toNat hb, word_mod, hu]
  obtain ⟨hhist, hpend, hmax, hcount, hclear, hcmem⟩ := clearPolicy_does u e.val
  obtain ⟨t, hnext, ht⟩ := answer_agree s (u.clearPolicy e.val)
  have hthist : t.num.hist = s.num.hist.write [] e.val [] := by rw [ht.num, hhist, hnum]
  refine ⟨t, (?_ : exec (.policyWrite who e val) s = _).trans hnext, ?_, (ht.reg _).trans hpend, (ht.reg _).trans hmax, (ht.get _).trans hcount, fun e' he => ?_,
    ?_, (ht.mem.trans hcmem).trans hmem⟩
  · rw [← hwrite]; rfl
  · rw [hthist, Sparse.look_write_self]
  · rw [hthist, Sparse.look_write_ne _ _ _ fun h => he (Fin.ext h)]
  · refine RegsBut.agree (.trans (hregs.mono fun o ho => ?_) (hclear.mono fun o ho => List.mem_cons_of_mem _ ho)) ht
    rw [List.mem_singleton.1 ho]; exact .head _

/-! ### CMB_RETIRE -/

section
variable (who : Requester) (val : Word) (s : State) (hb : s.busOn = true) (hs : s.isSecure who.val = true)
include hb hs

theorem pairRetire_write : exec (.pairRetire who val) s = s.answer (s.retireWrite val.toNat) := by
  rw [← word_mod val, ← write_CMB_RETIRE s who.val val.toNat hb hs]; rfl

theorem pairRetire_busy (hr : s.on F.CMB_STATUS_RETIRING = true) : Gives (.pairRetire who val) s s := by
  refine gives_answer (pairRetire_write who val s hb hs) ?_
  simp only [State.retireWrite, hr, if_true, Bool.not_true, Bool.false_eq_true, false_and, and_false, if_false]

theorem pairRetire_starts (hr : s.on F.CMB_STATUS_RETIRING = false) (hgo : val.getLsbD 31 = true) (hsrc : val.toNat % 256 < 136)
    (hdst : val.toNat / 2 ^ 8 % 256 < 136) (hspare : s.get (F.CMB_S_STATE_STATE (val.toNat / 2 ^ 8 % 256)) = 1) :
    ∃ t, exec (.pairRetire who val) s = .next t ∧ t.ram.retiring = some (val.toNat % 256, val.toNat / 2 ^ 8 % 256) ∧ t.on F.CMB_STATUS_RETIRING = true ∧
      t.get F.CMB_RETIRE_FROM = val.toNat % 256 ∧ t.get F.CMB_RETIRE_TO = val.toNat / 2 ^ 8 % 256 ∧
      RegsBut [R.CMB_RETIRE, R.CMB_STATUS] s t ∧ t.mem = s.mem := by
  obtain ⟨a, ha⟩ : ∃ a, a = val.toNat % 256 := ⟨_, rfl⟩
  obtain ⟨b, hb'⟩ : ∃ b, b = val.toNat / 2 ^ 8 % 256 := ⟨_, rfl⟩
  rw [← ha] at hsrc
  rw [← hb'] at hdst hspare
  have hbit : val.toNat.testBit 31 = true := hgo
  obtain ⟨u, hu⟩ : ∃ u, u = ((s.set F.CMB_RETIRE_FROM a).set F.CMB_RETIRE_TO b).set F.CMB_STATUS_RETIRING 1 := ⟨_, rfl⟩
  have hwrite : s.retireWrite val.toNat = { u with ram := { u.ram with retiring := some (a, b) } } := by
    simp only [State.retireWrite, ← ha, ← hb', hr, hbit, hsrc, hdst, hspare, Bool.not_false, Bool.false_eq_true, if_false, and_self, if_true, hu, State.set_ram]
  have hfrom : u.get F.CMB_RETIRE_FROM = a := by
    rw [hu, State.get_set_off _ _ (by decide), State.get_set_bits _ _ (by decide) (by decide), State.get_set_lt _ _ _ (by decide) (by simp only [F.CMB_RETIRE_FROM]; omega)]
  have hto : u.get F.CMB_RETIRE_TO = b := by
    rw [hu, State.get_set_off _ _ (by decide), State.get_set_lt _ _ _ (by decide) (by simp only [F.CMB_RETIRE_TO]; omega)]
  obtain ⟨t, hnext, ht⟩ := answer_agree s ({ u with ram := { u.ram with retiring := some (a, b) } } : State)
  rw [← ha, ← hb']
  refine ⟨t, ?_, by rw [ht.ram], ?_, ?_, ?_, ?_, ?_⟩
  · rw [pairRetire_write who val s hb hs, hwrite, hnext]
  · rw [State.on_congr ht.regs, hu]; exact State.on_set_one _ _ (by decide) (by decide)
  · rw [State.get_congr ht.regs]; exact hfrom
  · rw [State.get_congr ht.regs]; exact hto
  · refine RegsBut.trans ?_ (regsBut_of_regs _ ht.regs)
    rw [hu]
    exact (regsBut_set s F.CMB_RETIRE_FROM a (.head _)).trans
      ((regsBut_set _ F.CMB_RETIRE_TO b (.head _)).trans (regsBut_set _ F.CMB_STATUS_RETIRING 1 (.tail _ (.head _))))
  · rw [ht.mem, hu]; rfl
end

/-! ### MGN_CTRL -/

/-- R546: the bits of MGN_CTRL after a write. -/
def State.marginBits (s : State) (start abort : Nat) : State := (s.set F.MGN_CTRL_START start).set F.MGN_CTRL_ABORT abort
theorem marginBits_regsBut (s : State) (a b : Nat) : RegsBut [R.MGN_CTRL] s (s.marginBits a b) :=
  (regsBut_set s F.MGN_CTRL_START a (.head _)).trans (regsBut_set _ F.MGN_CTRL_ABORT b (.head _))
theorem marginBits_get (s : State) (a b : Nat) {f : RF} (h : f.off ≠ R.MGN_CTRL) : (s.marginBits a b).get f = s.get f :=
  (marginBits_regsBut s a b).get (by simpa using h)
theorem marginBits_on (s : State) (a b : Nat) {f : RF} (h : f.off ≠ R.MGN_CTRL) : (s.marginBits a b).on f = s.on f := by
  rw [State.on, State.on, marginBits_get s a b h]

/-- R362, R367: a write that starts and does not abort. -/
theorem marginCtrl_start (s : State) {v : Nat} (h0 : v.testBit 0 = true) (h1 : v.testBit 1 = false) :
    s.marginCtrl v = (s.marginBits 1 0).marginStart := by
  have e0 : v % 2 = 1 := by simpa [Nat.testBit_zero] using h0
  have e1 : v / 2 % 2 = 0 := by
    rw [Nat.testBit_eq_decide_div_mod_eq, decide_eq_false_iff_not] at h1
    omega
  simp only [State.marginCtrl, h0, h1, Bool.false_eq_true, if_false, if_true]
  rw [set_mod s F.MGN_CTRL_START (w := 1) (by simpa [F.MGN_CTRL_START] using e0), set_mod _ F.MGN_CTRL_ABORT (w := 0) (by simpa [F.MGN_CTRL_ABORT] using e1)]
  rfl
theorem marginCtrl_abort (s : State) : s.marginCtrl 2 = (s.marginBits 0 1).marginAbort := by
  have h0 : Nat.testBit 2 0 = false := by decide
  have h1 : Nat.testBit 2 1 = true := by decide
  simp only [State.marginCtrl, h0, h1, Bool.false_eq_true, if_false, if_true]
  rw [set_mod s F.MGN_CTRL_START (v := 2) (w := 0) rfl]
  rfl

/-- R363: whether the axis suits the target and the length is in range. -/
def State.marginMay (s : State) : Bool :=
  (if s.on F.MGN_TARGET_KIND then s.get F.MGN_AXIS_AXIS == 4 || s.get F.MGN_AXIS_AXIS == 5 else decide (s.get F.MGN_AXIS_AXIS < 4)) &&
    decide (0 < s.get F.MGN_LEN_LINES) && decide (s.get F.MGN_LEN_LINES ≤ 1048576)
theorem marginStart_busy {s : State} (hi : s.on F.CFG_STATE_IMAGE = false) (hb : s.on F.MGN_STATUS_BUSY = true) : s.marginStart = s := by
  simp only [State.marginStart, hi, hb, Bool.false_eq_true, if_false, if_true]
theorem marginStart_refused {s : State} (hi : s.on F.CFG_STATE_IMAGE = false) (hb : s.on F.MGN_STATUS_BUSY = false) (hm : s.marginMay = false) :
    s.marginStart = s.set F.MGN_STATUS_REFUSED 1 := by
  simp only [State.marginStart, hi, hb, Bool.false_eq_true, if_false]
  refine if_pos ?_
  simp only [State.marginMay, Bool.and_eq_false_iff, decide_eq_false_iff_not] at hm
  rcases hm with (hm | hm) | hm
  · rw [hm]; exact .inl rfl
  · exact .inr (.inl (by omega))
  · exact .inr (.inr (by omega))
/-- R363: a run that begins. -/
def State.marginBegun (s : State) : State := ((s.set F.MGN_STATUS_DONE 0).set F.MGN_STATUS_REFUSED 0).set F.MGN_STATUS_BUSY 1
theorem marginStart_begins {s : State} (hi : s.on F.CFG_STATE_IMAGE = false) (hb : s.on F.MGN_STATUS_BUSY = false) (hm : s.marginMay = true) :
    s.marginStart = s.marginBegun.marginTouch := by
  simp only [State.marginStart, hi, hb, Bool.false_eq_true, if_false]
  refine if_neg ?_
  simp only [State.marginMay, Bool.and_eq_true, decide_eq_true_eq] at hm
  obtain ⟨⟨hsuits, hlow⟩, hhigh⟩ := hm
  rw [hsuits]
  simp only [Bool.not_true, Bool.false_eq_true, false_or, not_or]
  omega
theorem marginTouch_only (s : State) : ∃ r, s.marginTouch = { s with ram := r } := by
  unfold State.marginTouch
  split
  · exact ⟨_, rfl⟩
  · exact ⟨s.ram, rfl⟩
/-- R363: what a start with no image loaded and no run under way leaves in MGN_STATUS. -/
theorem marginStart_idle {s : State} (hi : s.on F.CFG_STATE_IMAGE = false) (hb : s.on F.MGN_STATUS_BUSY = false) :
    s.marginStart.on F.MGN_STATUS_BUSY = s.marginMay ∧ s.marginStart.on F.MGN_STATUS_REFUSED = !s.marginMay ∧
      s.marginStart.on F.MGN_STATUS_DONE = (s.on F.MGN_STATUS_DONE && !s.marginMay) ∧ RegsBut [R.MGN_STATUS] s s.marginStart ∧ s.marginStart.mem = s.mem := by
  cases hm : s.marginMay with
  | false =>
    rw [marginStart_refused hi hb hm]
    refine ⟨?_, State.on_set_one _ _ (by decide) (by decide), ?_, regsBut_set _ _ _ (.head _), rfl⟩
    · rw [State.on_set_bits _ _ (by decide) (by decide), hb]
    · rw [State.on_set_bits _ _ (by decide) (by decide), Bool.not_false, Bool.and_true]
  | true =>
    obtain ⟨r, hr⟩ := marginTouch_only s.marginBegun
    obtain ⟨u, hu⟩ : ∃ u, u = s.marginBegun := ⟨_, rfl⟩
    have hbusy : u.on F.MGN_STATUS_BUSY = true := by rw [hu]; exact State.on_set_one _ _ (by decide) (by decide)
    have hrefused : u.on F.MGN_STATUS_REFUSED = false := by
      rw [hu, State.marginBegun, State.on_set_bits _ _ (by decide) (by decide)]
      exact State.on_set_zero _ _ (by decide)
    have hdone : u.on F.MGN_STATUS_DONE = false := by
      rw [hu, State.marginBegun, State.on_set_bits _ _ (by decide) (by decide), State.on_set_bits _ _ (by decide) (by decide)]
      exact State.on_set_zero _ _ (by decide)
    have hregs : RegsBut [R.MGN_STATUS] s u := by
      rw [hu]
      exact (regsBut_set s F.MGN_STATUS_DONE 0 (.head _)).trans
        ((regsBut_set _ F.MGN_STATUS_REFUSED 0 (.head _)).trans (regsBut_set _ F.MGN_STATUS_BUSY 1 (.head _)))
    have hmem : u.mem = s.mem := by rw [hu]; rfl
    rw [marginStart_begins hi hb hm, hr, ← hu]
    refine ⟨hbusy, hrefused, ?_, hregs.trans (regsBut_of_regs _ rfl), hmem⟩
    rw [Bool.not_true, Bool.and_false]
    exact hdone

theorem marginLoss_regs (s : State) : s.marginLoss.regs = s.regs :=
  each_same _ _ _ (fun t : State => t.regs) fun t r => by
    show ((t.freshBytes r.2).2.putBytes r.1 (t.freshBytes r.2).1).regs = _
    rw [putBytes_only]; rfl
/-- R367: what an abort of a run that is under way leaves. -/
theorem marginAbort_ends {s : State} (hb : s.on F.MGN_STATUS_BUSY = true) :
    s.marginAbort.on F.MGN_STATUS_BUSY = false ∧ RegsBut [R.MGN_STATUS, R.MGN_CE, R.MGN_UE] s s.marginAbort ∧ s.marginAbort.mem = s.marginLoss.mem := by
  obtain ⟨u, hu⟩ : ∃ u, u = ((s.marginLoss.fresh 32).2.fresh 32).2 := ⟨_, rfl⟩
  have hregs : u.regs = s.regs := by rw [hu, ← marginLoss_regs s]; rfl
  have habort : ∃ a b, s.marginAbort = ((u.set F.MGN_STATUS_BUSY 0).set F.MGN_CE_COUNT a).set F.MGN_UE_COUNT b := by
    rw [State.marginAbort, if_pos hb, hu]
    exact ⟨_, _, rfl⟩
  obtain ⟨a, b, hab⟩ := habort
  rw [hab]
  refine ⟨?_, ?_, by rw [hu]; rfl⟩
  · rw [State.on_set_off _ _ (by decide), State.on_set_off _ _ (by decide)]
    exact State.on_set_zero _ _ (by decide)
  · exact (regsBut_of_regs _ hregs).trans ((regsBut_set u F.MGN_STATUS_BUSY 0 (.head _)).trans
      ((regsBut_set _ F.MGN_CE_COUNT a (.tail _ (.head _))).trans (regsBut_set _ F.MGN_UE_COUNT b (.tail _ (.tail _ (.head _))))))

section
variable (who : Requester) (val : Word) (s : State) (hb : s.busOn = true) (hs : s.isSecure who.val = true)
include hb hs

theorem marginStart_write (h1 : val.getLsbD 1 = false) : exec (.marginStart who val) s = s.answer (s.marginBits 1 0).marginStart := by
  have hlt : val.toNat ||| 1 < 2 ^ 32 := Nat.or_lt_two_pow val.isLt (by decide)
  have hbit : val.toNat.testBit 1 = false := h1
  rw [← marginCtrl_start s (v := val.toNat ||| 1) (by rw [Nat.testBit_or, show Nat.testBit 1 0 = true by decide, Bool.or_true])
    (by rw [Nat.testBit_or, hbit]; decide), ← Nat.mod_eq_of_lt hlt, ← write_MGN_CTRL s who.val _ hb hs]
  rfl
theorem marginAbort_write : exec (.marginAbort who) s = s.answer (s.marginBits 0 1).marginAbort := by
  rw [← marginCtrl_abort s, show (2 : Nat) = 2 % 2 ^ 32 by decide, ← write_MGN_CTRL s who.val _ hb hs]
  rfl
end

/-- Settles O46. -/
theorem controlWritesAct : Obligations.ControlWritesAct := by
  unfold Obligations.ControlWritesAct
  intro who val s hb
  refine ⟨fun e => policyWrite_clears who val s hb e, fun hs => ⟨pairRetire_busy who val s hb hs, pairRetire_starts who val s hb hs,
    fun h1 hi hbusy => gives_answer (marginStart_write who val s hb hs h1) ?_, fun h1 hi hbusy => ?_, fun s0 hs0 => ⟨fun hbusy => ?_, fun hbusy => ?_⟩⟩⟩
  · exact marginStart_busy ((marginBits_on s 1 0 (by decide)).trans hi) ((marginBits_on s 1 0 (by decide)).trans hbusy)
  · obtain ⟨u, hu⟩ : ∃ u, u = s.marginBits 1 0 := ⟨_, rfl⟩
    have hmay : u.marginMay = s.marginMay := by
      simp only [State.marginMay, hu, marginBits_get s 1 0 (f := F.MGN_AXIS_AXIS) (by decide), marginBits_get s 1 0 (f := F.MGN_LEN_LINES) (by decide),
        marginBits_on s 1 0 (f := F.MGN_TARGET_KIND) (by decide)]
    obtain ⟨hb1, hr1, hd1, hregs, hmem⟩ := marginStart_idle (s := u) (by rw [hu, marginBits_on s 1 0 (by decide), hi]) (by rw [hu, marginBits_on s 1 0 (by decide), hbusy])
    rw [hmay] at hb1 hr1 hd1
    rw [show u.on F.MGN_STATUS_DONE = s.on F.MGN_STATUS_DONE by rw [hu, marginBits_on s 1 0 (by decide)]] at hd1
    obtain ⟨t, hnext, ht⟩ := answer_agree s u.marginStart
    refine ⟨t, ?_, (ht.on _).trans hb1, (ht.on _).trans hr1, (ht.on _).trans hd1, RegsBut.agree (.trans ?_ (hregs.mono fun o ho => ?_)) ht, ?_⟩
    · rw [marginStart_write who val s hb hs h1, ← hu, hnext]
    · rw [hu]; exact (marginBits_regsBut s 1 0).mono fun o ho => by rw [List.mem_singleton.1 ho]; exact .tail _ (.head _)
    · rw [List.mem_singleton.1 ho]; exact .head _
    · rw [ht.mem, hmem, hu]; rfl
  · have hs0' : s0 = s.marginBits 0 1 := hs0
    obtain ⟨hoff, hregs, hmem⟩ := marginAbort_ends (s := s0) (by rw [hs0', marginBits_on s 0 1 (by decide), hbusy])
    obtain ⟨t, hnext, ht⟩ := answer_agree s s0.marginAbort
    refine ⟨t, ?_, (ht.on _).trans hoff, RegsBut.agree (.trans ?_ (hregs.mono fun o ho => List.mem_cons_of_mem _ ho)) ht, ht.mem.trans hmem⟩
    · rw [marginAbort_write who s hb hs, ← hs0', hnext]
    · rw [hs0']; exact (marginBits_regsBut s 0 1).mono fun o ho => by rw [List.mem_singleton.1 ho]; exact .head _
  · have hs0' : s0 = s.marginBits 0 1 := hs0
    refine gives_answer (marginAbort_write who s hb hs) ?_
    rw [State.marginAbort, if_neg (by rw [marginBits_on s 0 1 (by decide), hbusy]; decide), hs0']

end Sys2Proof.Machine
end

section
/-! PROOFS. Writes of the flue's control registers: port modes, retrain and switch requests, emergency notices and fences
(11_flue_fabric.md R390, R394, R395, R403, R592). -/

namespace Sys2Proof.Machine

/-! ### FLU_P_CTRL -/

/-- R592: a port whose mode is written: its state, without lanes and without a retrain request. -/
def State.portModed (s : State) (p m st : Nat) (f : Port → Port) : State :=
  ((((s.set (F.FLU_P_CTRL_MODE p) m).set (F.FLU_P_STATUS_STATE p) st).set (F.FLU_P_STATUS_LANES p) 0).set (F.FLU_P_CTRL_RETRAIN p) 0).modPort p f
/-- R592: what a port loses when its training starts. -/
def Port.untrained (q : Port) : Port := { q with replay := [], nextSeq := 0, missing := [], reorder := [], used := [], retrain := false }

section
variable (s : State) (p m st : Nat) (f : Port → Port)

theorem portModed_regs : RegsBut [R.FLU_P_CTRL p, R.FLU_P_STATUS p] s (s.portModed p m st f) :=
  (regsBut_set s (F.FLU_P_CTRL_MODE p) m (.head _)).trans ((regsBut_set _ (F.FLU_P_STATUS_STATE p) st (.tail _ (.head _))).trans
    ((regsBut_set _ (F.FLU_P_STATUS_LANES p) 0 (.tail _ (.head _))).trans ((regsBut_set _ (F.FLU_P_CTRL_RETRAIN p) 0 (.head _)).trans (regsBut_of_regs _ rfl))))
theorem portModed_state (h : st < 8) : (s.portModed p m st f).portState p = st := by
  rw [State.portState, State.portModed, modPort_get, State.get_set_off _ _ (by simp only [F.FLU_P_STATUS_STATE, F.FLU_P_CTRL_RETRAIN]; omega),
    State.get_set_bits _ _ (by simp [F.FLU_P_STATUS_STATE]) (by simp [F.FLU_P_STATUS_STATE, F.FLU_P_STATUS_LANES])]
  exact State.get_set_lt _ _ _ (by simp [F.FLU_P_STATUS_STATE]) (by simpa [F.FLU_P_STATUS_STATE] using h)
theorem portModed_lanes : (s.portModed p m st f).get (F.FLU_P_STATUS_LANES p) = 0 := by
  rw [State.portModed, modPort_get, State.get_set_off _ _ (by simp only [F.FLU_P_STATUS_LANES, F.FLU_P_CTRL_RETRAIN]; omega)]
  exact State.get_set_lt _ _ _ (by simp [F.FLU_P_STATUS_LANES]) (by simp [F.FLU_P_STATUS_LANES])
theorem portModed_mode (h : m < 4) : (s.portModed p m st f).get (F.FLU_P_CTRL_MODE p) = m := by
  rw [State.portModed, modPort_get, State.get_set_bits _ _ (by simp [F.FLU_P_CTRL_MODE]) (by simp [F.FLU_P_CTRL_MODE, F.FLU_P_CTRL_RETRAIN]),
    State.get_set_off _ _ (by simp only [F.FLU_P_STATUS_LANES, F.FLU_P_CTRL_MODE]; omega), State.get_set_off _ _ (by simp only [F.FLU_P_STATUS_STATE, F.FLU_P_CTRL_MODE]; omega)]
  exact State.get_set_lt _ _ _ (by simp [F.FLU_P_CTRL_MODE]) (by simpa [F.FLU_P_CTRL_MODE] using h)
theorem portModed_port : (s.portModed p m st f).port p = f (s.port p) := port_mod _ _ _
theorem portModed_other {q : Nat} (h : q ≠ p) : (s.portModed p m st f).port q = s.port q := port_mod_ne _ _ h
theorem portModed_markport : (s.portModed p m st f).get F.FLU_STATUS_MARKPORT = s.get F.FLU_STATUS_MARKPORT :=
  (portModed_regs s p m st f).get (by
    simp only [F.FLU_STATUS_MARKPORT, R.FLU_P_CTRL, R.FLU_P_STATUS, List.mem_cons, List.not_mem_nil, or_false, not_or]; omega)
end

section
variable {s : State} {p v : Nat} (hv : v.testBit 2 = false) (hmark : s.get F.FLU_STATUS_MARKPORT ≠ p)
include hv hmark

theorem portCtrl_off (hm : v % 4 = 0) : s.portCtrl p v = s.portModed p 0 0 fun q => { q with retrain := false } := by
  obtain ⟨u, hu⟩ : ∃ u, u = s.portModed p 0 0 fun q => { q with retrain := false } := ⟨_, rfl⟩
  have hu' := hu
  rw [State.portModed] at hu'
  simp only [State.portCtrl, hv, hm, Bool.false_eq_true, if_false, false_and, or_false, OfNat.zero_ne_ofNat, if_true, ← hu']
  rw [if_neg (by rw [hu, portModed_markport]; exact hmark), hu]
theorem portCtrl_train (hm : v % 4 ≠ 0) (hm3 : v % 4 < 3) : s.portCtrl p v = s.portModed p (v % 4) 1 Port.untrained := by
  have h3 : v % 4 ≠ 3 := by omega
  obtain ⟨u, hu⟩ : ∃ u, u = s.portModed p (v % 4) 1 Port.untrained := ⟨_, rfl⟩
  have htrain : (s.set (F.FLU_P_CTRL_MODE p) (v % 4)).trainPort p = if u.get F.FLU_STATUS_MARKPORT = p then u.marksLost else u := by rw [hu]; rfl
  simp only [State.portCtrl, hv, hm, h3, Bool.false_eq_true, if_false, false_and, or_false, htrain]
  rw [if_neg (by rw [hu, portModed_markport]; exact hmark), hu]
end

section
variable (who : Requester) (val : Word) (s : State) (hb : s.busOn = true) (hs : s.isSecure who.val = true) (p : Fin 12)
include hb hs

theorem portModeWrite_exec : exec (.portModeWrite who p val) s = s.answer ((s.portCtrl p.val val.toNat).noteChange (R.FLU_P_CTRL p.val)) := by
  have h := write_FLU_P_CTRL s who.val p val.toNat hb hs
  rw [word_mod] at h
  rw [← h]; rfl

/-- R592, R403: what a write of MODE without RETRAIN leaves, where the port's marks are not the ones followed. -/
theorem portMode_does {m st : Nat} {f : Port → Port} (hm : m < 4) (hst : st < 8)
    (hctrl : s.portCtrl p.val val.toNat = s.portModed p.val m st f) :
    ∃ t, exec (.portModeWrite who p val) s = .next t ∧ t.portState p.val = st ∧ t.get (F.FLU_P_STATUS_LANES p.val) = 0 ∧ t.get (F.FLU_P_CTRL_MODE p.val) = m ∧
      t.port p.val = f (s.port p.val) ∧ (∀ q : Fin 12, q ≠ p → t.port q.val = s.port q.val) ∧ RegsBut [R.FLU_P_CTRL p.val, R.FLU_P_STATUS p.val] s t ∧ t.mem = s.mem := by
  obtain ⟨u, hu⟩ : ∃ u, u = s.portModed p.val m st f := ⟨_, rfl⟩
  obtain ⟨hregs, hflue, hmem⟩ := noteChange_regs u (R.FLU_P_CTRL p.val)
  obtain ⟨t, hnext, ht⟩ := answer_agree s (u.noteChange (R.FLU_P_CTRL p.val))
  have htregs : t.regs = u.regs := ht.regs.trans hregs
  have hport : ∀ q, t.port q = u.port q := fun q => by rw [State.port, State.port, ht.flue, hflue]
  refine ⟨t, ?_, ?_, ?_, ?_, ?_, fun q hq => ?_, ?_, ?_⟩
  · rw [portModeWrite_exec who val s hb hs, hctrl, ← hu, hnext]
  · rw [State.portState, State.get_congr htregs, hu]; exact portModed_state s p.val m st f hst
  · rw [State.get_congr htregs, hu, portModed_lanes]
  · rw [State.get_congr htregs, hu, portModed_mode s p.val m st f hm]
  · rw [hport, hu, portModed_port]
  · rw [hport, hu, portModed_other _ _ _ _ _ fun e => hq (Fin.ext e)]
  · exact (hu ▸ portModed_regs s p.val m st f).trans (regsBut_of_regs _ htregs)
  · rw [ht.mem, hmem, hu]; rfl

theorem portRetrain_asks (hmode : (val ||| 4).toNat % 4 = s.get (F.FLU_P_CTRL_MODE p.val)) :
    ∃ t, exec (.portRetrainRequest who p val) s = .next t ∧ t.on (F.FLU_P_CTRL_RETRAIN p.val) = true ∧ t.port p.val = { s.port p.val with retrain := true } ∧
      t.portState p.val = s.portState p.val ∧ RegsBut [R.FLU_P_CTRL p.val] s t ∧ t.mem = s.mem := by
  have hor : (val ||| 4).toNat = val.toNat ||| 4 := by rw [BitVec.toNat_or]; rfl
  obtain ⟨v, hv⟩ : ∃ v, v = val.toNat ||| 4 := ⟨_, rfl⟩
  rw [hor, ← hv] at hmode
  have hlt : v < 2 ^ 32 := by rw [hv]; exact Nat.or_lt_two_pow val.isLt (by decide)
  have hbit : v.testBit 2 = true := by rw [hv, Nat.testBit_or, show Nat.testBit 4 2 = true by decide, Bool.or_true]
  obtain ⟨u, hu⟩ : ∃ u, u = (s.set (F.FLU_P_CTRL_RETRAIN p.val) 1).modPort p.val fun q => { q with retrain := true } := ⟨_, rfl⟩
  have hctrl : s.portCtrl p.val v = u := by
    simp only [State.portCtrl, hbit, hmode, if_true, and_self, or_true, hu]
  obtain ⟨hregs, hflue, hmem⟩ := noteChange_regs u (R.FLU_P_CTRL p.val)
  obtain ⟨t, hnext, ht⟩ := answer_agree s (u.noteChange (R.FLU_P_CTRL p.val))
  have htregs : t.regs = u.regs := ht.regs.trans hregs
  have hub : RegsBut [R.FLU_P_CTRL p.val] s u := by
    rw [hu]; exact (regsBut_set s (F.FLU_P_CTRL_RETRAIN p.val) 1 (.head _)).trans (regsBut_of_regs _ rfl)
  have hexec : exec (.portRetrainRequest who p val) s = s.answer (u.noteChange (R.FLU_P_CTRL p.val)) := by
    have h := write_FLU_P_CTRL s who.val p v hb hs
    rw [Nat.mod_eq_of_lt hlt, hctrl] at h
    rw [← h, hv]; rfl
  refine ⟨t, hexec.trans hnext, ?_, ?_, ?_, hub.trans (regsBut_of_regs _ htregs), ?_⟩
  · rw [State.on_congr htregs, hu, modPort_on]
    exact State.on_set_one _ _ (by simp [F.FLU_P_CTRL_RETRAIN]) (by simp [F.FLU_P_CTRL_RETRAIN])
  · rw [State.port, ht.flue, hflue, ← State.port, hu, port_mod, set_port]
  · rw [State.portState, State.get_congr htregs, hub.get (by simp only [F.FLU_P_STATUS_STATE, R.FLU_P_CTRL, List.mem_singleton]; omega)]; rfl
  · rw [ht.mem, hmem, hu]; rfl

/-! ### FLU_EPOCH and FLU_EMERG -/

theorem plannedSwitch_exec : exec (.plannedSwitchRequest who val) s = s.answer (s.epochWrite val.toNat) := by
  have h := write_FLU_EPOCH s who.val val.toNat hb hs
  rw [word_mod] at h
  rw [← h]; rfl
end

/-- R390: whether an injection of step n, or of a later one, has been made. -/
def State.madeBy (s : State) (n : Nat) : Bool :=
  match s.flue.injected with
  | some k => s.jobEn && stepFrom n k
  | none => false
theorem swstep_get (s : State) (n : Nat) (h : n < 2 ^ 24) : (s.set F.FLU_EPOCH_SWSTEP n).get F.FLU_EPOCH_SWSTEP = n := State.get_set_lt _ _ _ (by decide) h
theorem epochWrite_eq (s : State) {v : Nat} (hv : v < 2 ^ 32) : s.epochWrite v =
    if v.testBit 1 = false ∨ s.madeBy (v / 2 ^ 8) = true then ((s.set F.FLU_EPOCH_SWSTEP (v / 2 ^ 8)).set F.FLU_EPOCH_PEND 0).releaseInjections
    else (s.set F.FLU_EPOCH_SWSTEP (v / 2 ^ 8)).set F.FLU_EPOCH_PEND 1 := by
  have hstep := swstep_get s (v / 2 ^ 8) (by omega)
  unfold State.madeBy
  cases hi : s.flue.injected <;> simp only [State.epochWrite, hstep, hi, Bool.not_eq_true']

/-- R395: FLU_EMERG as written. -/
def State.emergBits (s : State) (v : Nat) : State := ((s.set F.FLU_EMERG_LEAD (v % 256)).set F.FLU_EMERG_GO (v / 2 ^ 8)).set F.FLU_EMERG_PORT (v / 2 ^ 12)
theorem emergBits_regs (s : State) (v : Nat) : RegsBut [R.FLU_EMERG] s (s.emergBits v) :=
  (regsBut_set s F.FLU_EMERG_LEAD _ (.head _)).trans ((regsBut_set _ F.FLU_EMERG_GO _ (.head _)).trans (regsBut_set _ F.FLU_EMERG_PORT _ (.head _)))
theorem emergBits_port (s : State) (v : Nat) : (s.emergBits v).get F.FLU_EMERG_PORT = v / 2 ^ 12 % 16 := State.get_set_self _ _ _ (by decide)
theorem emergBits_lead (s : State) (v : Nat) : (s.emergBits v).get F.FLU_EMERG_LEAD = v % 256 := by
  rw [State.emergBits, State.get_set_bits _ _ (by decide) (by decide), State.get_set_bits _ _ (by decide) (by decide)]
  exact State.get_set_lt _ _ _ (by decide) (Nat.mod_lt _ (by decide))
theorem emergBits_keep (s : State) (v : Nat) : (s.emergBits v).fnum = s.fnum ∧ (s.emergBits v).frame = s.frame ∧ (s.emergBits v).epoch = s.epoch := by
  have h := emergBits_regs s v
  have hreg : ∀ o, o ≠ R.FLU_EMERG → (s.emergBits v).reg o = s.reg o := fun o ho => h o (by simpa using ho)
  refine ⟨h.get (by decide), ?_, h.get (by decide)⟩
  rw [State.frame, State.frame, State.pair, State.pair, hreg _ (by decide), hreg _ (by decide)]

theorem emergWrite_go (s : State) {v p : Nat} (hgo : v.testBit 8 = true) (hp : p = v / 2 ^ 12 % 16) (hp' : p < 12) :
    s.emergWrite v = ((s.emergBits v).flood (List.range 12) (mkPacket [] 5 s.epoch 0 2 0 0 0
      ((Config.noticePayload (s.fnum * 16 + p) ((s.frame + v % 256) % 2 ^ 48)).take 48))).takeNotice (s.fnum * 16 + p) ((s.frame + v % 256) % 2 ^ 48) := by
  obtain ⟨u, hu⟩ : ∃ u, u = s.emergBits v := ⟨_, rfl⟩
  obtain ⟨hfnum, hframe, hepoch⟩ := emergBits_keep s v
  have hport := emergBits_port s v
  have hlead := emergBits_lead s v
  rw [← hu] at hfnum hframe hepoch hport hlead ⊢
  have hwrite : s.emergWrite v = if v.testBit 8 = true ∧ u.get F.FLU_EMERG_PORT < 12 then u.giveNotice (u.get F.FLU_EMERG_PORT) else u := by rw [hu]; rfl
  rw [hwrite, hport, ← hp, if_pos ⟨hgo, hp'⟩, State.giveNotice, hfnum, hframe, hepoch, hlead]

/-! ### FLU_FENCE -/

/-- R394: what a write of FLU_FENCE does to port p, where no fenced port is brought back. -/
def State.fencePort (s : State) (p : Nat) : State :=
  ((s.set (F.FLU_P_STATUS_STATE p) 5).count (F.FLU_P_FENCEDROP_VALUE p) (s.port p).held.length).modPort p fun q => { q with held := [] }
def fenceStep (v : Nat) (t : State) (p : Nat) : State :=
  if v.testBit p then (if t.portLive p then t.fencePort p else t) else if t.portState p = 5 then t.portUp p else t

theorem fencePort_regs (s : State) (p : Nat) : RegsBut [R.FLU_P_STATUS p, R.FLU_P_FENCEDROP p] s (s.fencePort p) :=
  (regsBut_set s (F.FLU_P_STATUS_STATE p) 5 (.head _)).trans ((regsBut_set _ (F.FLU_P_FENCEDROP_VALUE p) _ (.tail _ (.head _))).trans (regsBut_of_regs _ rfl))
theorem fencePort_state (s : State) (p : Nat) : (s.fencePort p).portState p = 5 := by
  rw [State.portState, State.fencePort, modPort_get, State.count, State.get_set_off _ _ (by simp only [F.FLU_P_STATUS_STATE, F.FLU_P_FENCEDROP_VALUE]; omega)]
  exact State.get_set_lt _ _ _ (by simp [F.FLU_P_STATUS_STATE]) (by simp [F.FLU_P_STATUS_STATE])
theorem fencePort_other (s : State) {p q : Nat} (h : q ≠ p) : (s.fencePort p).portState q = s.portState q ∧ (s.fencePort p).port q = s.port q :=
  ⟨(fencePort_regs s p).get (by
    simp only [F.FLU_P_STATUS_STATE, R.FLU_P_STATUS, R.FLU_P_FENCEDROP, List.mem_cons, List.not_mem_nil, or_false, not_or]; omega), port_mod_ne _ _ h⟩

/-- What fencing some ports leaves: the registers of other blocks and of the flue's own, memory, and port p, fenced where `b`. -/
structure FencedTo (v : Nat) (l : List Nat) (s t : State) : Prop where
  mem : t.mem = s.mem
  regs : ∀ o, o < 0x1310000 → t.reg o = s.reg o
  fenced : ∀ p ∈ l, v.testBit p = true → s.portLive p = true → t.portState p = 5 ∧ (t.port p).held = []
  kept : ∀ p, p ∉ l ∨ v.testBit p = false ∨ s.portLive p = false → t.portState p = s.portState p ∧ t.port p = s.port p

theorem fenceStep_to (v : Nat) (s : State) (p : Nat) (h : v.testBit p = false → s.portState p ≠ 5) : FencedTo v [p] s (fenceStep v s p) := by
  have hsame : (v.testBit p = false ∨ s.portLive p = false) → FencedTo v [p] s s := fun hc =>
    ⟨rfl, fun _ _ => rfl, fun q hq hb hl => by
      rw [List.mem_singleton.1 hq] at hb hl
      simp [hb, hl] at hc, fun _ _ => ⟨rfl, rfl⟩⟩
  unfold fenceStep
  split
  next hb =>
    split
    next hl =>
      refine ⟨rfl, fun o ho => fencePort_regs s p o ?_, fun q hq _ _ => ?_, fun q hq => fencePort_other s fun e => ?_⟩
      · simp only [R.FLU_P_STATUS, R.FLU_P_FENCEDROP, List.mem_cons, List.not_mem_nil, or_false, not_or]; omega
      · rw [List.mem_singleton.1 hq]
        exact ⟨fencePort_state s p, by rw [State.fencePort, port_mod]⟩
      · simp [e, hb, hl] at hq
    next hl => exact hsame (.inr (by simpa using hl))
  next hb =>
    rw [if_neg (h (by simpa using hb))]
    exact hsame (.inl (by simpa using hb))

theorem fence_each (v : Nat) (l : List Nat) (s : State) (hn : l.Nodup) (h : ∀ p ∈ l, v.testBit p = false → s.portState p ≠ 5) :
    FencedTo v l s (s.each l (fenceStep v)) := by
  induction l generalizing s with
  | nil => exact ⟨rfl, fun _ _ => rfl, fun _ hp => absurd hp List.not_mem_nil, fun _ _ => ⟨rfl, rfl⟩⟩
  | cons a l ih =>
    rw [List.nodup_cons] at hn
    have h1 := fenceStep_to v s a (h a List.mem_cons_self)
    have hother : ∀ p ∈ l, (fenceStep v s a).portState p = s.portState p ∧ (fenceStep v s a).port p = s.port p := fun p hp =>
      h1.kept p (.inl fun e => hn.1 (List.mem_singleton.1 e ▸ hp))
    have h2 := ih (fenceStep v s a) hn.2 fun p hp hb => by rw [(hother p hp).1]; exact h p (List.mem_cons_of_mem _ hp) hb
    have hlive : ∀ p, (fenceStep v s a).portState p = s.portState p → (fenceStep v s a).portLive p = s.portLive p := fun p hp => by
      rw [State.portLive, State.portLive, hp]
    show FencedTo v (a :: l) s ((fenceStep v s a).each l (fenceStep v))
    refine ⟨h2.mem.trans h1.mem, fun o ho => (h2.regs o ho).trans (h1.regs o ho), fun p hp hb hl => ?_, fun p hp => ?_⟩
    · rcases List.mem_cons.1 hp with rfl | hpl
      · obtain ⟨k1, k2⟩ := h2.kept p (.inl hn.1)
        obtain ⟨f1, f2⟩ := h1.fenced p List.mem_cons_self hb hl
        exact ⟨k1.trans f1, by rw [k2, f2]⟩
      · exact h2.fenced p hpl hb ((hlive p (hother p hpl).1).trans hl)
    · have k1 : (fenceStep v s a).portState p = s.portState p ∧ (fenceStep v s a).port p = s.port p :=
        h1.kept p (hp.imp_left fun e f => e (List.mem_singleton.1 f ▸ List.mem_cons_self))
      have k2 := h2.kept p (hp.imp (fun e f => e (List.mem_cons_of_mem _ f)) (Or.imp_right fun e => (hlive p k1.1).trans e))
      exact ⟨k2.1.trans k1.1, k2.2.trans k1.2⟩

theorem fenceWrite_eq (s : State) (v : Nat) (h : ∀ g < 256, ((s.set F.FLU_FENCE_PORTS v).each (List.range 12) (fenceStep v)).on (F.SYN_GRP_CTRL_TREE g) = false) :
    s.fenceWrite v = (s.set F.FLU_FENCE_PORTS v).each (List.range 12) (fenceStep v) := by
  obtain ⟨u, hu⟩ : ∃ u, u = (s.set F.FLU_FENCE_PORTS v).each (List.range 12) (fenceStep v) := ⟨_, rfl⟩
  rw [← hu] at h ⊢
  have hwrite : s.fenceWrite v = u.each (List.range 256) fun t g =>
      let b := t.get (F.SYN_GRP_CTRL_COUNTER g)
      if t.on (F.SYN_GRP_CTRL_VALID g) && t.on (F.SYN_GRP_CTRL_TREE g) && t.ctrValid b && t.gslot b == g then t.treeAdvance g b else t := by
    rw [hu]; rfl
  rw [hwrite]
  refine each_id _ _ _ fun g hg => ?_
  simp only [h g (List.mem_range.1 hg), Bool.and_false, Bool.false_and, Bool.false_eq_true, if_false]

/-- Settles O48. -/
theorem flueControlWritesAct : Obligations.FlueControlWritesAct := by
  unfold Obligations.FlueControlWritesAct
  intro who val s hb hs
  refine ⟨fun p h2 h3 => ⟨fun h0 hmark => ?_, fun h0 hmark => ?_⟩, fun p hmode => portRetrain_asks who val s hb hs p hmode, fun h1 => ?_, fun h1 hj => ?_,
    fun n h1 hj hn hstep => ?_, fun h8 p hp hp' => ?_, fun htree hfence => ?_⟩
  · obtain ⟨t, hnext, hst, hlanes, hmode, hport, hother, hregs, hmem⟩ :=
      portMode_does who val s hb hs p (by decide) (by decide) (portCtrl_off h2 hmark h0)
    exact ⟨t, hnext, hst, hlanes, hmode, by rw [hport], by rw [hport], hother, hregs, hmem⟩
  · obtain ⟨t, hnext, hst, hlanes, hmode, hport, hother, hregs, hmem⟩ :=
      portMode_does who val s hb hs p (by omega) (by decide) (portCtrl_train h2 hmark h0 h3)
    exact ⟨t, hnext, hst, hlanes, hmode, by rw [hport]; rfl, by rw [hport]; rfl, by rw [hport]; rfl, hother, hregs, hmem⟩
  · refine gives_answer (plannedSwitch_exec who val s hb hs) ?_
    rw [epochWrite_eq s val.isLt, if_pos (.inl h1)]
  · refine gives_answer (plannedSwitch_exec who val s hb hs) ?_
    have hmade : s.madeBy (val.toNat / 2 ^ 8) = false := by
      unfold State.madeBy
      split
      next k hk =>
        rcases hj with hj | hj
        · rw [hj, Bool.false_and]
        · rw [hj k hk, Bool.and_false]
      next => rfl
    have hbit : val.toNat.testBit 1 = true := h1
    rw [epochWrite_eq s val.isLt, if_neg (by rw [hmade, hbit]; decide)]
  · refine gives_answer (plannedSwitch_exec who val s hb hs) ?_
    have hmade : s.madeBy (val.toNat / 2 ^ 8) = true := by simp only [State.madeBy, hn, hj, hstep, Bool.and_self]
    rw [epochWrite_eq s val.isLt, if_pos (.inr hmade)]
  · have hexec : exec (.emergencyNotice who val) s = s.answer (s.emergWrite val.toNat) := by
      have h := write_FLU_EMERG s who.val val.toNat hb hs
      rw [word_mod] at h
      rw [← h]; rfl
    exact gives_answer hexec (emergWrite_go s h8 hp hp')
  · obtain ⟨v, hv⟩ : ∃ v, v = s.set F.FLU_FENCE_PORTS val.toNat := ⟨_, rfl⟩
    have hvreg : ∀ o, o ≠ R.FLU_FENCE → v.reg o = s.reg o := fun o ho => by rw [hv]; exact State.reg_set_ne _ _ ho
    have hvstate : ∀ p, v.portState p = s.portState p := fun p => by
      rw [hv]; exact State.get_set_off _ _ (by simp only [F.FLU_P_STATUS_STATE, F.FLU_FENCE_PORTS]; omega)
    have hvport : ∀ p, v.port p = s.port p := fun p => by rw [hv]; rfl
    have hvlive : ∀ p, v.portLive p = s.portLive p := fun p => by rw [State.portLive, State.portLive, hvstate]
    obtain ⟨hmem, hregs, hfenced, hkept⟩ := fence_each val.toNat (List.range 12) v List.nodup_range fun p hp hb => by
      rw [hvstate]; exact hfence p (List.mem_range.1 hp) hb
    obtain ⟨u, hu⟩ : ∃ u, u = v.each (List.range 12) (fenceStep val.toNat) := ⟨_, rfl⟩
    have hwrite : s.fenceWrite val.toNat = u := by
      rw [hu, hv]
      refine fenceWrite_eq s val.toNat fun g hg => ?_
      rw [← hv, on_congr_reg (s := s) _ ((hregs _ (by simp only [F.SYN_GRP_CTRL_TREE]; omega)).trans (hvreg _ (by simp only [F.SYN_GRP_CTRL_TREE, R.FLU_FENCE]; omega)))]
      exact htree g hg
    rw [← hu] at hmem hregs hfenced hkept
    obtain ⟨t, hnext, ht⟩ := answer_agree s u
    refine ⟨t, ?_, ?_, ?_, fun p => ⟨fun hl hb => ?_, fun hc => ?_⟩⟩
    · have h := write_FLU_FENCE s who.val val.toNat hb hs
      rw [word_mod, hwrite] at h
      rw [← hnext, ← h]; rfl
    · rw [ht.get, State.get, hregs _ (by decide), ← State.get, hv]
      exact State.get_set_self _ _ _ (by decide)
    · rw [ht.mem, hmem, hv]; rfl
    · rw [State.portState, ht.get, ← State.portState, port_agree ht]
      exact hfenced p.val (List.mem_range.2 p.isLt) hb ((hvlive _).trans hl)
    · obtain ⟨k1, k2⟩ := hkept p.val (.inr (hc.symm.imp_right fun h => (hvlive _).trans h))
      rw [State.portState, ht.get, ← State.portState, port_agree ht, k1, k2, hvstate, hvport]
      exact ⟨rfl, rfl⟩

end Sys2Proof.Machine
end

section
/-! PROOFS. Frame marks, notices, epoch switches, emergency switches and cartridges of the flue (11_flue_fabric.md R390, R393, R395,
R397 to R399, R586). -/

namespace Sys2Proof.Machine

/-! ### Frames -/

/-- R393: marks leave in link control, each with the present frame number. -/
theorem marks_each (l : List Nat) (s : State) : s.each l (fun t p => t.linkCtl p (.mark t.frame)) =
    { s with flue := { s.flue with ctl := s.flue.ctl ++ l.map fun p => (p, LinkMsg.mark s.frame) } } := by
  induction l generalizing s with
  | nil => rw [List.map_nil, List.append_nil]; rfl
  | cons a l ih =>
    have hstep : s.each (a :: l) (fun t p => t.linkCtl p (.mark t.frame)) = (s.linkCtl a (.mark s.frame)).each l fun t p => t.linkCtl p (.mark t.frame) := rfl
    rw [hstep, ih, List.map_cons, List.append_cons]
    rfl
theorem setFrame_markPorts (s : State) (n : Nat) : (s.setFrame n).markPorts = s.markPorts := by
  unfold State.markPorts
  refine List.filter_congr fun p hp => ?_
  have hget : ∀ f : RF, 0x1310000 ≤ f.off → (s.setFrame n).get f = s.get f := fun f hf =>
    get_setFrame s n f (by simp only [R.FLU_FRAME_LO]; omega) (by simp only [R.FLU_FRAME_HI]; omega)
  rw [State.portLive, State.portLive, State.portState, State.portState, hget _ (by simp only [F.FLU_P_STATUS_STATE]; omega), hget _ (by simp only [F.FLU_P_CTRL_MODE]; omega)]
/-- R393: a boundary of the fabric master, with frame number n. -/
theorem sendMarks_does (s : State) (n : Nat) : (s.setFrame n).sendMarks.frame = n % 2 ^ 48 ∧
    (s.setFrame n).sendMarks.flue = { s.flue with ctl := s.flue.ctl ++ s.markPorts.map fun p => (p, LinkMsg.mark (n % 2 ^ 48)) } ∧
    (s.setFrame n).sendMarks.regs = (s.setFrame n).regs ∧ (s.setFrame n).sendMarks.mem = s.mem := by
  have hframe := frame_set s n
  obtain ⟨hflue, hmem⟩ := frame_flue s n
  have hports := setFrame_markPorts s n
  obtain ⟨u, hu⟩ : ∃ u, u = s.setFrame n := ⟨_, rfl⟩
  rw [← hu] at hframe hflue hmem hports ⊢
  rw [State.sendMarks, marks_each, hports, hframe, hflue]
  exact ⟨hframe, rfl, rfl, hmem⟩

section
variable (s : State) (hclk : s.clocked = true)
include hclk

theorem frameMark_master (hm : s.aon.fabMaster = true) : ∃ t, exec .frameMark s = .next t ∧ t.frame = (s.frame + 1) % 2 ^ 48 ∧
    t.flue = { s.flue with ctl := s.flue.ctl ++ s.markPorts.map fun p => (p, LinkMsg.mark t.frame) } ∧ RegsBut [R.FLU_FRAME_LO, R.FLU_FRAME_HI] s t ∧ t.mem = s.mem := by
  obtain ⟨hframe, hflue, hregs, hmem⟩ := sendMarks_does s (s.frame + 1)
  obtain ⟨u, hu⟩ : ∃ u, u = (s.setFrame (s.frame + 1)).sendMarks := ⟨_, rfl⟩
  have hdo : s.frameMark = u := by rw [State.frameMark, if_neg (by rw [hclk]; decide), if_pos hm, hu]
  rw [← hu] at hframe hflue hregs hmem
  obtain ⟨t, hnext, ht⟩ := answer_agree s u
  have htf : t.frame = (s.frame + 1) % 2 ^ 48 := (frame_agree ht).trans hframe
  refine ⟨t, ?_, htf, ?_, ?_, ht.mem.trans hmem⟩
  · rw [← hnext, ← hdo]; exact ticked_on s (fun t => t.frameMark) hclk
  · rw [htf, ht.flue, hflue]
  · exact (frame_rb s (s.frame + 1) _ (.head _) (.tail _ (.head _))).trans (regsBut_of_regs _ (ht.regs.trans hregs))
theorem frameMark_holdover (hm : s.aon.fabMaster = false) (hl : s.on F.FLU_STATUS_MARKLOCK = false) :
    ∃ t, exec .frameMark s = .next t ∧ t.frame = (s.frame + 1) % 2 ^ 48 ∧ t.flue = s.flue ∧ RegsBut [R.FLU_FRAME_LO, R.FLU_FRAME_HI] s t ∧ t.mem = s.mem := by
  obtain ⟨u, hu⟩ : ∃ u, u = s.setFrame (s.frame + 1) := ⟨_, rfl⟩
  have hdo : s.frameMark = u := by
    rw [State.frameMark, if_neg (by rw [hclk]; decide), if_neg (by rw [hm]; decide), if_neg (by rw [hl]; decide), hu]
  obtain ⟨t, hnext, ht⟩ := answer_agree s u
  refine ⟨t, ?_, ?_, ?_, ?_, ?_⟩
  · rw [← hnext, ← hdo]; exact ticked_on s (fun t => t.frameMark) hclk
  · rw [frame_agree ht, hu, frame_set]
  · rw [ht.flue, hu, (frame_flue s _).1]
  · exact (hu ▸ frame_rb s (s.frame + 1) _ (.head _) (.tail _ (.head _))).agree ht
  · rw [ht.mem, hu, (frame_flue s _).2]

variable (p : Fin 12) (hlive : s.portLive p.val = true)
include hlive

theorem markReceive_takes (frame : BitVec 48) (hmode : s.get (F.FLU_P_CTRL_MODE p.val) = 1) (hm : s.aon.fabMaster = false) (hport : s.markPort = some p.val)
    (hmark : s.get F.FLU_STATUS_MARKPORT = p.val) :
    ∃ t, exec (.frameMarkReceive p frame) s = .next t ∧ t.frame = frame.toNat ∧ t.on F.FLU_STATUS_MARKLOCK = true ∧ t.get F.FLU_STATUS_MARKPORT = p.val ∧
      t.flue = { s.flue with ctl := s.flue.ctl ++ s.markPorts.map fun q => (q, LinkMsg.mark frame.toNat) } ∧ RegsBut [R.FLU_STATUS, R.FLU_FRAME_LO, R.FLU_FRAME_HI] s t ∧ t.mem = s.mem := by
  obtain ⟨v, hv⟩ : ∃ v, v = (s.set F.FLU_STATUS_MARKPORT p.val).set F.FLU_STATUS_MARKLOCK 1 := ⟨_, rfl⟩
  obtain ⟨hframe, hflue, hregs, hmem⟩ := sendMarks_does v frame.toNat
  have hvregs : RegsBut [R.FLU_STATUS] s v := by
    rw [hv]; exact (regsBut_set s F.FLU_STATUS_MARKPORT _ (.head _)).trans (regsBut_set _ F.FLU_STATUS_MARKLOCK 1 (.head _))
  have hvports : v.markPorts = s.markPorts := by
    unfold State.markPorts
    refine List.filter_congr fun q hq => ?_
    rw [State.portLive, State.portLive, State.portState, State.portState, hvregs.get (by simp only [F.FLU_P_STATUS_STATE, R.FLU_STATUS, List.mem_singleton]; omega),
      hvregs.get (by simp only [F.FLU_P_CTRL_MODE, R.FLU_STATUS, List.mem_singleton]; omega)]
  have hvflue : v.flue = s.flue := by rw [hv]; rfl
  obtain ⟨u, hu⟩ : ∃ u, u = (v.setFrame frame.toNat).sendMarks := ⟨_, rfl⟩
  have hdo : s.frameMarkIn p.val frame.toNat = u := by
    rw [State.frameMarkIn, if_neg (by simp [hclk, hlive, hmode]), if_neg (by simp [hm]), if_neg (by simp [hport])]
    dsimp only
    rw [if_neg (by simp [hmark]), hu, hv]
  rw [← hu, hvports, hvflue, Nat.mod_eq_of_lt frame.isLt] at hflue
  rw [← hu, Nat.mod_eq_of_lt frame.isLt] at hframe
  rw [← hu] at hregs hmem
  obtain ⟨t, hnext, ht⟩ := answer_agree s u
  have hstatus : ∀ f : RF, f.off = R.FLU_STATUS → t.get f = v.get f := fun f hf => by
    rw [ht.get, State.get_congr hregs, get_setFrame _ _ _ (by rw [hf]; decide) (by rw [hf]; decide)]
  refine ⟨t, ?_, (frame_agree ht).trans hframe, ?_, ?_, ht.flue.trans hflue, ?_, ?_⟩
  · rw [← hnext, ← hdo]; exact ticked_on s (fun t => t.frameMarkIn p.val frame.toNat) hclk
  · rw [State.on, hstatus _ rfl, ← State.on, hv]; exact State.on_set_one _ _ (by decide) (by decide)
  · rw [hstatus _ rfl, hv, State.get_set_bits _ _ (by decide) (by decide)]
    exact State.get_set_lt _ _ _ (by decide) (by simp only [F.FLU_STATUS_MARKPORT]; omega)
  · refine RegsBut.trans (hvregs.mono fun o ho => ?_) ((frame_rb v frame.toNat _ (.tail _ (.head _)) (.tail _ (.tail _ (.head _)))).trans (regsBut_of_regs _ (ht.regs.trans hregs)))
    rw [List.mem_singleton.1 ho]; exact .head _
  · rw [ht.mem, hmem, hv]; rfl
end

/-! ### Epochs -/

/-- R390: the state at which a planned switch has changed the epoch. -/
def State.switched (s : State) : State :=
  { ((s.set F.FLU_EPOCH_PEND 0).set F.FLU_EPOCH_OLDFREE 0).flip with flue := { s.flue with dropOld := false, switchStep := s.get F.FLU_EPOCH_SWSTEP } }

theorem epochSwitch_due {s : State} (hclk : s.clocked = true) (hp : s.on F.FLU_EPOCH_PEND = true) (hv : s.verValid s.inactive = true)
    (hd : s.jobEn = false ∨ stepFrom (s.get F.FLU_EPOCH_SWSTEP) s.job.step = true) : s.epochSwitch = s.switched.releaseInjections := by
  have hdue : (!s.jobEn || stepFrom (s.get F.FLU_EPOCH_SWSTEP) s.job.step) = true := by rcases hd with h | h <;> simp [h]
  unfold State.epochSwitch State.switched
  dsimp only
  rw [hdue, if_pos (by rw [hclk, hp, hv]; rfl)]
  rfl
theorem epochSwitch_not {s : State}
    (h : s.on F.FLU_EPOCH_PEND = false ∨ s.verValid s.inactive = false ∨ s.jobEn = true ∧ stepFrom (s.get F.FLU_EPOCH_SWSTEP) s.job.step = false) : s.epochSwitch = s := by
  unfold State.epochSwitch
  dsimp only
  refine if_neg ?_
  rcases h with h | h | ⟨h, h'⟩
  · simp [h]
  · simp [h]
  · simp [h, h']
theorem switched_does (s : State) : s.switched.epoch = 1 - s.epoch ∧ s.switched.on F.FLU_EPOCH_PEND = false ∧ s.switched.on F.FLU_EVENT_SWITCHED = true ∧
    s.switched.on F.FLU_EPOCH_OLDFREE = false ∧ s.switched.on F.FLU_STATUS_INACT_VALID = s.switched.verValid s.switched.inactive ∧
    RegsBut [R.FLU_EPOCH, R.FLU_EVENT, R.FLU_STATUS] s s.switched ∧ s.switched.mem = s.mem := by
  obtain ⟨v, hv⟩ : ∃ v, v = (s.set F.FLU_EPOCH_PEND 0).set F.FLU_EPOCH_OLDFREE 0 := ⟨_, rfl⟩
  have hregs : s.switched.regs = v.flip.regs := by rw [hv]; rfl
  have hflue : v.flip.flue.valid0 = s.switched.flue.valid0 ∧ v.flip.flue.valid1 = s.switched.flue.valid1 := by
    rw [(flip_flue v).1, hv]; exact ⟨rfl, rfl⟩
  have hepoch : v.epoch = s.epoch := by rw [hv, State.epoch, State.get_set_bits _ _ (by decide) (by decide), State.get_set_bits _ _ (by decide) (by decide)]; rfl
  have hsepoch : s.switched.epoch = v.flip.epoch := State.get_congr hregs _
  refine ⟨?_, ?_, ?_, ?_, ?_, ?_, ?_⟩
  · rw [hsepoch, flip_epoch, hepoch]
  · rw [State.on_congr hregs, State.on, flip_get v _ rfl (by decide) (by decide), ← State.on, hv, State.on_set_bits _ _ (by decide) (by decide)]
    exact State.on_set_zero _ _ (by decide)
  · rw [State.on_congr hregs, flip_event]
  · rw [State.on_congr hregs, State.on, flip_get v _ rfl (by decide) (by decide), ← State.on, hv]
    exact State.on_set_zero _ _ (by decide)
  · rw [State.on_congr hregs, flip_valid, State.inactive, State.inactive, hsepoch, State.verValid, State.verValid, hflue.1, hflue.2]
  · refine RegsBut.trans ?_ ((flip_rb v).trans (regsBut_of_regs _ hregs))
    rw [hv]
    exact (regsBut_set s F.FLU_EPOCH_PEND 0 (.head _)).trans (regsBut_set _ F.FLU_EPOCH_OLDFREE 0 (.head _))
  · have hmem : s.switched.mem = v.flip.mem := by rw [hv]; rfl
    rw [hmem, (flip_flue v).2, hv]; rfl

/-- R395: the state at which an emergency switch has changed the epoch. -/
def State.emergSwitched (s : State) : State :=
  let u := ({ s with flue := { s.flue with emergAt := none } }.flip).set F.FLU_EPOCH_OLDFREE 1
  { u with flue := { u.flue with dropOld := true } }
theorem emergSwitched_does (s : State) : s.emergSwitched.epoch = 1 - s.epoch ∧ s.emergSwitched.on F.FLU_EPOCH_OLDFREE = true ∧
    s.emergSwitched.flue = { s.flue with emergAt := none, dropOld := true } ∧ s.emergSwitched.col = s.col ∧
    RegsBut [R.FLU_EPOCH, R.FLU_EVENT, R.FLU_STATUS] s s.emergSwitched ∧ s.emergSwitched.mem = s.mem := by
  obtain ⟨v, hv⟩ : ∃ v : State, v = { s with flue := { s.flue with emergAt := none } } := ⟨_, rfl⟩
  have hregs : s.emergSwitched.regs = (v.flip.set F.FLU_EPOCH_OLDFREE 1).regs := by rw [hv]; rfl
  have hepoch : v.epoch = s.epoch := by rw [hv]; rfl
  refine ⟨?_, ?_, ?_, rfl, ?_, ?_⟩
  · rw [State.epoch, State.get_congr hregs, State.get_set_bits _ _ (by decide) (by decide), ← hepoch]
    exact flip_epoch v
  · rw [State.on_congr hregs]; exact State.on_set_one _ _ (by decide) (by decide)
  · have hflue : s.emergSwitched.flue = { v.flip.flue with dropOld := true } := by rw [hv]; rfl
    rw [hflue, (flip_flue v).1, hv]
  · refine RegsBut.trans (regsBut_of_regs _ (by rw [hv]) : RegsBut _ s v) ((flip_rb v).trans (RegsBut.trans (regsBut_set _ F.FLU_EPOCH_OLDFREE 1 (.head _)) (regsBut_of_regs _ hregs)))
  · have hmem : s.emergSwitched.mem = v.flip.mem := by rw [hv]; rfl
    rw [hmem, (flip_flue v).2, hv]

theorem emergencySwitch_lost {s : State} {fs : Nat} (hclk : s.clocked = true) (he : s.flue.emergAt = some fs) (hf : fs ≤ s.frame)
    (h : s.flue.commit.isSome = true ∨ s.verValid s.inactive = false) : s.emergencySwitch = ({ s with flue := { s.flue with emergAt := none } } : State).linkLost := by
  obtain ⟨v, hv⟩ : ∃ v : State, v = { s with flue := { s.flue with emergAt := none } } := ⟨_, rfl⟩
  have hcond : v.flue.commit.isSome = true ∨ (!v.verValid v.inactive) = true := by
    refine h.imp (fun e => by rw [hv]; exact e) fun e => ?_
    have hval : v.verValid v.inactive = false := by rw [hv]; exact e
    rw [hval, Bool.not_false]
  subst hv
  unfold State.emergencySwitch
  rw [he]
  dsimp only
  rw [if_neg (by simp [hclk, hf])]
  exact if_pos hcond
/-- R395, R422: with every injector and engine idle, the emergency switch only changes the epoch. -/
theorem emergencySwitch_changes {s : State} {fs : Nat} (hclk : s.clocked = true) (he : s.flue.emergAt = some fs) (hf : fs ≤ s.frame)
    (hc : s.flue.commit = none) (hval : s.verValid s.inactive = true)
    (hidle : ∀ q < 4, (s.inj q).opened = [] ∧ (s.colOf q).nodes = [] ∧ (s.colOf q).run = none ∧ (s.colOf q).verdict = none) :
    ∃ c, s.emergencySwitch = { s.emergSwitched with col := c } := by
  obtain ⟨v, hv⟩ : ∃ v : State, v = { s with flue := { s.flue with emergAt := none } } := ⟨_, rfl⟩
  have hcond : ¬ (v.flue.commit.isSome = true ∨ (!v.verValid v.inactive) = true) := by
    have h1 : v.flue.commit = none := by rw [hv]; exact hc
    have h2 : v.verValid v.inactive = true := by rw [hv]; exact hval
    simp [h1, h2]
  obtain ⟨-, -, hflue, hcol, -, -⟩ := emergSwitched_does s
  obtain ⟨w, hw⟩ : ∃ w, w = s.emergSwitched := ⟨_, rfl⟩
  have hw' := hw
  rw [State.emergSwitched] at hw'
  dsimp only at hw'
  rw [← hw] at hflue hcol ⊢
  have hinj : ∀ (c : Sparse Col) (q : Nat), ({ w with col := c } : State).inj q = s.inj q := fun c q => by
    have hinjs : w.flue.injs = s.flue.injs := by rw [hflue]
    show w.flue.injs.look _ q = _
    rw [hinjs]; rfl
  obtain ⟨c, hrestart⟩ := restarts_quiet (List.range 4) w fun q hq => by
    rw [show w.colOf q = s.colOf q by rw [State.colOf, State.colOf, hcol]]
    exact (hidle q (List.mem_range.1 hq)).2
  refine ⟨c, ?_⟩
  subst hv
  unfold State.emergencySwitch
  rw [he]
  dsimp only
  rw [if_neg (by simp [hclk, hf])]
  refine (if_neg hcond).trans ?_
  rw [← hw', hrestart]
  refine each_id _ _ _ fun q hq => ?_
  rw [hinj, (hidle q (List.mem_range.1 hq)).1]
  rfl

/-- Settles O51. -/
theorem framesAndEpochs : Obligations.FramesAndEpochs := by
  unfold Obligations.FramesAndEpochs
  intro s hclk
  have hon : ¬ (!s.clocked) = true := by simp [hclk]
  refine ⟨frameMark_master s hclk, fun hm hl => ?_, frameMark_holdover s hclk, fun p frame hlive hmode => ⟨fun hm hport hmark => ?_, fun hm => ?_⟩,
    fun p pkt link fs hlive hmode hlink hfs => ⟨fun hin => ?_, fun hin => ?_⟩, fun p pkt hlive hmode => ?_, fun hp hv hd => ?_, fun h => ?_,
    fun fs he => ⟨fun hf => ?_, fun hf h => ?_, fun hf hc hval hidle => ?_⟩⟩
  · refine gives_ticked (f := fun t => t.frameMark) rfl hclk ?_
    simp only [State.frameMark, hon, hm, hl, Bool.false_eq_true, if_false, if_true]
  · exact markReceive_takes s hclk p hlive frame hmode hm hport hmark
  · refine gives_ticked (f := fun t => t.frameMarkIn p.val frame.toNat) rfl hclk ?_
    rw [State.frameMarkIn, if_neg (by simp [hclk, hlive, hmode]), if_pos hm]
  · refine gives_ticked (f := fun t => t.noticeIn p.val pkt) rfl hclk ?_
    simp only [State.noticeIn, hlive, hmode, ← hlink, ← hfs, List.contains_iff_mem.2 hin, Bool.not_true, Bool.false_eq_true, if_false, if_true]
  · refine gives_ticked (f := fun t => t.noticeIn p.val pkt) rfl hclk ?_
    simp only [State.noticeIn, hlive, hmode, ← hlink, ← hfs, List.contains_iff_mem, hin, Bool.not_true, Bool.false_eq_true, if_false]
  · refine gives_ticked (f := fun t => t.noticeIn p.val pkt) rfl hclk ?_
    simp only [State.noticeIn, hlive, hmode, Bool.not_true, Bool.false_eq_true, if_false, if_true]
  · obtain ⟨hepoch, hpend, hevent, hfree, hvalid, hregs, hmem⟩ := switched_does s
    exact ⟨s.switched, gives_ticked (f := fun t => t.epochSwitch) rfl hclk (epochSwitch_due hclk hp hv hd), hepoch, hpend, hevent, hfree, hvalid, rfl, hregs, hmem⟩
  · exact gives_ticked (f := fun t => t.epochSwitch) rfl hclk (epochSwitch_not h)
  · refine gives_ticked (f := fun t => t.emergencySwitch) rfl hclk ?_
    simp only [State.emergencySwitch, he, hf, or_true, if_true]
  · exact gives_ticked (f := fun t => t.emergencySwitch) rfl hclk (emergencySwitch_lost hclk he hf h)
  · obtain ⟨c, hdo⟩ := emergencySwitch_changes hclk he hf hc hval hidle
    obtain ⟨hepoch, hfree, hflue, -, hregs, hmem⟩ := emergSwitched_does s
    obtain ⟨w, hw⟩ : ∃ w, w = s.emergSwitched := ⟨_, rfl⟩
    rw [← hw] at hdo hepoch hfree hflue hregs hmem
    obtain ⟨t, hnext, ht⟩ := answer_agree s ({ w with col := c } : State)
    have htregs : t.regs = w.regs := ht.regs
    have htflue : t.flue = w.flue := ht.flue
    refine ⟨t, ?_, (State.get_congr htregs _).trans hepoch, (State.on_congr htregs _).trans hfree, by rw [htflue, hflue], by rw [htflue, hflue],
      hregs.trans (regsBut_of_regs _ htregs), ht.mem.trans hmem⟩
    rw [← hnext, ← hdo]; exact ticked_on s (fun t => t.emergencySwitch) hclk

end Sys2Proof.Machine
end

section
/-! PROOFS. Cartridges come and go (11_flue_fabric.md R398, R399, R586). -/

namespace Sys2Proof.Machine

/-- R586: a port whose cartridge is gone. -/
def Port.emptied (q : Port) : Port := { q with cart := none, laser := false, lifeSeen := 0 }
/-- R586: what a removal does before the port's state is looked at. -/
def State.cartGone (s : State) (p : Nat) : State :=
  ((((s.raise (F.FLU_P_EVENT_CART_CHANGE p)).set (F.FLU_P_CART_KIND p) 0).set (F.FLU_P_CART_UNVERIFIED p) 0).set (F.FLU_P_CART_LIFEPCT p) 0).modPort p Port.emptied

section
variable (s : State) (p : Nat)

theorem cartGone_regs : RegsBut [R.FLU_P_EVENT p, R.FLU_P_CART p] s (s.cartGone p) :=
  (regsBut_set s (F.FLU_P_EVENT_CART_CHANGE p) 1 (.head _)).trans ((regsBut_set _ (F.FLU_P_CART_KIND p) 0 (.tail _ (.head _))).trans
    ((regsBut_set _ (F.FLU_P_CART_UNVERIFIED p) 0 (.tail _ (.head _))).trans
      ((regsBut_set _ (F.FLU_P_CART_LIFEPCT p) 0 (.tail _ (.head _))).trans (regsBut_of_regs _ rfl))))
theorem cartGone_state : (s.cartGone p).portState p = s.portState p :=
  (cartGone_regs s p).get (by simp only [F.FLU_P_STATUS_STATE, R.FLU_P_EVENT, R.FLU_P_CART, List.mem_cons, List.not_mem_nil, or_false, not_or]; omega)
theorem cartGone_kind : (s.cartGone p).get (F.FLU_P_CART_KIND p) = 0 := by
  rw [State.cartGone, modPort_get, State.get_set_bits _ _ (by simp [F.FLU_P_CART_KIND]) (by simp [F.FLU_P_CART_KIND, F.FLU_P_CART_LIFEPCT]),
    State.get_set_bits _ _ (by simp [F.FLU_P_CART_KIND]) (by simp [F.FLU_P_CART_KIND, F.FLU_P_CART_UNVERIFIED])]
  exact State.get_set_lt _ _ _ (by simp [F.FLU_P_CART_KIND]) (by simp [F.FLU_P_CART_KIND])
theorem cartGone_event : (s.cartGone p).on (F.FLU_P_EVENT_CART_CHANGE p) = true := by
  rw [State.cartGone, modPort_on, State.on_set_off _ _ (by simp only [F.FLU_P_EVENT_CART_CHANGE, F.FLU_P_CART_LIFEPCT]; omega),
    State.on_set_off _ _ (by simp only [F.FLU_P_EVENT_CART_CHANGE, F.FLU_P_CART_UNVERIFIED]; omega),
    State.on_set_off _ _ (by simp only [F.FLU_P_EVENT_CART_CHANGE, F.FLU_P_CART_KIND]; omega)]
  exact State.on_set_one _ _ (by simp [F.FLU_P_EVENT_CART_CHANGE]) (by simp [F.FLU_P_EVENT_CART_CHANGE])
theorem cartGone_port : (s.cartGone p).port p = (s.port p).emptied := port_mod _ _ _
theorem cartGone_live : (s.cartGone p).portLive p = s.portLive p := by rw [State.portLive, State.portLive, cartGone_state]

theorem cartRemove_eq (hpg : s.aon.pg = true) (hc : (s.port p).cart.isNone = false) :
    s.cartRemove p = if s.portLive p = true ∨ s.portState p = 5 then (s.cartGone p).portDead p else s.cartGone p := by
  rw [← cartGone_live, ← cartGone_state]
  rw [State.cartRemove, if_neg (by simp [hpg, hc])]
  rfl

theorem noteLife_port (record : List Byte) {q : Nat} (h : q ≠ p) : (s.noteLife p record).port q = s.port q := by
  obtain ⟨u, hu⟩ : ∃ u, u = (s.set (F.FLU_P_CART_LIFEPCT p) (s.lifePct record)).modPort p fun x =>
    { x with lifeSeen := max (s.port p).lifeSeen (if 100 ≤ s.lifeFloor record then 2 else if 90 ≤ s.lifeFloor record then 1 else 0) } := ⟨_, rfl⟩
  have huq : u.port q = s.port q := by rw [hu, port_mod_ne _ _ h, set_port]
  have hif : ∀ (c : Prop) [Decidable c] (a b : State), a.port q = s.port q → b.port q = s.port q → (if c then a else b).port q = s.port q :=
    fun c _ a b ha hb => by split <;> assumption
  have hwarn : ∀ (c : Prop) [Decidable c], (if c then u.raise (F.FLU_P_EVENT_LIFE_WARN p) else u).port q = s.port q := fun c _ =>
    hif c _ _ huq huq
  unfold State.noteLife
  dsimp only
  rw [← hu]
  exact hif _ _ _ (hif _ _ _ (hwarn _) (hwarn _)) (hwarn _)
end

/-- R399: what a minute does to the cartridge of port p. -/
def cartMinute (t : State) (p : Nat) : State :=
  match (t.port p).cart with
  | some record =>
    if (t.port p).laser && (Config.cartKind record).toNat == 2 then
      (t.setMinutes (Config.cartKey record).toNat (t.cartMinutes (Config.cartKey record).toNat + 1)).noteLife p record
    else t
  | none => t
theorem cartMinute_dark {t : State} {p : Nat} (h : (t.port p).laser = false) : cartMinute t p = t := by
  unfold cartMinute
  split
  · rw [h, Bool.false_and, if_neg Bool.false_ne_true]
  · rfl
theorem cartMinute_lit {t : State} {p : Nat} {record : List Byte} (hc : (t.port p).cart = some record) (hl : (t.port p).laser = true)
    (hk : (Config.cartKind record).toNat = 2) :
    cartMinute t p = (t.setMinutes (Config.cartKey record).toNat (t.cartMinutes (Config.cartKey record).toNat + 1)).noteLife p record := by
  simp only [cartMinute, hc, hl, hk, beq_self_eq_true, Bool.and_self, if_true]
theorem cartHours_eq {s : State} (hclk : s.clocked = true) : s.cartHours = s.each (List.range 12) cartMinute := by
  rw [State.cartHours, if_neg (by simp [hclk])]
  rfl

/-- Settles O52. -/
theorem cartridgesComeAndGo : Obligations.CartridgesComeAndGo := by
  unfold Obligations.CartridgesComeAndGo
  refine ⟨fun p record s u hpg => ⟨fun hcage => gives_answer rfl ?_, fun hcage hu => ?_⟩, fun p record s hpg hc => ⟨fun hl h5 => ?_, fun h => ?_, ?_⟩,
    fun readings s hclk => ?_, fun s hclk hdark => ?_, fun p record s hclk hdark hc hl hk u hu => ?_⟩
  · simp only [State.cartInsert, hpg, hcage, Bool.not_true, Bool.not_false, Bool.false_eq_true, if_false, if_true]
  · have hdo : s.cartInsert p.val record = if u.get (F.FLU_P_CTRL_MODE p.val) = 0 then u
        else if u.on F.CFG_STATE_IMAGE then u.modPort p.val fun q => { q with retrain := true } else u.trainPort p.val := by
      simp only [State.cartInsert, hpg, hcage, Bool.not_true, Bool.false_eq_true, if_false, ← hu]
    refine ⟨fun hm => gives_answer rfl ?_, fun hm hi => gives_answer rfl ?_, fun hm hi => gives_answer rfl ?_⟩
    · rw [hdo, if_pos hm]
    · rw [hdo, if_neg hm, if_pos hi]
    · rw [hdo, if_neg hm, if_neg (by simp [hi])]
  · have hdo : s.cartRemove p.val = s.cartGone p.val := by rw [cartRemove_eq s p.val hpg (by simp [hc]), if_neg (by simp [hl, h5])]
    obtain ⟨t, hnext, ht⟩ := answer_agree s (s.cartGone p.val)
    have hport : t.port p.val = (s.port p.val).emptied := (port_agree ht _).trans (cartGone_port s p.val)
    refine ⟨t, ?_, by rw [hport]; rfl, by rw [hport]; rfl, (ht.get _).trans (cartGone_kind s p.val), (ht.on _).trans (cartGone_event s p.val),
      (ht.get _).trans (cartGone_state s p.val), (cartGone_regs s p.val).agree ht, ht.mem⟩
    rw [← hnext, ← hdo]; rfl
  · refine gives_answer rfl ?_
    rw [cartRemove_eq s p.val hpg (by simp [hc]), if_pos h]
    rfl
  · refine gives_answer rfl ?_
    rw [State.cartOverpower, if_neg (by simp [hpg, hc])]
  · refine gives_ticked (f := fun t => t.cartMonitor readings) rfl hclk ?_
    rw [State.cartMonitor, if_pos hclk]
  · refine gives_ticked (f := fun t => t.cartHours) rfl hclk ?_
    rw [cartHours_eq hclk]
    exact each_id _ _ _ fun p hp => cartMinute_dark (hdark p (List.mem_range.1 hp))
  · have hlit : cartMinute s p.val = u.noteLife p.val record := by rw [cartMinute_lit hc hl hk, hu]
    refine gives_ticked (f := fun t => t.cartHours) rfl hclk ?_
    rw [cartHours_eq hclk, ← hlit]
    refine each_one _ _ _ _ List.nodup_range (List.mem_range.2 p.isLt) (fun q hq hne => cartMinute_dark (hdark q (List.mem_range.1 hq) hne)) fun q hq hne => ?_
    refine cartMinute_dark ?_
    rw [hlit, noteLife_port u p.val record hne, hu]
    exact hdark q (List.mem_range.1 hq) hne

end Sys2Proof.Machine
end

section
/-! PROOFS. A write through the host window (18_host_and_far_memory_links.md R557). -/

namespace Sys2Proof.Machine

/-- R557: a write through the window is a memory step: at most memory, its error patterns and the memory blocks' registers change. -/
theorem step_windowWrite (s : State) (off : Nat) (bs : List Byte) : MemStep s (s.windowWrite off bs) := by
  have hraise : MemStep s (s.raise F.CXL_EVENT_HOST_WDISC) := step_raise s _ (by decide)
  unfold State.windowWrite
  split
  · exact MemStep.rfl' s
  · have hfirst : ∀ n, MemStep s (if n = 0 then s else if s.get F.CFG_STATE_IMAGE = 0 then (s.write off (bs.take n)).2 else s.raise F.CXL_EVENT_HOST_WDISC) := fun n => by
      split
      · exact MemStep.rfl' s
      · split
        · exact step_write _ _ _
        · exact hraise
    dsimp only
    split
    · exact (hfirst _).trans (step_write _ _ _)
    · exact hfirst _

/-- Below the control page and inside the window, one write or one discard. -/
theorem windowWrite_below {s : State} {off : Nat} {bs : List Byte} (hb : s.busOn = true) (hne : bs ≠ []) (hp : off + bs.length ≤ pageBase) :
    s.windowWrite off bs = if s.get F.CFG_STATE_IMAGE = 0 then (s.write off bs).2 else s.raise F.CXL_EVENT_HOST_WDISC := by
  have hlen : bs.length ≠ 0 := fun h => hne (List.length_eq_zero_iff.1 h)
  have hpage : pageBase = 0x3FFFF000 := rfl
  have hmin : min bs.length (pageBase - off) = bs.length := by omega
  unfold State.windowWrite
  rw [if_neg (by simp only [hb, Bool.not_true, Bool.false_eq_true, false_or]; omega)]
  dsimp only
  rw [hmin, if_neg hlen, if_neg (lt_irrefl _), List.take_length]

/-- R333: a whole granule that is written lands with an intact codeword. -/
theorem write_granule {s : State} {a k : Nat} {bs : List Byte} (ha : a % 16 = 0) (hlen : bs.length = 16) (hphys : inPhys a = false) (hk : s.locate a = some k) :
    (s.write a bs).2 = (s.putBytes k bs).putErr (k / 16) 0 := by
  have hgran : s.writeGranule false a 0 bs = (false, (s.putBytes k bs).putErr (k / 16) 0) := by
    rw [State.writeGranule, hphys, Bool.false_and, if_neg Bool.false_ne_true, hk]
    exact if_pos ⟨hlen, rfl⟩
  obtain ⟨b, rest, hbs⟩ : ∃ b rest, bs = b :: rest := List.exists_cons_of_ne_nil fun h => by simp [h] at hlen
  have hfuel : bs.length / 16 + 2 = 2 + 1 := by omega
  have htake : bs.take (16 - 0) = bs := List.take_of_length_le (by omega)
  have hdrop : bs.drop (16 - 0) = [] := List.drop_of_length_le (by omega)
  rw [State.write, State.writeAt, hfuel]
  have hstep : s.writeFrom false (2 + 1) a bs = (let x := s.writeGranule false (a - a % 16) (a % 16) (bs.take (16 - a % 16))
      let y := x.2.writeFrom false 2 (a - a % 16 + 16) (bs.drop (16 - a % 16))
      (x.1 || y.1, y.2)) := by rw [hbs]; rfl
  rw [hstep, ha, htake, hdrop, Nat.sub_zero, hgran]
  rfl

/-- What a whole granule written at place k leaves. -/
theorem put_granule (s : State) {k : Nat} {bs : List Byte} (hlen : bs.length = 16) :
    (∀ i < 16, ((s.putBytes k bs).putErr (k / 16) 0).byteAt (k + i) = bs.getD i 0) ∧ ((s.putBytes k bs).putErr (k / 16) 0).errAt (k / 16) = 0 ∧
      (∀ j, j < k ∨ k + 16 ≤ j → ((s.putBytes k bs).putErr (k / 16) 0).byteAt j = s.byteAt j) ∧
      (∀ g, g ≠ k / 16 → ((s.putBytes k bs).putErr (k / 16) 0).errAt g = s.errAt g) := by
  have hbyte : ∀ j, ((s.putBytes k bs).putErr (k / 16) 0).byteAt j = (s.putBytes k bs).byteAt j := fun _ => rfl
  have herrs : (s.putBytes k bs).errs = s.errs := by rw [putBytes_only]
  refine ⟨fun i hi => ?_, Sparse.look_write_self (s.putBytes k bs).errs 0 (k / 16) 0, fun j hj => ?_, fun g hg => ?_⟩
  · rw [hbyte, byteAt_putBytes, if_pos (by omega), Nat.add_sub_cancel_left, List.getD_eq_getElem?_getD, List.getElem?_eq_getElem (by omega)]
    rfl
  · rw [hbyte, byteAt_putBytes_ne _ _ _ _ (by rw [hlen]; exact hj)]
  · show Sparse.look (Sparse.write (s.putBytes k bs).errs 0 (k / 16) 0) 0 g = _
    rw [Sparse.look_write_ne _ _ _ hg, herrs]; rfl

/-- Settles O53. -/
theorem hostWindowWrites : Obligations.HostWindowWrites := by
  unfold Obligations.HostWindowWrites
  intro off bytes s hb
  refine ⟨fun hi ha hlen hp k hk => ?_, fun hi hne hp => gives_answer rfl ?_, fun hout => gives_answer rfl ?_, ?_⟩
  · have hphys : inPhys off = false := by
      have hpage : pageBase = 0x3FFFF000 := rfl
      have : ¬ physBase ≤ off := by simp only [physBase]; omega
      simp [inPhys, this]
    have hdo : s.windowWrite off bytes = (s.putBytes k bytes).putErr (k / 16) 0 := by
      rw [windowWrite_below hb (fun h => by simp [h] at hlen) (by omega), if_pos hi, write_granule ha hlen hphys hk]
    obtain ⟨hnew, herr, hold, herrs⟩ := put_granule s (k := k) hlen
    obtain ⟨u, hu⟩ : ∃ u, u = (s.putBytes k bytes).putErr (k / 16) 0 := ⟨_, rfl⟩
    have huregs : u.regs = s.regs := by rw [hu, putBytes_only]; rfl
    rw [← hu] at hdo hnew herr hold herrs
    obtain ⟨t, hnext, ht⟩ := answer_agree s u
    have hbyte : ∀ j, t.byteAt j = u.byteAt j := fun j => by rw [State.byteAt, ht.mem]; rfl
    have herrt : ∀ g, t.errAt g = u.errAt g := fun g => by rw [State.errAt, ht.errs]; rfl
    refine ⟨t, ?_, fun i hi => (hbyte _).trans (hnew i hi), (herrt _).trans herr, fun j hj => (hbyte _).trans (hold j hj), fun g hg => (herrt _).trans (herrs g hg),
      regsBut_of_regs _ (ht.regs.trans huregs)⟩
    rw [← hnext, ← hdo]; rfl
  · rw [windowWrite_below hb hne hp, if_neg hi]
  · rw [State.windowWrite, if_pos (.inr (by omega))]
  · have hstep := step_windowWrite s off bytes
    obtain ⟨u, hu⟩ : ∃ u, u = s.windowWrite off bytes := ⟨_, rfl⟩
    rw [← hu] at hstep
    obtain ⟨t, hnext, ht⟩ := answer_agree s u
    refine ⟨t, ?_, fun hwf => ?_, fun o ho => (ht.reg o).trans (hstep.2.1 o ho), ht.queues.trans hstep.queues, ht.syn.trans hstep.syn, ht.flue.trans hstep.flue, ht.crk.trans hstep.crk⟩
    · rw [← hnext, hu]; rfl
    · rw [ht.mem]; exact hstep.2.2 hwf

end Sys2Proof.Machine
end

section
/-! PROOFS. Trim windows, references, holdover, locks and monitors of the clock (14_clocks_and_power.md R461 to R470). -/

namespace Sys2Proof.Machine

/-! ### Trim windows -/

/-- R462: what a window leaves: source and offset shown, the trim moved to t within 200 ppm, good windows counted. -/
def State.trimShown (s : State) (src err : Nat) (t : Int) : State := ((s.set F.CLK_STATUS_SRC src).set F.CLK_OFFSET_ERR err).setTrim (max (-2000) (min 2000 t))
def State.trimRanged (s : State) (t : Int) : State := if 2000 < t ∨ t < -2000 then s.raise F.CLK_EVENT_TRIM_RANGE else s
def State.trimCounted (s : State) (good : Bool) : State :=
  let u := { s with goodWins := if good then min 2 (s.goodWins + 1) else 0 }
  let v := u.put F.CLK_STATUS_TRIMLOCK (u.goodWins == 2)
  { v with onMarks := v.onMarks || (!v.aon.fabMaster && v.on F.FLU_STATUS_MARKLOCK) }

section
variable (s : State) (src err : Nat) (t : Int) (good : Bool)

theorem trimShown_regs : RegsBut [R.CLK_STATUS, R.CLK_OFFSET, R.CLK_TRIM, R.CLK_EVENT] s (s.trimShown src err t) :=
  (regsBut_set s F.CLK_STATUS_SRC src (.head _)).trans ((regsBut_set _ F.CLK_OFFSET_ERR err (.tail _ (.head _))).trans
    (regsBut_set _ F.CLK_TRIM_TRIM _ (.tail _ (.tail _ (.head _)))))
theorem trimShown_trim : (s.trimShown src err t).trim = max (-2000) (min 2000 t) := trim_set _ _ (by omega) (by omega)
theorem trimShown_src (h : src < 4) : (s.trimShown src err t).get F.CLK_STATUS_SRC = src := by
  rw [State.trimShown, State.setTrim, State.get_set_off _ _ (by decide), State.get_set_off _ _ (by decide)]
  exact State.get_set_lt _ _ _ (by decide) h
theorem trimRanged_regs : RegsBut [R.CLK_EVENT] s (s.trimRanged t) := by
  unfold State.trimRanged
  split
  · exact regsBut_set s F.CLK_EVENT_TRIM_RANGE 1 (.head _)
  · exact regsBut_refl _ _
theorem trimRanged_event (h : 2000 < t ∨ t < -2000) : (s.trimRanged t).on F.CLK_EVENT_TRIM_RANGE = true := by
  rw [State.trimRanged, if_pos h]; exact State.on_set_one _ _ (by decide) (by decide)
theorem trimRanged_keeps : (s.trimRanged t).mem = s.mem ∧ (s.trimRanged t).goodWins = s.goodWins := by
  unfold State.trimRanged; split <;> exact ⟨rfl, rfl⟩
theorem trimCounted_regs : RegsBut [R.CLK_STATUS] s (s.trimCounted good) :=
  (regsBut_of_regs _ rfl).trans ((regsBut_set { s with goodWins := if good then min 2 (s.goodWins + 1) else 0 } F.CLK_STATUS_TRIMLOCK _ (.head _)).trans (regsBut_of_regs _ rfl))
theorem trimCounted_wins : (s.trimCounted good).goodWins = if good then min 2 (s.goodWins + 1) else 0 := rfl
theorem trimCounted_lock : (s.trimCounted good).on F.CLK_STATUS_TRIMLOCK = decide ((s.trimCounted good).goodWins = 2) :=
  put_on { s with goodWins := if good then min 2 (s.goodWins + 1) else 0 } F.CLK_STATUS_TRIMLOCK _ (by decide) (by decide)
theorem trimCounted_src : (s.trimCounted good).get F.CLK_STATUS_SRC = s.get F.CLK_STATUS_SRC :=
  State.get_set_bits { s with goodWins := if good then min 2 (s.goodWins + 1) else 0 } _ (by decide) (by decide)
end

theorem trimWindow_eq {s : State} {count src : Nat} (hpg : s.aon.pg = true) (htrip : s.aon.tripped = false) (hsrc : src = s.wantSrc) (h3 : src ≠ 3)
    (hhere : s.srcHere src = true) (hhold : s.get F.CLK_STATUS_SRC ≠ 3) :
    let e : Nat := if src = 1 then 92274688 else 134217728
    let dif : Int := (count : Int) - (e : Int)
    let x := s.trim - max (-10) (min 10 (roundDiv (dif * 10000000) e))
    s.trimWindow count = ((s.trimShown src (BitVec.ofInt 32 (offsetErr dif e)).toNat x).trimRanged x).trimCounted (decide ((dif * 10000000).natAbs ≤ e)) := by
  intro e dif x
  have hend : s.endHoldover = s := by rw [State.endHoldover, if_neg hhold]
  obtain ⟨err, herr⟩ : ∃ err, err = (BitVec.ofInt 32 (offsetErr dif e)).toNat := ⟨_, rfl⟩
  obtain ⟨u, hu⟩ : ∃ u, u = (s.set F.CLK_STATUS_SRC src).set F.CLK_OFFSET_ERR err := ⟨_, rfl⟩
  have htrim : u.trim = s.trim := trim_cong (by rw [hu, State.reg_set_ne _ _ (by decide), State.reg_set_ne _ _ (by decide)])
  rw [← herr, State.trimShown, ← hu]
  have hx : x = u.trim - max (-10) (min 10 (roundDiv (dif * 10000000) e)) := by rw [htrim]
  unfold State.trimWindow
  dsimp only
  rw [← hsrc, if_neg (by simp [hpg, htrip, h3, hhere]), hend, hx, hu, herr]
  rfl

theorem trimWindow_does {s : State} {count src : Nat} (hpg : s.aon.pg = true) (htrip : s.aon.tripped = false) (hsrc : src = s.wantSrc) (h12 : src = 1 ∨ src = 2)
    (hhere : s.srcHere src = true) (hhold : s.get F.CLK_STATUS_SRC ≠ 3) :
    let e : Nat := if src = 1 then 92274688 else 134217728
    let dif : Int := (count : Int) - (e : Int)
    let x := s.trim - max (-10) (min 10 (roundDiv (dif * 10000000) e))
    let good : Bool := decide ((dif * 10000000).natAbs ≤ e)
    ∃ t, exec (.trimWindow count) s = .next t ∧ t.trim = max (-2000) (min 2000 x) ∧ t.get F.CLK_STATUS_SRC = src ∧ (x < -2000 ∨ 2000 < x → t.on F.CLK_EVENT_TRIM_RANGE = true) ∧
      t.goodWins = (if good then min 2 (s.goodWins + 1) else 0) ∧ t.on F.CLK_STATUS_TRIMLOCK = decide (t.goodWins = 2) ∧
      RegsBut [R.CLK_STATUS, R.CLK_OFFSET, R.CLK_TRIM, R.CLK_EVENT] s t ∧ t.mem = s.mem := by
  intro e dif x good
  have hdo := trimWindow_eq (count := count) hpg htrip hsrc (by omega) hhere hhold
  dsimp only at hdo
  obtain ⟨err, herr⟩ : ∃ err, err = (BitVec.ofInt 32 (offsetErr dif e)).toNat := ⟨_, rfl⟩
  obtain ⟨a, ha⟩ : ∃ a, a = s.trimShown src err x := ⟨_, rfl⟩
  obtain ⟨b, hb⟩ : ∃ b, b = a.trimRanged x := ⟨_, rfl⟩
  obtain ⟨c, hc⟩ : ∃ c, c = b.trimCounted good := ⟨_, rfl⟩
  have hexec : s.trimWindow count = c := by rw [hdo, hc, hb, ha, herr]
  have hab : RegsBut [R.CLK_EVENT] a b := hb ▸ trimRanged_regs a x
  have hbc : RegsBut [R.CLK_STATUS] b c := hc ▸ trimCounted_regs b good
  obtain ⟨hbmem, hbwins⟩ := trimRanged_keeps a x
  rw [← hb] at hbmem hbwins
  obtain ⟨t, hnext, ht⟩ := answer_agree s c
  have hwins : t.goodWins = if good then min 2 (s.goodWins + 1) else 0 := by
    rw [ht.goodWins, hc, trimCounted_wins, hbwins, ha]; rfl
  refine ⟨t, ?_, ?_, ?_, fun hr => ?_, hwins, ?_, ?_, ?_⟩
  · rw [← hnext, ← hexec]; rfl
  · rw [trim_cong (ht.reg _), trim_cong (hbc _ (by decide)), trim_cong (hab _ (by decide)), ha, trimShown_trim]
  · rw [ht.get, hc, trimCounted_src, hab.get (by decide), ha, trimShown_src s src err x (by omega)]
  · rw [ht.on, hbc.on (by decide), hb]; exact trimRanged_event a x hr.symm
  · rw [ht.on, ht.goodWins, hc, trimCounted_lock]
  · refine RegsBut.agree (RegsBut.trans (ha ▸ trimShown_regs s src err x) (RegsBut.trans (hab.mono fun o ho => ?_) (hbc.mono fun o ho => ?_))) ht
    · rw [List.mem_singleton.1 ho]; decide
    · rw [List.mem_singleton.1 ho]; decide
  · rw [ht.mem, hc]
    exact (hbmem.trans (by rw [ha]; rfl))

/-! ### References, locks and monitors -/

theorem refLost_holds {s : State} (hpg : s.aon.pg = true) (hsrc : s.get F.CLK_STATUS_SRC = 1) :
    ∃ t, exec .refLost s = .next t ∧ t.get F.CLK_STATUS_SRC = 3 ∧ t.on F.CLK_STATUS_REFPRES = false ∧ t.on F.CLK_EVENT_REF_LOST = true ∧
      RegsBut [R.CLK_STATUS, R.CLK_EVENT] s t ∧ t.mem = s.mem := by
  obtain ⟨u, hu⟩ : ∃ u, u = ((s.set F.CLK_STATUS_REFPRES 0).raise F.CLK_EVENT_REF_LOST).set F.CLK_STATUS_SRC 3 := ⟨_, rfl⟩
  have hsrc' : ((s.set F.CLK_STATUS_REFPRES 0).raise F.CLK_EVENT_REF_LOST).get F.CLK_STATUS_SRC = 1 := by
    rw [State.raise, State.get_set_off _ _ (by decide), State.get_set_bits _ _ (by decide) (by decide), hsrc]
  have hdo : s.refLost = u := by
    rw [State.refLost, if_neg (by simp [hpg]), if_neg (by omega)]
    dsimp only
    rw [if_pos hsrc', hu]
  obtain ⟨t, hnext, ht⟩ := answer_agree s u
  refine ⟨t, ?_, ?_, ?_, ?_, ?_, ?_⟩
  · rw [← hnext, ← hdo]; rfl
  · rw [ht.get, hu]; exact State.get_set_lt _ _ _ (by decide) (by decide)
  · rw [ht.on, hu, State.on_set_bits _ _ (by decide) (by decide), State.raise, State.on_set_off _ _ (by decide)]
    exact State.on_set_zero _ _ (by decide)
  · rw [ht.on, hu, State.on_set_off _ _ (by decide)]
    exact State.on_set_one _ _ (by decide) (by decide)
  · refine RegsBut.agree ?_ ht
    rw [hu]
    exact (regsBut_set s F.CLK_STATUS_REFPRES 0 (.head _)).trans ((regsBut_set _ F.CLK_EVENT_REF_LOST 1 (.tail _ (.head _))).trans (regsBut_set _ F.CLK_STATUS_SRC 3 (.head _)))
  · rw [ht.mem, hu]; rfl

theorem holdLimit_eq {s : State} (hpg : s.aon.pg = true) (hsrc : s.get F.CLK_STATUS_SRC = 3) :
    s.holdLimit = if s.aon.fabMaster = true ∨ s.get F.CFG_STATE_IMAGE ≠ 2 then s.raise F.CLK_EVENT_HOLD_LIMIT
      else ((s.raise F.CLK_EVENT_HOLD_LIMIT).stopRecord .clock .clock 0 (s.raise F.CLK_EVENT_HOLD_LIMIT).clkD0 (s.raise F.CLK_EVENT_HOLD_LIMIT).clkD1 .clockLost).veto := by
  obtain ⟨u, hu⟩ : ∃ u, u = s.raise F.CLK_EVENT_HOLD_LIMIT := ⟨_, rfl⟩
  have himage : u.get F.CFG_STATE_IMAGE = s.get F.CFG_STATE_IMAGE := by rw [hu, State.raise, State.get_set_off _ _ (by decide)]
  have hmaster : u.aon.fabMaster = s.aon.fabMaster := by rw [hu]; rfl
  rw [← himage, ← hmaster]
  rw [State.holdLimit, if_neg (by simp [hpg, hsrc]), ← hu]

/-- R468: the clocks stop as lock is lost. -/
def State.lockLost (s : State) : State := ({ s with aon := { s.aon with locked := false } }.set F.CLK_STATUS_PLL_LOCK 0).raise F.CLK_EVENT_PLL_UNLOCK
theorem pllUnlock_on {s : State} (h : s.clocked = true) : s.pllUnlock = s.lockLost := by
  rw [State.pllUnlock, if_neg (by simp [h])]
  rfl
theorem lockLost_does (s : State) : s.lockLost.clocked = false ∧ s.lockLost.on F.CLK_EVENT_PLL_UNLOCK = true ∧ s.lockLost.on F.CLK_STATUS_PLL_LOCK = false ∧
    RegsBut [R.CLK_MON, R.CLK_EVENT, R.CLK_STATUS] s s.lockLost ∧ s.lockLost.mem = s.mem := by
  obtain ⟨v, hv⟩ : ∃ v : State, v = { s with aon := { s.aon with locked := false } } := ⟨_, rfl⟩
  have hu : s.lockLost = (v.set F.CLK_STATUS_PLL_LOCK 0).raise F.CLK_EVENT_PLL_UNLOCK := by rw [hv]; rfl
  refine ⟨clocked_of rfl, ?_, ?_, ?_, rfl⟩
  · rw [hu]; exact State.on_set_one _ _ (by decide) (by decide)
  · rw [hu, State.raise, State.on_set_off _ _ (by decide)]; exact State.on_set_zero _ _ (by decide)
  · rw [hu]
    exact (regsBut_of_regs _ (by rw [hv])).trans ((regsBut_set v F.CLK_STATUS_PLL_LOCK 0 (.tail _ (.tail _ (.head _)))).trans (regsBut_set _ F.CLK_EVENT_PLL_UNLOCK 1 (.tail _ (.head _))))

/-- R470: the monitored domains whose edges are off. -/
def badDomains (counts : List Nat) : List Nat := (List.range 6).filter fun i =>
  match counts[i]? with
  | some c => decide (monExpected.getD i 0 < 1000 * (c - monExpected.getD i 0 + (monExpected.getD i 0 - c)))
  | none => false
theorem monitor_eq {s : State} (hclk : s.clocked = true) (counts : List Nat) : s.monitor counts =
    if (badDomains counts).isEmpty then s
    else ((s.set F.CLK_MON_DOMAIN ((badDomains counts).foldl (fun m i => m ||| 2 ^ i) (s.get F.CLK_MON_DOMAIN))).raise F.CLK_EVENT_MON_FAULT).pllUnlock := by
  rw [State.monitor, if_neg (by simp [hclk])]
  rfl
theorem mem_badDomains {counts : List Nat} {i : Nat} : i ∈ badDomains counts ↔
    i < 6 ∧ ∃ c, counts[i]? = some c ∧ monExpected.getD i 0 < 1000 * (c - monExpected.getD i 0 + (monExpected.getD i 0 - c)) := by
  rw [badDomains, List.mem_filter, List.mem_range]
  refine and_congr_right fun _ => ?_
  cases h : counts[i]? with
  | none => simp
  | some c => simp

theorem monitor_good {s : State} (hclk : s.clocked = true) {counts : List Nat}
    (h : ∀ i < 6, ∀ c, counts[i]? = some c → 1000 * (c - monExpected.getD i 0 + (monExpected.getD i 0 - c)) ≤ monExpected.getD i 0) : s.monitor counts = s := by
  have hnone : badDomains counts = [] := List.eq_nil_iff_forall_not_mem.2 fun i hi => by
    obtain ⟨hi6, c, hc, hlt⟩ := mem_badDomains.1 hi
    exact absurd (h i hi6 c hc) (by omega)
  rw [monitor_eq hclk, hnone, List.isEmpty_nil, if_pos rfl]
theorem monitor_bad {s : State} (hclk : s.clocked = true) {counts : List Nat} {i c : Nat} (hi : i < 6) (hc : counts[i]? = some c)
    (h : monExpected.getD i 0 < 1000 * (c - monExpected.getD i 0 + (monExpected.getD i 0 - c))) :
    ∃ t, exec (.monitorInterval counts) s = .next t ∧ t.clocked = false ∧ t.on F.CLK_EVENT_MON_FAULT = true ∧ t.on F.CLK_EVENT_PLL_UNLOCK = true ∧
      t.on F.CLK_STATUS_PLL_LOCK = false ∧ RegsBut [R.CLK_MON, R.CLK_EVENT, R.CLK_STATUS] s t ∧ t.mem = s.mem := by
  obtain ⟨m, hm⟩ : ∃ m, m = (badDomains counts).foldl (fun m i => m ||| 2 ^ i) (s.get F.CLK_MON_DOMAIN) := ⟨_, rfl⟩
  have hne : ¬ (badDomains counts).isEmpty = true := fun he => by
    rw [List.isEmpty_iff] at he
    exact absurd (mem_badDomains.2 ⟨hi, c, hc, h⟩) (by rw [he]; exact List.not_mem_nil)
  obtain ⟨v, hv⟩ : ∃ v, v = (s.set F.CLK_MON_DOMAIN m).raise F.CLK_EVENT_MON_FAULT := ⟨_, rfl⟩
  have hvclk : v.clocked = true := by rw [hv]; exact hclk
  have hdo : s.monitor counts = v.lockLost := by rw [monitor_eq hclk, if_neg hne, ← hm, ← hv, pllUnlock_on hvclk]
  obtain ⟨hoff, hevent, hlock, hregs, hmem⟩ := lockLost_does v
  have hmon : v.lockLost.on F.CLK_EVENT_MON_FAULT = true := by
    rw [State.lockLost, State.raise, State.on_set_bits _ _ (by decide) (by decide), State.on_set_off _ _ (by decide)]
    show v.on F.CLK_EVENT_MON_FAULT = true
    rw [hv]; exact State.on_set_one _ _ (by decide) (by decide)
  obtain ⟨w, hw⟩ : ∃ w, w = v.lockLost := ⟨_, rfl⟩
  rw [← hw] at hdo hoff hevent hlock hregs hmem hmon
  obtain ⟨t, hnext, ht⟩ := answer_agree s w
  refine ⟨t, ?_, ?_, (ht.on _).trans hmon, (ht.on _).trans hevent, (ht.on _).trans hlock, RegsBut.agree (RegsBut.trans ?_ hregs) ht, ?_⟩
  · rw [← hnext, ← hdo]; exact ticked_on s (fun t => t.monitor counts) hclk
  · rw [State.clocked, ht.aon]; exact hoff
  · rw [hv]; exact (regsBut_set s F.CLK_MON_DOMAIN m (.head _)).trans (regsBut_set _ F.CLK_EVENT_MON_FAULT 1 (.tail _ (.head _)))
  · rw [ht.mem, hmem, hv]; rfl

/-- Settles O55. -/
theorem clockKeepsTime : Obligations.ClockKeepsTime := by
  unfold Obligations.ClockKeepsTime
  refine ⟨fun count src s hpg htrip hsrc h12 hhere hhold => trimWindow_does hpg htrip hsrc h12 hhere hhold, fun s hclk => ?_,
    fun s hpg => ⟨refLost_holds hpg, fun hsrc h => gives_answer rfl ?_, fun hsrc hm hi => gives_answer rfl ?_, gives_answer rfl ?_, gives_answer rfl ?_⟩,
    fun present s hpg htrip hst u hu => gives_answer rfl ?_, fun s hpg htrip hst => gives_answer rfl ?_, fun s hclk => ⟨gives_answer rfl (pllUnlock_on hclk), (lockLost_does s).1,
      fun counts h => ?_, fun counts i c hi hc h => monitor_bad hclk hi hc h⟩, fun s hun => ⟨gives_answer rfl ?_, gives_answer rfl ?_⟩⟩
  · refine gives_ticked (f := fun t => t.trimSave) rfl hclk ?_
    rw [State.trimSave, if_pos hclk]
  · rw [holdLimit_eq hpg hsrc, if_pos h]
  · rw [holdLimit_eq hpg hsrc, if_neg (by simp [hm, hi])]
  · rw [State.refReturn, if_neg (by simp [hpg]), if_neg Bool.false_ne_true]
  · rw [State.refReturn, if_neg (by simp [hpg]), if_pos rfl]
  · rw [State.oscWaitEnd, if_neg (by simp [hpg, htrip, hst]), ← hu]
  · rw [State.pllLock, if_neg (by simp [hpg, htrip, hst])]
  · exact gives_ticked (f := fun t => t.monitor counts) rfl hclk (monitor_good hclk h)
  · rw [State.pllRelock, if_neg (by simp [hun])]
  · rw [State.pllTimeout, if_neg (by simp [hun])]

end Sys2Proof.Machine
end

section
/-! PROOFS. Rails, voltage loops, budgets, throttle levels and temperatures (14_clocks_and_power.md R471 to R479). -/

namespace Sys2Proof.Machine

/-! ### Rails -/

theorem railFault_eq {s s1 : State} {r v : Nat} (hclk : s.clocked = true) (hr : r < 15) (hf : s.fresh 32 = (v, s1)) :
    s.railFault r true = if r < 4 ∧ r ∉ s.pwr.restoring then ((s1.raise F.PWR_EVENT_RAIL_FAULT).vetoRecord .power .clock 0 r v).modPwr fun w => { w with restoring := w.restoring ++ [r] }
      else ((s1.raise F.PWR_EVENT_RAIL_FAULT).vetoRecord .power .clock 0 r v).powerFault := by
  rw [State.railFault, if_neg (by simp only [hclk, Bool.not_true, Bool.false_eq_true, false_or]; omega), hf]
theorem railRestored_eq {s : State} (hclk : s.clocked = true) {r : Nat} {rest : List Nat} (h : s.pwr.restoring = r :: rest) (ok : Bool) :
    s.railRestored ok = if ok then s.modPwr fun w => { w with restoring := rest } else (s.modPwr fun w => { w with restoring := rest }).powerFault := by
  simp only [State.railRestored, h, hclk, Bool.not_true, Bool.false_eq_true, false_or]

/-! ### Voltage loops -/

/-- R474: the supply that a period asks for, by the least slack m, the guard g and the pace floor. -/
def State.varrWanted (s : State) (q m g fl : Nat) : Nat :=
  if s.on F.PWR_CTRL_VLOOP_EN = false ∨ ((s.activeOf q).any fun p => (s.hearth p).pmRan) = false ∨ s.pwr.missed.look false q = true then s.get (F.PWR_Q_VARR_UV q)
  else if m < g then s.get (F.PWR_Q_VARR_UV q) + 5 * s.get F.PWR_VLOOP_UP
  else if m ≤ g + 8 ∨ s.pwr.block.look 0 q ≠ 0 then s.get (F.PWR_Q_VARR_UV q)
  else max fl (s.get (F.PWR_Q_VARR_UV q) - 5 * s.get F.PWR_VLOOP_DOWN)
/-- R474: which of the hearths of a quadrant with the least slack gives the guard. -/
def State.guardOf (s : State) (q m : Nat) : Nat :=
  let tied := (s.activeOf q).filter fun p => (s.hearth p).pmLeast == m
  s.get (F.HRT_PACE_GUARD_GUARD (tied.getD ((s.fresh 8).1 % max 1 tied.length) 0))
theorem guardOf_mem {s : State} {q m : Nat} (h : ∃ p ∈ s.activeOf q, (s.hearth p).pmLeast = m) :
    ∃ p ∈ s.activeOf q, (s.hearth p).pmLeast = m ∧ s.guardOf q m = s.get (F.HRT_PACE_GUARD_GUARD p) := by
  obtain ⟨tied, htied⟩ : ∃ tied, tied = (s.activeOf q).filter fun p => (s.hearth p).pmLeast == m := ⟨_, rfl⟩
  obtain ⟨i, hi⟩ : ∃ i, i = (s.fresh 8).1 % max 1 tied.length := ⟨_, rfl⟩
  have hguard : s.guardOf q m = s.get (F.HRT_PACE_GUARD_GUARD (tied.getD i 0)) := by rw [hi, htied]; rfl
  have hne : tied ≠ [] := fun he => by
    obtain ⟨p, hp, hm⟩ := h
    exact absurd (List.mem_filter.2 ⟨hp, by simp [hm]⟩) (htied ▸ he ▸ List.not_mem_nil)
  have hlen : 0 < tied.length := List.length_pos_iff.2 hne
  have hlt : i < tied.length := by
    rw [hi, Nat.max_eq_right hlen]; exact Nat.mod_lt _ hlen
  have hmem : tied.getD i 0 ∈ tied := by
    rw [List.getD_eq_getElem?_getD, List.getElem?_eq_getElem hlt]; exact List.getElem_mem hlt
  have hmem' := htied ▸ hmem
  rw [List.mem_filter] at hmem'
  rw [htied] at hguard
  exact ⟨_, hmem'.1, by simpa using hmem'.2, hguard⟩

theorem modHearths_keeps (s : State) (l : List Nat) (f : Hearth → Hearth) :
    (s.each l fun t p => t.modHearth p f).regs = s.regs ∧ (s.each l fun t p => t.modHearth p f).mem = s.mem :=
  ⟨each_same l (fun t p => t.modHearth p f) s (fun t => t.regs) fun _ _ => rfl, each_same l (fun t p => t.modHearth p f) s (fun t => t.mem) fun _ _ => rfl⟩
theorem paceFloor_only (s : State) (q : Nat) : ∃ n, (s.paceFloor q).2 = { s with freeCtr := n } := ⟨_, rfl⟩
theorem vloop_eq {s : State} (hclk : s.clocked = true) {q m : Nat} (hm : m = ((s.activeOf q).map fun p => (s.hearth p).pmLeast).foldl min 255) :
    ∃ (u : State) (fl : Nat) (f : Pwr → Pwr), s.vloop q = ((u.set (F.PWR_Q_FLOOR_UV q) fl).setVarr q (max fl (s.varrWanted q m (s.guardOf q m) fl))).modPwr f ∧
      u.regs = s.regs ∧ u.mem = s.mem := by
  obtain ⟨i, s1, hf⟩ : ∃ i s1, s.fresh 8 = (i, s1) := ⟨_, _, rfl⟩
  have hs1 : ∃ n, s1 = { s with freeCtr := n } := by
    obtain ⟨n, hn⟩ := fresh_only s 8
    rw [hf] at hn
    exact ⟨n, hn⟩
  obtain ⟨n, hs1⟩ := hs1
  obtain ⟨s2, hs2⟩ : ∃ s2, s2 = s1.each (s.activeOf q) fun t p => t.modHearth p fun h => { h with pmLeast := 255, pmRan := false } := ⟨_, rfl⟩
  obtain ⟨h2regs, h2mem⟩ := modHearths_keeps s1 (s.activeOf q) fun h => { h with pmLeast := 255, pmRan := false }
  have hs2regs : s2.regs = s.regs := by rw [hs2, h2regs, hs1]
  have hs2mem : s2.mem = s.mem := by rw [hs2, h2mem, hs1]
  obtain ⟨fl, s3, hfl⟩ : ∃ fl s3, s2.paceFloor q = (fl, s3) := ⟨_, _, rfl⟩
  have hs3 : ∃ k, s3 = { s2 with freeCtr := k } := by
    obtain ⟨k, hk⟩ := paceFloor_only s2 q
    rw [hfl] at hk
    exact ⟨k, hk⟩
  obtain ⟨k, hs3⟩ := hs3
  have hs3regs : s3.regs = s.regs := by rw [hs3]; exact hs2regs
  have hs3mem : s3.mem = s.mem := by rw [hs3]; exact hs2mem
  have hget : ∀ f : RF, f.off ≠ R.PWR_Q_FLOOR q → (s3.set (F.PWR_Q_FLOOR_UV q) fl).get f = s.get f := fun f hne => by
    rw [State.get_set_off _ _ hne, State.get_congr hs3regs]
  have hvarr := hget (F.PWR_Q_VARR_UV q) (by simp only [F.PWR_Q_VARR_UV, R.PWR_Q_FLOOR]; omega)
  have hup := hget F.PWR_VLOOP_UP (by simp only [F.PWR_VLOOP_UP, R.PWR_Q_FLOOR]; omega)
  have hdown := hget F.PWR_VLOOP_DOWN (by simp only [F.PWR_VLOOP_DOWN, R.PWR_Q_FLOOR]; omega)
  have hen : (s3.set (F.PWR_Q_FLOOR_UV q) fl).on F.PWR_CTRL_VLOOP_EN = s.on F.PWR_CTRL_VLOOP_EN := by
    rw [State.on, State.on, hget _ (by simp only [F.PWR_CTRL_VLOOP_EN, R.PWR_Q_FLOOR]; omega)]
  obtain ⟨g, hg⟩ : ∃ g, g = s.guardOf q m := ⟨_, rfl⟩
  have hg' : s1.get (F.HRT_PACE_GUARD_GUARD (((s.activeOf q).filter fun p => (s.hearth p).pmLeast == m).getD
      (i % max 1 ((s.activeOf q).filter fun p => (s.hearth p).pmLeast == m).length) 0)) = g := by
    rw [hg, State.guardOf, hf, State.get_congr (show s1.regs = s.regs by rw [hs1])]
  refine ⟨s3, fl, fun w => { w with missed := w.missed.write false q false, block := w.block.write 0 q (if s.pwr.missed.look false q = true then 8 else s.pwr.block.look 0 q - 1) }, ?_, hs3regs, hs3mem⟩
  rw [State.vloop, if_neg (by simp [hclk]), hf]
  dsimp only
  rw [← hm, hg', ← hs2, hfl]
  dsimp only
  rw [hvarr, hup, hdown, hen, ← hg, State.varrWanted]
  simp only [Bool.or_eq_true, Bool.not_eq_true', decide_eq_true_eq, bne_iff_ne, or_assoc]

/-! ### Budgets -/

/-- R475: the measured powers of the quadrants. -/
def State.powersShown (s : State) (quads : List Nat) : State := s.each (List.range 4) fun t q => t.set (F.PWR_Q_POWER_W q) (min 4095 (quads.getD q 0))
/-- R471: a rail's telemetry, which is free. -/
def showRail (t : State) (r : Nat) : State := ((t.fresh 32).2.set (F.PWR_RAIL_MV r) ((t.fresh 32).1 % 2 ^ 16)).set (F.PWR_RAIL_DA r) ((t.fresh 32).1 / 2 ^ 16)
/-- R475, R477: what a comparison records before it judges. -/
def State.powerShown (s : State) (quads : List Nat) (input : Nat) : State :=
  let u := (s.powersShown quads).each (List.range 16) showRail
  ((((u.fresh 16).2.set F.PWR_INPUT_P (min 65535 (4 * input))).set F.PWR_INPUT_V (u.fresh 16).1)).keepRecalled

theorem powersShown_keeps (s : State) (quads : List Nat) : (s.powersShown quads).mem = s.mem ∧ (s.powersShown quads).pwr = s.pwr :=
  ⟨each_same _ (fun t q => t.set (F.PWR_Q_POWER_W q) (min 4095 (quads.getD q 0))) s (fun t => t.mem) fun _ _ => rfl,
    each_same _ (fun t q => t.set (F.PWR_Q_POWER_W q) (min 4095 (quads.getD q 0))) s (fun t => t.pwr) fun _ _ => rfl⟩
theorem powersShown_reg (s : State) (quads : List Nat) {o : Nat} (h : o < 0x400100 ∨ 0x400200 ≤ o) : (s.powersShown quads).reg o = s.reg o :=
  each_reg _ _ s (fun o => o < 0x400100 ∨ 0x400200 ≤ o) (fun t q hq o ho => State.reg_set_ne _ _ (by
    have := List.mem_range.1 hq
    simp only [F.PWR_Q_POWER_W]; omega)) o h
theorem showRail_regs (t : State) {r : Nat} {o : Nat} (h : o ≠ 0x400200 + 4 * r) : (showRail t r).reg o = t.reg o := by
  rw [showRail, State.reg_set_ne _ _ (by simpa [F.PWR_RAIL_DA] using h), State.reg_set_ne _ _ (by simpa [F.PWR_RAIL_MV] using h)]
  rfl
theorem rails_reg (s : State) {o : Nat} (h : o < 0x400200 ∨ 0x400240 ≤ o) : (s.each (List.range 16) showRail).reg o = s.reg o :=
  each_reg _ _ s (fun o => o < 0x400200 ∨ 0x400240 ≤ o) (fun t r hr o ho => showRail_regs t (by
    have := List.mem_range.1 hr
    omega)) o h
theorem rails_keeps (s : State) : (s.each (List.range 16) showRail).mem = s.mem ∧ (s.each (List.range 16) showRail).pwr = s.pwr :=
  ⟨each_same _ showRail s (fun t => t.mem) fun _ _ => rfl, each_same _ showRail s (fun t => t.pwr) fun _ _ => rfl⟩

section
variable (s : State) (quads : List Nat) (input : Nat)

theorem powerShown_only : ∃ v, ∃ u : State, u = (s.powersShown quads).each (List.range 16) showRail ∧
    (s.powerShown quads input).regs = ((u.set F.PWR_INPUT_P (min 65535 (4 * input))).set F.PWR_INPUT_V v).regs ∧
    (s.powerShown quads input).mem = u.mem ∧ (s.powerShown quads input).pwr = u.pwr := by
  obtain ⟨u, hu⟩ : ∃ u, u = (s.powersShown quads).each (List.range 16) showRail := ⟨_, rfl⟩
  refine ⟨(u.fresh 16).1, u, hu, ?_⟩
  rw [State.powerShown, ← hu]
  exact ⟨rfl, rfl, rfl⟩
theorem powerShown_reg {o : Nat} (h : o < 0x400100 ∨ 0x400240 ≤ o) (hi : o ≠ 0x400028) : (s.powerShown quads input).reg o = s.reg o := by
  obtain ⟨v, u, hu, hregs, -, -⟩ := powerShown_only s quads input
  rw [State.reg_congr hregs, State.reg_set_ne _ _ hi, State.reg_set_ne _ _ hi, hu, rails_reg _ (by omega), powersShown_reg _ _ (by omega)]
theorem powerShown_power {q : Nat} (hq : q < 4) : (s.powerShown quads input).get (F.PWR_Q_POWER_W q) = min 4095 (quads.getD q 0) := by
  obtain ⟨v, u, hu, hregs, -, -⟩ := powerShown_only s quads input
  rw [State.get_congr hregs, State.get_set_off _ _ (by simp only [F.PWR_Q_POWER_W, F.PWR_INPUT_V]; omega),
    State.get_set_off _ _ (by simp only [F.PWR_Q_POWER_W, F.PWR_INPUT_P]; omega), State.get, hu,
    rails_reg _ (by simp only [F.PWR_Q_POWER_W]; omega)]
  exact powers_set s quads 4 q hq
theorem powerShown_input : (s.powerShown quads input).get F.PWR_INPUT_P = min 65535 (4 * input) := by
  obtain ⟨v, u, hu, hregs, -, -⟩ := powerShown_only s quads input
  rw [State.get_congr hregs, State.get_set_bits _ _ (by decide) (by decide)]
  exact State.get_set_lt _ _ _ (by decide) (Nat.lt_of_le_of_lt (Nat.min_le_left _ _) (by decide))
theorem powerShown_keeps : (s.powerShown quads input).mem = s.mem ∧ (s.powerShown quads input).pwr = s.pwr := by
  obtain ⟨v, u, hu, -, hmem, hpwr⟩ := powerShown_only s quads input
  rw [hmem, hpwr, hu, (rails_keeps _).1, (rails_keeps _).2]
  exact powersShown_keeps s quads
end

/-- R477: the excursion counter after a comparison. -/
def State.excNext (s : State) (input : Nat) : Nat := if s.powerLimit < input then s.pwr.exc + 1 else s.pwr.exc - 1
/-- R475, R477: the energy, the quadrants over their grant and the excursion counter are kept. -/
def State.powerCounted (s : State) (n : Nat) (overs : List Nat) (exc input uj : Nat) : State :=
  ((s.setPair R.PWR_ENERGY_LO n).modPwr fun w => { w with exc := exc, overs := overs, input := input, microJ := uj }).put F.PWR_STATUS_EXCURSION (exc != 0)
/-- R477: a limit that the excursion counter has reached. -/
def State.excJudged (s : State) (past first : Prop) [Decidable past] [Decidable first] : State :=
  if past then (if first then s.raise F.PWR_EVENT_EXC_LIMIT else s).modPwr fun w => { w with byExc := true } else s
/-- R477: a reading of the input over the peak. -/
def State.peakJudged (s : State) (input : Nat) : State :=
  if s.get F.PWR_PEAK_W < input then ((s.raise F.PWR_EVENT_PEAK).throttleTo 3).modPwr fun w => { w with byPeak := true } else s

section
variable (s : State) (n : Nat) (overs : List Nat) (exc input uj : Nat)

theorem powerCounted_regs : RegsBut [R.PWR_ENERGY_LO, R.PWR_ENERGY_LO + 4, R.PWR_STATUS] s (s.powerCounted n overs exc input uj) :=
  (regsBut_setReg s _ (.head _)).trans ((regsBut_setReg _ _ (.tail _ (.head _))).trans
    ((regsBut_of_regs _ rfl).trans (regsBut_set _ F.PWR_STATUS_EXCURSION _ (.tail _ (.tail _ (.head _))))))
theorem powerCounted_shows : (s.powerCounted n overs exc input uj).on F.PWR_STATUS_EXCURSION = (exc != 0) ∧ (s.powerCounted n overs exc input uj).pwr.exc = exc ∧
    (s.powerCounted n overs exc input uj).get F.PWR_STATUS_THROT = s.get F.PWR_STATUS_THROT ∧ (s.powerCounted n overs exc input uj).mem = s.mem := by
  refine ⟨put_on _ _ _ (by decide) (by decide), rfl, ?_, rfl⟩
  have hpair : (s.setPair R.PWR_ENERGY_LO n).get F.PWR_STATUS_THROT = s.get F.PWR_STATUS_THROT := by
    rw [State.setPair, State.get_setReg_off _ _ (by decide), State.get_setReg_off _ _ (by decide)]
  rw [State.powerCounted, State.put, State.get_set_bits _ _ (by decide) (by decide)]
  exact hpair
theorem excJudged_keeps (past first : Prop) [Decidable past] [Decidable first] :
    RegsBut [R.PWR_EVENT] s (s.excJudged past first) ∧ (s.excJudged past first).mem = s.mem ∧ (s.excJudged past first).pwr.exc = s.pwr.exc := by
  unfold State.excJudged
  split
  · split
    · exact ⟨(regsBut_set s F.PWR_EVENT_EXC_LIMIT 1 (.head _)).trans (regsBut_of_regs _ rfl), rfl, rfl⟩
    · exact ⟨regsBut_of_regs _ rfl, rfl, rfl⟩
  · exact ⟨regsBut_refl _ _, rfl, rfl⟩
end

theorem throttleTo_does (s : State) {l : Nat} (h : l < 8) : (s.throttleTo l).get F.PWR_STATUS_THROT = max l (s.get F.PWR_STATUS_THROT) ∧
    RegsBut [R.PWR_STATUS, R.PWR_EVENT] s (s.throttleTo l) ∧ (s.throttleTo l).mem = s.mem ∧ (s.throttleTo l).pwr = s.pwr ∧
    (∀ f : RF, f.off = R.PWR_STATUS → f.lo + f.w ≤ 32 → 4 ≤ f.lo → (s.throttleTo l).on f = s.on f) ∧
    (∀ f : RF, f.off = R.PWR_EVENT → f.lo + f.w ≤ 32 → 2 ≤ f.lo → (s.throttleTo l).on f = s.on f) := by
  unfold State.throttleTo
  split
  next hlt =>
    refine ⟨?_, (regsBut_set s F.PWR_STATUS_THROT l (.head _)).trans (regsBut_set _ F.PWR_EVENT_THROTTLE 1 (.tail _ (.head _))), rfl, rfl, fun f hf hw hlo => ?_, fun f hf hw hlo => ?_⟩
    · rw [State.raise, State.get_set_off _ _ (by decide), State.get_set_lt _ _ _ (by decide) h]
      omega
    · rw [State.raise, State.on_set_off _ _ (by rw [hf]; decide), State.on_set_bits _ _ hw (.inr (by simpa [F.PWR_STATUS_THROT] using hlo))]
    · rw [State.raise, State.on_set_bits _ _ hw (.inr (by simpa [F.PWR_EVENT_THROTTLE] using hlo)), State.on_set_off _ _ (by rw [hf]; decide)]
  next hle => exact ⟨by omega, regsBut_refl _ _, rfl, rfl, fun _ _ _ _ => rfl, fun _ _ _ _ => rfl⟩

theorem powerLimit_congr {s t : State} (h : t.get F.PWR_LIMIT_W = s.get F.PWR_LIMIT_W) : t.powerLimit = s.powerLimit := by
  unfold State.powerLimit; rw [h]

/-- R475 to R477: a comparison records, counts and judges. -/
theorem budgetCompare_eq {s : State} (hclk : s.clocked = true) (quads : List Nat) (input : Nat) :
    ∃ (n : Nat) (overs : List Nat) (uj cap : Nat), s.budgetCompare quads input =
      (((s.powerShown quads input).powerCounted n overs (s.excNext input) input uj).excJudged (s.powerLimit < input ∧ cap ≤ s.excNext input)
        (s.pwr.exc < cap ∨ (!s.pwr.byExc) = true)).peakJudged input := by
  obtain ⟨u, hu⟩ : ∃ u, u = s.powerShown quads input := ⟨_, rfl⟩
  have hlim : u.powerLimit = s.powerLimit := powerLimit_congr (by
    rw [State.get, hu, powerShown_reg s quads input (by decide) (by decide)]; rfl)
  refine ⟨(u.pair R.PWR_ENERGY_LO + (s.pwr.microJ + input) / 1000) % 2 ^ 64,
    if !u.on F.PWR_CTRL_BUDGET_EN then [] else (List.range 4).filter fun q => decide (u.get (F.PWR_Q_GRANT_W q) + u.reserved q u.syn.lent < u.get (F.PWR_Q_POWER_W q)),
    (s.pwr.microJ + input) % 1000, min 10000 (u.get F.PWR_EXCMAX_US), ?_⟩
  rw [State.excNext, ← hlim, hu, State.budgetCompare, if_neg (by simp [hclk])]
  rfl

theorem peakJudged_does (s : State) (input : Nat) :
    (s.get F.PWR_PEAK_W < input → (s.peakJudged input).on F.PWR_EVENT_PEAK = true ∧ (s.peakJudged input).get F.PWR_STATUS_THROT = max 3 (s.get F.PWR_STATUS_THROT)) ∧
      (input ≤ s.get F.PWR_PEAK_W → (s.peakJudged input).get F.PWR_STATUS_THROT = s.get F.PWR_STATUS_THROT) ∧
      (s.peakJudged input).on F.PWR_STATUS_EXCURSION = s.on F.PWR_STATUS_EXCURSION ∧ (s.peakJudged input).pwr.exc = s.pwr.exc ∧
      RegsBut [R.PWR_STATUS, R.PWR_EVENT] s (s.peakJudged input) ∧ (s.peakJudged input).mem = s.mem := by
  unfold State.peakJudged
  split
  next hlt =>
    obtain ⟨hthrot, hregs, hmem, hpwr, hstatus, hevent⟩ := throttleTo_does (s.raise F.PWR_EVENT_PEAK) (l := 3) (by decide)
    have hsame : ∀ f : RF, f.off = R.PWR_STATUS → (s.raise F.PWR_EVENT_PEAK).get f = s.get f := fun f hf => State.get_set_off _ _ (by rw [hf]; decide)
    obtain ⟨u, hu⟩ : ∃ u, u = (s.raise F.PWR_EVENT_PEAK).throttleTo 3 := ⟨_, rfl⟩
    rw [← hu] at hthrot hregs hmem hpwr hstatus hevent ⊢
    refine ⟨fun _ => ⟨?_, ?_⟩, fun h => absurd hlt (by omega), ?_, ?_, ?_, ?_⟩
    · exact (hevent F.PWR_EVENT_PEAK rfl (by decide) (by decide)).trans (State.on_set_one _ _ (by decide) (by decide))
    · exact hthrot.trans (by rw [hsame _ rfl])
    · exact (hstatus F.PWR_STATUS_EXCURSION rfl (by decide) (by decide)).trans (by rw [State.on, hsame _ rfl, ← State.on])
    · show u.pwr.exc = _
      rw [hpwr]; rfl
    · exact (regsBut_set s F.PWR_EVENT_PEAK 1 (.tail _ (.head _))).trans (hregs.trans (regsBut_of_regs _ rfl))
    · exact hmem.trans rfl
  next hle => exact ⟨fun h => absurd h hle, fun _ => rfl, rfl, rfl, regsBut_refl _ _, rfl⟩

theorem budgetCompare_does {s : State} (hclk : s.clocked = true) (quads : List Nat) (input : Nat) :
    ∃ t, exec (.budgetCompare quads input) s = .next t ∧ (∀ q : Fin 4, t.get (F.PWR_Q_POWER_W q.val) = min 4095 (quads.getD q.val 0)) ∧
      t.get F.PWR_INPUT_P = min 65535 (4 * input) ∧ t.pwr.exc = (if s.powerLimit < input then s.pwr.exc + 1 else s.pwr.exc - 1) ∧
      t.on F.PWR_STATUS_EXCURSION = decide (t.pwr.exc ≠ 0) ∧
      (s.get F.PWR_PEAK_W < input → t.on F.PWR_EVENT_PEAK = true ∧ t.get F.PWR_STATUS_THROT = max 3 (s.get F.PWR_STATUS_THROT)) ∧
      (input ≤ s.get F.PWR_PEAK_W → t.get F.PWR_STATUS_THROT = s.get F.PWR_STATUS_THROT) ∧ (∀ o, o / 0x100000 ≠ 4 → t.reg o = s.reg o) ∧ t.mem = s.mem := by
  obtain ⟨n, overs, uj, cap, hdo⟩ := budgetCompare_eq hclk quads input
  have hshown := fun o => powerShown_reg s quads input (o := o)
  have hpower := fun q => powerShown_power s quads input (q := q)
  have hinput := powerShown_input s quads input
  obtain ⟨hamem, hapwr⟩ := powerShown_keeps s quads input
  obtain ⟨a, ha⟩ : ∃ a, a = s.powerShown quads input := ⟨_, rfl⟩
  rw [← ha] at hdo hshown hpower hinput hamem hapwr
  have hbregs := powerCounted_regs a n overs (s.excNext input) input uj
  obtain ⟨hbexc, hbcount, hbthrot, hbmem⟩ := powerCounted_shows a n overs (s.excNext input) input uj
  obtain ⟨b, hb⟩ : ∃ b, b = a.powerCounted n overs (s.excNext input) input uj := ⟨_, rfl⟩
  rw [← hb] at hdo hbregs hbexc hbcount hbthrot hbmem
  obtain ⟨hcregs, hcmem, hcexc⟩ := excJudged_keeps b (s.powerLimit < input ∧ cap ≤ s.excNext input) (s.pwr.exc < cap ∨ (!s.pwr.byExc) = true)
  obtain ⟨c, hc⟩ : ∃ c, c = b.excJudged (s.powerLimit < input ∧ cap ≤ s.excNext input) (s.pwr.exc < cap ∨ (!s.pwr.byExc) = true) := ⟨_, rfl⟩
  rw [← hc] at hdo hcregs hcmem hcexc
  obtain ⟨hpeak, hlow, hexcursion, hexc, hregs, hmem⟩ := peakJudged_does c input
  obtain ⟨d, hd⟩ : ∃ d, d = c.peakJudged input := ⟨_, rfl⟩
  rw [← hd] at hdo hpeak hlow hexcursion hexc hregs hmem
  have hthrot : c.get F.PWR_STATUS_THROT = s.get F.PWR_STATUS_THROT := by
    rw [hcregs.get (by decide), hbthrot, State.get, hshown _ (by decide) (by decide)]; rfl
  have hpeakw : c.get F.PWR_PEAK_W = s.get F.PWR_PEAK_W := by
    rw [hcregs.get (by decide), hbregs.get (by decide), State.get, hshown _ (by decide) (by decide)]; rfl
  rw [hpeakw, hthrot] at hpeak hlow
  have hkeep : ∀ o, o ∉ [R.PWR_STATUS, R.PWR_EVENT, R.PWR_ENERGY_LO, R.PWR_ENERGY_LO + 4] → d.reg o = a.reg o := fun o ho => by
    simp only [List.mem_cons, List.not_mem_nil, or_false, not_or] at ho
    obtain ⟨h1, h2, h3, h4⟩ := ho
    rw [hregs o (by simp [h1, h2]), hcregs o (by simp [h2]), hbregs o (by simp [h1, h3, h4])]
  have hkeepGet : ∀ f : RF, f.off ∉ [R.PWR_STATUS, R.PWR_EVENT, R.PWR_ENERGY_LO, R.PWR_ENERGY_LO + 4] → d.get f = a.get f := fun f hf => by
    rw [State.get, hkeep _ hf]; rfl
  obtain ⟨t, hnext, ht⟩ := answer_agree s d
  have htexc : t.pwr.exc = s.excNext input := by rw [ht.pwr, hexc, hcexc, hbcount]
  refine ⟨t, ?_, fun q => ?_, ?_, htexc, ?_, fun h => ?_, fun h => ?_, fun o ho => ?_, ?_⟩
  · rw [← hnext, ← hdo]; exact ticked_on s (fun t => t.budgetCompare quads input) hclk
  · rw [ht.get, hkeepGet _ (by simp only [F.PWR_Q_POWER_W, R.PWR_STATUS, R.PWR_EVENT, R.PWR_ENERGY_LO, List.mem_cons, List.not_mem_nil, or_false, not_or]; omega)]
    exact hpower q.val q.isLt
  · rw [ht.get, hkeepGet _ (by decide), hinput]
  · rw [ht.on, hexcursion, hcregs.on (by decide), hbexc, htexc]
    by_cases h0 : s.excNext input = 0 <;> simp [h0]
  · rw [ht.on, ht.get]; exact hpeak h
  · rw [ht.get]; exact hlow h
  · rw [ht.reg, hkeep o (by simp only [R.PWR_STATUS, R.PWR_EVENT, R.PWR_ENERGY_LO, List.mem_cons, List.not_mem_nil, or_false, not_or]; omega), hshown o (by omega) (by omega)]
  · rw [ht.mem, hmem, hcmem, hbmem, hamem]

/-! ### Throttle levels -/

theorem throttleStep_raises {s : State} (hclk : s.clocked = true) (h : (s.pwr.byExc = true ∧ s.powerLimit < s.pwr.input) ∨ s.pwr.tooHot = true) :
    s.throttleStep = (s.throttleTo (min 4 (s.get F.PWR_STATUS_THROT + 1))).modPwr fun x => { x with byHot := x.byHot || x.tooHot } := by
  have hcond : (s.pwr.byExc && decide (s.powerLimit < s.pwr.input) || s.pwr.tooHot) = true := by
    rcases h with ⟨h1, h2⟩ | h
    · simp [h1, h2]
    · simp [h]
  rw [State.throttleStep, if_neg (by simp [hclk])]
  dsimp only
  rw [if_pos hcond]
section
variable {s : State} (hclk : s.clocked = true) (hexc : ¬ (s.pwr.byExc = true ∧ s.powerLimit < s.pwr.input)) (hhot : s.pwr.tooHot = false)
include hclk hexc hhot

theorem throttleStep_calm : s.throttleStep = if s.pwr.byPeak = true ∧ s.get F.PWR_PEAK_W < s.pwr.input then s
    else if s.get F.PWR_STATUS_THROT ≤ 1 then (s.set F.PWR_STATUS_THROT (s.get F.PWR_STATUS_THROT - 1)).modPwr fun x => { x with byExc := false, byPeak := false, byHot := false }
    else s.set F.PWR_STATUS_THROT (s.get F.PWR_STATUS_THROT - 1) := by
  have hcond : ¬ (s.pwr.byExc && decide (s.powerLimit < s.pwr.input) || s.pwr.tooHot) = true := by
    simpa [hhot] using hexc
  rw [State.throttleStep, if_neg (by simp [hclk])]
  dsimp only
  rw [if_neg hcond]
  simp only [Bool.and_eq_true, decide_eq_true_eq]
theorem throttleStep_falls (hpeak : s.pwr.byPeak = false ∨ s.pwr.input ≤ s.get F.PWR_PEAK_W) :
    ∃ f, s.throttleStep = (s.set F.PWR_STATUS_THROT (s.get F.PWR_STATUS_THROT - 1)).modPwr f := by
  rw [throttleStep_calm hclk hexc hhot, if_neg (by
    rintro ⟨h1, h2⟩
    rcases hpeak with h | h
    · simp [h] at h1
    · omega)]
  split
  · exact ⟨_, rfl⟩
  · exact ⟨fun w => w, rfl⟩
end

/-! ### Temperatures -/

/-- R479: the hottest readings of the quadrants. -/
def State.tempsShown (s : State) (hot : Nat → Int) : State := s.each (List.range 4) fun t q =>
  (t.setReg R.PWR_TJMAX (setBits (t.reg R.PWR_TJMAX) (8 * q) 8 (tempByte (hot q)))).modPwr fun w => { w with hot := w.hot.write 0 q (hot q) }
theorem tempsShown_keeps (s : State) (hot : Nat → Int) : RegsBut [R.PWR_TJMAX] s (s.tempsShown hot) ∧ (s.tempsShown hot).mem = s.mem ∧ (s.tempsShown hot).aon = s.aon :=
  ⟨regsBut_each (L := [R.PWR_TJMAX]) (List.range 4) _ s fun t _ => (regsBut_setReg t _ (.head _)).trans (regsBut_of_regs _ rfl),
    each_same _ (fun t q => (t.setReg R.PWR_TJMAX (setBits (t.reg R.PWR_TJMAX) (8 * q) 8 (tempByte (hot q)))).modPwr fun w => { w with hot := w.hot.write 0 q (hot q) }) s (fun t => t.mem) fun _ _ => rfl,
    each_same _ (fun t q => (t.setReg R.PWR_TJMAX (setBits (t.reg R.PWR_TJMAX) (8 * q) 8 (tempByte (hot q)))).modPwr fun w => { w with hot := w.hot.write 0 q (hot q) }) s (fun t => t.aon) fun _ _ => rfl⟩
/-- R479: the warning and throttle marks of the hottest reading. -/
def State.tempJudged (s : State) (top : Int) (high : Bool) : State :=
  let u := if ((s.get F.PWR_TJ_WARN : Nat) : Int) ≤ top then s.raise F.PWR_EVENT_TJ_WARN else s
  let v := (u.modPwr fun w => { w with tooHot := high }).put F.PWR_STATUS_THERMAL high
  if high then v.raise F.PWR_EVENT_TJ_THROT else v
theorem tempJudged_does (s : State) (top : Int) (high : Bool) : (s.tempJudged top high).on F.PWR_STATUS_THERMAL = high ∧ (s.tempJudged top high).pwr.tooHot = high ∧
    (((s.get F.PWR_TJ_WARN : Nat) : Int) ≤ top → (s.tempJudged top high).on F.PWR_EVENT_TJ_WARN = true) ∧
    RegsBut [R.PWR_STATUS, R.PWR_EVENT] s (s.tempJudged top high) ∧ (s.tempJudged top high).mem = s.mem ∧ (s.tempJudged top high).aon = s.aon := by
  obtain ⟨u, hu⟩ : ∃ u, u = if ((s.get F.PWR_TJ_WARN : Nat) : Int) ≤ top then s.raise F.PWR_EVENT_TJ_WARN else s := ⟨_, rfl⟩
  have hwarn : ((s.get F.PWR_TJ_WARN : Nat) : Int) ≤ top → u.on F.PWR_EVENT_TJ_WARN = true := fun h => by
    rw [hu, if_pos h]; exact State.on_set_one _ _ (by decide) (by decide)
  have hukeep : RegsBut [R.PWR_STATUS, R.PWR_EVENT] s u ∧ u.mem = s.mem ∧ u.aon = s.aon := by
    rw [hu]
    split
    · exact ⟨regsBut_set s F.PWR_EVENT_TJ_WARN 1 (.tail _ (.head _)), rfl, rfl⟩
    · exact ⟨regsBut_refl _ _, rfl, rfl⟩
  obtain ⟨huregs, humem, huaon⟩ := hukeep
  obtain ⟨v, hv⟩ : ∃ v, v = (u.modPwr fun w => { w with tooHot := high }).put F.PWR_STATUS_THERMAL high := ⟨_, rfl⟩
  have hvon : v.on F.PWR_STATUS_THERMAL = high := by rw [hv]; exact put_on _ _ _ (by decide) (by decide)
  have hvregs : RegsBut [R.PWR_STATUS, R.PWR_EVENT] u v := by
    rw [hv]; exact (regsBut_of_regs _ rfl).trans (regsBut_set _ F.PWR_STATUS_THERMAL _ (.head _))
  have hvwarn : v.on F.PWR_EVENT_TJ_WARN = u.on F.PWR_EVENT_TJ_WARN := by rw [hv, State.put, State.on_set_off _ _ (by decide)]; rfl
  have hvhot : v.pwr.tooHot = high := by rw [hv]; rfl
  have hvmem : v.mem = u.mem := by rw [hv]; rfl
  have hvaon : v.aon = u.aon := by rw [hv]; rfl
  have hdo : s.tempJudged top high = if high then v.raise F.PWR_EVENT_TJ_THROT else v := by rw [hv, hu]; rfl
  rw [hdo]
  cases high with
  | false => exact ⟨hvon, hvhot, fun h => hvwarn.trans (hwarn h), huregs.trans hvregs, hvmem.trans humem, hvaon.trans huaon⟩
  | true =>
    refine ⟨?_, hvhot, fun h => ?_, huregs.trans (hvregs.trans (regsBut_set v F.PWR_EVENT_TJ_THROT 1 (.tail _ (.head _)))), hvmem.trans humem, hvaon.trans huaon⟩
    · exact (State.on_set_off _ _ (by decide)).trans hvon
    · exact (State.on_set_bits _ _ (by decide) (by decide)).trans (hvwarn.trans (hwarn h))

/-- R479: the hottest reading of quadrant q. -/
def hottest (temps : List Int) (q : Nat) : Int := ((List.range 16).filterMap fun i => temps[16 * q + i]?).foldl max (-273)
/-- R479: a thermal trip. -/
def State.trip (s : State) (i : Nat) (top : Int) : State :=
  let u := ((s.emberRecord .power .clock 0 i top.toNat).stopNow Stop.thermalTrip.code).setReady false
  { u with aon := { u.aon with tripped := true } }
theorem thermalSample_eq {s : State} (hclk : s.clocked = true) {temps : List Int} {top : Int} (htop : top = temps.foldl max (-273)) :
    s.thermalSample temps =
      if 110 ≤ top then ((s.tempsShown (hottest temps)).tempJudged top (decide (((min 105 (s.get F.PWR_TJ_THROT) : Nat) : Int) ≤ top))).trip
        ((temps.findIdx? fun t => decide (t = top)).getD 0) top
      else (s.tempsShown (hottest temps)).tempJudged top (decide (((min 105 (s.get F.PWR_TJ_THROT) : Nat) : Int) ≤ top)) := by
  have hthrot : (s.tempsShown (hottest temps)).get F.PWR_TJ_THROT = s.get F.PWR_TJ_THROT := (tempsShown_keeps s _).1.get (by decide)
  rw [← hthrot, htop, State.thermalSample, if_neg (by simp [hclk])]
  rfl
theorem setReady_aon (s : State) (b : Bool) : (s.setReady b).aon = { s.aon with ready := b } := by
  unfold State.setReady
  dsimp only
  split
  · rfl
  · exact MemStep.aon (step_page _ _ _)
theorem trip_trips (s : State) (i : Nat) (top : Int) : (s.trip i top).aon.tripped = true ∧ (s.trip i top).aon.ready = false ∧ (s.trip i top).clocked = false := by
  obtain ⟨u, hu⟩ : ∃ u, u = (s.emberRecord .power .clock 0 i top.toNat).stopNow Stop.thermalTrip.code := ⟨_, rfl⟩
  have haon : (s.trip i top).aon = { u.aon with ready := false, tripped := true } := by
    rw [State.trip, ← hu]
    dsimp only
    rw [setReady_aon]
  refine ⟨by rw [haon], by rw [haon], ?_⟩
  rw [State.clocked, haon]
  exact Bool.and_false _

/-- Settles O56. -/
theorem powerIsManaged : Obligations.PowerIsManaged := by
  unfold Obligations.PowerIsManaged
  intro s hclk
  refine ⟨fun r ov uv oc hr => ⟨fun hb => gives_answer rfl ?_, fun hb v s1 hf => ⟨fun hr4 hmem => gives_answer rfl ?_, fun h => gives_answer rfl ?_⟩⟩,
    fun r rest h => ⟨gives_answer rfl (railRestored_eq hclk h true), gives_answer rfl (railRestored_eq hclk h false)⟩, fun q m hm => ?_, budgetCompare_does hclk,
    fun l hl => ⟨fun h => ?_, fun hexc hhot hpeak => ?_, fun hexc hhot hby hover => ?_⟩, fun temps top htop => ⟨fun hlow => ?_, fun hhigh => ?_⟩⟩
  · rw [hb, State.railFault, if_pos (.inr (.inl rfl))]
  · rw [hb, railFault_eq hclk hr hf, if_pos ⟨hr4, hmem⟩]
  · rw [hb, railFault_eq hclk hr hf, if_neg (by rintro ⟨h1, h2⟩; exact h.elim (by omega) h2)]
  · obtain ⟨u, fl, f, hdo, hregs, hmem⟩ := vloop_eq hclk hm
    obtain ⟨x, hx⟩ : ∃ x, x = (u.set (F.PWR_Q_FLOOR_UV q.val) fl).setVarr q.val (max fl (s.varrWanted q.val m (s.guardOf q.val m) fl)) := ⟨_, rfl⟩
    rw [← hx] at hdo
    obtain ⟨t, hnext, ht⟩ := answer_agree s (x.modPwr f)
    have htregs : t.regs = x.regs := ht.regs
    refine ⟨t, s.guardOf q.val m, fl, ?_, guardOf_mem, ?_, ?_, ?_, ?_⟩
    · rw [← hnext, ← hdo]; exact ticked_on s (fun t => t.vloop q.val) hclk
    · rw [State.get_congr htregs, hx, State.setVarr, State.get_set_off _ _ (by simp only [F.PWR_Q_FLOOR_UV, F.PWR_Q_VARR_UV]; omega)]
      exact State.get_set_self _ _ _ (by simp [F.PWR_Q_FLOOR_UV])
    · rw [State.get_congr htregs, hx]
      exact State.get_set_lt _ _ _ (by simp [F.PWR_Q_VARR_UV]) (Nat.lt_of_le_of_lt (Nat.min_le_left _ _) (by simp [F.PWR_Q_VARR_UV]))
    · refine RegsBut.trans (regsBut_of_regs _ hregs : RegsBut _ s u) (RegsBut.trans ?_ (regsBut_of_regs _ htregs))
      rw [hx]
      exact (regsBut_set u (F.PWR_Q_FLOOR_UV q.val) fl (.tail _ (.head _))).trans (regsBut_set _ (F.PWR_Q_VARR_UV q.val) _ (.head _))
    · have hxm : (x.modPwr f).mem = u.mem := by rw [hx]; rfl
      rw [ht.mem, hxm, hmem]
  · have hlt : l < 8 := by rw [hl]; exact State.get_lt s F.PWR_STATUS_THROT
    obtain ⟨hthrot, hregs, hmem, -, -, -⟩ := throttleTo_does s (l := min 4 (l + 1)) (by omega)
    have hdo := throttleStep_raises hclk h
    rw [← hl] at hdo hthrot
    obtain ⟨x, hx⟩ : ∃ x, x = s.throttleTo (min 4 (l + 1)) := ⟨_, rfl⟩
    rw [← hx] at hdo hthrot hregs hmem
    obtain ⟨t, hnext, ht⟩ := answer_agree s s.throttleStep
    rw [hdo] at ht
    have htregs : t.regs = x.regs := ht.regs
    refine ⟨t, ?_, ?_, hregs.trans (regsBut_of_regs _ htregs), ht.mem.trans hmem⟩
    · rw [← hnext]; exact ticked_on s (fun t => t.throttleStep) hclk
    · rw [State.get_congr htregs, hthrot]; omega
  · obtain ⟨f, hdo⟩ := throttleStep_falls hclk hexc hhot hpeak
    have hlt : l < 8 := by rw [hl]; exact State.get_lt s F.PWR_STATUS_THROT
    rw [← hl] at hdo
    obtain ⟨t, hnext, ht⟩ := answer_agree s s.throttleStep
    rw [hdo] at ht
    have htregs : t.regs = (s.set F.PWR_STATUS_THROT (l - 1)).regs := ht.regs
    refine ⟨t, ?_, ?_, (regsBut_set s F.PWR_STATUS_THROT (l - 1) (.head _)).trans (regsBut_of_regs _ htregs), ht.mem⟩
    · rw [← hnext]; exact ticked_on s (fun t => t.throttleStep) hclk
    · rw [State.get_congr htregs]
      exact State.get_set_lt _ _ _ (by decide) (by simp only [F.PWR_STATUS_THROT]; omega)
  · refine gives_ticked (f := fun t => t.throttleStep) rfl hclk ?_
    rw [throttleStep_calm hclk hexc hhot, if_pos ⟨hby, hover⟩]
  · have hdo := thermalSample_eq hclk htop
    rw [if_neg (by omega)] at hdo
    obtain ⟨haregs, hamem, haaon⟩ := tempsShown_keeps s (hottest temps)
    obtain ⟨a, ha⟩ : ∃ a, a = s.tempsShown (hottest temps) := ⟨_, rfl⟩
    rw [← ha] at hdo haregs hamem haaon
    obtain ⟨hon, hhot, hwarn, hregs, hmem, haon⟩ := tempJudged_does a top (decide (((min 105 (s.get F.PWR_TJ_THROT) : Nat) : Int) ≤ top))
    rw [← hdo] at hon hhot hwarn hregs hmem haon
    rw [haregs.get (by decide)] at hwarn
    obtain ⟨t, hnext, ht⟩ := answer_agree s (s.thermalSample temps)
    refine ⟨t, ?_, (ht.on _).trans hon, ?_, fun h => (ht.on _).trans (hwarn h), RegsBut.agree (RegsBut.trans (haregs.mono fun o ho => ?_) (hregs.mono fun o ho => .tail _ ho)) ht,
      (ht.mem.trans hmem).trans hamem, (ht.aon.trans haon).trans haaon⟩
    · rw [← hnext]; exact ticked_on s (fun t => t.thermalSample temps) hclk
    · rw [ht.pwr, hhot, ht.on, hon]
    · rw [List.mem_singleton.1 ho]; exact .head _
  · have hdo := thermalSample_eq hclk htop
    rw [if_pos hhigh] at hdo
    obtain ⟨x, hx⟩ : ∃ x, x = (s.tempsShown (hottest temps)).tempJudged top (decide (((min 105 (s.get F.PWR_TJ_THROT) : Nat) : Int) ≤ top)) := ⟨_, rfl⟩
    rw [← hx] at hdo
    obtain ⟨htrip, hready, hoff⟩ := trip_trips x ((temps.findIdx? fun t => decide (t = top)).getD 0) top
    rw [← hdo] at htrip hready hoff
    obtain ⟨t, hnext, ht⟩ := answer_agree s (s.thermalSample temps)
    refine ⟨t, ?_, by rw [ht.aon, htrip], by rw [ht.aon, hready], by rw [State.clocked, ht.aon]; exact hoff⟩
    rw [← hnext]; exact ticked_on s (fun t => t.thermalSample temps) hclk

end Sys2Proof.Machine
end

section
/-! PROOFS. Unit and host resets, and the PCIe and CXL links (16_step_commit_replay_and_errors.md R534, 18_host_and_far_memory_links.md R559 to R566). -/

namespace Sys2Proof.Machine

/-! ### The reset of the units keeps the job -/

theorem each_job {α : Type} (l : List α) (f : State → α → State) (s : State) (h : ∀ t a, (f t a).job = t.job) : (s.each l f).job = s.job :=
  each_same l f s (fun t => t.job) h
theorem queuesOff_job (s : State) : s.queuesOff.job = s.job := by
  refine Eq.trans (each_job (s := State.each s _ _) _ _ ?_) (each_job _ _ _ ?_)
  · intro t q; rfl
  · intro t p; rfl
theorem unitsOff_job (s : State) : s.unitsOff.job = s.job := by
  refine Eq.trans (each_job _ _ _ ?_) (queuesOff_job s)
  intro t q; rfl
/-- R534: the heads and tails of every unit queue are 0. -/
def State.queuesZero (s : State) : State :=
  (s.each (List.range 136) fun t p => ((t.set (F.HRT_QHEAD_HEAD p) 0).set (F.HRT_QTAIL_TAIL p) 0).set (F.DMP_SHEAD_HEAD p) 0).each (List.range 4) fun t q =>
    ((((((((((t.set (F.KLN_QHEAD_HEAD q) 0).set (F.KLN_QTAIL_TAIL q) 0).set (F.FBX_QHEAD_HEAD q) 0).set (F.FBX_QTAIL_TAIL q) 0).set
      (F.COL_QHEAD_HEAD q) 0).set (F.COL_QTAIL_TAIL q) 0).set (F.BLW_SQHEAD_HEAD q) 0).set (F.BLW_SQTAIL_TAIL q) 0).set
      (F.FLU_SQHEAD_VALUE q) 0).set (F.FLU_SQTAIL_VALUE q) 0)
theorem queuesZero_job (s : State) : s.queuesZero.job = s.job := by
  refine Eq.trans (each_job (s := State.each s _ _) _ _ ?_) (each_job _ _ _ ?_)
  · intro t q; rfl
  · intro t p; rfl
theorem unitsReset_job (s : State) : s.unitsReset.job = s.job := by
  obtain ⟨v, hv⟩ : ∃ v, v = s.queuesOff.queuesZero := ⟨_, rfl⟩
  have hjob : v.job = s.job := by rw [hv, queuesZero_job, queuesOff_job]
  have hfold : ∃ (sy : Syn) (ctrs : List Nat) (g : Hearth → Hearth), s.unitsReset =
      (State.each { v with queues := [], kln := [], col := [], folded := [], flue := { v.flue with injs := [], waiting := [] }, syn := sy } (List.range 136) fun t p => t.modHearth p g).each
        ctrs State.noteWaiters := by rw [hv]; exact ⟨_, _, _, rfl⟩
  obtain ⟨sy, ctrs, g, hdo⟩ := hfold
  rw [hdo]
  refine Eq.trans (each_job _ _ _ ?_) (Eq.trans (each_job _ _ _ ?_) hjob)
  · intro t b; rfl
  · intro t p; rfl
theorem jobEn_of_kept {s t : State} (h : Kept s t) : t.jobEn = s.jobEn := on_congr_reg F.ERR_CTRL_JOB_EN h.ctrl

/-- R534: what a write of 1 to ERR_RESET.UNIT does. -/
theorem unitReset_empties (s : State) : ∃ u : State, s.unitReset = (if s.jobEn && s.job.outcome != 4 then u.recover else u) ∧ Kept s u ∧ Emptied u ∧
    ∀ c < 68, (u.cricket c).halted = true ∧ (u.cricket c).inTrap = false ∧ (u.cricket c).g = [] := by
  obtain ⟨u, hdo, hkept, hempty, hcrk⟩ := unitReset_does s
  refine ⟨u, ?_, hkept, hempty, hcrk⟩
  rw [hdo, jobEn_of_kept hkept, unitsReset_job, unitsOff_job]
  rfl

/-! ### The PCIe link -/

theorem settle_msix_up {s : State} (h : s.get F.CXL_STATUS_GEN ≠ 0) : (∃ l, s.settle.irq.msix = s.irq.msix ++ l) ∧ s.settle.irq.owed = s.irq.owed := by
  have hup : (s.get F.CXL_STATUS_GEN != 0) = true := bne_iff_ne.2 h
  obtain ⟨l, hl⟩ : ∃ l, l = s.causes.filter fun v => !s.irq.active.testBit v := ⟨_, rfl⟩
  refine ⟨⟨l, ?_⟩, ?_⟩
  · rw [State.settle, hup, hl]; rfl
  · rw [State.settle, hup]; rfl
theorem settle_msix_down {s : State} (h : s.get F.CXL_STATUS_GEN = 0) : s.settle.irq.msix = s.irq.msix := by
  rw [State.settle, h]; rfl
theorem settle_epResets (s : State) : s.settle.irq.epResets = s.irq.epResets := rfl
theorem answer_irq (s u : State) : ∃ t, s.answer u = .next t ∧ Agree t u ∧ t.irq = u.settle.irq := ⟨_, rfl, rfl, rfl⟩

/-- R559: the link is up with a generation and a width. -/
def State.linkShown (s : State) (gen width : Nat) : State := (s.set F.CXL_STATUS_GEN gen).set F.CXL_STATUS_WIDTH width
theorem linkShown_does (s : State) {gen width : Nat} (hg : gen < 8) (hw : width < 16) :
    (s.linkShown gen width).get F.CXL_STATUS_GEN = gen ∧ (s.linkShown gen width).get F.CXL_STATUS_WIDTH = width ∧ RegsBut [R.CXL_STATUS] s (s.linkShown gen width) := by
  refine ⟨?_, State.get_set_lt _ _ _ (by decide) (by simpa [F.CXL_STATUS_WIDTH] using hw), ?_⟩
  · rw [State.linkShown, State.get_set_bits (f := F.CXL_STATUS_WIDTH) (g := F.CXL_STATUS_GEN) _ _ (by decide) (by decide)]
    exact State.get_set_lt _ _ _ (by decide) (by simpa [F.CXL_STATUS_GEN] using hg)
  · exact (regsBut_set s F.CXL_STATUS_GEN gen (.head _)).trans (regsBut_set _ F.CXL_STATUS_WIDTH width (.head _))
/-- R559: the vectors that waited for the link are sent. -/
def State.owedSent (s : State) : State := { s with irq := { s.irq with msix := s.irq.msix ++ s.irq.owed, owed := [] } }
theorem pcieUp_eq {s : State} {gen width : Nat} (hg : 4 ≤ gen ∧ gen ≤ 6) (hw : width = 1 ∨ width = 2 ∨ width = 4) (hpg : s.aon.pg = true) :
    s.pcieUp gen width = (s.linkShown gen width).owedSent := by
  rw [State.pcieUp, if_neg (by rw [hpg]; rcases hw with rfl | rfl | rfl <;> simp <;> omega)]
  rfl
theorem pcieUp_none {s : State} {gen width : Nat} (h : gen < 4 ∨ 6 < gen ∨ (width ≠ 1 ∧ width ≠ 2 ∧ width ≠ 4) ∨ s.aon.pg = false) : s.pcieUp gen width = s := by
  rw [State.pcieUp, if_pos]
  simpa using h

/-! ### CXL devices -/

/-- R566: a CXL link goes down, and a job notes the link that failed. -/
def State.cxlLost (s : State) (k : Nat) : State :=
  let s1 := (s.set (F.CXL_P_STATUS_STATE k) 0).raise F.CXL_EVENT_LINK_DOWN
  if s1.jobEn then { s1 with job := { s1.job with faulty := (15, k) :: s1.job.faulty } } else s1
/-- R566: a drain whose slot is out of reach is given up. -/
def State.drainLost (s : State) (given : Bool) : State := if given then { s with job := { s.job with ckDrain := none } }.set F.ERR_STATUS_DRAIN 0 else s
/-- R566: whether a drain is under way whose slot is out of reach. -/
def State.drainStuck (s : State) : Bool := (s.job.ckDrain.isSome && !s.job.ckEnded) && !s.farOk (s.slotBase s.drainSlot) (4096 + s.drainLen)
theorem cxlDown_eq {s : State} {k : Nat} (h : s.get (F.CXL_P_STATUS_STATE k) ≠ 0) : s.cxlDown k = (s.cxlLost k).drainLost (s.cxlLost k).drainStuck := by
  have hfold (t : State) : (if (t.job.ckDrain.isSome && !t.job.ckEnded) = true then
      if t.farOk (t.slotBase t.drainSlot) (4096 + t.drainLen) = true then t else { t with job := { t.job with ckDrain := none } }.set F.ERR_STATUS_DRAIN 0
      else t) = t.drainLost t.drainStuck := by
    rw [State.drainLost, State.drainStuck]
    cases (t.job.ckDrain.isSome && !t.job.ckEnded) <;> cases t.farOk (t.slotBase t.drainSlot) (4096 + t.drainLen) <;> rfl
  rw [State.cxlDown, if_neg h]
  exact hfold (s.cxlLost k)
theorem drainStuck_of_idle {s : State} (h : s.job.ckDrain = none ∨ s.job.ckEnded = true) : s.drainStuck = false := by
  rw [State.drainStuck]
  rcases h with h | h <;> simp [h]
theorem cxlLost_does (s : State) (k : Nat) : (s.cxlLost k).get (F.CXL_P_STATUS_STATE k) = 0 ∧ (s.cxlLost k).on F.CXL_EVENT_LINK_DOWN = true ∧
    (s.cxlLost k).job = (if s.jobEn then { s.job with faulty := (15, k) :: s.job.faulty } else s.job) ∧
    RegsBut [R.CXL_P_STATUS k, R.CXL_EVENT] s (s.cxlLost k) ∧ (s.cxlLost k).mem = s.mem ∧ (s.cxlLost k).cxl = s.cxl := by
  obtain ⟨t, ht⟩ : ∃ t, t = (s.set (F.CXL_P_STATUS_STATE k) 0).raise F.CXL_EVENT_LINK_DOWN := ⟨_, rfl⟩
  have hstate : t.get (F.CXL_P_STATUS_STATE k) = 0 := by
    rw [ht, State.raise, State.get_set_off _ _ (by simp only [F.CXL_P_STATUS_STATE, F.CXL_EVENT_LINK_DOWN]; omega)]
    exact State.get_set_self _ _ _ (by simp [F.CXL_P_STATUS_STATE])
  have hon : t.on F.CXL_EVENT_LINK_DOWN = true := by rw [ht]; exact State.on_set_one _ _ (by decide) (by decide)
  have hregs : RegsBut [R.CXL_P_STATUS k, R.CXL_EVENT] s t := by
    rw [ht]
    exact (regsBut_set s (F.CXL_P_STATUS_STATE k) 0 (.head _)).trans (regsBut_set _ F.CXL_EVENT_LINK_DOWN 1 (.tail _ (.head _)))
  have hen : t.jobEn = s.jobEn := hregs.on (by simp [F.ERR_CTRL_JOB_EN, R.CXL_P_STATUS, R.CXL_EVENT]; omega)
  have hrest : t.job = s.job ∧ t.mem = s.mem ∧ t.cxl = s.cxl := by rw [ht]; exact ⟨rfl, rfl, rfl⟩
  obtain ⟨hjob, hmem, hcxl⟩ := hrest
  unfold State.cxlLost
  dsimp only
  rw [← ht, ← hjob, ← hen]
  cases t.jobEn
  · exact ⟨hstate, hon, rfl, hregs, hmem, hcxl⟩
  · exact ⟨hstate, hon, rfl, hregs, hmem, hcxl⟩
theorem drainLost_does (s : State) (given : Bool) : RegsBut [R.ERR_STATUS] s (s.drainLost given) ∧ (s.drainLost given).mem = s.mem ∧ (s.drainLost given).cxl = s.cxl ∧
    (s.drainLost given).job.faulty = s.job.faulty ∧ (given = false → s.drainLost given = s) ∧
    (given = true → (s.drainLost given).job.ckDrain = none ∧ (s.drainLost given).get F.ERR_STATUS_DRAIN = 0) := by
  cases given
  · exact ⟨regsBut_refl _ _, rfl, rfl, rfl, fun _ => rfl, nofun⟩
  · exact ⟨regsBut_set s F.ERR_STATUS_DRAIN 0 (.head _), rfl, rfl, rfl, nofun, fun _ => ⟨rfl, State.get_set_self _ _ _ (by decide)⟩⟩

/-- R563: the far tier without a removed device. -/
def State.devsShown (s : State) (devs : Sparse (List Nat)) (rs : List FarRange) : State :=
  ({ s with cxl := { devs := devs, ranges := rs } }.setPair R.CXL_FARSIZE_LO ((rs.map FarRange.size).sum)).each (List.range 2) fun t i =>
    t.set (F.CXL_P_STATUS_DEVS i) (rs.filter fun (r : FarRange) => r.port == i).length
theorem devsShown_does (s : State) (devs : Sparse (List Nat)) (rs : List FarRange) : (s.devsShown devs rs).cxl = { devs := devs, ranges := rs } ∧
    RegsBut [R.CXL_P_STATUS 0, R.CXL_P_STATUS 1, R.CXL_FARSIZE_LO, R.CXL_FARSIZE_HI] s (s.devsShown devs rs) ∧ (s.devsShown devs rs).mem = s.mem ∧ (s.devsShown devs rs).job = s.job := by
  refine ⟨?_, ?_, ?_, ?_⟩
  · exact each_same _ _ _ (fun t => t.cxl) fun _ _ => rfl
  · refine RegsBut.trans (t := { s with cxl := { devs := devs, ranges := rs } }.setPair R.CXL_FARSIZE_LO ((rs.map FarRange.size).sum)) ?_ ?_
    · exact RegsBut.trans (regsBut_of_regs _ rfl) ((regsBut_setReg (o := R.CXL_FARSIZE_LO) _ _ (by simp)).trans (regsBut_setReg (o := R.CXL_FARSIZE_HI) _ _ (by simp)))
    · exact (regsBut_set _ (F.CXL_P_STATUS_DEVS 0) _ (.head _)).trans (regsBut_set _ (F.CXL_P_STATUS_DEVS 1) _ (.tail _ (.head _)))
  · exact each_same _ _ _ (fun t => t.mem) fun _ _ => rfl
  · exact each_same _ _ _ (fun t => t.job) fun _ _ => rfl
theorem cxlRemove_eq {s : State} {k d : Nat} {ds : List Nat} (hclk : s.clocked = true) (himg : s.on F.CFG_STATE_IMAGE = false) (h : s.cxl.devs.look [] k = ds ++ [d]) :
    s.cxlRemove k = (if ds = [] then (s.devsShown (Sparse.write s.cxl.devs [] k ds) (s.rangesWithout k)).set (F.CXL_P_STATUS_STATE k) 0
      else s.devsShown (Sparse.write s.cxl.devs [] k ds) (s.rangesWithout k)).raise F.CXL_EVENT_HOTPLUG := by
  obtain ⟨rs, hrs⟩ : ∃ rs, rs = s.rangesWithout k := ⟨_, rfl⟩
  rw [State.cxlRemove, h]
  dsimp only
  rw [if_neg (by simp [hclk]), if_neg (by simp [himg]), List.dropLast_concat, ← hrs]
  by_cases hds : ds = []
  · rw [if_pos hds, if_pos (by simp [hds])]
    rfl
  · rw [if_neg hds, if_neg (by simpa using hds)]
    rfl
theorem cxlRemove_of_image {s : State} {k : Nat} (hclk : s.clocked = true) (himg : s.on F.CFG_STATE_IMAGE = true) (h : s.cxl.devs.look [] k ≠ []) : s.cxlRemove k = s.cxlDown k := by
  rw [State.cxlRemove]
  dsimp only
  rw [if_neg (by simp [hclk, h]), if_pos himg]
theorem cxlRemove_none {s : State} {k : Nat} (h : s.clocked = false ∨ s.cxl.devs.look [] k = []) : s.cxlRemove k = s := by
  rw [State.cxlRemove]
  dsimp only
  rw [if_pos (by simpa using h)]
theorem cxlRemove_does {s : State} {k : Fin 2} {d : Nat} {ds : List Nat} (hclk : s.clocked = true) (himg : s.on F.CFG_STATE_IMAGE = false) (h : s.cxl.devs.look [] k.val = ds ++ [d]) :
    (s.cxlRemove k.val).cxl.devs.look [] k.val = ds ∧ (ds = [] → (s.cxlRemove k.val).get (F.CXL_P_STATUS_STATE k.val) = 0) ∧ (s.cxlRemove k.val).on F.CXL_EVENT_HOTPLUG = true ∧
    (s.cxlRemove k.val).cxl.ranges = s.rangesWithout k.val ∧ RegsBut [R.CXL_P_STATUS 0, R.CXL_P_STATUS 1, R.CXL_FARSIZE_LO, R.CXL_FARSIZE_HI, R.CXL_EVENT] s (s.cxlRemove k.val) ∧
    (s.cxlRemove k.val).mem = s.mem ∧ (s.cxlRemove k.val).job = s.job := by
  obtain ⟨rs, hrs⟩ : ∃ rs, rs = s.rangesWithout k.val := ⟨_, rfl⟩
  have hdo := cxlRemove_eq hclk himg h
  rw [← hrs] at hdo ⊢
  obtain ⟨hcxl, hregs, hmem, hjob⟩ := devsShown_does s (Sparse.write s.cxl.devs [] k.val ds) rs
  obtain ⟨u, hu⟩ : ∃ u, u = s.devsShown (Sparse.write s.cxl.devs [] k.val ds) rs := ⟨_, rfl⟩
  rw [← hu] at hdo hcxl hregs hmem hjob
  obtain ⟨v, hv⟩ : ∃ v, v = (if ds = [] then u.set (F.CXL_P_STATUS_STATE k.val) 0 else u) := ⟨_, rfl⟩
  rw [← hv] at hdo
  have hport : R.CXL_P_STATUS k.val ∈ [R.CXL_P_STATUS 0, R.CXL_P_STATUS 1, R.CXL_FARSIZE_LO, R.CXL_FARSIZE_HI, R.CXL_EVENT] := by
    have hlt : k.val = 0 ∨ k.val = 1 := by omega
    rcases hlt with hk | hk <;> rw [hk]
    · exact .head _
    · exact .tail _ (.head _)
  have hvregs : RegsBut [R.CXL_P_STATUS 0, R.CXL_P_STATUS 1, R.CXL_FARSIZE_LO, R.CXL_FARSIZE_HI, R.CXL_EVENT] u v := by
    rw [hv]
    split
    · exact regsBut_set u (F.CXL_P_STATUS_STATE k.val) 0 hport
    · exact regsBut_refl _ _
  have hvrest : v.cxl = u.cxl ∧ v.mem = u.mem ∧ v.job = u.job := by
    rw [hv]
    split
    · exact ⟨rfl, rfl, rfl⟩
    · exact ⟨rfl, rfl, rfl⟩
  obtain ⟨hvcxl, hvmem, hvjob⟩ := hvrest
  rw [hdo]
  refine ⟨?_, fun hds => ?_, State.on_set_one _ _ (by decide) (by decide), ?_, ?_, ?_, ?_⟩
  · rw [State.raise, State.set_cxl, hvcxl, hcxl]
    exact Sparse.look_write_self _ _ _ _
  · rw [State.raise, State.get_set_off _ _ (by simp only [F.CXL_P_STATUS_STATE, F.CXL_EVENT_HOTPLUG]; omega), hv, if_pos hds]
    exact State.get_set_self _ _ _ (by simp [F.CXL_P_STATUS_STATE])
  · rw [State.raise, State.set_cxl, hvcxl, hcxl]
  · refine ((hregs.mono fun o ho => ?_).trans hvregs).trans (regsBut_set v F.CXL_EVENT_HOTPLUG 1 (List.mem_append_right [R.CXL_P_STATUS 0, R.CXL_P_STATUS 1, R.CXL_FARSIZE_LO, R.CXL_FARSIZE_HI] (.head _)))
    exact List.mem_append_left [R.CXL_EVENT] ho
  · rw [State.raise, State.set_mem, hvmem, hmem]
  · rw [State.raise, State.set_job, hvjob, hjob]

/-! ### The resets and links as commands -/

theorem exec_hostReset {s : State} (hb : s.busOn = true) (who : Requester) (val : Word) :
    exec (.hostReset who val) s = s.answer (if val = 1 then s.hostReset else s) := by
  have hone : (val.toNat % 2 ^ 32 % 2 ^ 32 = 1) = (val = 1) := by
    rw [Nat.mod_mod, word_mod]
    exact propext ⟨fun h => BitVec.eq_of_toNat_eq h, fun h => by rw [h]; rfl⟩
  change s.answer (s.busWrite who.val R.CXL_HRESET 4 val.toNat) = _
  rw [write_CXL_HRESET s who.val val.toNat hb]
  simp only [hone]
theorem exec_unitReset {s : State} (hb : s.busOn = true) {who : Requester} (hsec : s.isSecure who.val = true) (val : Word) :
    exec (.unitReset who val) s = s.answer (if val.getLsbD 0 then (s.set F.ERR_RESET_UNIT val.toNat).unitReset else s.set F.ERR_RESET_UNIT val.toNat) := by
  change s.answer (s.busWrite who.val R.ERR_RESET 4 val.toNat) = _
  rw [write_ERR_RESET s who.val val.toNat hb hsec, word_mod]
  rfl
theorem exec_resets {s : State} {i : Instr} (h : (s.busOn = true ∧ ∃ who, i = .hostReset who 1) ∨ (∃ n, 1000 ≤ n ∧ i = .sysRstN n)) : exec i s = s.answer s.hostReset := by
  rcases h with ⟨hb, who, rfl⟩ | ⟨n, hn, rfl⟩
  · rw [exec_hostReset hb who 1, if_pos rfl]
  · change s.answer (s.sysReset n) = _
    rw [State.sysReset, if_neg (by omega)]

/-- Settles O59, by what the reset of the units keeps and by one equation for each command of the links. -/
theorem resetsAndHostLinksAct : Obligations.ResetsAndHostLinksAct := by
  unfold Obligations.ResetsAndHostLinksAct
  intro s
  refine ⟨fun who val hb hsec => ⟨fun h0 => ?_, fun h1 => ?_⟩, fun i hi => ⟨fun hoff => ?_, fun hpg htrip => ?_⟩, fun who val hb hne => ?_, fun n hn => ?_, fun flr => ?_,
    fun g w => ⟨fun hg hw hpg => ?_, fun h => ?_⟩, ?_, fun k gib => ⟨fun h => ?_, fun hclk himg hgib => ?_⟩,
    fun k => ⟨fun h => ?_, fun h => ?_, fun hclk himg h => ?_, fun h => ?_, fun d ds hclk himg h => ?_⟩⟩
  · refine gives_answer (exec_unitReset hb hsec val) ?_
    rw [if_neg (by rw [h0]; decide)]
    refine set_mod s _ ?_
    have hbit : val.toNat.testBit 0 = false := h0
    rw [Nat.testBit_zero, decide_eq_false_iff_not] at hbit
    change val.toNat % 2 ^ 1 = 0
    omega
  · obtain ⟨x, hx⟩ : ∃ x, x = s.set F.ERR_RESET_UNIT val.toNat := ⟨_, rfl⟩
    have hexec := exec_unitReset hb hsec val
    rw [if_pos h1, ← hx] at hexec
    obtain ⟨u, hdo, hkept, ⟨hq, hk, hi⟩, hcrk⟩ := unitReset_empties x
    have hsx : Kept s x := by rw [hx]; exact kept_set s _ _ (by decide)
    obtain ⟨hmem, herrs, hember, hhob, haon, -⟩ := hsx.trans hkept
    have hjob : x.jobEn = s.jobEn := jobEn_of_kept hsx
    have hout : x.job = s.job := by rw [hx]; rfl
    rw [hdo, hjob, hout] at hexec
    exact ⟨u, hq, hk, hi, hmem, herrs, hember, hhob, haon, (jobEn_of_kept hkept).trans hjob, fun c => hcrk c.val c.isLt, gives_answer hexec rfl⟩
  · exact gives_answer (exec_resets hi) (hostReset_off s hoff)
  · obtain ⟨u, hdo, hmem, hjob, hnvm, hmode, hsel, hosc, hstage, hlock, hready, hq, hcrk, hcmd, hlast⟩ := hostReset_does s hpg htrip
    obtain ⟨hst, haon, hqs, hcr, hho⟩ := setStage_parts u 1 (by decide) (by rw [hstage]; decide)
    obtain ⟨x, hx⟩ : ∃ x, x = u.setStage 1 := ⟨_, rfl⟩
    rw [← hx] at hdo hst haon hqs hcr hho
    obtain ⟨t, hnext, ht⟩ := answer_agree s s.hostReset
    rw [hdo] at ht
    have htaon : t.aon = u.aon := ht.aon.trans haon
    refine ⟨u, t, (exec_resets hi).trans hnext, hx ▸ ht, hmem, hjob, hnvm, hmode, hsel, hosc, ?_, ?_, ?_, ?_, ?_, ?_, ?_⟩
    · rw [ht.get, State.get_setReg_off _ _ (by decide), State.get_setReg_off _ _ (by decide), hst]
    · exact clocked_of (by rw [htaon, hlock])
    · rw [htaon, hready]
    · exact (ht.queues.trans hqs).trans hq
    · exact (ht.crk.trans hcr).trans hcrk
    · exact (congrArg Hob.cmd (ht.hob.trans hho)).trans hcmd
    · intro hj; rw [htaon, hlast hj]
  · exact gives_answer (exec_hostReset hb who val) (if_neg hne)
  · exact gives_answer (u := s) (v := s.sysReset n) rfl (if_pos hn)
  · obtain ⟨t, hnext, ht, hirq⟩ := answer_irq s s.endpointReset
    have hsame : Agree t s := by
      have hagree := congrArg (fun x : State => { x with irq := s.irq, pending := s.pending }) ht.eq
      exact hagree
    exact ⟨t, hnext, hsame, by rw [hirq, settle_epResets]; rfl⟩
  · have hdo := pcieUp_eq (width := w.val) hg (by rcases hw with rfl | rfl | rfl <;> decide) hpg
    obtain ⟨hgen, hwidth, hregs⟩ := linkShown_does s (width := w.val) g.isLt (by rcases hw with rfl | rfl | rfl <;> decide)
    have hrest : (s.linkShown g.val w.val).mem = s.mem ∧ (s.linkShown g.val w.val).job = s.job ∧ (s.linkShown g.val w.val).hob = s.hob ∧ (s.linkShown g.val w.val).irq = s.irq := ⟨rfl, rfl, rfl, rfl⟩
    obtain ⟨u, hu⟩ : ∃ u, u = s.linkShown g.val w.val := ⟨_, rfl⟩
    rw [← hu] at hdo hgen hwidth hregs hrest
    obtain ⟨hmem, hjob, hhob, hirq⟩ := hrest
    obtain ⟨t, hnext, ht, htirq⟩ := answer_irq s (s.pcieUp g.val w.val)
    rw [hdo] at ht htirq
    obtain ⟨⟨l, hmsix⟩, howed⟩ := settle_msix_up (s := u.owedSent) (by change u.get F.CXL_STATUS_GEN ≠ 0; rw [hgen]; omega)
    refine ⟨t, hnext, (ht.get _).trans hgen, (ht.get _).trans hwidth, ?_, ⟨l, ?_⟩, RegsBut.agree (u := u.owedSent) (RegsBut.trans hregs (regsBut_of_regs _ rfl)) ht, ht.mem.trans hmem, ht.job.trans hjob, ht.hob.trans hhob⟩
    · rw [htirq, howed]; rfl
    · rw [htirq, hmsix, ← hirq]; rfl
  · refine gives_answer (v := s.pcieUp g.val w.val) rfl (pcieUp_none ?_)
    simpa [Fin.ext_iff] using h
  · obtain ⟨hgen, hwidth, hregs⟩ := linkShown_does s (gen := 0) (width := 0) (by decide) (by decide)
    obtain ⟨t, hnext, ht, htirq⟩ := answer_irq s (s.linkShown 0 0)
    refine ⟨t, hnext, (ht.get _).trans hgen, (ht.get _).trans hwidth, ?_, hregs.agree ht, ht.mem, ht.job, ht.hob⟩
    rw [htirq, settle_msix_down hgen]; rfl
  · refine gives_answer (v := s.cxlAdd k.val gib) rfl ?_
    rw [State.cxlAdd, if_pos (by simpa using h)]
  · refine ⟨_, rfl, gives_answer (v := s.cxlAdd k.val gib) rfl ?_⟩
    rw [State.cxlAdd, if_neg (by simp [hclk, himg]; omega)]
  · exact gives_answer (v := s.cxlDown k.val) rfl (if_pos h)
  · have hdo := cxlDown_eq h
    obtain ⟨hstate, hon, hjob, hregs, hmem, hcxl⟩ := cxlLost_does s k.val
    obtain ⟨u, hu⟩ : ∃ u, u = s.cxlLost k.val := ⟨_, rfl⟩
    rw [← hu] at hdo hstate hon hjob hregs hmem hcxl
    have hsame : u.job.ckDrain = s.job.ckDrain ∧ u.job.ckEnded = s.job.ckEnded := by rw [hjob]; split <;> exact ⟨rfl, rfl⟩
    have hkeep : s.job.ckDrain = none ∨ s.job.ckEnded = true → u.drainStuck = false := fun hq => drainStuck_of_idle (by rwa [hsame.1, hsame.2])
    obtain ⟨given, hgv⟩ : ∃ given, given = u.drainStuck := ⟨_, rfl⟩
    rw [← hgv] at hdo hkeep
    obtain ⟨dregs, dmem, dcxl, dfaulty, dsame, dgiven⟩ := drainLost_does u given
    have hdrain := hsame.1
    have hfaulty : u.job.faulty = (if s.jobEn then (15, k.val) :: s.job.faulty else s.job.faulty) := by rw [hjob]; split <;> rfl
    obtain ⟨t, hnext, ht⟩ := answer_agree s (s.cxlDown k.val)
    rw [hdo] at ht
    refine ⟨t, hnext, ?_, ?_, ?_, fun hq => ⟨?_, ?_⟩, ?_, ?_, (ht.mem.trans dmem).trans hmem, (ht.cxl.trans dcxl).trans hcxl⟩
    · rw [ht.get, dregs.get (by simp [F.CXL_P_STATUS_STATE, R.ERR_STATUS]; omega), hstate]
    · rw [ht.on, dregs.on (by decide), hon]
    · rw [ht.job, dfaulty, hfaulty]
    · rw [ht.job, dsame (hkeep hq), hdrain]
    · exact RegsBut.agree (u := u.drainLost given) (by rw [dsame (hkeep hq)]; exact hregs) ht
    · cases hgiven : given
      · left; rw [ht.job, dsame hgiven, hdrain]
      · obtain ⟨hnone, hzero⟩ := dgiven hgiven
        right; rw [ht.job, ht.get]; exact ⟨hnone, hzero⟩
    · refine RegsBut.agree ((hregs.mono fun o ho => ?_).trans (dregs.mono fun o ho => ?_)) ht
      · exact List.mem_append_left [R.ERR_STATUS] ho
      · exact List.mem_append_right [R.CXL_P_STATUS k.val, R.CXL_EVENT] ho
  · change s.answer (s.cxlRemove k.val) = s.answer (s.cxlDown k.val)
    rw [cxlRemove_of_image hclk himg h]
  · exact gives_answer (v := s.cxlRemove k.val) rfl (cxlRemove_none h)
  · obtain ⟨hdevs, hstate, hon, hranges, hregs, hmem, hjob⟩ := cxlRemove_does (k := k) hclk himg h
    obtain ⟨t, hnext, ht⟩ := answer_agree s (s.cxlRemove k.val)
    exact ⟨t, hnext, by rw [ht.cxl, hdevs], fun hds => (ht.get _).trans (hstate hds), (ht.on _).trans hon, by rw [ht.cxl, hranges], hregs.agree ht, ht.mem.trans hmem, ht.job.trans hjob⟩

end Sys2Proof.Machine
end

section
/-! PROOFS. Stops, verdicts, closes, replays, drains and rewinds (16_step_commit_replay_and_errors.md R519 to R537). -/

namespace Sys2Proof.Machine

/-! ### Stopping a job -/

/-- R537: what a stop shows, once the units are off and the workers are halted. -/
def State.stopShown (s : State) (code : Nat) : State :=
  let s1 := ((((s.set F.ERR_STOP_CODE code).raise F.ERR_EVENT_STOP).set F.ERR_STATUS_JOB 4).set F.ERR_CTRL_JOB_EN 0).set F.CFG_STATE_IMAGE 3
  { s1 with aon := { s1.aon with lastStop := code }, job := { s1.job with outcome := 0, issued := false, result := none, ckDrain := none, ckEnded := false }, flue := { s1.flue with injected := none } }.set
    F.ERR_STATUS_DRAIN 0
theorem stopNow_eq {s : State} (h : s.jobEn = true) (code : Nat) : s.stopNow code = ((s.errRecord .job 2 .hob s.master 4 code).unitsOff.workersHalt).stopShown code := by
  rw [State.stopNow, if_neg (by simp [h])]
  rfl
theorem stopNow_none {s : State} (h : s.jobEn = false) (code : Nat) : s.stopNow code = s := by
  rw [State.stopNow, if_pos (by simp [h])]
theorem stopShown_regs (s : State) (code : Nat) :
    (s.stopShown code).regs = ((((((s.set F.ERR_STOP_CODE code).raise F.ERR_EVENT_STOP).set F.ERR_STATUS_JOB 4).set F.ERR_CTRL_JOB_EN 0).set F.CFG_STATE_IMAGE 3).set F.ERR_STATUS_DRAIN 0).regs := rfl
theorem stopShown_does (s : State) (code : Nat) : (s.stopShown code).jobEn = false ∧ (s.stopShown code).get F.ERR_STATUS_JOB = 4 ∧ (s.stopShown code).get F.CFG_STATE_IMAGE = 3 ∧
    (s.stopShown code).get F.ERR_STOP_CODE = code % 2 ^ F.ERR_STOP_CODE.w ∧ (s.stopShown code).on F.ERR_EVENT_STOP = true ∧ (s.stopShown code).job.outcome = 0 ∧
    (s.stopShown code).job.result = none ∧ (s.stopShown code).aon.lastStop = code := by
  have hregs := stopShown_regs s code
  refine ⟨?_, ?_, ?_, ?_, ?_, rfl, rfl, rfl⟩
  · rw [State.jobEn, State.on_congr hregs, State.on_set_off _ _ (by decide), State.on_set_off _ _ (by decide)]
    exact State.on_set_zero _ _ (by decide)
  · rw [State.get_congr hregs, State.get_set_bits (f := F.ERR_STATUS_DRAIN) (g := F.ERR_STATUS_JOB) _ _ (by decide) (by decide), State.get_set_off _ _ (by decide), State.get_set_off _ _ (by decide)]
    exact State.get_set_lt _ _ _ (by decide) (by decide)
  · rw [State.get_congr hregs, State.get_set_off _ _ (by decide)]
    exact State.get_set_lt _ _ _ (by decide) (by decide)
  · rw [State.get_congr hregs, State.get_set_off _ _ (by decide), State.get_set_off _ _ (by decide), State.get_set_off _ _ (by decide), State.get_set_off _ _ (by decide), State.raise,
      State.get_set_off _ _ (by decide)]
    exact State.get_set_self _ _ _ (by decide)
  · rw [State.on_congr hregs, State.on_set_off _ _ (by decide), State.on_set_off _ _ (by decide), State.on_set_off _ _ (by decide), State.on_set_off _ _ (by decide)]
    exact State.on_set_one _ _ (by decide) (by decide)

/-! ### The verdict -/

theorem any_rootsOwed (s : State) : (List.range 4).any s.rootsOwed = true ↔ ∃ q < 4, s.rootsOwed q = true := by
  simp [List.any_eq_true]
theorem verdictIssue_none {s : State} (h : s.clocked = false ∨ s.jobEn = false ∨ s.job.issued = true ∨ s.job.outcome ≠ 0 ∨ s.updateEnded = false ∨ s.switchHold = true ∨ (∃ q < 4, s.rootsOwed q = true)) :
    s.verdictIssue = s := by
  rw [State.verdictIssue, if_pos]
  rw [any_rootsOwed]
  simpa using h
theorem verdictIssue_issues {s : State} (hclk : s.clocked = true) (hjob : s.jobEn = true) (hiss : s.job.issued = false) (hout : s.job.outcome = 0) (hupd : s.updateEnded = true) (hsw : s.switchHold = false)
    (hroots : ∀ q < 4, s.rootsOwed q = false) : s.verdictIssue = s.issueVerdict := by
  rw [State.verdictIssue, if_neg]
  rw [any_rootsOwed]
  simpa [hclk, hjob, hiss, hout, hupd, hsw] using hroots

/-- R520: the verdict with its result in hand: the old epoch is free, and whether the checkpoint is put off is known. -/
def State.verdictIn (s : State) (sums : List Nat) : State := { s.oldFree with job := { s.oldFree.job with ckBusy := sums.getD 4 0 != 0 } }
/-- R520: the first rule that matches the sums of a verdict. -/
def State.judged (s : State) (hw stop nf rwd ranks : Nat) : State :=
  if 0 < stop then s.stopNow (if s.job.stop = 0 then Stop.peerStop.code else s.job.stop)
  else if 0 < rwd then (s.set F.ERR_STATUS_JOB 3).decide' 4
  else if 0 < hw ∨ (0 < nf ∧ nf ≠ ranks) then
    if s.replaysSpent then s.stopNow Stop.replayExhausted.code
    else (s.set F.ERR_STATUS_JOB 2).decide' 3
  else if 0 < nf then s.decide' 2
  else s.decide' 1
theorem verdictResult_none {s : State} (h : s.clocked = false ∨ s.jobEn = false ∨ s.job.issued = false ∨ s.job.outcome ≠ 0 ∨ s.job.result = none) : s.verdictResult = s := by
  cases hr : s.job.result with
  | none => simp only [State.verdictResult, hr]
  | some r =>
    simp only [hr, reduceCtorEq, or_false] at h
    simp only [State.verdictResult, hr]
    exact if_pos (by simpa using h)
theorem verdictResult_status {s : State} {st : Nat} {sums : List Nat} (hclk : s.clocked = true) (hjob : s.jobEn = true) (hiss : s.job.issued = true) (hout : s.job.outcome = 0)
    (hr : s.job.result = some (st, sums)) (hst : st ≠ 0) : s.verdictResult = s.stopNow Stop.memberLost.code := by
  simp only [State.verdictResult, hr]
  rw [if_neg (by simp [hclk, hjob, hiss, hout]), if_pos hst]
theorem verdictResult_judges {s : State} {sums : List Nat} (hclk : s.clocked = true) (hjob : s.jobEn = true) (hiss : s.job.issued = true) (hout : s.job.outcome = 0) (hr : s.job.result = some (0, sums)) :
    s.verdictResult = (s.verdictIn sums).judged (sums.getD 0 0) (sums.getD 1 0) (sums.getD 2 0) (sums.getD 3 0) (s.get (F.COL_NRANKS_COUNT s.master)) := by
  simp only [State.verdictResult, hr]
  rw [if_neg (by simp [hclk, hjob, hiss, hout]), if_neg (by decide)]
  rfl
theorem oldFree_keeps (s : State) : s.oldFree.job = s.job ∧ RegsBut [R.FLU_EPOCH] s s.oldFree := by
  unfold State.oldFree
  split
  · exact ⟨rfl, regsBut_set s F.FLU_EPOCH_OLDFREE 1 (.head _)⟩
  · exact ⟨rfl, regsBut_refl _ _⟩
theorem verdictIn_replaysSpent (s : State) (sums : List Nat) : (s.verdictIn sums).replaysSpent = decide (max 1 (s.get F.ERR_LIMITS_REPLAYMAX) ≤ s.job.replays) := by
  obtain ⟨hjob, hregs⟩ := oldFree_keeps s
  have hlimit : (s.verdictIn sums).get F.ERR_LIMITS_REPLAYMAX = s.get F.ERR_LIMITS_REPLAYMAX := (State.get_congr rfl _).trans (hregs.get (by decide))
  have hreplays : (s.verdictIn sums).job.replays = s.job.replays := (congrArg Job.replays hjob : s.oldFree.job.replays = s.job.replays)
  rw [State.replaysSpent, hlimit, hreplays]
theorem verdictIn_stop (s : State) (sums : List Nat) : (s.verdictIn sums).job.stop = s.job.stop := (congrArg Job.stop (oldFree_keeps s).1 : s.oldFree.job.stop = s.job.stop)

theorem verdictTimeout_eq {s : State} (hclk : s.clocked = true) (hjob : s.jobEn = true) (hiss : s.job.issued = true) (hout : s.job.outcome = 0) (hr : s.job.result = none) :
    s.verdictTimeout = s.stopNow Stop.memberLost.code := by
  rw [State.verdictTimeout, if_pos (by simp [hclk, hjob, hiss, hout, hr])]
theorem verdictTimeout_none {s : State} (h : s.clocked = false ∨ s.jobEn = false ∨ s.job.issued = false ∨ s.job.outcome ≠ 0 ∨ s.job.result ≠ none) : s.verdictTimeout = s := by
  rw [State.verdictTimeout, if_neg]
  simp only [Bool.and_eq_true, Option.isNone_iff_eq_none, beq_iff_eq]
  rintro ⟨⟨⟨⟨h1, h2⟩, h3⟩, h4⟩, h5⟩
  simp [h1, h2, h3, h4, h5] at h
theorem stepWatchdog_eq {s : State} (hclk : s.clocked = true) (hjob : s.jobEn = true) (hwd : s.on F.ERR_CTRL_WD_EN = true) (hiss : s.job.issued = false) (hout : s.job.outcome = 0) :
    s.stepWatchdog = ((s.abortEverything.errRecord .job 1 .hob s.master 5 0).raise F.ERR_EVENT_WATCHDOG).veto.issueVerdict := by
  rw [State.stepWatchdog, if_neg (by simp [hclk, hjob, hwd, hiss, hout])]
theorem stepWatchdog_none {s : State} (h : s.clocked = false ∨ s.jobEn = false ∨ s.on F.ERR_CTRL_WD_EN = false ∨ s.job.issued = true ∨ s.job.outcome ≠ 0) : s.stepWatchdog = s := by
  rw [State.stepWatchdog, if_pos (by simpa using h)]

/-! ### The close of a step -/

theorem stepClose_none {s : State} (h : s.clocked = false ∨ s.jobEn = false ∨ (s.job.outcome ≠ 1 ∧ s.job.outcome ≠ 2)) : s.stepClose = s := by
  rw [State.stepClose, if_pos (by simpa using h)]
/-- R524: the half, the generators and the journal's step of a close, by the kind of the close and its entries. -/
def State.closeJournal (s : State) (kind : Nat) (es : List (Nat × Nat × Nat)) : State :=
  ((s.hobWrite (s.halfAddr (s.job.step % 2) + 16) (es.flatMap entryBytes)).hobWrite (s.halfAddr (s.job.step % 2)) (halfHeader s.job.step kind es.length)).saveGens.journalStep (s.job.step + 1)
/-- R524: the granule of a close, its entries and the close of every bellows, with their histories. -/
def State.closeCommit (s : State) (n kind : Nat) (es : List (Nat × Nat × Nat)) (ok : Bool) : State :=
  (((s.hobWrite s.cbase (granule n kind (n % 2) es.length)).each es State.applyEntry).each (List.range 4) fun t q => t.blwClose q n ok).pushHistories
/-- R525: what a skip counts and records. -/
def State.closeSkip (s : State) : State :=
  ((s.count F.ERR_SKIPS_VALUE 1).raise F.ERR_EVENT_SKIP).errRecord .job 1 .hob s.master 1 (s.get (F.COL_VETO_RANK s.master) + 2 ^ 16 * s.get (F.COL_VETOLAYER_LAYER s.master))
/-- R524: the state goes on to the step after n. -/
def State.closeGoesOn (s : State) (n : Nat) : State :=
  ((((((s.checkpointClose.setPair R.ERR_STEP_LO n).set F.ERR_STATUS_JOB 1).nextRun (n + 1) 0 []).stepStart (n + 1)).saveIndexes.softRepairs.retrainPlanned.portsAtBoundary).signalStepStart)
/-- R524: the close of a step of one kind. -/
def State.closeAs (s : State) (ok : Bool) : State :=
  let kind := if ok then 1 else 2
  let es := if ok then s.job.entries else []
  let t := (s.closeJournal kind es).closeCommit s.job.step kind es ok
  (if ok then t.noteCommit s.job.step else t.closeSkip).closeGoesOn s.job.step
theorem stepClose_eq {s : State} (hclk : s.clocked = true) (hjob : s.jobEn = true) (hout : s.job.outcome = 1 ∨ s.job.outcome = 2) : s.stepClose = s.closeAs (s.job.outcome == 1) := by
  rw [State.stepClose, if_neg (by rcases hout with h | h <;> simp [hclk, hjob, h])]
  dsimp only [State.closeAs, State.closeGoesOn, State.closeSkip, State.closeCommit, State.closeJournal]
theorem stepClose_commits {s : State} (hclk : s.clocked = true) (hjob : s.jobEn = true) (hout : s.job.outcome = 1) :
    s.stepClose = ((((s.closeJournal 1 s.job.entries).closeCommit s.job.step 1 s.job.entries true)).noteCommit s.job.step).closeGoesOn s.job.step := by
  rw [stepClose_eq hclk hjob (.inl hout), hout]
  rfl
theorem stepClose_skips {s : State} (hclk : s.clocked = true) (hjob : s.jobEn = true) (hout : s.job.outcome = 2) :
    s.stepClose = (((s.closeJournal 2 []).closeCommit s.job.step 2 [] false).closeSkip).closeGoesOn s.job.step := by
  rw [stepClose_eq hclk hjob (.inr hout), hout, show ((2 : Nat) == 1) = false from rfl]
  simp only [State.closeAs, Bool.false_eq_true, if_false]

/-! ### Replays and rewinds -/

theorem replayStep_none {s : State} (h : s.clocked = false ∨ s.jobEn = false ∨ s.job.outcome ≠ 3) : s.replayStep = s := by
  rw [State.replayStep, if_neg]
  simp only [Bool.and_eq_true, beq_iff_eq]
  rintro ⟨⟨h1, h2⟩, h3⟩
  simp [h1, h2, h3] at h
theorem replayStep_eq {s : State} (hclk : s.clocked = true) (hjob : s.jobEn = true) (hout : s.job.outcome = 3) :
    s.replayStep = if s.noteReplay.replayUnits.job.stop ≠ 0 then s.noteReplay.replayUnits.stopNow s.noteReplay.replayUnits.job.stop
      else (s.noteReplay.replayUnits.nextRun s.noteReplay.replayUnits.job.step (s.noteReplay.replayUnits.job.replays + 1) s.noteReplay.replayUnits.job.faulty).restoreStep := by
  rw [State.replayStep, if_pos (by simp [hclk, hjob, hout])]
theorem rewindStep_none {s : State} (h : s.clocked = false ∨ s.jobEn = false ∨ s.job.outcome ≠ 4) : s.rewindStep = s := by
  rw [State.rewindStep, if_pos (by simpa using h)]
/-- R533: the units are reset, the interleave is reduced, and the confirmed checkpoint is to be read. -/
def State.rewindReady (s : State) : State := ((s.raise F.ERR_EVENT_REWIND).errRecord .job 3 .hob s.master 3 0).unitsReset.reduceInterleave
/-- R533: the confirmed checkpoint is restored, or the job stops. -/
def State.rewound (s : State) : State :=
  if !s.on F.ERR_STATUS_CONF_VALID then s.stopNow Stop.checkpointBad.code
  else
    match s.slotRead (s.get F.ERR_STATUS_CONF_SLOT) with
    | (none, t) => t.stopNow Stop.checkpointBad.code
    | (some (n, regs, body), t) => (((t.slotRestore regs body).resumeAt n).set F.ERR_STATUS_JOB 1).mailStep
theorem rewindStep_eq {s : State} (hclk : s.clocked = true) (hjob : s.jobEn = true) (hout : s.job.outcome = 4) : s.rewindStep = s.rewindReady.rewound := by
  rw [State.rewindStep, if_neg (by simp [hclk, hjob, hout])]
  rfl
theorem rewound_none {s : State} (h : s.on F.ERR_STATUS_CONF_VALID = false) : s.rewound = s.stopNow Stop.checkpointBad.code := by
  rw [State.rewound, if_pos (by simp [h])]
theorem rewound_bad {s t : State} (h : s.on F.ERR_STATUS_CONF_VALID = true) (hr : s.slotRead (s.get F.ERR_STATUS_CONF_SLOT) = (none, t)) : s.rewound = t.stopNow Stop.checkpointBad.code := by
  rw [State.rewound, if_neg (by simp [h]), hr]
theorem rewound_good {s t : State} {n : Nat} {regs : List (Nat × Nat)} {body : List Byte} (h : s.on F.ERR_STATUS_CONF_VALID = true)
    (hr : s.slotRead (s.get F.ERR_STATUS_CONF_SLOT) = (some (n, regs, body), t)) : s.rewound = (((t.slotRestore regs body).resumeAt n).set F.ERR_STATUS_JOB 1).mailStep := by
  rw [State.rewound, if_neg (by simp [h]), hr]

/-! ### The drain of a checkpoint -/

theorem drainDone_none {s : State} (h : s.clocked = false ∨ s.job.ckDrain = none ∨ s.job.ckEnded = true) : s.drainDone = s := by
  cases hd : s.job.ckDrain with
  | none => simp only [State.drainDone, hd]
  | some n =>
    simp only [hd, reduceCtorEq, false_or] at h
    simp only [State.drainDone, hd]
    exact if_pos (by simpa using h)
theorem drainDone_eq {s : State} {n : Nat} (hclk : s.clocked = true) (hd : s.job.ckDrain = some n) (hend : s.job.ckEnded = false) : s.drainDone = s.drainAt n := by
  simp only [State.drainDone, hd]
  exact if_neg (by simp [hclk, hend])
/-- R532: the body, the regions and the header of a drain go to slot base b, if the far memory there is up. -/
def State.drainTo (s : State) (n b len : Nat) (body : List Byte) : State :=
  if s.farOk b (4096 + len) then
    (((s.hobWrite (b + 4096) body).hobWrite (b + 64) ((s.slotHeader n s.job.ckRegs body).drop 64)).hobWrite b ((s.slotHeader n s.job.ckRegs body).take 64)).endDrain
  else s.dropDrain
theorem drainAt_eq {s x : State} {body : List Byte} (n : Nat) (hr : s.hobRead (s.pair R.ERR_CKSTAGE_LO) s.drainLen = (body, x)) :
    s.drainAt n = (x.set F.ERR_STATUS_DRAIN 0).drainTo n (x.slotBase s.drainSlot) s.drainLen body := by
  rw [State.drainAt, hr]
  rfl

/-- Settles O60, by one equation for each end of a step and each answer of the verdict. -/
theorem stepsEnd : Obligations.StepsEnd := by
  unfold Obligations.StepsEnd
  intro s
  refine ⟨fun code hjob => ?_, fun code hjob => stopNow_none hjob code, fun h i hi => ?_, fun hclk hjob => ?_, fun h => gives_same (f := fun t => t.drainDone) rfl (drainDone_none h), ?_⟩
  · rw [stopNow_eq hjob]
    exact stopShown_does _ code
  · simp only [List.mem_cons, List.not_mem_nil, or_false] at hi
    have hoff {P : Prop} : s.clocked = false ∨ s.jobEn = false ∨ P := h.elim .inl fun hj => .inr (.inl hj)
    rcases hi with rfl | rfl | rfl | rfl | rfl | rfl | rfl
    · exact gives_same (f := fun t => t.verdictIssue) rfl (verdictIssue_none hoff)
    · exact gives_same (f := fun t => t.verdictResult) rfl (verdictResult_none hoff)
    · exact gives_same (f := fun t => t.verdictTimeout) rfl (verdictTimeout_none hoff)
    · exact gives_same (f := fun t => t.stepWatchdog) rfl (stepWatchdog_none hoff)
    · exact gives_same (f := fun t => t.stepClose) rfl (stepClose_none hoff)
    · exact gives_same (f := fun t => t.replayStep) rfl (replayStep_none hoff)
    · exact gives_same (f := fun t => t.rewindStep) rfl (rewindStep_none hoff)
  · refine ⟨fun h => ?_, fun hiss hout hupd hsw hroots => ?_, fun h => ?_, fun hiss hout => ⟨fun st sums hr hst => ?_, fun sums hw stop nf rwd busy hr hhw hstop hnf hrwd hbusy u hu => ?_, fun hr => ?_⟩,
      fun h => ?_, fun h => ?_, fun hwd hiss hout => ?_, fun h => ?_, ?_, ?_, fun h => ?_, fun u hu hout => ⟨fun hstop => ?_, fun hstop => ?_⟩, fun h => ?_,
      fun u v hu hv hout => ⟨fun hval => ?_, fun hval => ⟨fun x hx => ?_, fun n regs body x hx => ?_⟩⟩⟩
    · exact gives_same (f := fun t => t.verdictIssue) rfl (verdictIssue_none (.inr (.inr h)))
    · exact gives_ticked (f := fun t => t.verdictIssue) rfl hclk (verdictIssue_issues hclk hjob hiss hout hupd hsw hroots)
    · exact gives_same (f := fun t => t.verdictResult) rfl (verdictResult_none (.inr (.inr h)))
    · exact gives_ticked (f := fun t => t.verdictResult) rfl hclk (verdictResult_status hclk hjob hiss hout hr hst)
    · have hdo := verdictResult_judges hclk hjob hiss hout hr
      have hspent := verdictIn_replaysSpent s sums
      have hstopCode := verdictIn_stop s sums
      have hin : s.verdictIn sums = u := by rw [hu, hbusy]; rfl
      rw [hin] at hdo hspent hstopCode
      rw [← hhw, ← hstop, ← hnf, ← hrwd] at hdo
      have hgives {w : State} (h : u.judged hw stop nf rwd (s.get (F.COL_NRANKS_COUNT s.master)) = w) : Gives .verdictResult s w :=
        gives_ticked (f := fun t => t.verdictResult) rfl hclk (hdo.trans h)
      refine ⟨fun h => hgives ?_, fun h0 hrw => hgives ?_, fun h0 h1 hbad => ⟨fun hmax => hgives ?_, fun hmax => hgives ?_⟩, fun h0 h1 h2 hpos hall => hgives ?_, fun h0 h1 h2 h3 => hgives ?_⟩
      · rw [State.judged, if_pos h, hstopCode]
      · rw [State.judged, if_neg (by omega), if_pos hrw]
      · rw [State.judged, if_neg (by omega), if_neg (by omega), if_pos hbad, hspent, if_pos (by simpa using hmax)]
      · rw [State.judged, if_neg (by omega), if_neg (by omega), if_pos hbad, hspent, if_neg (by simp; omega)]
      · rw [State.judged, if_neg (by omega), if_neg (by omega), if_neg (by omega), if_pos hpos]
      · rw [State.judged, if_neg (by omega), if_neg (by omega), if_neg (by omega), if_neg (by omega)]
    · exact gives_ticked (f := fun t => t.verdictTimeout) rfl hclk (verdictTimeout_eq hclk hjob hiss hout hr)
    · exact gives_same (f := fun t => t.verdictTimeout) rfl (verdictTimeout_none (.inr (.inr h)))
    · exact gives_same (f := fun t => t.stepWatchdog) rfl (stepWatchdog_none (.inr (.inr h)))
    · exact gives_ticked (f := fun t => t.stepWatchdog) rfl hclk (stepWatchdog_eq hclk hjob hwd hiss hout)
    · exact gives_same (f := fun t => t.stepClose) rfl (stepClose_none (.inr (.inr h)))
    · intro n es u v w hn hes hu hv hw
      refine ⟨by rw [hw]; rfl, by rw [hw]; rfl, by rw [hw]; rfl, by rw [hw]; rfl, by rw [hw]; rfl, fun hout => ?_⟩
      have hdo := stepClose_commits hclk hjob hout
      have hjournal : s.closeJournal 1 es = u := by rw [hu, hn]; rfl
      have hcommit : (u.closeCommit n 1 es true).noteCommit n = (((((u.hobWrite u.cbase (granule n 1 (n % 2) es.length)).each es State.applyEntry).each (List.range 4) fun t q => t.blwClose q n true).pushHistories).noteCommit n) := rfl
      rw [← hn, ← hes, hjournal, hcommit, State.closeGoesOn, ← hv, ← hw] at hdo
      exact gives_ticked (f := fun t => t.stepClose) rfl hclk hdo
    · intro n u v x w hn hu hv hx hw hout
      have hdo := stepClose_skips hclk hjob hout
      have hjournal : s.closeJournal 2 [] = u := by rw [hu, hn]; rfl
      have hcommit : u.closeCommit n 2 [] false = v := by rw [hv]; rfl
      have hskip : v.closeSkip = x := by rw [hx]; rfl
      rw [← hn, hjournal, hcommit, hskip, State.closeGoesOn, ← hw] at hdo
      exact gives_ticked (f := fun t => t.stepClose) rfl hclk hdo
    · exact gives_same (f := fun t => t.replayStep) rfl (replayStep_none (.inr (.inr h)))
    · have hdo := replayStep_eq hclk hjob hout
      have hu' : s.noteReplay.replayUnits = u := hu.symm
      rw [hu', if_neg (by simp [hstop])] at hdo
      exact gives_ticked (f := fun t => t.replayStep) rfl hclk hdo
    · have hdo := replayStep_eq hclk hjob hout
      have hu' : s.noteReplay.replayUnits = u := hu.symm
      rw [hu', if_pos hstop] at hdo
      exact gives_ticked (f := fun t => t.replayStep) rfl hclk hdo
    · exact gives_same (f := fun t => t.rewindStep) rfl (rewindStep_none (.inr (.inr h)))
    all_goals
      have hready : s.rewindReady = v := by rw [hv, hu]; rfl
      have hdo := rewindStep_eq hclk hjob hout
      rw [hready] at hdo
    · exact gives_ticked (f := fun t => t.rewindStep) rfl hclk (hdo.trans (rewound_none hval))
    · exact gives_ticked (f := fun t => t.rewindStep) rfl hclk (hdo.trans (rewound_bad hval hx))
    · exact gives_ticked (f := fun t => t.rewindStep) rfl hclk (hdo.trans (rewound_good hval hx))
  · intro n len body x y hclk hdrain hend hlen hr hy slot b h hslot hb hh
    have hdo := (drainDone_eq hclk hdrain hend).trans (drainAt_eq n (hlen ▸ hr))
    rw [← hy, ← hslot, ← hb, ← hlen, State.drainTo, ← hh] at hdo
    refine ⟨fun hok z hz => ?_, fun hok => ?_⟩
    · rw [if_pos hok, ← hz] at hdo
      exact gives_ticked (f := fun t => t.drainDone) rfl hclk hdo
    · rw [if_neg (by simp [hok])] at hdo
      exact gives_ticked (f := fun t => t.drainDone) rfl hclk hdo

end Sys2Proof.Machine
end

section
/-! PROOFS. A wave inside a tile (03_hearth_matrix_engines.md R81, R87, R90; 04_backward_pass_and_damper.md R133, R143). -/

namespace Sys2Proof.Machine

/-! ### Reads of the side tile -/

theorem step_readSide_codes (x : MM) (s : State) (e : List Byte) (t : Nat) : MemStep s (x.readSide s e t).1.st := by
  rw [MM.readSide]
  dsimp only
  split <;> exact MemStep.fold Load.st _ _ _ _ (MemStep.rfl' s) fun c i => step_read c.st _ _
theorem step_readSide (x : MM) (s : State) (e : List Byte) (t : Nat) : MemStep s (x.readSide s e t).2.st := by
  have hcodes := step_readSide_codes x s e t
  rw [MM.readSide] at hcodes ⊢
  dsimp only at hcodes ⊢
  split
  · rw [if_pos ‹_›] at hcodes
    exact hcodes
  · rw [if_neg ‹_›] at hcodes
    exact MemStep.fold Load.st _ _ _ _ hcodes fun c i => step_read c.st _ _
theorem step_loadSide (x : MM) (s : State) (e : List Byte) (t wave : Nat) (b : SideBank) : MemStep s (x.loadSide s e t wave b).st := by
  unfold MM.loadSide
  split
  · exact step_readSide x s e t
  · exact MemStep.rfl' s

/-! ### Pairs -/

theorem pair_setPair (s : State) (lo v : Nat) : (s.setPair lo v).pair lo = v % 2 ^ 64 := by
  have hlo : (s.setPair lo v).reg lo = BitVec.ofNat 32 v := (State.reg_setReg_ne _ _ (by omega)).trans (State.reg_setReg_self _ _ _)
  have hhi : (s.setPair lo v).reg (lo + 4) = BitVec.ofNat 32 (v / 2 ^ 32) := State.reg_setReg_self _ _ _
  rw [State.pair, hlo, hhi, BitVec.toNat_ofNat, BitVec.toNat_ofNat]
  omega
theorem regsBut_setPair {L : List Nat} (s : State) {lo : Nat} (v : Nat) (hlo : lo ∈ L) (hhi : lo + 4 ∈ L) : RegsBut L s (s.setPair lo v) :=
  (regsBut_setReg s _ hlo).trans (regsBut_setReg _ _ hhi)
theorem pair_congr {s t : State} {lo : Nat} (hlo : t.reg lo = s.reg lo) (hhi : t.reg (lo + 4) = s.reg (lo + 4)) : t.pair lo = s.pair lo := by
  rw [State.pair, State.pair, hlo, hhi]
theorem pair_congr_regs {s t : State} (h : t.regs = s.regs) (lo : Nat) : t.pair lo = s.pair lo := pair_congr (State.reg_congr h _) (State.reg_congr h _)

/-! ### What an issued wave leaves -/

theorem waveIssued_does (s : State) (p slack : Nat) (pad : Bool) (hslack : slack < 256) :
    (s.waveIssued p slack pad).pair (R.HRT_WAVES_LO p) = (s.pair (R.HRT_WAVES_LO p) + 1) % 2 ^ 64 ∧ (s.waveIssued p slack pad).get (F.HRT_PACE_NOW p) = slack ∧
    (s.waveIssued p slack pad).get (F.HRT_PACE_MIN p) = min (s.get (F.HRT_PACE_MIN p)) slack ∧
    (s.waveIssued p slack pad).hearth p = { s.hearth p with pmLeast := min (s.hearth p).pmLeast slack, pmRan := true } ∧
    RegsBut [R.HRT_PACE p, R.HRT_WAVES_LO p, R.HRT_WAVES_HI p] s (s.waveIssued p slack pad) ∧ (s.waveIssued p slack pad).queues = s.queues ∧ (s.waveIssued p slack pad).mem = s.mem := by
  obtain ⟨u, hu⟩ : ∃ u, u = s.noteSlack p slack := ⟨_, rfl⟩
  have huregs : u.regs = ((s.set (F.HRT_PACE_NOW p) slack).set (F.HRT_PACE_MIN p) (min (s.get (F.HRT_PACE_MIN p)) slack)).regs := by rw [hu]; rfl
  have hpace : RegsBut [R.HRT_PACE p] s u :=
    ((regsBut_set s (F.HRT_PACE_NOW p) slack (.head _)).trans (regsBut_set _ (F.HRT_PACE_MIN p) _ (.head _))).trans (regsBut_of_regs _ huregs)
  have hnow : u.get (F.HRT_PACE_NOW p) = slack := by
    rw [State.get_congr huregs, State.get_set_bits (f := F.HRT_PACE_MIN p) (g := F.HRT_PACE_NOW p) _ _ (by simp [F.HRT_PACE_NOW]) (by simp [F.HRT_PACE_NOW, F.HRT_PACE_MIN])]
    exact State.get_set_lt _ _ _ (by simp [F.HRT_PACE_NOW]) (by simpa [F.HRT_PACE_NOW] using hslack)
  have hmin : u.get (F.HRT_PACE_MIN p) = min (s.get (F.HRT_PACE_MIN p)) slack := by
    rw [State.get_congr huregs]
    exact State.get_set_lt _ _ _ (by simp [F.HRT_PACE_MIN]) (Nat.lt_of_le_of_lt (Nat.min_le_right _ _) (by simpa [F.HRT_PACE_MIN] using hslack))
  have hhearth : u.hearth p = { s.hearth p with pmLeast := min (s.hearth p).pmLeast slack, pmRan := true } := by
    rw [hu, State.noteSlack, hearth_mod]; rfl
  have hpair : u.pair (R.HRT_WAVES_LO p) = s.pair (R.HRT_WAVES_LO p) :=
    pair_congr (hpace _ (by simp [R.HRT_WAVES_LO, R.HRT_PACE])) (hpace _ (by simp [R.HRT_WAVES_LO, R.HRT_PACE]; omega))
  have hurest : u.queues = s.queues ∧ u.mem = s.mem := by rw [hu]; exact ⟨rfl, rfl⟩
  obtain ⟨huq, humem⟩ := hurest
  obtain ⟨n, hn⟩ : ∃ n, n = (u.pair (R.HRT_WAVES_LO p) + 1) % 2 ^ 64 := ⟨_, rfl⟩
  obtain ⟨v, hv⟩ : ∃ v, v = u.setPair (R.HRT_WAVES_LO p) n := ⟨_, rfl⟩
  have hissued : ∃ w, s.waveIssued p slack pad = { v with padWaves := w } := by
    rw [State.waveIssued, ← hu, State.countWave, ← hn, ← hv]
    cases (pad && v.on F.FFY_CTRL_EN)
    · exact ⟨v.padWaves, rfl⟩
    · exact ⟨v.padWaves + 1, rfl⟩
  obtain ⟨w, hw⟩ := hissued
  have hcount : RegsBut [R.HRT_WAVES_LO p, R.HRT_WAVES_HI p] u v := by rw [hv]; exact regsBut_setPair u n (.head _) (by simp [R.HRT_WAVES_LO, R.HRT_WAVES_HI]; omega)
  have hvrest : v.queues = u.queues ∧ v.mem = u.mem ∧ v.hrt = u.hrt := by rw [hv]; exact ⟨rfl, rfl, rfl⟩
  obtain ⟨hvq, hvmem, hvhrt⟩ := hvrest
  rw [hw]
  refine ⟨?_, ?_, ?_, ?_, ?_, hvq.trans huq, hvmem.trans humem⟩
  · refine (pair_congr_regs (s := v) rfl _).trans ?_
    rw [hv, pair_setPair, hn, Nat.mod_mod, hpair]
  · rw [← hnow]
    exact hcount.get (by simp [F.HRT_PACE_NOW, R.HRT_WAVES_LO, R.HRT_WAVES_HI])
  · rw [← hmin]
    exact hcount.get (by simp [F.HRT_PACE_MIN, R.HRT_WAVES_LO, R.HRT_WAVES_HI])
  · rw [← hhearth]
    exact hearth_hrt hvhrt p
  · refine RegsBut.trans (hpace.mono fun o ho => ?_) (RegsBut.trans (hcount.mono fun o ho => .tail _ ho) (regsBut_of_regs _ rfl))
    exact List.mem_append_left [R.HRT_WAVES_LO p, R.HRT_WAVES_HI p] ho

/-! ### A wave of the command in progress -/

theorem startNext_of_tiles {s : State} {p : Nat} {r : HRun} (hrun : (s.hearth p).run = some r) (htile : r.tile < (mmOf r.cmd.bytes).tiles) : s.startNext p = s := by
  simp only [State.startNext, hrun]
  exact if_pos (by simp [htile])
theorem tile_lt_of_not_withheld {h : Hearth} {r : HRun} {x : MM} (hw : h.withheld r x = false) : r.tile < x.tiles := by
  simp only [Hearth.withheld, Bool.or_eq_false_iff, decide_eq_false_iff_not] at hw
  omega
theorem waveOf_of_run {s : State} {p : Nat} {r : HRun} (hrun : (s.hearth p).run = some r) (hw : (s.hearth p).withheld r (mmOf r.cmd.bytes) = false) (slack : Nat) :
    s.waveOf p slack = s.issueWave p slack := by
  rw [State.waveOf, if_neg (by simp [hrun]), State.startMatmul]
  rw [if_pos (by simp [hrun]), startNext_of_tiles hrun (tile_lt_of_not_withheld hw)]
/-- R81, R143: the run that an issued wave leaves, and the taps that join the buffer. -/
def Hearth.waved (r : HRun) (taps : List (Nat × List Byte)) (h : Hearth) : Hearth := { h with run := some r, tapBuf := h.tapBuf ++ taps }
theorem issueWave_eq {s : State} {p : Nat} {r : HRun} {x : MM} {k pass : Nat} {bk : Banks} {sd : SideLoad} (hrun : (s.hearth p).run = some r) (hx : x = mmOf r.cmd.bytes)
    (hw : (s.hearth p).withheld r x = false) (hstall : (s.hearth p).tapStalled = false) (hk : k = r.wave / x.cls.passes) (hpass : pass = r.wave % x.cls.passes)
    (hbk : bk = x.loadBanks s r.tile k pass r.bankA r.bankB) (hbad : bk.bad = none) (hsd : sd = x.loadSide bk.st r.cmd.side r.tile r.wave (r.sideBank r.tile)) (hsbad : sd.bad = none)
    (hlast : r.wave + 1 < x.waves) (slack : Nat) :
    s.issueWave p slack = (sd.st.waveIssued p slack x.pad).modHearth p
      (Hearth.waved { r.putSide r.tile sd.bank with wave := r.wave + 1, lanes := x.waveLanes r.tile k pass 0 bk.a.now bk.b.now r.lanes, bankA := bk.a, bankB := bk.b } (r.tapsOf x k bk.a.now bk.b.now)) := by
  have hfirst : firstBad bk.bad sd.bad = none := by rw [hbad, hsbad]; rfl
  simp only [State.issueWave, hrun, ← hx]
  rw [if_neg (by simp [hw]), if_neg (by simp [hstall]), ← hk, ← hpass, ← hbk, ← hsd]
  simp only [hfirst]
  exact if_neg (Nat.ne_of_lt hlast)

/-- Settles O27, by the equation of a wave that is not the last of its tile. -/
theorem waveAccumulates : Obligations.WaveAccumulates := by
  unfold Obligations.WaveAccumulates
  intro p slack r s hclk hrun x k pass bk sd hx hw hstall hk hpass hbk hbad hsd hsbad hlast
  have hdo := (waveOf_of_run hrun (hx ▸ hw) slack.toNat).trans (issueWave_eq hrun hx hw hstall hk hpass hbk hbad hsd hsbad hlast slack.toNat)
  have hmem : MemStep s sd.st := by
    rw [hsd]
    refine MemStep.trans ?_ (step_loadSide _ _ _ _ _ _)
    rw [hbk]
    exact step_loadBanks _ _ _ _ _ _ _
  obtain ⟨r1, hr1⟩ : ∃ r1, r1 = { r.putSide r.tile sd.bank with wave := r.wave + 1, lanes := x.waveLanes r.tile k pass 0 bk.a.now bk.b.now r.lanes, bankA := bk.a, bankB := bk.b } := ⟨_, rfl⟩
  obtain ⟨taps, htaps⟩ : ∃ taps, taps = r.tapsOf x k bk.a.now bk.b.now := ⟨_, rfl⟩
  rw [← hr1, ← htaps] at hdo ⊢
  obtain ⟨hpair, hnow, hmin, hhearth, hregs, hq, hm⟩ := waveIssued_does sd.st p.val slack.toNat x.pad slack.isLt
  obtain ⟨u, hu⟩ : ∃ u, u = sd.st.waveIssued p.val slack.toNat x.pad := ⟨_, rfl⟩
  rw [← hu] at hdo hpair hnow hmin hhearth hregs hq hm
  rw [hearth_hrt hmem.hrt] at hhearth
  obtain ⟨t, hnext, ht⟩ := answer_agree s (s.waveOf p.val slack.toNat)
  rw [hdo] at ht
  have hth : t.hearth p.val = (u.hearth p.val).waved r1 taps := (hearth_hrt ht.hrt _).trans (hearth_mod u p.val _)
  have htregs : t.regs = u.regs := ht.regs
  have hwaves : memReg (R.HRT_WAVES_LO p.val) = false ∧ memReg (R.HRT_WAVES_LO p.val + 4) = false := by
    simp [memReg, R.HRT_WAVES_LO]; omega
  have hpace : memReg (F.HRT_PACE_MIN p.val).off = false := by simp [memReg, F.HRT_PACE_MIN]; omega
  refine ⟨t, ?_, ?_, ?_, ?_, ?_, ?_, ?_, ht.queues.trans (hq.trans hmem.queues), ht.mem.trans hm, fun o ho hno => ?_⟩
  · rw [← hnext]; exact ticked_on s (fun t => t.waveOf p.val slack.toNat) hclk
  · rw [hth]; rfl
  · rw [hth, hhearth]; rfl
  · rw [pair_congr_regs htregs, hpair, pair_congr (hmem.2.1 _ hwaves.1) (hmem.2.1 _ hwaves.2)]
  · rw [State.get_congr htregs, hnow]
  · rw [State.get_congr htregs, hmin, memstep_get hmem hpace]
  · rw [hth, hhearth]; rfl
  · rw [State.reg_congr htregs, hregs o hno, hmem.2.1 o ho]

end Sys2Proof.Machine
end

section
/-! PROOFS. The drain of a tile, its re-runs and its watch (03_hearth_matrix_engines.md R108 to R112, 05_training_numerics.md R160 to R164). -/

namespace Sys2Proof.Machine

/-! ### The command at the drain -/

theorem old_modOld (h : Hearth) (f : HRun → HRun) : (h.modOld f).old = h.old.map f := by
  unfold Hearth.modOld Hearth.old
  cases hp : h.prev <;> simp
theorem hearth_modOld (s : State) (p : Nat) (f : HRun → HRun) : ((s.modOld p f).hearth p).old = (s.hearth p).old.map f := by
  rw [State.modOld, hearth_mod, old_modOld]
theorem countAttempt_old {s : State} {p : Nat} {r : HRun} (h : (s.hearth p).old = some r) (pol n : Nat) :
    ((s.countAttempt p pol n).hearth p).old = some { r with attempts := r.attempts + 1, maxAtt := max r.maxAtt n } := by
  rw [State.countAttempt, hearth_modOld]
  have hkeep : (((s.raise (F.HRT_EVENT_RECOMPUTE p)).count (F.HRT_RECOMP_VALUE p) 1).count (F.NUM_PST_CNT_RECOMP pol) 1).hearth p = s.hearth p := rfl
  rw [hkeep, h]
  rfl

/-- R161: whether an element can be computed again. -/
def checkable (v : FV) : Bool := v.isFin && fmt32.holds v
/-- R161, R163: what a recheck leaves of a watch: its lanes computed again, or the mark of a tile that is not checked. -/
def Watch.rechecked (w : Watch) (notChecked : Bool) (lanes : Sparse Lane) : Watch := { w with ran := true, notChecked := notChecked, lanes := if notChecked then [] else lanes }

/-! ### Drains -/

section
variable {s : State} {p : Nat} {r : HRun} (hold : (s.hearth p).old = some r)
include hold

theorem tileDrain_eq {ft : FinTile} (hfin : r.fin = some ft) (hneed : ft.need = 0) : s.tileDrain p = s.drainPass p r ft := by
  simp only [State.tileDrain, hold, hfin]
  exact if_pos hneed
theorem reDrain_eq {ft : FinTile} (hfin : r.fin = some ft) (hneed : ft.need = 1) :
    s.reDrain p = (s.countAttempt p (mmOf r.cmd.bytes).policy (ft.attempt + 1)).drainPass p
      { r with attempts := r.attempts + 1, maxAtt := max r.maxAtt (ft.attempt + 1) } { ft with attempt := ft.attempt + 1, need := 0 } := by
  have hcount := countAttempt_old hold (mmOf r.cmd.bytes).policy (ft.attempt + 1)
  obtain ⟨u, hu⟩ : ∃ u, u = s.countAttempt p (mmOf r.cmd.bytes).policy (ft.attempt + 1) := ⟨_, rfl⟩
  rw [← hu] at hcount
  simp only [State.reDrain, hold, hfin, ← hu, hcount]
  exact if_pos hneed
theorem reRun_eq {ft : FinTile} {x : MM} {u : Rerun} (hfin : r.fin = some ft) (hneed : ft.need = 2) (hx : x = mmOf r.cmd.bytes)
    (hu : u = State.rerunWaves p x ft.idx ((ft.attempt + 1) * polStep r.cmd.policy) x.waves 0 ⟨r.bankA, r.bankB, [], none, s.countAttempt p x.policy (ft.attempt + 1)⟩) (hbad : u.bad = none) :
    s.reRun p = u.st.modOld p fun q =>
      { q with bankA := u.a, bankB := u.b, fin := some { ft with attempt := ft.attempt + 1, shift := (ft.attempt + 1) * polStep r.cmd.policy, lanes := u.lanes, marked := lanesMarked u.lanes, need := 0 } } := by
  simp only [State.reRun, hold, hfin, ← hx, ← hu, hbad]
  exact if_pos hneed

/-! ### The watch -/

theorem watchRecheck_eq {w : Watch} {x : MM} {rs cs : List (List FV)} {u v z : State} (hwatch : r.watch = some w) (hran : w.ran = false) (hx : x = mmOf r.cmd.bytes)
    (ha : x.a.decodeRows s (x.row0 w.idx) (x.rows w.idx) x.k = (rs, none, u)) (hb : x.b.decodeRows u (x.col0 w.idx) (x.cols w.idx) x.k = (cs, none, v))
    (hz : z = v.each (List.range (3 * x.k)) (fun t _ => t.waveFree p x.pad)) {nc : Bool}
    (hnc : nc = (rs.any (fun l => l.any fun e => !checkable e) || cs.any (fun l => l.any fun e => !checkable e))) :
    s.watchRecheck p = z.modOld p fun q => { q with watch := some (w.rechecked nc (laneTable (x.rows w.idx) (x.cols w.idx) fun i j => { Lane.zero with small := BitVec.ofNat 64 (fmt32.encode (dot32 (rs.getD i []) (cs.getD j []))) })) } := by
  have hnc' : (rs.any (fun l => l.any fun v => !(v.isFin && fmt32.holds v)) || cs.any (fun l => l.any fun v => !(v.isFin && fmt32.holds v))) = nc := hnc.symm
  simp only [State.watchRecheck, hold, hwatch, ← hx, ha, hb, firstBad, ← hz, hnc']
  exact if_neg (by simp [hran])
theorem watchCompare_notChecked {w : Watch} (hwatch : r.watch = some w) (hran : w.ran = true) (hnc : w.notChecked = true) :
    s.watchCompare p = ((s.count F.NUM_WNOTCHK_VALUE 1).modOld p fun q => { q with watch := none }).tileDone p := by
  simp only [State.watchCompare, hold, hwatch]
  rw [if_neg (by simp [hran]), if_pos hnc]
end

theorem any_unchecked {rs cs : List (List FV)} : (rs.any (fun l => l.any fun e => !checkable e) || cs.any (fun l => l.any fun e => !checkable e)) = true ↔
    ∃ l ∈ rs ++ cs, ∃ e ∈ l, e.isFin = false ∨ fmt32.holds e = false := by
  rw [← List.any_append]
  simp [checkable, List.any_eq_true, -List.any_append]

/-- Settles O28, by what the state of the tile at the drain decides. -/
theorem tileIsDrainedRecomputedWatched : Obligations.TileIsDrainedRecomputedWatched := by
  unfold Obligations.TileIsDrainedRecomputedWatched
  refine ⟨fun p r ft s hclk hold hfin => ⟨fun hneed => ?_, fun hneed => ?_, fun hneed x u hx hu hbad => ?_⟩, fun p r w s hclk hold hwatch => ⟨fun hran x rs cs u v z hx ha hb hz => ⟨fun hall => ?_, fun hex => ?_⟩,
    fun hran hnc => ?_⟩⟩
  · exact gives_ticked (f := fun t => t.tileDrain p.val) rfl hclk (tileDrain_eq hold hfin hneed)
  · exact gives_ticked (f := fun t => t.reDrain p.val) rfl hclk (reDrain_eq hold hfin hneed)
  · exact gives_ticked (f := fun t => t.reRun p.val) rfl hclk (reRun_eq hold hfin hneed hx hu hbad)
  · refine gives_ticked (f := fun t => t.watchRecheck p.val) rfl hclk (watchRecheck_eq hold hwatch hran hx ha hb hz (nc := false) ?_)
    refine (Bool.eq_false_iff.2 fun h => ?_).symm
    obtain ⟨l, hl, e, he, hbad⟩ := any_unchecked.1 h
    obtain ⟨hfin, hholds⟩ := hall l hl e he
    rw [hfin, hholds] at hbad
    simp at hbad
  · exact gives_ticked (f := fun t => t.watchRecheck p.val) rfl hclk (watchRecheck_eq hold hwatch hran hx ha hb hz (nc := true) (any_unchecked.2 hex).symm)
  · exact gives_ticked (f := fun t => t.watchCompare p.val) rfl hclk (watchCompare_notChecked hold hwatch hran hnc)

/-! ### A NOP and a BUBBLE at the head (R98, R99) -/

section
variable {s : State} {p : Nat} {c : QCmd}

theorem hearthNop_ends (h : s.hearthHead p 3 c) (hbits : bitsOf (leAt c.bytes 0 4) 31 9 = 0) (hz8 : zeroAt c.bytes 8 160 = true) (hspark : bitsOf (leAt c.bytes 168 2) 14 12 = 0)
    (hz170 : zeroAt c.bytes 170 6 = true) (hz184 : zeroAt c.bytes 184 8 = true) (hrec : leAt c.bytes 176 8 = 0 ∨ s.recAddrOk (leAt c.bytes 176 8) = true) :
    s.hearthNop p = ((s.startHead (hearthQ s p 1)).hearthFinish p c 0).endHead (hearthQ s p 1) := by
  obtain ⟨hclk, hrun, hbub, hen, hready, hop⟩ := h
  obtain ⟨Q, hQ⟩ : ∃ Q, Q = hearthQ s p 1 := ⟨_, rfl⟩
  rw [← hQ] at hready hen ⊢
  simp only [State.hearthNop, ← hQ, hready]
  rw [if_neg (by simp [hrun, hbub, State.qOn, hclk, hen]), if_neg (by simp [hop]), if_neg]
  rcases hrec with hrec | hrec <;> simp [hbits, hz8, hspark, hz170, hz184, hrec]
theorem bubbleStart_starts (h : s.hearthHead p 2 c) (hbits : bitsOf (leAt c.bytes 0 4) 31 9 = 0) (hlen : leAt c.bytes 8 4 ≠ 0) (hz12 : zeroAt c.bytes 12 164 = true) (hz184 : zeroAt c.bytes 184 8 = true)
    (hrec : leAt c.bytes 176 8 = 0 ∨ s.recAddrOk (leAt c.bytes 176 8) = true) :
    s.bubbleStart p = ((s.startHead (hearthQ s p 1)).modHearth p fun h => { h with bubble := 1, bubbleAt := s.cycle, bubbleMiss := 0 }).startBorrowed p := by
  obtain ⟨hclk, hrun, hbub, hen, hready, hop⟩ := h
  obtain ⟨Q, hQ⟩ : ∃ Q, Q = hearthQ s p 1 := ⟨_, rfl⟩
  rw [← hQ] at hready hen ⊢
  simp only [State.bubbleStart, ← hQ, hready]
  rw [if_neg (by simp [hrun, hbub, State.qOn, hclk, hen]), if_neg (by simp [hop]), if_neg]
  rcases hrec with hrec | hrec <;> simp [hbits, hlen, hz12, hz184, hrec]
theorem suspendBorrowed_free (hrun : (s.hearth p).run = none) : s.suspendBorrowed p = s := by
  simp only [State.suspendBorrowed, hrun]
theorem bubbleEnd_ends (hbub : (s.hearth p).bubble = 1) (hleft : s.bubbleLeft p = 0) (hrun : (s.hearth p).run = none) (hhead : s.startedHead (hearthQ s p 1) = some c) :
    s.bubbleEnd p = ((s.hearthFinish p c 0).modHearth p fun h => { h with bubble := 0 }).endHead (hearthQ s p 1) := by
  obtain ⟨Q, hQ⟩ : ∃ Q, Q = hearthQ s p 1 := ⟨_, rfl⟩
  rw [← hQ] at hhead ⊢
  simp only [State.bubbleEnd, suspendBorrowed_free hrun, ← hQ, hhead]
  exact if_neg (by simp [hbub, hleft])
/-! ### Hold bubbles (R101) -/

theorem startBorrowed_off (h : s.on (F.HRT_CTRL_BORROW_EN p) = false) : s.startBorrowed p = s := by
  rw [State.startBorrowed]
  exact if_pos (by simp [h])
theorem holdStart_opens (hrun : (s.hearth p).run = none) (hbub : (s.hearth p).bubble = 0) (hheld : s.heldHearth p = true) (hempty : s.mainEmpty p = true)
    (hen : s.on (F.HRT_CTRL_BORROW_EN p) = false) : s.holdStart p = s.modHearth p fun h => { h with bubble := 2, bubbleAt := s.cycle } := by
  rw [State.holdStart, if_neg (by simp [hrun, hbub, hheld, hempty])]
  exact startBorrowed_off hen
theorem holdEnd_ends (hrun : (s.hearth p).run = none) (hbub : (s.hearth p).bubble = 2) (hover : s.heldHearth p = false ∨ s.mainEmpty p = false) :
    s.holdEnd p = (s.modHearth p fun h => { h with bubble := 0 }).advance (hearthQ s p 1) := by
  rw [State.holdEnd, if_neg (by rcases hover with h | h <;> simp [hbub, h]), suspendBorrowed_free hrun]
  rfl
end

/-! ### A pace miss inside a bubble (R99) -/

theorem missAnswered_keeps (s : State) (q : Nat) : (s.missAnswered q).hrt = s.hrt ∧ (s.missAnswered q).queues = s.queues ∧ (s.missAnswered q).cycle = s.cycle := by
  unfold State.missAnswered State.missRaised
  split <;> exact ⟨rfl, rfl, rfl⟩
theorem missCounted_keeps (s : State) (p : Nat) : (s.missCounted p).queues = s.queues ∧ (s.missCounted p).cycle = s.cycle ∧
    ((s.missCounted p).hearth p).bubbleMiss = (s.hearth p).bubbleMiss + 1 ∧ ((s.missCounted p).hearth p).bubbleAt = (s.hearth p).bubbleAt := by
  refine ⟨rfl, rfl, ?_⟩
  rw [State.missCounted, hearth_mod]
  exact ⟨rfl, rfl⟩
theorem paceMiss_bubble {s : State} (hclk : s.clocked = true) (p : Nat) : (s.paceMiss p).queues = s.queues ∧ (s.paceMiss p).cycle = s.cycle ∧
    ((s.paceMiss p).hearth p).bubbleMiss = (s.hearth p).bubbleMiss + 1 ∧ ((s.paceMiss p).hearth p).bubbleAt = (s.hearth p).bubbleAt := by
  obtain ⟨cq, cc, cmiss, cat⟩ := missCounted_keeps s p
  obtain ⟨y, hy⟩ := missDelayed_only (s.missCounted p) (s.logicalOf p)
  have hdo := paceMiss_eq hclk p
  rw [hy] at hdo
  obtain ⟨u, hu⟩ : ∃ u, u = s.missCounted p := ⟨_, rfl⟩
  rw [← hu] at hdo cq cc cmiss cat
  obtain ⟨v, hv⟩ : ∃ v : State, v = { u with syn := y } := ⟨_, rfl⟩
  have hvu : v.hrt = u.hrt ∧ v.queues = u.queues ∧ v.cycle = u.cycle := by rw [hv]; exact ⟨rfl, rfl, rfl⟩
  obtain ⟨vhrt, vq, vc⟩ := hvu
  rw [← hv] at hdo
  obtain ⟨ahrt, aq, ac⟩ := missAnswered_keeps v (pairQuad p)
  rw [← hdo] at ahrt aq ac
  have hhearth : (s.paceMiss p).hearth p = u.hearth p := hearth_hrt (ahrt.trans vhrt) p
  rw [hhearth]
  exact ⟨(aq.trans vq).trans cq, (ac.trans vc).trans cc, cmiss, cat⟩
theorem bubbleLeft_eq {s : State} {p : Nat} {c : QCmd} (h : (s.queue (hearthQ s p 1)).cmds.head? = some c) :
    s.bubbleLeft p = leAt c.bytes 8 4 + (s.hearth p).bubbleMiss - (s.cycle - (s.hearth p).bubbleAt) := by
  cases hcmds : (s.queue (hearthQ s p 1)).cmds with
  | nil => simp [hcmds] at h
  | cons d ds =>
    rw [hcmds, List.head?_cons, Option.some.injEq] at h
    simp only [State.bubbleLeft, hcmds, h]

/-- Settles O29, by one equation for each start and end of a NOP, a BUBBLE and a hold bubble. -/
theorem nopAndBubblesRun : Obligations.NopAndBubblesRun := by
  unfold Obligations.NopAndBubblesRun
  refine ⟨⟨fun p c s hhead hbits hz8 hspark hz170 hz184 hrec => ?_, fun p c s hhead hbits hlen hz12 hz184 hrec => ?_, fun p c s hclk hbub hleft hrun hhead => ?_, fun p c s hclk hbub hhead hcyc => ?_⟩,
    fun p s hclk hrun => ⟨fun hbub hheld hempty hen => ?_, fun hbub hover => ?_⟩⟩
  · exact gives_ticked (f := fun t => t.hearthNop p.val) rfl hhead.1 (hearthNop_ends hhead hbits hz8 hspark hz170 hz184 hrec)
  · exact gives_ticked (f := fun t => t.bubbleStart p.val) rfl hhead.1 (bubbleStart_starts hhead hbits hlen hz12 hz184 hrec)
  · exact gives_ticked (f := fun t => t.bubbleEnd p.val) rfl hclk (bubbleEnd_ends hbub hleft hrun hhead)
  · obtain ⟨hq, hc, hmiss, hat⟩ := paceMiss_bubble hclk p.val
    obtain ⟨t, hnext, ht⟩ := answer_agree s (s.paceMiss p.val)
    have hth : t.hearth p.val = (s.paceMiss p.val).hearth p.val := hearth_hrt ht.hrt _
    refine ⟨t, ?_, ?_⟩
    · rw [← hnext]; exact ticked_on s (fun t => t.paceMiss p.val) hclk
    · have hqueue : (t.queue (hearthQ t p.val 1)) = s.queue (hearthQ s p.val 1) := by
        have hqs : t.queues = s.queues := ht.queues.trans hq
        rw [State.queue, State.queue, hqs]; rfl
      rw [bubbleLeft_eq (c := c) (by rw [hqueue, hhead]), bubbleLeft_eq hhead, hth, hmiss, hat, ht.cycle, hc, hcyc]
      omega
  · exact gives_ticked (f := fun t => t.holdStart p.val) rfl hclk (holdStart_opens hrun hbub hheld hempty hen)
  · exact gives_ticked (f := fun t => t.holdEnd p.val) rfl hclk (holdEnd_ends hrun hbub hover)

end Sys2Proof.Machine
end

section
/-! PROOFS. Tap records, rows and folds of a bellows (06_bellows_curvature_and_roots.md R181 to R188). -/

namespace Sys2Proof.Machine

/-! ### Tap records -/

section
variable {s u : State} {p sc lg j start how : Nat} {bs : List Byte} {rest : List (Nat × List Byte)} {r : Rd} (hbuf : (s.hearth p).tapBuf = (sc, bs) :: rest) (hlog : s.logicalOf p = some lg)
  (hon : s.blwOn (lg / 32) = true) (hr : r = s.read (s.tapEntry (lg / 32) bs) 16) (hbad : r.bad = none) (hplace : s.tapPlace (lg / 32) bs r.bytes = (j, start, how))
  (hu : u = (r.st.modHearth p fun h => { h with tapBuf := rest }).count (F.DMP_TAPREC_VALUE p) 1)
include hbuf hlog hon hr hbad hplace hu

theorem tapRecord_eq : s.tapRecord p = if how = 1 then u.tapDrop (lg / 32) else if how = 2 then r.st else
    (u.putChunk (lg / 32) (rowChunk (s.fact (lg / 32) (leAt r.bytes 0 2 % 1024)).desc j (start / 256))
      ((List.range (min 256 (fdDim (s.fact (lg / 32) (leAt r.bytes 0 2 % 1024)).desc - start))).map (tapValue sc bs))).gotChunk (lg / 32) (leAt r.bytes 0 2 % 1024) j (start / 256) := by
  simp only [State.tapRecord, hbuf, hlog, ← hr, hbad, hplace, ← hu]
  exact if_neg (by simp [hon])
end

/-! ### Rows of a factor -/

section
variable {s : State} {q f : Nat} (hon : s.blwOn q = true) (hdesc : (s.fact q f).desc ≠ []) (hf : f < s.get (F.BLW_NFACT_COUNT q))
include hon hdesc hf

theorem matrixStart_reads (hkind : 2 ≤ fdKind (s.fact q f).desc) (hread : (s.fact q f).reading = false) (hvec : (s.fact q f).vec = 0) (hbar : (fdBar (s.fact q f).desc).testBit 15 = false) :
    s.matrixStart q f = (s.modFact q f fun x => { x with reading := true }).fillRows q f (fdGlen (s.fact q f).desc + 1) := by
  simp only [State.matrixStart]
  rw [if_neg (by simp [hon, hdesc, hread, hvec]; omega), if_neg (by simp [hbar])]
theorem factorFold_eq (hrows : fdRows (s.fact q f).desc ≤ (s.fact q f).jo) (hfold : (s.fact q f).folded = false) :
    s.factorFold q f = ((s.factCheck q f).each (List.range (fdBlocks (s.fact q f).desc)) fun t b => t.foldBlock q (s.fact q f).desc (s.factCur q f) b (s.fact q f).acc).modFact q f
      fun x => { x with folded := true } := by
  simp only [State.factorFold]
  rw [if_neg (by simp [hon, hdesc, hfold]; omega)]

variable {x : Fact} {r : Rd} {v : List FV} (hjo : (s.fact q f).jo < fdRows (s.fact q f).desc) (hgot : (s.fact q f).got.look 0 (s.fact q f).jo = fullMask (fdChunks (s.fact q f).desc))
  (hx : x = s.fact q f) (hr : r = s.read (rowChunk x.desc x.jo 0) (fdChunks x.desc * 1024)) (hbad : r.bad = none) (hv : v = (codesOf 4 r.bytes (fdDim x.desc)).map val32)
include hjo hgot hx hr hbad hv

theorem rowAccumulate_eq : s.rowAccumulate q f =
    if (v.any fun e => !e.isFin) = true then
      (((r.st.count (F.BLW_NONFIN_VALUE q) 1).raise (F.BLW_EVENT_ROW_NONFIN q)).modFact q f fun y => { y with jo := y.jo + 1, got := y.got.drop y.jo }).fillRows q f (fdGlen x.desc + 1)
    else (((r.st.factCheck q f).each (List.range (fdBlocks x.desc)) fun t b => t.addRow q x.desc (fdCopy x.desc (1 - s.factCur q f)) b (!x.acc) v).modFact q f
      fun y => { y with jo := y.jo + 1, acc := true, got := y.got.drop y.jo }).fillRows q f (fdGlen x.desc + 1) := by
  subst hx
  simp only [State.rowAccumulate, ← hr, hbad, ← hv, Bool.or_true, Bool.or_false]
  rw [if_neg (by simp [hon, hdesc, hgot]; omega)]
end

theorem any_notFin {v : List FV} : (v.any fun e => !e.isFin) = true ↔ ∃ e ∈ v, e.isFin = false := by simp [List.any_eq_true]

/-- Settles O30, by the place of a tap record and by the elements of a row. -/
theorem curvatureIsAccumulated : Obligations.CurvatureIsAccumulated := by
  unfold Obligations.CurvatureIsAccumulated
  refine ⟨fun p sc bs rest lg r j start how u s hclk hbuf hlog hon hr hbad hplace hu => ⟨fun h0 => ?_, fun h1 => ?_⟩,
    fun q f s hclk hon hdesc hf => ⟨fun hkind hread hvec hbar => ?_, fun hjo hgot x r v hx hr hbad hv => ⟨fun hall => ?_, fun hex => ?_⟩, fun hrows hfold => ?_⟩⟩
  · refine gives_ticked (f := fun t => t.tapRecord p.val) rfl hclk ((tapRecord_eq hbuf hlog hon hr hbad hplace hu).trans ?_)
    rw [if_neg (by omega), if_neg (by omega)]
  · exact gives_ticked (f := fun t => t.tapRecord p.val) rfl hclk ((tapRecord_eq hbuf hlog hon hr hbad hplace hu).trans (if_pos h1))
  · exact gives_ticked (f := fun t => t.matrixStart q.val f.val) rfl hclk (matrixStart_reads hon hdesc hf hkind hread hvec hbar)
  · refine gives_ticked (f := fun t => t.rowAccumulate q.val f.val) rfl hclk ((rowAccumulate_eq hon hdesc hf hjo hgot hx hr hbad hv).trans (if_neg ?_))
    rw [any_notFin]
    rintro ⟨e, he, hne⟩
    simp [hall e he] at hne
  · exact gives_ticked (f := fun t => t.rowAccumulate q.val f.val) rfl hclk ((rowAccumulate_eq hon hdesc hf hjo hgot hx hr hbad hv).trans (if_pos (any_notFin.2 hex)))
  · exact gives_ticked (f := fun t => t.factorFold q.val f.val) rfl hclk (factorFold_eq hon hdesc hf hrows hfold)

end Sys2Proof.Machine
end

section
/-! PROOFS. The life of a root job, and ORTHO (06_bellows_curvature_and_roots.md R193 to R207). -/

namespace Sys2Proof.Machine

theorem blwNote_none (s : State) (q : Nat) : s.blwNote q none = s := rfl

/-! ### Eigenvalue requests and preparation -/

theorem lambdaSubmit_eq {s : State} {q f : Nat} {rest : List Nat} (hon : s.rootOn q = true) (hspk : s.on (F.BLW_LAMSPK_VALID q) = true) (hasked : (s.bellows q).asked = none)
    (horder : (s.bellows q).order = f :: rest) {u : State}
    (hu : u = (((s.unitWrite .bellows q (fdReq (s.fact q f).desc) (leBytes 4 1 ++ leBytes 4 (f + (s.fact q f).job.block * 2 ^ 10) ++ leBytes 8 (fdBuf (s.fact q f).desc 0) ++
      leBytes 4 (fdPitch (s.fact q f).desc) ++ leBytes 2 (fdSize (s.fact q f).desc (s.fact q f).job.block) ++ leBytes 2 ((s.reg (R.BLW_LAMSPK q)).toNat) ++ leBytes 8 0)).modBlw q
        fun b => { b with order := rest, asked := some f }).modJob q f fun j => { j with req := 1 })) :
    s.lambdaSubmit q = { u with kln := u.kln.write Kln.reset q { (u.kln.look Kln.reset q) with req := some (fdReq (s.fact q f).desc) } } := by
  simp only [State.lambdaSubmit, hasked, horder, ← hu]
  exact if_neg (by simp [hon, hspk])

/-- R194: the first matrix of a preparation: it is scaled by a power of two, with the damping on its diagonal. -/
def prepared (n : Nat) (rows : List (List Nat)) (delta : FV) (e : Int) : List (List Nat) :=
  matOf n n fun i l => bits32 ((if i = l then fmt64.add (val32 (matAt rows 0 i l)) delta else val32 (matAt rows 0 i l)).scale2 (-e))
section
variable {s : State} {q f n : Nat} {x : Fact} {m : MRd} {c r : Rd} {delta g : FV} {e : Int}

theorem rootPreparation_eq (hon : s.rootOn q = true) (hx : x = s.fact q f) (hst : x.job.st = 1) (hreq : x.job.req = 2) (hn : n = fdSize x.desc x.job.block)
    (hm : m = s.readMat (fdBuf x.desc 0) (fdPitch x.desc) n n 4) (hc : c = m.st.read (fdCert x.desc) 16) (hr : r = c.st.read (fdReq x.desc + 32) 16)
    (hmbad : m.bad = none) (hcbad : c.bad = none) (hrbad : r.bad = none) (hflag : leAt r.bytes 8 1 = 0)
    (hdelta : delta = fmt64.add (fmt64.mul (fdDampRel x.desc) (val64 (leAt r.bytes 0 8))) (fdDampAbs x.desc))
    (hg : g = fmt64.mul (fdGuard x.desc) (fmt64.add (val64 (leAt r.bytes 0 8)) delta)) (hfin : g.isFin = true) (hpos : FV.zero.lt g = true) (he : e = leastPow2 g)
    (hcert : (val32 (leAt c.bytes 4 4)).le (delta.scale2 (-e)) = true) :
    s.rootPreparation q f = ((r.st.modBlw q fun b => { b with order := b.order.filter (· != f) }).writeMat .bellows q (fdBuf x.desc 0) (fdPitch x.desc) 4 (prepared n m.rows delta e)).modJob q f
      fun j => { j with st := 2, exp := e, iter := 0, ran := false } := by
  simp only [State.rootPreparation, ← hx]
  rw [if_neg (by simp [hon, hst, hreq])]
  simp only [← hn, ← hm, ← hc, hreq, if_true, ← hr, hmbad, hcbad, hrbad, firstBad, hflag, Option.isNone_none, beq_self_eq_true, Bool.and_self, blwNote_none, ← hdelta, ← hg]
  rw [if_neg (by simp [hfin, hpos]), ← he, if_neg (by simp [hcert])]
  rfl
end

/-! ### Iterations and borrowed tiles -/

theorem rootIteration_eq {s : State} {q f : Nat} {x : Fact} {j : RootJob} {c : Rd} (hon : s.rootOn q = true) (hx : x = s.fact q f) (hj : j = x.job.settled (rootTiles x.desc x.job.block)) (hst : j.st = 2)
    (hprods : j.prods = []) (hran : j.ran = true) (hc : c = (s.modJob q f fun _ => j).read (fdCert x.desc) (16 * (fdNit x.desc + 1))) (hbad : c.bad = none) :
    s.rootIteration q f = c.st.rootStep q f (j.iter + 1) c.bytes := by
  simp only [State.rootIteration, ← hx, ← hj, ← hc, hbad, blwNote_none]
  rw [if_neg (by simp [hon, hst, hprods]), if_pos hran]
theorem borrowSubmit_eq {s : State} {q f p : Nat} {ps : List Nat} {j : RootJob} {pr : Prod} {rest : List Prod} (hon : s.rootOn q = true)
    (hfind : (List.range 1024).find? (s.tileReady q) = some f) (hfree : s.freeBorrow q = p :: ps)
    (hj : j = (s.fact q f).job.settled (rootTiles (s.fact q f).desc (s.fact q f).job.block)) (hprods : j.prods = pr :: rest) :
    s.borrowSubmit q = (s.modJob q f fun _ => { j with next := j.next + 1, flight := j.flight + 1 }).modHearth p fun h =>
      { h with borrow := some { slot := 0, addr := 0, bytes := tileBytes (s.fact q f).desc (tileTag q f) j.block pr j.next, side := [], policy := s.policyCopy 0, sideBad := false, aborted := false } } := by
  simp only [State.borrowSubmit, hfind, hfree, ← hj, hprods]
  exact if_neg (by simp [hon])

/-! ### The hold of a step -/

/-- R198: whether a bellows still owes the closing step a root. -/
def State.owesRoot (s : State) (q : Nat) : Bool := (s.bellows q).facts.any fun x => x.2.job.deliver == s.job.step && (x.2.job.st == 1 || x.2.job.st == 2)
theorem rootHold_eq {s : State} {q : Nat} (hjob : s.jobEn = true) (hhold : (s.bellows q).hold = none) :
    s.rootHold q = if s.owesRoot q then (s.modBlw q fun b => { b with hold := some s.cycle }).raise (F.BLW_EVENT_ROOT_HOLD q)
      else if s.on (F.BLW_RELSPK_VALID q) then s.signal (s.get (F.BLW_RELSPK_COUNTER q)) none else s := by
  rw [State.rootHold, if_neg (by simp [hjob, hhold])]
  rfl

/-- Settles O31, by one equation for each stage of a root job. -/
theorem rootJobsProceed : Obligations.RootJobsProceed := by
  unfold Obligations.RootJobsProceed
  refine ⟨fun q f rest u s hclk hon hspk hasked horder hu => ?_, fun q f x n m c r delta g e s hclk hon hx hst hreq hn hm hc hr hmbad hcbad hrbad hflag hdelta hg hfin hpos he hcert => ?_,
    fun q f x j c s hclk hon hx hj hst hprods hran hc hbad => ?_, fun q f p ps j pr rest s hclk hon hfind hfree hj hprods => ?_, fun q s hclk hjob hhold => ⟨fun howes => ?_, fun howes hspk => ?_⟩⟩
  · exact gives_ticked (f := fun t => t.lambdaSubmit q.val) rfl hclk (lambdaSubmit_eq hon hspk hasked horder hu)
  · exact gives_ticked (f := fun t => t.rootPreparation q.val f.val) rfl hclk (rootPreparation_eq hon hx hst hreq hn hm hc hr hmbad hcbad hrbad hflag hdelta hg hfin hpos he hcert)
  · exact gives_ticked (f := fun t => t.rootIteration q.val f.val) rfl hclk (rootIteration_eq hon hx hj hst hprods hran hc hbad)
  · exact gives_ticked (f := fun t => t.borrowSubmit q.val) rfl hclk (borrowSubmit_eq hon hfind hfree hj hprods)
  · exact gives_ticked (f := fun t => t.rootHold q.val) rfl hclk ((rootHold_eq hjob hhold).trans (if_pos howes))
  · have howes' : s.owesRoot q.val = false := howes
    refine gives_ticked (f := fun t => t.rootHold q.val) rfl hclk ((rootHold_eq hjob hhold).trans ?_)
    rw [if_neg (by simp [howes']), if_pos hspk]

/-! ### ORTHO -/

theorem clocked_of_qOn {s : State} {Q : QI} (h : s.qOn Q = true) : s.clocked = true := (Bool.and_eq_true_iff.1 h).1

/-- R206: an ORTHO ends with its status and its trace. -/
def State.orthoEnd (s : State) (q : Nat) (c : QCmd) (st tr : Nat) : State := (s.svcEnd q c st tr).endHead (svcQ q)
/-- R205, R206: what an ORTHO does with its result: it writes it unless its input is not finite, and ends with the trace over the rank of a full run, or with a free value. -/
def State.orthoDone (s : State) (q : Nat) (c : QCmd) (st : Nat) (res m : List (List FV)) : State :=
  let s1 := if st = 2 then s else s.writeMat .bellows q (leAt c.bytes 24 8) (leAt c.bytes 36 4) 4 (res.map fun l => l.map bits32)
  if st = 0 then s1.orthoEnd q c st (fmt32.encode (fmt32.round (fmt64.div (sum64 ((List.range (leAt c.bytes 12 2)).map fun i => matAt m FV.zero i i)) (FV.ofInt (leAt c.bytes 12 2)))))
  else (s1.fresh 32).2.orthoEnd q c st (s1.fresh 32).1
theorem ortho_eq {s u : State} {q st : Nat} {c : QCmd} {p : MRd} {res m : List (List FV)} (hon : s.qOn (svcQ q) = true) (hready : s.readyHead (svcQ q) = some c) (hu : u = s.startHead (svcQ q))
    (hgood : orthoBad u c.bytes = false) (hp : p = u.readMat (leAt c.bytes 16 8) (leAt c.bytes 32 4) (leAt c.bytes 8 4) (leAt c.bytes 12 2) 4) (hbad : p.bad = none)
    (hrun : orthoOf (leAt c.bytes 8 4) (leAt c.bytes 12 2) (leAt c.bytes 14 1) (val32 (leAt c.bytes 40 4)) (p.rows.map fun l => l.map val32) = (st, res, m)) :
    s.ortho q = p.st.orthoDone q c st res m := by
  simp only [State.ortho, hready, ← hu, ← hp, hbad, blwNote_none, hrun]
  rw [if_neg (by simp [hon]), if_neg (by simp [hgood]), State.orthoDone]
  by_cases h0 : st = 0
  · rw [if_pos h0, if_pos h0]; rfl
  · rw [if_neg h0, if_neg h0]; rfl

/-- Settles O32, by what an ORTHO does for each status. -/
theorem orthoDelivers : Obligations.OrthoDelivers := by
  unfold Obligations.OrthoDelivers
  intro q c u p st res m s hon hready hu hgood hp hbad hrun
  have hclk := clocked_of_qOn hon
  have hdo := ortho_eq hon hready hu hgood hp hbad hrun
  have hgives {t : State} (h : p.st.orthoDone q.val c st res m = t) : Gives (.ortho q) s t := gives_ticked (f := fun t => t.ortho q.val) rfl hclk (hdo.trans h)
  refine ⟨fun hst => hgives ?_, fun hst w v hw hv => hgives ?_, fun hst => hgives ?_⟩
  · subst hst; rfl
  · subst hst hv hw; rfl
  · subst hst; rfl

end Sys2Proof.Machine
end

section
/-! PROOFS. Solves, factors and eigenvalue requests of a kiln (07_kiln_solver.md R218 to R245). -/

namespace Sys2Proof.Machine

/-! ### The head of a kiln -/

section
variable {s u : State} {q : Nat} {c : QCmd} (hon : s.qOn (kilnQ q) = true) (hrun : (s.kiln q).run = none) (hready : s.readyHead (kilnQ q) = some c) (hu : u = s.startHead (kilnQ q))
include hon hrun hready hu

theorem solve_eq {h : Rd} {cx : CtxRd} (hop : c.op = 1) (hgood : klnCommonBad u q c.bytes = false) (hh : h = u.read (slMatrix c.bytes) 64)
    (hcx : cx = h.st.ctxRead q (u.pair (R.KLN_CTXBASE_LO q)) (slCtx c.bytes)) (hhbad : h.bad = none) (hcbad : cx.bad = none) :
    s.solve q = if solveBad cx.st q c.bytes h.bytes cx.inc then (cx.st.klnReject q c).endHead (kilnQ q) else cx.st.solveSetup q c h.bytes := by
  simp only [State.solve, hready, ← hu, ← hh, ← hcx, hhbad, hcbad, firstBad]
  rw [if_neg (by simp [hon, hrun]), if_neg (by simp [hop]), if_neg (by simp [hgood])]
theorem kilnNop_ends (hop : c.op = 3) (hlow : leAt c.bytes 0 4 < 2 ^ 8) (hz8 : zeroAt c.bytes 8 84 = true) (hz96 : zeroAt c.bytes 96 32 = true) (hz136 : zeroAt c.bytes 136 56 = true)
    (hspark : bitsOf (slSpark c.bytes) 14 12 = 0) (hbar : bitsOf (leAt c.bytes 94 2) 14 12 = 0) (hrec : slRec c.bytes = 0 ∨ (slRec c.bytes % 64 = 0 ∧ s.recAddrOk (slRec c.bytes) = true)) :
    s.kilnNop q = (u.klnFinish q c 11 0 0 0 0 0 0).endHead (kilnQ q) := by
  simp only [State.kilnNop, hready, ← hu]
  rw [if_neg (by simp [hon, hrun]), if_neg (by simp [hop]), if_neg]
  rcases hrec with hrec | ⟨hal, hok⟩
  · simp [hz8, hz96, hz136, hspark, hbar, hrec]; omega
  · simp [hz8, hz96, hz136, hspark, hbar, hal, hok]; omega

/-- R237: a FACTOR ends with its status and its charge. -/
def State.factorEnd (s : State) (q : Nat) (c : QCmd) (status charged : Nat) : State := (s.klnFinish q c status 0 0 0 0 charged 0).endHead (kilnQ q)
section
variable {h : Rd} {m : KRd} {a : KMat} {ab : Bool} {ch : Nat} {v : State} (hop : c.op = 2) (hgood : klnCommonBad u q c.bytes = false) (hh : h = u.read (slMatrix c.bytes) 64) (hhbad : h.bad = none)
  (hfgood : factorBad h.st q c.bytes h.bytes = false) (hm : m = h.st.readBcsr h.bytes) (hmbad : m.bad = none) (hmat : m.mat = some a)
include hop hgood hh hhbad hfgood hm hmbad hmat

theorem factor_fails (hdo : m.st.strictly q (factorRows (slPrec c.bytes) a.bs (slDeadline c.bytes) a.rows 0 [] 0) = ((none, ab, ch), v)) :
    s.factor q = (if ab then v.raise (F.KLN_EVENT_FACTOR_ABANDONED q) else v.raise (F.KLN_EVENT_FACTOR_FAILED q)).factorEnd q c (if ab then 9 else 10) ch := by
  simp only [State.factor, hready, ← hu, ← hh, hhbad, ← hm, hmbad, hmat, hdo]
  rw [if_neg (by simp [hon, hrun]), if_neg (by simp [hop]), if_neg (by simp [hgood]), if_neg (by simp [hfgood])]
  cases ab <;> rfl
theorem factor_stores {f : List (List (Nat × Blk))} {cx : CtxRd} {copy : Nat} {w : State}
    (hdo : m.st.strictly q (factorRows (slPrec c.bytes) a.bs (slDeadline c.bytes) a.rows 0 [] 0) = ((some f, ab, ch), v))
    (hcx : cx = v.ctxRead q (v.pair (R.KLN_CTXBASE_LO q)) (slCtx c.bytes)) (hcbad : cx.bad = none) (hcopy : copy = 1 - leAt cx.cur 72 4 / 8 % 2)
    (hw : w = cx.st.unitWrite .kiln q (leAt cx.inc (80 + 8 * copy) 8) ((factorStore (slPrec c.bytes) a.bs a f).flatMap fun b => b.flatMap fun l => l.flatMap fun e => leBytes 8 e))
    (hfault : w.writeFaulted .kiln q = false) :
    s.factor q = (w.unitWrite .kiln q cx.addr (ctxSet (ctxSet cx.inc 64 8 a.psig) 72 4 (slPrec c.bytes + 8 * copy))).factorEnd q c 8 ch := by
  simp only [State.factor, hready, ← hu, ← hh, hhbad, ← hm, hmbad, hmat, hdo, ← hcx, hcbad, ← hcopy, ← hw]
  rw [if_neg (by simp [hon, hrun]), if_neg (by simp [hop]), if_neg (by simp [hgood]), if_neg (by simp [hfgood]), if_neg (by simp [hfault])]
  rfl
end
end

/-! ### What a solve in progress works on -/

theorem withSet_of_reads {s u : State} {q : Nat} {z : Solve} {k : KSet} (h : s.solveReads q z k u) (go : State → KSet → State) : s.withSet q z go = go u k := by
  obtain ⟨h, m, cx, pr, v, cert, hh, hhbad, hm, hmbad, hmat, hcx, hcbad, hst, hpr, hpbad, hf, hdg, hb, hcert, hebad, hbytes, hu⟩ := h
  simp only [State.withSet, ← hh, hhbad, ← hm, hmbad, hmat, ← hcx, hcbad, ← hst, ← hpr, hpbad, hb, ← hcert, hebad, firstBad, ← hf, ← hdg, ← hbytes, ← hu]
theorem kilnDeadline_eq {s u : State} {q : Nat} {z : Solve} {k : KSet} (hclk : s.clocked = true) (hrun : (s.kiln q).run = some z) (hdl : slDeadline z.cmd.bytes ≤ z.charged)
    (hreads : s.solveReads q z k u) (hhs : z.hs = []) : s.kilnDeadline q = u.solveStop q k.a z (if z.flags &&& kfRetried ≠ 0 then 5 else 2) := by
  simp only [State.kilnDeadline, hrun, withSet_of_reads hreads, hhs, List.isEmpty_nil, if_true]
  exact if_neg (by simp [hclk, hdl])

/-- Settles O33, by one equation for each end of a SOLVE, a FACTOR and a NOP. -/
theorem solveSetsUpAndEnds : Obligations.SolveSetsUpAndEnds := by
  unfold Obligations.SolveSetsUpAndEnds
  refine ⟨fun q c u h cx s hon hrun hready hop hu hgood hh hcx hhbad hcbad => ⟨fun hok => ?_, fun hno => ?_⟩, fun q z k u s hclk hrun hdl hreads hhs => ?_,
    fun q c u h m a r ab ch v s hon hrun hready hop hu hgood hh hhbad hfgood hm hmbad hmat hdo => ⟨fun f hr cx copy w hcx hcbad hcopy hw hfault => ?_, fun hr => ?_⟩,
    fun q c s hon hrun hready hop hlow hz8 hz96 hz136 hspark hbar hrec => ?_⟩
  · refine gives_ticked (f := fun t => t.solve q.val) rfl (clocked_of_qOn hon) ((solve_eq hon hrun hready hu hop hgood hh hcx hhbad hcbad).trans (if_neg ?_))
    simp [hok]
  · exact gives_ticked (f := fun t => t.solve q.val) rfl (clocked_of_qOn hon) ((solve_eq hon hrun hready hu hop hgood hh hcx hhbad hcbad).trans (if_pos hno))
  · exact gives_ticked (f := fun t => t.kilnDeadline q.val) rfl hclk (kilnDeadline_eq hclk hrun hdl hreads hhs)
  · subst hr
    exact gives_ticked (f := fun t => t.factor q.val) rfl (clocked_of_qOn hon) (factor_stores hon hrun hready hu hop hgood hh hhbad hfgood hm hmbad hmat hdo hcx hcbad hcopy hw hfault)
  · subst hr
    exact gives_ticked (f := fun t => t.factor q.val) rfl (clocked_of_qOn hon) (factor_fails hon hrun hready hu hop hgood hh hhbad hfgood hm hmbad hmat hdo)
  · exact gives_ticked (f := fun t => t.kilnNop q.val) rfl (clocked_of_qOn hon) (kilnNop_ends hon hrun hready rfl hop hlow hz8 hz96 hz136 hspark hbar hrec)

/-! ### One iteration -/

/-- R232: what a verdict on an iteration does: the solve goes on, or stops. -/
def State.solveJudged (s : State) (q : Nat) (a : KMat) (z z1 : Solve) : Option Nat → State
  | some n => s.solveStop q a z1 (if n ≠ 0 ∧ z.flags &&& kfRetried ≠ 0 then 5 else n)
  | none => s.modKln q fun k => { k with run := some z1 }
section
variable {s u v w : State} {q : Nat} {z z1 : Solve} {k : KSet} {t : KStep} (hclk : s.clocked = true) (hrun : (s.kiln q).run = some z) (hdl : z.charged < slDeadline z.cmd.bytes)
  (hreads : s.solveReads q z k u) (hdo : u.strictly q (z.iterate k.a (z.pc k.f k.dg) k.cert k.b) = (t, v)) (hz1 : z1 = z.after k.a t)
  (hw : w = (v.setPair (R.KLN_ITERS_LO q) ((v.pair (R.KLN_ITERS_LO q) + 1) % 2 ^ 64)).scribble z.cmd.bytes k.a.n z.fixed)
include hclk hrun hdl hreads hdo hz1 hw

theorem solveIteration_judged (h2 : t.stop ≠ 2) (h3 : t.stop ≠ 3) : s.solveIteration q = w.solveJudged q k.a z z1 (solveVerdict z1 (t.stop == 1)) := by
  cases hv : solveVerdict z1 (t.stop == 1) <;> simp only [State.solveIteration, hrun, withSet_of_reads hreads, hdo, ← hz1, ← hw, hv]
  all_goals rw [if_neg (by simp [hclk]; omega), if_neg h3, if_neg h2]
  all_goals rfl
theorem solveIteration_broken (hstop : t.stop = 2) : s.solveIteration q = w.solveStop q k.a z1 (if z.flags &&& kfRetried ≠ 0 then 5 else 4) := by
  simp only [State.solveIteration, hrun, withSet_of_reads hreads, hdo, ← hz1, ← hw]
  rw [if_neg (by simp [hclk]; omega), if_neg (by omega), if_pos hstop]
  by_cases hflag : z.flags &&& kfRetried = 0 <;> simp [hflag]
theorem solveIteration_breach (hstop : t.stop = 3) {x0 : List Dbl} {y : State} (hx0 : w.readX0 z.cmd.bytes k.st k.a.n = (x0, none, y)) : s.solveIteration q = y.kilnBreach q k.a k.b x0 z1 := by
  simp only [State.solveIteration, hrun, withSet_of_reads hreads, hdo, ← hz1, ← hw, hx0]
  rw [if_neg (by simp [hclk]; omega), if_pos hstop]
end

/-- Settles O34, by the step that an iteration takes and the verdict on it. -/
theorem solveIterates : Obligations.SolveIterates := by
  unfold Obligations.SolveIterates
  intro q z z1 k u v w t s hclk hrun hdl hreads hdo hz1 hw
  have hcmd : z1.cmd = z.cmd := by rw [hz1]; rfl
  have hgives {y : State} (h : s.solveIteration q.val = y) : Gives (.solveIteration q) s y := gives_ticked (f := fun t => t.solveIteration q.val) rfl hclk h
  have hjudged {n : Option Nat} (hstop : t.stop = 0 ∨ t.stop = 1) (hverdict : solveVerdict z1 (t.stop == 1) = n) : s.solveIteration q.val = w.solveJudged q.val k.a z z1 n := by
    rw [solveIteration_judged hclk hrun hdl hreads hdo hz1 hw (by omega) (by omega), hverdict]
  refine ⟨fun hstop hgo => hgives ?_, fun hstop hcap hchg => hgives ?_, fun hstop => hgives ?_, fun hstop => hgives ?_, fun hstop x0 y hx0 => hgives ?_⟩
  · refine hjudged (n := none) (.inl hstop) ?_
    rw [solveVerdict, hcmd, hstop, if_neg (by decide)]
    split
    · rfl
    · exact if_neg (by omega)
  · refine (hjudged (n := some 3) (.inl hstop) ?_).trans ?_
    · rw [solveVerdict, hcmd, hstop, if_neg (by decide), if_neg (by omega), if_pos hcap]
    · simp only [State.solveJudged, ne_eq, OfNat.ofNat_ne_zero, not_false_eq_true, true_and]
  · refine (hjudged (n := some 0) (.inr hstop) ?_).trans ?_
    · rw [solveVerdict, hstop]; rfl
    · simp only [State.solveJudged, ne_eq, not_true_eq_false, false_and, if_false]
  · exact solveIteration_broken hclk hrun hdl hreads hdo hz1 hw hstop
  · exact solveIteration_breach hclk hrun hdl hreads hdo hz1 hw hstop hx0

/-! ### Eigenvalue requests -/

/-- R245: the answer to an eigenvalue request after its iterations, by whether its budget cut them short. -/
def State.lambdaDone (s : State) (q a : Nat) (budget : Bool) (mu : Option Dbl) (it n sp : Nat) : State :=
  match mu with
  | none => s.lambdaAnswer q a 1 it (it * lamCost n) 0 sp
  | some v => if budget then s.lambdaAnswer q a 2 it (it * lamCost n) 0 sp else s.lambdaAnswer q a 0 it (it * lamCost n) v sp
theorem lambdaServe_eq {s u : State} {q a n full it k : Nat} {r : Rd} {m : MRd} {mu : Option Dbl} (hclk : s.clocked = true) (hen : s.on (F.KLN_CTRL_LAM_EN q) = true) (hreq : (s.kiln q).req = some a)
    (hr : r = s.read a 32) (hbad : r.bad = none) (hn : n = leAt r.bytes 20 2) (h0 : leAt r.bytes 0 4 = 1) (h4 : leAt r.bytes 4 4 < 2 ^ 15) (h8 : leAt r.bytes 8 8 % 64 = 0)
    (h16 : leAt r.bytes 16 4 % 64 = 0) (hpos : 0 < n) (hle : n ≤ 2048) (h22 : bitsOf (leAt r.bytes 22 2) 14 12 = 0) (h24 : leAt r.bytes 24 8 = 0)
    (hfull : full = ceilDiv (s.get (F.KLN_LAMDL_CYCLES q)) (lamCost n)) (hm : m = r.st.readMat (leAt r.bytes 8 8) (leAt r.bytes 16 4) n n 4) (hmbad : m.bad = none) (hk : k = min full (s.npi q))
    (hdo : m.st.strictly q (powerIter (m.rows.map fun l => l.map widen32to64) k (List.replicate n dOne) 0 0) = ((mu, it), u)) :
    s.lambdaServe q (decide (full < s.npi q)) = u.lambdaDone q a (decide (full < s.npi q)) mu it n (leAt r.bytes 22 2) := by
  have hwell : (leAt r.bytes 0 4 != 1 || leAt r.bytes 4 4 / 2 ^ 15 != 0 || leAt r.bytes 8 8 % 64 != 0 || leAt r.bytes 16 4 % 64 != 0 || n == 0 || decide (2048 < n) ||
      bitsOf (leAt r.bytes 22 2) 14 12 != 0 || leAt r.bytes 24 8 != 0) = false := by
    simp [h0, h8, h16, h22, h24]
    omega
  have hsteps : (if decide (full < s.npi q) = true then full else s.npi q) = k := by
    rw [hk]
    split
    · exact (Nat.min_eq_left (Nat.le_of_lt (of_decide_eq_true ‹_›))).symm
    · exact (Nat.min_eq_right (Nat.le_of_not_lt fun hlt => ‹¬_› (decide_eq_true hlt))).symm
  simp only [State.lambdaServe, hreq, ← hr, ← hn, hwell, hbad, ← hfull, Option.isNone_none, Bool.not_false, Bool.true_and, ← hm, hmbad, hsteps, hdo]
  rw [if_neg (by simp [hclk, hen]), if_neg (by simp), if_neg (by decide)]
  cases mu <;> rfl

/-- Settles O35, by the equation of an eigenvalue request and the side of its budget. -/
theorem lambdaRequestIsAnswered : Obligations.LambdaRequestIsAnswered := by
  unfold Obligations.LambdaRequestIsAnswered
  intro q a r n full m mu it u k s hclk hen hreq hr hbad hn h0 h4 h8 h16 hpos hle h22 h24 hfull hm hmbad hk hdo
  have heq := lambdaServe_eq hclk hen hreq hr hbad hn h0 h4 h8 h16 hpos hle h22 h24 hfull hm hmbad hk hdo
  refine ⟨fun hside => ?_, fun hside => ?_⟩
  · rw [decide_eq_false (by omega)] at heq
    refine gives_ticked (f := fun t => t.lambdaServe q.val false) rfl hclk (heq.trans ?_)
    cases mu <;> rfl
  · rw [decide_eq_true hside] at heq
    refine gives_ticked (f := fun t => t.lambdaServe q.val true) rfl hclk (heq.trans ?_)
    cases mu <;> rfl

end Sys2Proof.Machine
end

section
/-! PROOFS. NORM, FOLD, UPDATE, DWRITE and NOP of a firebox (08_firebox_parameter_update.md R252 to R277). -/

namespace Sys2Proof.Machine

section
variable {s u : State} {q : Nat} {c : QCmd} (hon : s.qOn (fireboxQ q) = true) (hready : s.readyHead (fireboxQ q) = some c)
include hon hready

theorem fbxHead_of_op {op : Nat} (hop : c.op = op) : s.fbxHead q op = some c := by
  simp only [State.fbxHead]
  rw [if_neg (by simp [hon]), hready, Option.filter_some, if_pos (by simp [hop])]

variable (hu : u = s.startHead (fireboxQ q)) (hgood : fbxCommonBad u c.bytes = false)
include hu hgood

/-! ### NORM, FOLD and NOP -/

theorem fbxNorm_ends {l : List (Nat × List Byte × List Byte)} {v w : State} {n : FCount} (hop : c.op = 1) (hrange : fcRangeBad u q c.bytes = false) (hz : zeroAt c.bytes 24 20 = true)
    (hload : u.loadShards q (fcFirst c.bytes) (fcCount c.bytes) = (l, none, v)) (hshards : (l.all fun p => !shardBad p.2.1 p.2.2) = true)
    (hrun : overShards (fun t i d e => t.normShard q i d e) l FCount.none v = (n, none, w)) : s.fbxNorm q = w.fbxEnd q c 0 n := by
  have hany : (l.any fun p => shardBad p.2.1 p.2.2) = false := by
    rw [List.any_eq_not_all_not, hshards]; rfl
  simp only [State.fbxNorm, fbxHead_of_op hon hready hop, ← hu, hload, hrun]
  rw [if_neg (by simp [hgood, hrange, hz]), if_neg (by simp [hany])]
theorem fbxFold_ends {recs groups : List (List Byte × List Byte)} {v w : State} {sels : Rd} (hop : c.op = 2) (hz8 : leAt c.bytes 8 4 = 0) (haddr : addrBad (fcVec c.bytes) = false)
    (hz32 : zeroAt c.bytes 32 12 = true)
    (hrecs : u.readPairs (u.get (F.FBX_NSHARD_COUNT q)) 192 64 (fun i => u.shardAddr q i) (fun i => u.shardRec q i) = (recs, none, v)) (hsels : sels = v.groupSels) (hbad : sels.bad = none)
    (hgroups : sels.st.readPairs 256 128 32 (fun g => u.groupAddr q g) (fun g => u.gstateAddr q g (groupSel sels.bytes g)) = (groups, none, w)) :
    s.fbxFold q = ((w.unitWrite .firebox q (fcVec c.bytes) (foldVec s.job.step recs)).foldGroups q sels.bytes groups).fbxEnd q c 0 FCount.none := by
  simp only [State.fbxFold, fbxHead_of_op hon hready hop, ← hu, hrecs, ← hsels, hgroups, hbad, firstBad]
  exact if_neg (by simp [hgood, hz8, haddr, hz32])
theorem fbxNop_ends (hop : c.op = 5) (hz8 : leAt c.bytes 8 4 = 0) (hz24 : zeroAt c.bytes 24 20 = true) : s.fbxNop q = u.fbxEnd q c 0 FCount.none := by
  simp only [State.fbxNop, fbxHead_of_op hon hready hop, ← hu]
  exact if_neg (by simp [hgood, hz8, hz24])

/-! ### UPDATE -/

theorem fbxUpdate_runs {v w : State} {l : List (Nat × List Byte × List Byte)} {progs : List (Nat × List Nat)} (hop : c.op = 3) (hrange : fcRangeBad u q c.bytes = false) (haddr : addrBad (fcVec c.bytes) = false)
    (hnorm : paramOk (fcMaxNorm c.bytes) = true) (hz : zeroAt c.bytes 36 8 = true) (hload : u.loadShards q (fcFirst c.bytes) (fcCount c.bytes) = (l, none, v))
    (hshards : (l.any fun p => shardBad p.2.1 p.2.2 || groupBadEntry p.2.2) = false) (hprogs : v.loadProgs l = (progs, none, w))
    (hins : (l.any fun p => !(((progs.lookup (sdGroup p.2.1)).getD []).all (insOk (sdNstate p.2.1)))) = false) :
    s.fbxUpdate q = w.fbxPass2 q c l fun g => (progs.lookup g).getD [] := by
  simp only [State.fbxUpdate, fbxHead_of_op hon hready hop, ← hu, hload, hprogs]
  rw [if_neg (by simp [hgood, hrange, haddr, hnorm, hz]), if_neg (ne_true_of_eq_false hshards), if_neg (ne_true_of_eq_false hins)]

/-! ### DWRITE -/

section
variable {v : State} {j : Nat} {sd e : List Byte} {rest : List (Nat × List Byte × List Byte)} {rd : Rd} (hop : c.op = 4) (hrange : fcRangeBad u q c.bytes = false) (hcount : fcCount c.bytes = 1)
  (haddr : addrBad (fcVec c.bytes) = false) (hn : leAt c.bytes 36 4 ≠ 0) (hflags : leAt c.bytes 40 4 < 2) (hload : u.loadShards q (fcFirst c.bytes) 1 = ((j, sd, e) :: rest, none, v))
  (hshard : shardBad sd e = false) (hrd : rd = v.read (v.shardRec q (fcFirst c.bytes)) 64) (hbad : rd.bad = none)
include hop hrange hcount haddr hn hflags hload hshard hrd hbad

theorem fbxDwrite_discards (hwhy : dwCauses e rd.bytes s.job.step (sdN sd) (leAt c.bytes 32 4 + leAt c.bytes 36 4) ≠ []) :
    s.fbxDwrite q = rd.st.dwDiscard q c (pickOne (dwCauses e rd.bytes s.job.step (sdN sd) (leAt c.bytes 32 4 + leAt c.bytes 36 4))) := by
  have hdiv : leAt c.bytes 40 4 / 2 = 0 := Nat.div_eq_of_lt hflags
  simp only [State.fbxDwrite, fbxHead_of_op hon hready hop, ← hu, hload, ← hrd, hbad]
  rw [if_neg (by simp [hgood, hrange, hcount, haddr, hn, hdiv]), if_neg (ne_true_of_eq_false hshard), if_pos hwhy]
theorem fbxDwrite_writes (hwhy : dwCauses e rd.bytes s.job.step (sdN sd) (leAt c.bytes 32 4 + leAt c.bytes 36 4) = []) {inc : Nat} {vs hs : List Nat} {a b : State} (hinc : inc = 1 - leAt rd.bytes 8 4 % 2)
    (hvs : rd.st.readCodes (fcVec c.bytes) (leAt c.bytes 36 4) 4 = (vs, none, a)) (hhs : a.readCodes (sdHigh sd + inc * sdOff sd) (sdN sd) 2 = (hs, none, b))
    (hall : (vs.zipIdx.filter fun p => (val32 p.1).isFin).length = leAt c.bytes 36 4) :
    s.fbxDwrite q = ((b.dwElems q sd e inc (leAt c.bytes 32 4) ((leAt c.bytes 40 4).testBit 0) (vs.zipIdx.filter fun p => (val32 p.1).isFin)).publish q sd inc
      (dwHighs (leAt c.bytes 32 4) (vs.zipIdx.filter fun p => (val32 p.1).isFin) hs)).fbxEnd q c 0 ⟨0, leAt c.bytes 36 4, 0⟩ := by
  have hdiv : leAt c.bytes 40 4 / 2 = 0 := Nat.div_eq_of_lt hflags
  simp only [State.fbxDwrite, fbxHead_of_op hon hready hop, ← hu, hload, ← hrd, hbad, ← hinc, hvs, hhs, firstBad, hall, Nat.sub_self, if_true]
  rw [if_neg (by simp [hgood, hrange, hcount, haddr, hn, hdiv]), if_neg (ne_true_of_eq_false hshard), if_neg (not_not_intro hwhy)]
end
end

/-! ### Pass 2 -/

section
variable {w : State} {q : Nat} {c : QCmd} {l : List (Nat × List Byte × List Byte)} {prog : Nat → List Nat} {r : Rd} (hr : r = w.read (fcVec c.bytes) 6160) (hbad : r.bad = none)
include hr hbad

theorem fbxPass2_vetoes (hveto : (r.bytes.head?.any fun x => x.getLsbD 0) = true) : w.fbxPass2 q c l prog = ((r.st.raise (F.FBX_EVENT_VETOED q)).vetoNf).fbxEnd q c 1 FCount.none := by
  simp only [State.fbxPass2, ← hr, hbad]
  exact if_pos hveto
theorem fbxPass2_updates (hveto : (r.bytes.head?.any fun x => x.getLsbD 0) = false) {ents : List (List Byte × List Byte)} {a b : State} {n : FCount} {sels : Rd} (hsels : sels = r.st.groupSels)
    (hsbad : sels.bad = none) (hents : sels.st.readPairs 256 128 32 (fun g => w.groupAddr q g) (fun g => w.gstateAddr q g (1 - groupSel sels.bytes g)) = (ents, none, a))
    (hrun : a.updateShards q prog (updateConsts ents r.bytes (fcMaxNorm c.bytes)) l = (n, none, b)) : w.fbxPass2 q c l prog = b.fbxEnd q c 0 n := by
  simp only [State.fbxPass2, ← hr, hbad, ← hsels, hsbad, hents, firstBad, hrun]
  exact if_neg (ne_true_of_eq_false hveto)
end

/-- Settles O36, by one equation for each command. -/
theorem normFoldAndNopRun : Obligations.NormFoldAndNopRun := by
  unfold Obligations.NormFoldAndNopRun
  intro q c u s hon hready hu hgood
  have hclk := clocked_of_qOn hon
  refine ⟨fun hop hrange hz l v w n hload hshards hrun => ?_, fun hop hz8 haddr hz32 recs groups v w sels hrecs hsels hbad hgroups => ?_, fun hop hz8 hz24 => ?_⟩
  · exact gives_ticked (f := fun t => t.fbxNorm q.val) rfl hclk (fbxNorm_ends hon hready hu hgood hop hrange hz hload hshards hrun)
  · exact gives_ticked (f := fun t => t.fbxFold q.val) rfl hclk (fbxFold_ends hon hready hu hgood hop hz8 haddr hz32 hrecs hsels hbad hgroups)
  · exact gives_ticked (f := fun t => t.fbxNop q.val) rfl hclk (fbxNop_ends hon hready hu hgood hop hz8 hz24)

/-- Settles O37: a valid UPDATE is pass 2, and the vector's first bit decides it. -/
theorem updateRunsOrVetoes : Obligations.UpdateRunsOrVetoes := by
  unfold Obligations.UpdateRunsOrVetoes
  intro q c u v w l progs r s hon hready hop hu hgood hrange haddr hnorm hz hload hshards hprogs hins hr hbad
  have hdo := fbxUpdate_runs hon hready hu hgood hop hrange haddr hnorm hz hload hshards hprogs hins
  refine ⟨fun hveto => ?_, fun hveto ents a b n sels hsels hsbad hents hrun => ?_⟩
  · exact gives_ticked (f := fun t => t.fbxUpdate q.val) rfl (clocked_of_qOn hon) (hdo.trans (fbxPass2_vetoes hr hbad hveto))
  · exact gives_ticked (f := fun t => t.fbxUpdate q.val) rfl (clocked_of_qOn hon) (hdo.trans (fbxPass2_updates hr hbad hveto hsels hsbad hents hrun))

/-- Settles O38, by the list of causes that discard a DWRITE. -/
theorem dwriteWritesOrIsDiscarded : Obligations.DwriteWritesOrIsDiscarded := by
  unfold Obligations.DwriteWritesOrIsDiscarded
  intro q c u v j sd e rest rd s hon hready hop hu hgood hrange hcount haddr hn hflags hload hshard hrd hbad why hwhy
  have hcauses : dwCauses e rd.bytes s.job.step (sdN sd) (leAt c.bytes 32 4 + leAt c.bytes 36 4) = why := hwhy.symm
  refine ⟨fun hne => ⟨pickOne why, pickOne_mem hne, ?_⟩, fun hnil inc vs hs a b hinc hvs hhs hall => ?_⟩
  · have hdo := fbxDwrite_discards hon hready hu hgood hop hrange hcount haddr hn hflags hload hshard hrd hbad (by rw [hcauses]; exact hne)
    rw [hcauses] at hdo
    exact gives_ticked (f := fun t => t.fbxDwrite q.val) rfl (clocked_of_qOn hon) hdo
  · exact gives_ticked (f := fun t => t.fbxDwrite q.val) rfl (clocked_of_qOn hon)
      (fbxDwrite_writes hon hready hu hgood hop hrange hcount haddr hn hflags hload hshard hrd hbad (hcauses.trans hnil) hinc hvs hhs hall)

end Sys2Proof.Machine
end

section
/-! PROOFS. Operations of a collective engine and their blocks (12_collectives_and_job_mapping.md R405 to R421). -/

namespace Sys2Proof.Machine

/-! ### The start of an operation -/

/-- R407, R408, R419: the run of an operation on its tree. -/
def ColRun.start (c : QCmd) (e epoch : Nat) (ct : Contrib) (chk : Bool) : ColRun :=
  { cmd := c, tree := ccTree c.bytes, epoch := epoch, nb := ccBlocks c.bytes, writes := c.op != 2 || treeParent e == 12, root := treeParent e == 12,
    own := if treeLocal e then ct.blocks ++ [statusPack (ct.veto || chk) false (if (ct.veto || chk) then ccRank c.bytes else 0x3FFF) (if (ct.veto || chk) then ccLayer c.bytes else 0) 1 ct.nonfin] else [],
    res := [], rnext := 0, sent := none, restarted := false }
theorem colStart_launches {s u v : State} {q op e : Nat} {c : QCmd} {ct : Contrib} {chk : Bool} (hon : s.qOn (colQ q) = true) (hready : s.readyHead (colQ q) = some c) (hop : c.op = op)
    (hgood : colBad s q c.bytes = false) (hkept : (s.node q (treeKey s.epoch (ccTree c.bytes))).kept = []) (hfree : s.runOn q (treeKey s.epoch (ccTree c.bytes)) = none) (hswitch : s.switchHold = false)
    (hu : u = (s.startHead (colQ q)).noteInjection) (he : e = u.treeEntry u.epoch (ccTree c.bytes))
    (hct : ct = (if !treeLocal e then ⟨[], 0, false, none, u⟩ else if op = 3 then u.normContribution c.bytes else u.contribution c.bytes)) (hbad : ct.bad = none)
    (hchk : ct.st.checkList c.bytes = (chk, none, v)) :
    s.colStart q op = v.colLaunch q false (ColRun.start c e v.epoch ct chk) (op == 3 || !(ccCheck c.bytes && (ct.veto || chk) && treeLocal e)) := by
  subst hop
  simp only [State.colStart, hready, ← hu, ← he, ← hct, hchk, hbad, firstBad]
  rw [if_neg (by simp [hon]), if_neg (by simp), if_neg (ne_true_of_eq_false hgood), if_neg (by simp [hkept, hfree, hswitch])]
  rfl

/-- Settles O39, by the equation of the start of an operation; the three commands are one function of the opcode. -/
theorem collectiveStarts : Obligations.CollectiveStarts := by
  unfold Obligations.CollectiveStarts
  intro q i op c u v e ct chk r s hi hon hready hop hgood hkept hfree hswitch hu he hct hbad hchk hr
  have hdo := colStart_launches hon hready hop hgood hkept hfree hswitch hu he hct hbad hchk
  have hrun : ColRun.start c e v.epoch ct chk = r := by rw [hr, ← hop]; rfl
  rw [hrun] at hdo
  have hexec : exec i s = s.ticked fun t => t.colStart q.val op := by
    rcases hi with ⟨rfl, rfl⟩ | ⟨rfl, rfl⟩ | ⟨rfl, rfl⟩
    · rfl
    · rfl
    · rfl
  exact gives_ticked (f := fun t => t.colStart q.val op) hexec (clocked_of_qOn hon) hdo

/-! ### A NOP, and the next block of a node -/

theorem colNop_ends {s : State} {q : Nat} {c : QCmd} (hon : s.qOn (colQ q) = true) (hready : s.readyHead (colQ q) = some c) (hop : c.op = 4) (hgood : colCommonBad (s.startHead (colQ q)) c.bytes = false)
    (hlow : leAt c.bytes 0 4 < 2 ^ 8) (hz8 : zeroAt c.bytes 8 60 = true) (hz80 : zeroAt c.bytes 80 32 = true) :
    s.colNop q = ((s.startHead (colQ q)).colFinish q c 0 ColRec.none).endHead (colQ q) := by
  obtain ⟨u, hu⟩ : ∃ u, u = s.startHead (colQ q) := ⟨_, rfl⟩
  rw [← hu] at hgood ⊢
  simp only [State.colNop, hready, ← hu]
  rw [if_neg (by simp [hon]), if_neg (by simp [hop]), if_neg (by simp [hgood, hz8, hz80]; omega)]
section
variable {s : State} {q k i : Nat}

theorem blockCombine_eq {src : List Nat} (hclk : s.clocked = true)
    (hfind : (((s.colOf q).nodes.map (·.1)).findSome? fun k => (s.combinable q k).map fun x => (k, x.1, x.2)) = some (k, i, src)) : s.blockCombine q = s.combineAt q k i src := by
  simp only [State.blockCombine, hfind]
  exact if_neg (by simp [hclk])
/-- R410, R421: a relay with one child keeps its block and sends it on to its parent. -/
theorem combineAt_relay (p : Nat) (hrun : s.runOn q k = none) :
    s.combineAt q k i [p] = ((s.modNode q k fun n => { n with contrib := n.contrib.filter fun c => c.1 % 2 ^ 32 != i, next := i + 1 }).modNode q k fun n =>
        { n with kept := n.kept ++ [(i, (s.node q k).contrib.look [] (p * 2 ^ 32 + i))] }).sendOn (treeParent (s.treeAt k))
          (treePacket 2 (k / 4096) (k % 4096) i ((s.node q k).contrib.look [] (p * 2 ^ 32 + i))) := by
  unfold State.combineAt
  rw [hrun]
  rfl
end

/-- Settles O40, by the equation of a NOP and of a node that combines its next block. -/
theorem blocksAreCombined : Obligations.BlocksAreCombined := by
  unfold Obligations.BlocksAreCombined
  refine ⟨fun q c s hon hready hop hgood hlow hz8 hz80 => ?_, fun q k i src s hclk hfind => ⟨?_, fun hrun p hsrc => ?_⟩⟩
  · exact gives_ticked (f := fun t => t.colNop q.val) rfl (clocked_of_qOn hon) (colNop_ends hon hready hop hgood hlow hz8 hz80)
  · exact gives_ticked (f := fun t => t.blockCombine q.val) rfl hclk (blockCombine_eq hclk hfind)
  · subst hsrc
    exact gives_ticked (f := fun t => t.blockCombine q.val) rfl hclk ((blockCombine_eq hclk hfind).trans (combineAt_relay p hrun))

end Sys2Proof.Machine
end

section
/-! PROOFS. Packets of the fabric: arrival, streams, sparks, acknowledgements and sends (11_flue_fabric.md R374 to R388, 13_barriers_sparks_queues.md R451). -/

namespace Sys2Proof.Machine

/-! ### Arrival -/

section
variable {s : State} {p seq : Nat} {pkt : List Byte} {errs : List (BitVec 144)} (hclk : s.clocked = true) (hlive : s.portLive p = true)
include hclk hlive

theorem packetIn_bad (hcheck : checkCodewords pkt errs = none) : s.packetIn p seq pkt errs = (s.noteSymbols p 0).codewordBad p [seq] := by
  simp only [State.packetIn, hcheck]
  exact if_neg (by simp [hclk, hlive])
theorem packetIn_clean (hlen : pkt.length = 64) (herrs : ∀ e ∈ errs, e = 0) (hmiss : (s.port p).missing = []) : s.packetIn p seq pkt errs = (s.noteSymbols p 0).accept p pkt := by
  have hport : ((s.noteSymbols p 0).port p).missing = [] := hmiss
  simp only [State.packetIn, clean_codewords pkt errs hlen herrs, State.linkIn, hport]
  exact if_neg (by simp [hclk, hlive])
end

/-! ### Streams -/

/-- R386: a data packet writes its bytes at its place, and the part of the stream's sum is kept. -/
def State.streamPut (s : State) (port tag i : Nat) (d pkt : List Byte) (addr : Nat) : State :=
  let bs := (pktPayload pkt).take (min 48 (rdLen d - 48 * i))
  let u := (s.unitWrite .port port (addr + 24) (leBytes 4 (i + 1))).unitWrite .port port (rdBase d + 48 * i) bs
  { u with flue := { u.flue with rxSum := u.flue.rxSum.write 0 (tag * 2 ^ 25 + i) (sumPart i bs) } }
section
variable {s : State} {port tag i : Nat} {pkt : List Byte} {r : Rd} (hr : r = s.read (s.rdAddr tag) 32) (hbad : r.bad = none)
include hr hbad

theorem rdRead_rejected (hval : rdValid r.bytes = true) (hrule : rdBad r.bytes = true) :
    s.rdRead port tag = (none, r.st.descRecord (rxKind port) (s.rxUnit port) (s.rdAddr tag) tag) := by
  simp only [State.rdRead, ← hr, hbad]
  exact if_pos (by simp [hval, hrule])
theorem rdRead_taken (h : rdValid r.bytes = false ∨ rdBad r.bytes = false) : s.rdRead port tag = (some r.bytes, r.st) := by
  simp only [State.rdRead, ← hr, hbad]
  exact if_neg (by rcases h with h | h <;> simp [h])
theorem streamIn_rejected (hval : rdValid r.bytes = true) (hrule : rdBad r.bytes = true) :
    s.streamIn port tag i pkt = r.st.descRecord (rxKind port) (s.rxUnit port) (s.rdAddr tag) tag := by
  simp only [State.streamIn, rdRead_rejected hr hbad hval hrule]
theorem streamIn_fault (h : rdValid r.bytes = false ∨ rdBad r.bytes = false ∧ i ≠ rdNext r.bytes ∧ i % 256 ≠ 0) : s.streamIn port tag i pkt = r.st.seqFault port pkt := by
  simp only [State.streamIn, rdRead_taken hr hbad (h.imp_right And.left)]
  refine if_pos ?_
  rcases h with h | ⟨-, hnext, hchunk⟩
  · exact .inl (by simp [h])
  · exact .inr (.inr (by simp [hnext, hchunk]))
theorem streamIn_writes (hval : rdValid r.bytes = true) (hrule : rdBad r.bytes = false) (hnext : i = rdNext r.bytes) (hlt : i < ceilDiv (rdLen r.bytes) 48) (hchunk : i % 256 ≠ 255) (hport : port < 12) :
    s.streamIn port tag i pkt = (r.st.streamPut port tag i r.bytes pkt (s.rdAddr tag)).releaseHeld tag (i + 1) := by
  have hkind : rxKind port = .port := if_pos hport
  have hunit : s.rxUnit port = port := if_pos hport
  simp only [State.streamIn, rdRead_taken hr hbad (.inr hrule), hkind, hunit]
  rw [if_neg (by simp [hval, ← hnext]; omega), if_pos hlt, if_neg (by rintro ⟨-, h | h⟩ <;> omega)]
  rfl
end

theorem dataReceive_eq {s s1 : State} {port : Nat} {pkt : List Byte} (hclk : s.clocked = true) (htake : s.takeDelivered (fun p => pktType p == 0) = some ((port, pkt), s1)) :
    s.dataReceive = if 4096 ≤ pktTag pkt then s1.seqFault port pkt else s1.streamIn port (pktTag pkt) (256 * pktAux pkt + pktSeq pkt) pkt := by
  simp only [State.dataReceive, htake]
  exact if_neg (by simp [hclk])

theorem dataReceive_stream {s s1 : State} {port tag i : Nat} {pkt : List Byte} (hclk : s.clocked = true) (htake : s.takeDelivered (fun p => pktType p == 0) = some ((port, pkt), s1))
    (htag : tag = pktTag pkt) (hi : i = 256 * pktAux pkt + pktSeq pkt) (hlt : tag < 4096) : s.dataReceive = s1.streamIn port tag i pkt := by
  rw [dataReceive_eq hclk htake, if_neg (by omega), htag, hi]

/-! ### Sparks -/

section
variable {s s1 : State} {port : Nat} {pkt : List Byte} (hclk : s.clocked = true) (htake : s.takeDelivered (fun p => pktType p == 3) = some ((port, pkt), s1))
include hclk htake

theorem sparkReceive_at_once (hk : leAt (pktPayload pkt) 0 4 = 0) (hgrp : s1.isGroup (pktAux pkt % 4096) = false) : s.sparkReceive = s1.signal (pktAux pkt % 4096) none := by
  simp only [State.sparkReceive, htake, hk, hgrp]
  rw [if_neg (by simp [hclk]), if_pos trivial, if_neg (by simp)]
variable {r : Rd} (hr : r = s1.read (s1.rdAddr (pktTag pkt)) 32) (hk : leAt (pktPayload pkt) 0 4 ≠ 0) (htag : pktTag pkt < 4096) (hbad : r.bad = none) (hval : rdValid r.bytes = true)
  (hrule : rdBad r.bytes = false)
include hr hk htag hbad hval hrule

theorem sparkReceive_counts (hle : leAt (pktPayload pkt) 0 4 ≤ rdNext r.bytes) : s.sparkReceive = r.st.signal (pktAux pkt % 4096) none := by
  simp only [State.sparkReceive, htake, rdRead_taken hr hbad (.inr hrule)]
  rw [if_neg (by simp [hclk]), if_neg hk, if_neg (by omega), if_neg (by simp [hval]), if_pos hle]
theorem sparkReceive_holds (hlt : rdNext r.bytes < leAt (pktPayload pkt) 0 4) (hroom : s1.syn.hold.length < 256) :
    s.sparkReceive = ({ r.st with syn := { r.st.syn with hold := r.st.syn.hold ++ [(pktAux pkt % 4096, pktTag pkt, leAt (pktPayload pkt) 0 4)] } } : State).set F.SYN_STATUS_HOLDS (r.st.syn.hold.length + 1) := by
  simp only [State.sparkReceive, htake, rdRead_taken hr hbad (.inr hrule), List.length_append, List.length_singleton]
  rw [if_neg (by simp [hclk]), if_neg hk, if_neg (by omega), if_neg (by simp [hval]), if_neg (by omega), if_neg (by omega)]
theorem sparkReceive_full (hlt : rdNext r.bytes < leAt (pktPayload pkt) 0 4) (hfull : 256 ≤ s1.syn.hold.length) : s.sparkReceive = s.raise F.SYN_EVENT_HOLD_FULL := by
  simp only [State.sparkReceive, htake, rdRead_taken hr hbad (.inr hrule)]
  rw [if_neg (by simp [hclk]), if_neg hk, if_neg (by omega), if_neg (by simp [hval]), if_neg (by omega), if_pos hfull]
end

/-! ### Acknowledgements of a send -/

theorem modInj_at (s : State) (q : Nat) (f : Injector → Injector) : s.modInj q f = s.modInj q fun _ => f (s.inj q) := rfl
/-- R384: whether an injector has a send open with a stream tag. -/
def State.sendOpen (s : State) (tag q : Nat) : Bool := (s.inj q).opened.any fun o => sdTag o.cmd.bytes == tag
section
variable {s s1 : State} {port : Nat} {pkt : List Byte} (hclk : s.clocked = true) (htake : s.takeDelivered (fun p => pktType p == 4 && decide (pktTag p < 4096)) = some ((port, pkt), s1))
include hclk htake

theorem streamAck_unknown (h : ∀ q < 4, ∀ o ∈ (s1.inj q).opened, sdTag o.cmd.bytes ≠ pktTag pkt) : s.streamAck = s1 := by
  have hfind : (List.range 4).find? (s1.sendOpen (pktTag pkt)) = none := by
    rw [List.find?_eq_none]
    intro q hq
    simpa [State.sendOpen] using h q (List.mem_range.1 hq)
  unfold State.sendOpen at hfind
  simp only [State.streamAck, htake, hfind]
  exact if_neg (by simp [hclk])
variable {o : OpenSend} (hopen : (s1.inj 0).opened = [o]) (htag : sdTag o.cmd.bytes = pktTag pkt) (hnew : pktAux pkt ∉ o.acked)
include hopen htag hnew

theorem streamAck_eq : s.streamAck = if ((List.range (sdChunks o.cmd.bytes)).all fun c => (o.acked ++ [pktAux pkt]).contains c) = true then (s1.modInj 0 fun _ => { opened := [] }).sendEnd 0 o.cmd
    else s1.modInj 0 fun _ => { opened := [{ o with acked := o.acked ++ [pktAux pkt] }] } := by
  have hhit : s1.sendOpen (pktTag pkt) 0 = true := by rw [State.sendOpen, hopen]; simp [htag]
  have hfind : (List.range 4).find? (s1.sendOpen (pktTag pkt)) = some 0 := by
    rw [show List.range 4 = 0 :: [1, 2, 3] from rfl, List.find?_cons_of_pos hhit]
  have hmine : (s1.inj 0).opened.find? (fun o => sdTag o.cmd.bytes == pktTag pkt) = some o := by rw [hopen]; simp [htag]
  have hacked : (if o.acked.contains (pktAux pkt) = true then o.acked else o.acked ++ [pktAux pkt]) = o.acked ++ [pktAux pkt] := if_neg (by simpa using hnew)
  have hends : (s1.modInj 0 fun j => { opened := j.opened.filter (· != o) }) = s1.modInj 0 fun _ => { opened := [] } := by
    rw [modInj_at, hopen]
    simp
  have hstays : (s1.modInj 0 fun j => { opened := j.opened.map fun x => if x = o then { o with acked := o.acked ++ [pktAux pkt] } else x }) =
      s1.modInj 0 fun _ => { opened := [{ o with acked := o.acked ++ [pktAux pkt] }] } := by
    rw [modInj_at, hopen]
    simp
  unfold State.sendOpen at hfind
  simp only [State.streamAck, htake, hfind, hmine, hacked, hends, hstays]
  exact if_neg (by simp [hclk])
end

/-! ### Multicasts -/

section
variable {s s1 u : State} {port k : Nat} {pkt : List Byte} (hclk : s.clocked = true) (htake : s.takeDelivered (fun p => pktType p == 1) = some ((port, pkt), s1))
  (hk : k = treeKey (s1.pktVersion port pkt) (pktAux pkt % 4096)) (hu : u = s1.each (treePorts (s1.treeAt k)) fun t p => t.sendOn p pkt)
include hclk htake hk hu

theorem mcastReceive_root (hroot : treeParent (s1.treeAt k) = 12) : s.mcastReceive = u := by
  simp only [State.mcastReceive, htake, ← hk, ← hu]
  rw [if_neg (by simp [hclk]), if_pos hroot]
theorem mcastReceive_result (hroot : treeParent (s1.treeAt k) ≠ 12) {r : ColRun} {v : Bool} (hrun : u.runOn (treeEngine (s1.treeAt k)) k = some (r, v)) :
    s.mcastReceive = u.resultIn (treeEngine (s1.treeAt k)) v r pkt := by
  simp only [State.mcastReceive, htake, ← hk, ← hu, hrun]
  rw [if_neg (by simp [hclk]), if_neg hroot]
theorem mcastReceive_relay (hroot : treeParent (s1.treeAt k) ≠ 12) (hrun : u.runOn (treeEngine (s1.treeAt k)) k = none) (hlocal : treeLocal (s1.treeAt k) = false) : s.mcastReceive = u := by
  simp only [State.mcastReceive, htake, ← hk, ← hu, hrun]
  rw [if_neg (by simp [hclk]), if_neg hroot, if_pos (by simp [hlocal])]
end
theorem treeAck_eq {s s1 : State} {port : Nat} {pkt : List Byte} (hclk : s.clocked = true) (htake : s.takeDelivered (fun p => pktType p == 4 && decide (0xF000 ≤ pktTag p)) = some ((port, pkt), s1)) :
    s.treeAck = s1.treeAckIn (treeEngine (s1.treeAt (treeKey (s1.pktVersion port pkt) (pktTag pkt - 0xF000)))) (treeKey (s1.pktVersion port pkt) (pktTag pkt - 0xF000)) (pktAux pkt) := by
  simp only [State.treeAck, htake]
  exact if_neg (by simp [hclk])

/-! ### Sends -/

section
variable {s u : State} {q : Nat} {c : QCmd} (hon : s.qOn (injQ q) = true) (hswitch : s.switchHold = false) (hready : s.readyHead (injQ q) = some c) (hop : c.op = 1) (hu : u = s.startHead (injQ q))
include hon hswitch hready hop hu

theorem send_rejects (hbad : sendBad u c.bytes = true) : s.send q = (u.sendReject q c).endHead (injQ q) := by
  simp only [State.send, hready, ← hu]
  rw [if_neg (by simp [hon, hswitch]), if_neg (by simp [hop]), if_pos hbad]
theorem send_streams {r : Rd} (hr : r = u.read (sdSrc c.bytes) (sdLen c.bytes)) (hgood : sendBad u c.bytes = false) (hbad : r.bad = none) :
    s.send q = if Config.sendAcked c.bytes then ((r.st.stream c.bytes 0 r.bytes).modInj q fun j => { opened := j.opened ++ [⟨c, []⟩] }).endHead (injQ q)
      else ((r.st.stream c.bytes 0 r.bytes).sendEnd q c).endHead (injQ q) := by
  simp only [State.send, hready, ← hu, ← hr, hbad]
  rw [if_neg (by simp [hon, hswitch]), if_neg (by simp [hop]), if_neg (ne_true_of_eq_false hgood)]
end

/-- Settles O50, by the service of each type of packet. -/
theorem packetsAreServed : Obligations.PacketsAreServed := by
  unfold Obligations.PacketsAreServed
  intro s hclk
  refine ⟨fun p seq pkt errs hlive u hu => ⟨fun hlen herrs hmiss => ?_, fun hcheck => ?_⟩, fun port pkt s1 => ⟨fun htake => ⟨fun hbig => ?_, fun tag i r htag hi hlt hr hbad => ⟨fun hval hrule => ?_, fun h => ?_, fun hval hrule hnext hin hchunk hport => ?_⟩⟩,
    fun htake b k hb hk => ⟨fun h0 _ hgrp => ?_, fun r hr h0 htag hbad hval hrule => ⟨fun hle => ?_, fun hlt hroom => ?_, fun hlt hfull => ?_⟩⟩,
    fun htake => ⟨fun h => ?_, fun o hopen htag hnew => ⟨fun hmore => ?_, fun hall => ?_⟩⟩, fun htake => ?_, fun htake => ⟨fun hroot => ?_, fun hroot r v hrun => ?_, fun hroot hrun hlocal => ?_⟩⟩,
    fun q c hon hswitch hready hop => ⟨fun hbad => ?_, fun r hr hgood hbad => ⟨fun hack => ?_, fun hack => ?_⟩⟩⟩
  · subst hu
    exact gives_ticked (f := fun t => t.packetIn p.val seq.toNat pkt errs) rfl hclk (packetIn_clean hclk hlive hlen herrs hmiss)
  · subst hu
    exact gives_ticked (f := fun t => t.packetIn p.val seq.toNat pkt errs) rfl hclk (packetIn_bad hclk hlive hcheck)
  · exact gives_ticked (f := fun t => t.dataReceive) rfl hclk ((dataReceive_eq hclk htake).trans (if_pos hbig))
  · exact gives_ticked (f := fun t => t.dataReceive) rfl hclk ((dataReceive_stream hclk htake htag hi hlt).trans (streamIn_rejected hr hbad hval hrule))
  · exact gives_ticked (f := fun t => t.dataReceive) rfl hclk ((dataReceive_stream hclk htake htag hi hlt).trans (streamIn_fault hr hbad h))
  · exact gives_ticked (f := fun t => t.dataReceive) rfl hclk ((dataReceive_stream hclk htake htag hi hlt).trans (streamIn_writes hr hbad hval hrule hnext hin hchunk hport))
  · subst hb hk
    exact gives_ticked (f := fun t => t.sparkReceive) rfl hclk (sparkReceive_at_once hclk htake h0 hgrp)
  · subst hb hk
    exact gives_ticked (f := fun t => t.sparkReceive) rfl hclk (sparkReceive_counts hclk htake hr h0 htag hbad hval hrule hle)
  · subst hb hk
    exact gives_ticked (f := fun t => t.sparkReceive) rfl hclk (sparkReceive_holds hclk htake hr h0 htag hbad hval hrule hlt hroom)
  · subst hb hk
    exact gives_ticked (f := fun t => t.sparkReceive) rfl hclk (sparkReceive_full hclk htake hr h0 htag hbad hval hrule hlt hfull)
  · exact gives_ticked (f := fun t => t.streamAck) rfl hclk (streamAck_unknown hclk htake h)
  · refine gives_ticked (f := fun t => t.streamAck) rfl hclk ((streamAck_eq hclk htake hopen htag hnew).trans (if_neg ?_))
    obtain ⟨c, hc, hold, hne⟩ := hmore
    simp only [List.all_eq_true, List.mem_range, List.contains_iff_mem, List.mem_append, List.mem_singleton]
    exact fun h => (h c hc).elim hold hne
  · refine gives_ticked (f := fun t => t.streamAck) rfl hclk ((streamAck_eq hclk htake hopen htag hnew).trans (if_pos ?_))
    simp only [List.all_eq_true, List.mem_range, List.contains_iff_mem, List.mem_append, List.mem_singleton]
    exact hall
  · exact gives_ticked (f := fun t => t.treeAck) rfl hclk (treeAck_eq hclk htake)
  · exact gives_ticked (f := fun t => t.mcastReceive) rfl hclk (mcastReceive_root hclk htake rfl rfl hroot)
  · exact gives_ticked (f := fun t => t.mcastReceive) rfl hclk (mcastReceive_result hclk htake rfl rfl hroot hrun)
  · exact gives_ticked (f := fun t => t.mcastReceive) rfl hclk (mcastReceive_relay hclk htake rfl rfl hroot hrun hlocal)
  · exact gives_ticked (f := fun t => t.send q.val) rfl hclk (send_rejects hon hswitch hready hop rfl hbad)
  · exact gives_ticked (f := fun t => t.send q.val) rfl hclk ((send_streams hon hswitch hready hop rfl hr hgood hbad).trans (if_pos hack))
  · refine gives_ticked (f := fun t => t.send q.val) rfl hclk ((send_streams hon hswitch hready hop rfl hr hgood hbad).trans (if_neg ?_))
    exact ne_true_of_eq_false hack

end Sys2Proof.Machine
end

section
/-! PROOFS. The host commands of the control page (15_startup_configuration_security.md R509 to R515, R492). -/

namespace Sys2Proof.Machine

/-! ### The poll of the page -/

section
variable {s s1 s2 s3 s4 u : State} {cmd seq a len : Nat} (hlisten : s.hobListens = true) (hcmd : s.pageRead 8 4 = (cmd, s1))
include hlisten hcmd

theorem pagePoll_idle (h0 : cmd = 0) : s.pagePoll = s1 := by
  simp only [State.pagePoll, hcmd]
  rw [if_neg (by simp [hlisten]), if_pos h0]
theorem pagePoll_takes (hseq : s1.pageRead 0xC 4 = (seq, s2)) (ha : s2.pageRead 0x18 8 = (a, s3)) (hlen : s3.pageRead 0x20 8 = (len, s4)) (h0 : cmd ≠ 0)
    (hu : u = { s4 with hob := { s4.hob with cmd := some (cmd, seq, a, len) } }) :
    s.pagePoll = if (!cmdKnown (s.get F.SEC_BOOT_STAGE) cmd || argsBad cmd a len) = true then u.cmdEnd 4 else if cmd = 1 ∧ s.get F.CFG_STATE_IMAGE = 0 then u.set F.CFG_STATE_IMAGE 1 else u := by
  simp only [State.pagePoll, hcmd, hseq, ha, hlen, ← hu]
  rw [if_neg (by simp [hlisten]), if_neg h0]
end

/-! ### LOAD -/

section
variable {s s1 : State} {seq a len : Nat} {img : List Byte} (hclk : s.clocked = true) (hcmd : s.hob.cmd = some (1, seq, a, len)) (hload : s.hob.loading = false)
include hclk hcmd hload

theorem load_busy (himg : 2 ≤ s.get F.CFG_STATE_IMAGE) : s.load = s.cmdEnd 2 := by
  simp only [State.load, hcmd]
  rw [if_neg (by simp [hclk, hload]), if_pos himg]
variable (himg : s.get F.CFG_STATE_IMAGE < 2) (hread : s.hobRead a len = (img, s1))
include himg hread

theorem load_refuses {code : Nat} (href : s1.imageRefusal img = some code) : s.load = s1.refuse code 0 0 0 0 := by
  simp only [State.load, hcmd, hread, href]
  rw [if_neg (by simp [hclk, hload]), if_neg (by omega)]
variable {r : Rec} (href : s1.imageRefusal img = none) (hrec : recOf ((ctRecords img).getD []) 0x201 = some r)
include href hrec

theorem load_loads (hjob : s1.jobRefusal r.body = none) : s.load = s1.loadImage a img r.body ((ctRecords img).getD []) := by
  simp only [State.load, hcmd, hread, href, hrec, hjob]
  rw [if_neg (by simp [hclk, hload]), if_neg (by omega)]
theorem load_refuses_job {code res need avail : Nat} (hjob : s1.jobRefusal r.body = some (code, res, need, avail)) (hcode : code ≠ 0x11) : s.load = s1.refuse code res (jobOf r.body 4) need avail := by
  simp only [State.load, hcmd, hread, href, hrec, hjob]
  rw [if_neg (by simp [hclk, hload]), if_neg (by omega), if_neg (fun h => hcode h.1)]
end

/-! ### The end of a load -/

/-- R510: what the end of a load shows of a job's numbers, the version and the hash of its image. -/
def State.loadShown (s : State) (j : Nat → Nat) (svn : Nat) (h : List Byte) : State :=
  let s1 := (s.each (List.range 4) fun t q => t.set (F.COL_NRANKS_COUNT q) (j 0)).set F.ERR_CTRL_JOB_EN 1
  let s2 := (((s1.set F.CFG_NDEV_COUNT (j 0)).set F.CFG_CUTS_A_RS (j 1)).set F.CFG_CUTS_A_S (j 2)).set F.CFG_CUTS_B_RR (j 3)
  let s3 := ((s2.set F.CFG_CUTS_B_STAGE (j 23)).set F.CFG_CUHAMSVN_SVN svn).each (List.range 16) fun t i => t.setReg (R.CFG_IMGHASH i) (BitVec.ofNat 32 (leAt h (4 * i) 4))
  (s3.set F.CFG_STATE_IMAGE 2).set F.ERR_STATUS_JOB 1
theorem loadEnds_eq (s : State) : s.loadEnds = { s with hob := { s.hob with loading := false } }.loadShown s.jobf (leAt s.hob.imgHdr 12 4) s.imgHash := rfl
theorem loadShown_does (s : State) (j : Nat → Nat) (svn : Nat) (h : List Byte) : (s.loadShown j svn h).jobEn = true ∧ (s.loadShown j svn h).get F.CFG_STATE_IMAGE = 2 ∧ (s.loadShown j svn h).hob = s.hob ∧
    (s.loadShown j svn h).get F.CFG_NDEV_COUNT = j 0 % 2 ^ F.CFG_NDEV_COUNT.w := by
  obtain ⟨a, ha⟩ : ∃ a, a = s.each (List.range 4) fun t q => t.set (F.COL_NRANKS_COUNT q) (j 0) := ⟨_, rfl⟩
  have hahob : a.hob = s.hob := by rw [ha]; exact each_same _ _ _ (fun t => t.hob) fun _ _ => rfl
  obtain ⟨b, hb⟩ : ∃ b, b = ((((((a.set F.ERR_CTRL_JOB_EN 1).set F.CFG_NDEV_COUNT (j 0)).set F.CFG_CUTS_A_RS (j 1)).set F.CFG_CUTS_A_S (j 2)).set F.CFG_CUTS_B_RR (j 3)).set F.CFG_CUTS_B_STAGE (j 23)).set
    F.CFG_CUHAMSVN_SVN svn := ⟨_, rfl⟩
  have hbhob : b.hob = a.hob := by rw [hb]; rfl
  have hbjob : b.on F.ERR_CTRL_JOB_EN = true := by
    rw [hb, State.on_set_off _ _ (by decide), State.on_set_off _ _ (by decide), State.on_set_off _ _ (by decide), State.on_set_off _ _ (by decide), State.on_set_off _ _ (by decide),
      State.on_set_off _ _ (by decide)]
    exact State.on_set_one _ _ (by decide) (by decide)
  have hbndev : b.get F.CFG_NDEV_COUNT = j 0 % 2 ^ F.CFG_NDEV_COUNT.w := by
    rw [hb, State.get_set_off _ _ (by decide), State.get_set_off _ _ (by decide), State.get_set_off _ _ (by decide), State.get_set_off _ _ (by decide), State.get_set_off _ _ (by decide)]
    exact State.get_set_self _ _ _ (by decide)
  obtain ⟨c, hc⟩ : ∃ c, c = b.each (List.range 16) fun t i => t.setReg (R.CFG_IMGHASH i) (BitVec.ofNat 32 (leAt h (4 * i) 4)) := ⟨_, rfl⟩
  have hchob : c.hob = b.hob := by rw [hc]; exact each_same _ _ _ (fun t => t.hob) fun _ _ => rfl
  have hcreg : ∀ o, (o < 0x100040 ∨ 0x100080 ≤ o) → c.reg o = b.reg o := by
    rw [hc]
    refine each_reg _ _ _ (fun o => o < 0x100040 ∨ 0x100080 ≤ o) fun t i hi o ho => State.reg_setReg_ne _ _ ?_
    have hlt := List.mem_range.1 hi
    simp only [R.CFG_IMGHASH]
    omega
  have hdo : s.loadShown j svn h = (c.set F.CFG_STATE_IMAGE 2).set F.ERR_STATUS_JOB 1 := by rw [hc, hb, ha]; rfl
  rw [hdo]
  refine ⟨?_, ?_, (hchob.trans hbhob).trans hahob, ?_⟩
  · rw [State.jobEn, State.on_set_off _ _ (by decide), State.on_set_off _ _ (by decide), ← hbjob]
    exact on_congr_reg F.ERR_CTRL_JOB_EN (hcreg _ (by decide))
  · rw [State.get_set_off _ _ (by decide)]
    exact State.get_set_lt _ _ _ (by decide) (by decide)
  · rw [State.get_set_off _ _ (by decide), State.get_set_off _ _ (by decide), ← hbndev, State.get, State.get, hcreg _ (by decide)]
theorem loadEnds_does (s : State) : s.loadEnds.jobEn = true ∧ s.loadEnds.get F.CFG_STATE_IMAGE = 2 ∧ s.loadEnds.hob.loading = false ∧
    s.loadEnds.get F.CFG_NDEV_COUNT = s.jobf 0 % 2 ^ F.CFG_NDEV_COUNT.w := by
  obtain ⟨j, hj⟩ : ∃ j, j = s.jobf := ⟨_, rfl⟩
  obtain ⟨svn, hsvn⟩ : ∃ svn, svn = leAt s.hob.imgHdr 12 4 := ⟨_, rfl⟩
  obtain ⟨h, hh⟩ : ∃ h, h = s.imgHash := ⟨_, rfl⟩
  obtain ⟨u, hu⟩ : ∃ u : State, u = { s with hob := { s.hob with loading := false } } := ⟨_, rfl⟩
  have hload : u.hob.loading = false := by rw [hu]
  obtain ⟨hjob, himg, hhob, hndev⟩ := loadShown_does u j svn h
  rw [loadEnds_eq, ← hj, ← hsvn, ← hh, ← hu]
  exact ⟨hjob, himg, by rw [hhob, hload], hndev⟩
theorem loadComplete_ends {s : State} (hclk : s.clocked = true) (hload : s.hob.loading = true) (hsat : s.satisfied (s.jobf 11 % 4096) = true) :
    s.loadComplete = (((s.loadEnds.stepStart s.job.firstStep).saveIndexes.startWorkers.pageWrite 0x40 (refusalBytes 0 0 0 0 0))).cmdEnd 0 := by
  rw [State.loadComplete, if_neg (by simp [hclk, hload, hsat])]
theorem loadTimeout_clears {s : State} (hclk : s.clocked = true) (hload : s.hob.loading = true) (hsat : s.satisfied (s.jobf 11 % 4096) = false) : s.loadTimeout = s.clearLoad.cmdEnd 3 := by
  rw [State.loadTimeout, if_neg (by simp [hclk, hload, hsat])]
theorem loadTimeout_none {s : State} (hsat : s.satisfied (s.jobf 11 % 4096) = true) : s.loadTimeout = s := by
  rw [State.loadTimeout, if_pos (by simp [hsat])]

/-! ### The other commands -/

section
variable {s s1 : State} {seq a len : Nat} (hclk : s.clocked = true)
include hclk

theorem unload_eq (hcmd : s.hob.cmd = some (2, seq, a, len)) : s.unload = ((s.stopNow Stop.hostStop.code).clearLoad).cmdEnd 0 := by
  simp only [State.unload, hcmd]
  exact if_pos hclk
theorem attest_denied (hcmd : s.hob.cmd = some (3, seq, a, len)) (h : s.on F.SEC_BOOT_ID_OK = false ∨ s.aon.seed = none) : s.attest = s.cmdEnd 5 := by
  cases hid : s.on F.SEC_BOOT_ID_OK with
  | false =>
    simp only [State.attest, hcmd, hid]
    exact if_neg (by simp [hclk])
  | true =>
    have hseed : s.aon.seed = none := h.resolve_left (by simp [hid])
    simp only [State.attest, hcmd, hid, hseed]
    exact if_neg (by simp [hclk])
theorem attest_signs {seed nonce sig : List Byte} (hcmd : s.hob.cmd = some (3, seq, a, len)) (hid : s.on F.SEC_BOOT_ID_OK = true) (hseed : s.aon.seed = some seed) (hread : s.hobRead a 32 = (nonce, s1))
    (hsig : sig = Config.falconSign (idBytes seed) (s1.reportBody nonce)) :
    s.attest = (s1.hobWrite (a + 64) (s1.reportBody nonce ++ leBytes 2 (min 1280 sig.length) ++ padTo 1280 sig ++ List.replicate 62 0)).cmdEnd 0 := by
  simp only [State.attest, hcmd, hid, hseed, hread, ← hsig]
  exact if_neg (by simp [hclk])
theorem challenge_eq {nonce : List Byte} {u : State} (hcmd : s.hob.cmd = some (4, seq, a, len)) (hu : u = s.pageWrite 0x80 (padTo 32 nonce)) :
    s.challenge nonce = { u with hob := { u.hob with nonce := some (padTo 32 nonce) } }.cmdEnd 0 := by
  simp only [State.challenge, hcmd, ← hu]
  exact if_neg (by simp [hclk])
theorem submit_denied {tok : List Byte} (hcmd : s.hob.cmd = some (5, seq, a, len)) (hread : s.hobRead a 3392 = (tok, s1)) (htok : s1.tokenOk tok = false) :
    s.submit = ({ s1 with hob := { s1.hob with nonce := none } }.raise F.SEC_EVENT_TOKEN_REJECT).cmdEnd 5 := by
  simp only [State.submit, hcmd, hread, htok]
  exact if_neg (by simp [hclk])
theorem submit_opens {tok : List Byte} {v : State} (hcmd : s.hob.cmd = some (5, seq, a, len)) (hread : s.hobRead a 3392 = (tok, s1)) (htok : s1.tokenOk tok = true)
    (hv : v = (({ s1 with hob := { s1.hob with nonce := none } }.set F.SEC_SESSION_OPEN 1).set F.SEC_SESSION_SCOPE (leAt tok 4 4)).raise F.SEC_EVENT_SESSION_OPEN) :
    s.submit = (v.errRecord .security 0 .hob v.master 5 v.master).cmdEnd 0 := by
  simp only [State.submit, hcmd, hread, htok, ← hv]
  exact if_neg (by simp [hclk])
theorem closeSession_eq (hcmd : s.hob.cmd = some (6, seq, a, len)) : s.closeSession = ((s.set F.SEC_SESSION_OPEN 0).set F.SEC_SESSION_SCOPE 0).cmdEnd 0 := by
  simp only [State.closeSession, hcmd]
  exact if_pos hclk
theorem config_eq {img : List Byte} (hcmd : s.hob.cmd = some (7, seq, a, len)) (hstage : s.get F.SEC_BOOT_STAGE = 14) (hread : s.hobRead a len = (img, s1)) :
    s.config = if s1.imageOk img then (s1.bootImage img).cmdEnd 0 else (if s1.imageOld img then s1.raise F.SEC_EVENT_ROLLBACK else s1).cmdEnd 1 := by
  simp only [State.config, hcmd, hread]
  exact if_neg (by simp [hclk, hstage])
end

/-- Settles O58, by one equation for each command of the page. -/
theorem hostCommandsRun : Obligations.HostCommandsRun := by
  unfold Obligations.HostCommandsRun
  intro s hclk
  refine ⟨fun cmd seq a len s1 s2 s3 s4 hlisten hcmd hseq ha hlen => ⟨fun h0 => ?_, fun h0 u hu => ⟨fun hbad => ?_, fun hknown hargs => ⟨fun hne => ?_, fun h1 himg => ?_⟩⟩⟩,
    fun seq a len hcmd hload => ⟨fun himg => ?_, fun himg img s1 hread => ⟨fun code href => ?_, fun href r hrec => ⟨fun hjob => ?_, fun code res need avail hjob hcode => ?_⟩⟩⟩,
    fun hload hsat => ?_, fun hload hsat => ?_, fun hload hsat => ?_, fun seq a len hcmd => ?_, fun seq a len hcmd => ⟨fun h => ?_, fun seed nonce s1 hid hseed hread sig hsig => ?_⟩,
    fun nonce u hu hcmd => ?_, fun seq a len tok s1 hcmd hread u hu => ⟨fun htok => ?_, fun htok v hv => ?_⟩, fun seq a len hcmd => ?_,
    fun seq a len img s1 hcmd hstage hread => ⟨fun hok => ?_, fun hno => ?_⟩⟩
  · exact gives_ticked (f := fun t => t.pagePoll) rfl hclk (pagePoll_idle hlisten hcmd h0)
  · refine gives_ticked (f := fun t => t.pagePoll) rfl hclk ((pagePoll_takes hlisten hcmd hseq ha hlen h0 hu).trans (if_pos ?_))
    rcases hbad with h | h <;> simp [h]
  · refine gives_ticked (f := fun t => t.pagePoll) rfl hclk ((pagePoll_takes hlisten hcmd hseq ha hlen h0 hu).trans ?_)
    rw [if_neg (by simp [hknown, hargs]), if_neg (fun h => hne.elim (fun hc => hc h.1) fun hi => hi h.2)]
  · refine gives_ticked (f := fun t => t.pagePoll) rfl hclk ((pagePoll_takes hlisten hcmd hseq ha hlen h0 hu).trans ?_)
    rw [if_neg (by simp [hknown, hargs]), if_pos ⟨h1, himg⟩]
  · exact gives_ticked (f := fun t => t.load) rfl hclk (load_busy hclk hcmd hload himg)
  · exact gives_ticked (f := fun t => t.load) rfl hclk (load_refuses hclk hcmd hload himg hread href)
  · exact gives_ticked (f := fun t => t.load) rfl hclk (load_loads hclk hcmd hload himg hread href hrec hjob)
  · exact gives_ticked (f := fun t => t.load) rfl hclk (load_refuses_job hclk hcmd hload himg hread href hrec hjob hcode)
  · exact ⟨gives_ticked (f := fun t => t.loadComplete) rfl hclk (loadComplete_ends hclk hload hsat), loadEnds_does s⟩
  · exact gives_ticked (f := fun t => t.loadTimeout) rfl hclk (loadTimeout_clears hclk hload hsat)
  · exact gives_ticked (f := fun t => t.loadTimeout) rfl hclk (loadTimeout_none hsat)
  · exact gives_ticked (f := fun t => t.unload) rfl hclk (unload_eq hclk hcmd)
  · exact gives_ticked (f := fun t => t.attest) rfl hclk (attest_denied hclk hcmd h)
  · exact gives_ticked (f := fun t => t.attest) rfl hclk (attest_signs hclk hcmd hid hseed hread hsig)
  · obtain ⟨seq, a, len, hcmd⟩ := hcmd
    exact gives_ticked (f := fun t => t.challenge nonce) rfl hclk (challenge_eq hclk hcmd hu)
  · subst hu
    exact gives_ticked (f := fun t => t.submit) rfl hclk (submit_denied hclk hcmd hread htok)
  · subst hu
    exact gives_ticked (f := fun t => t.submit) rfl hclk (submit_opens hclk hcmd hread htok hv)
  · exact gives_ticked (f := fun t => t.closeSession) rfl hclk (closeSession_eq hclk hcmd)
  · exact gives_ticked (f := fun t => t.config) rfl hclk ((config_eq hclk hcmd hstage hread).trans (if_pos hok))
  · exact gives_ticked (f := fun t => t.config) rfl hclk ((config_eq hclk hcmd hstage hread).trans (if_neg (ne_true_of_eq_false hno)))

end Sys2Proof.Machine
end
